-- ==== Sys2Proof/Word.lean ====
section
/-! DEFINITION. The word types of the AZ746: a byte and a 32-bit register (R4). -/
namespace Sys2Proof

/-- One byte. -/
abbrev Byte := BitVec 8

/-- One register: 32 bits, little-endian (R4). -/
abbrev Word := BitVec 32

end Sys2Proof
end

