-- ==== Sys2Proof/Syntax.lean ====
section
/-! DEFINITION. The commands of the AZ746: one constructor per row of the opcode table, in the table's order, with the
operands the rules give it. The operand types come first. What a command carries is what reaches the die from outside
(a message, a register access, an edge, a sample) or names the unit whose own event it is. -/
namespace Sys2Proof

/-- The host links of a die (R367): the PCIe endpoint or one host Ethernet port. -/
inductive Link where
  | pcie
  | eth (p : Nat)
  deriving DecidableEq, Repr

/-- The header fields of a request and where it came from (R372, R371, R375): its link, the source address and port a
reply goes back to (Ethernet), SEQ, the DIE bit and the BODY_CRC by which a retransmission is recognised. -/
structure ReqHdr where
  link : Link
  src  : Nat
  port : Nat
  seq  : Nat
  die  : Nat
  crc  : Nat
  deriving DecidableEq, Repr

/-- One run of flash bytes at an offset. -/
structure FlashSeg where
  off  : Nat
  data : List Byte
  deriving DecidableEq, Repr

/-- The attached SPI NOR flash as the die finds it (R71 to R73): whether it has an SFDP table and quad read, its size in
bytes, and what is stored in it; every byte in no segment is erased (0xFF). -/
structure FlashDev where
  sfdp : Bool
  quad : Bool
  size : Nat
  segs : List FlashSeg
  deriving DecidableEq, Repr

/-- One band entry of a PAGE_DESC fragment (Table 17.5). -/
structure BandEntry where
  firstLine : Nat
  lines     : Nat
  compLen   : Nat
  deriving DecidableEq, Repr

/-- A PAGE_DESC fragment (Table 17.5). -/
structure PageFrag where
  job       : Nat
  page      : Nat
  lines     : Nat
  medium    : Nat
  planes    : Nat
  flags     : Nat
  plane     : Nat
  pitch     : Nat
  firstBand : Nat
  entries   : List BandEntry
  deriving DecidableEq, Repr

/-- One part of a band (R381): the 12-byte band header and the data. -/
structure BandPart where
  job   : Nat
  page  : Nat
  plane : Nat
  band  : Nat
  off   : Nat
  data  : List Byte
  deriving DecidableEq, Repr

/-- One FORM 0 entry of WRITE_REG (R385): address, value, mask. -/
structure RegEntry where
  addr : Nat
  val  : Word
  mask : Word
  deriving DecidableEq, Repr

/-- One FORM 1 entry of WRITE_REG (R385): an address of the DMA descriptor window and an 8-byte value. -/
structure WinEntry where
  addr : Nat
  val  : Nat
  deriving DecidableEq, Repr

/-- What a bridge peer declares at training and in BR_HELLO (R233, R434): its GLB_ID, its PAIR_ID (`none` where it runs the built-in
default, which has none), and the shared bridge settings of its maquette. -/
structure BridgePeer where
  glbId  : Word
  pairId : Option Nat
  settings : Word
  deriving DecidableEq, Repr

/-- A point in device time: seconds and nanoseconds. -/
structure TimeStamp where
  sec : Nat
  ns  : Nat
  deriving DecidableEq, Repr

/-- A datagram on a host Ethernet port (R371): port, IP version, whether it is a fragment, whether its UDP checksum
holds, source address and port, destination port and payload. -/
structure Datagram where
  port    : Nat
  v6      : Bool
  frag    : Bool
  sumOk   : Bool
  src     : Nat
  sport   : Nat
  dport   : Nat
  payload : List Byte
  deriving DecidableEq, Repr

/-- A word in which a memory code finds an error while a unit reads it (R253, R260): the memory and the address as the patina log numbers
them (Table 11.7), whether it is uncorrectable, its syndrome, and where its bytes lie in what the unit reads and how they read. Where the
engine places its data is its own choice, so all of it comes with the read. -/
structure MemHit where
  unit : Nat
  addr : Nat
  ue   : Bool
  synd : Nat
  off  : Nat
  data : List Byte
  deriving DecidableEq, Repr

/-- An edge on SCN_SOS as the scan engine times it: the interval since the station's previous accepted edge in sixteenths of
a TIME clock (R161), the time φ from the edge to the reference edge in 1/64 pixel (R211), and the PIXCLK rising edges
since the previous reference edge, or since alignment (R208). -/
structure SosEdge where
  dt    : Nat
  phase : Nat
  edges : Nat
  /-- Words of the line slots read for this scan in which the memory code found an error, by beam. -/
  hits  : List (Nat × MemHit) := []
  deriving DecidableEq, Repr

/-- A band by its job, page, plane (station) and index. -/
structure BandRef where
  job   : Nat
  page  : Nat
  plane : Nat
  band  : Nat
  deriving DecidableEq, Repr

/-- What a bridge message carries, by type (Table 10.5). The spec gives the contents and no byte layout, so they stay fields. -/
inductive BrBody where
  /-- A host message relayed unchanged: its header fields and body bytes. -/
  | host (type status seq die : Nat) (body : List Byte)
  | hello (peer : BridgePeer) (gen : Nat)
  | ready (boot : Word)
  | bandReq (bands : List BandRef)
  | band (ref : BandRef) (off : Nat) (data : List Byte)
  | residency (ref : BandRef) (res : Nat)
  | rate (bytes clocks links : Nat)
  | timeMark
  | timeFollow (t1 t4 : Nat)
  | fault (plinth thermal : Bool) (drained : Bool)
  | mon (text : List Byte)
  | retire (ch region : Nat) (whole : Bool)
  /-- Per virtual channel: credits held and in the replay buffer, occupancy, returns pending (R239). -/
  | audit (books : List (Nat × Nat × Nat))
  deriving DecidableEq, Repr

/-- What an Ouvoth message carries, by type (Tables 16.1 and 16.2). Instants are ns of device time. -/
inductive OuvBody where
  | announce (role id : Nat) (glbId : Word) (floor busy state : Nat) (joinReq : Bool)
  | admission (accepted : Bool) (anchor : Nat)
  | order (id job page step pickT : Nat) (route : List (Nat × Nat × Nat))
  | orderAck (id : Nat)
  | orderRefused (id code : Nat)
  | go (id : Nat)
  | report (id state flags : Nat)
  | step (step gapT anchor : Nat)
  | stop (begun : Bool)
  | lost (id : Nat)
  deriving DecidableEq, Repr

/-- An Ouvoth frame (R360): the 16-byte header's fields and the body. -/
structure OuvFrame where
  etype : Nat := 0x88B5
  ver  : Nat
  src  : Nat
  dst  : Nat
  seq  : Nat
  hops : Nat
  body : OuvBody
  deriving DecidableEq, Repr

/-- A PTP message as it reaches a port (R355): sequence number, twoStepFlag, the timestamp it carries, correctionField and the raw
ingress stamp, all three in 2^−16 ns, its domainNumber, and its transport: 0 IEEE 802.3, 1 UDP over IPv4, 2 UDP over IPv6. -/
structure PtpIn where
  seq     : Nat
  twoStep : Bool
  stamp   : Int
  corr    : Int
  raw     : Int
  dom     : Nat := 0
  via     : Nat := 0
  deriving DecidableEq, Repr

/-- What the converters give at an evaluation tick (R321, R322, R324): ratio codes of thermistors by sensor, and the on-die sensors'
temperatures in 0.1 °C with their self-check. -/
structure ThermIn where
  codes : List (Nat × Nat)
  dies  : List (Nat × Int × Bool)
  deriving DecidableEq, Repr

/-- A device of the memories a command reads with the cell bits that have flipped in what it reads (R250, R257): unit, index of
the beat (DRAM) or word (SRAM), and the XOR with what was stored. -/
structure Upset where
  unit : Nat
  idx  : Nat
  bits : Nat
  deriving DecidableEq, Repr

/-- The commands: one constructor per row of the opcode table, in its order. -/
inductive Instr where
  /-- R63. Assertion of RST_N resets the die, abandons sheets in flight and clears RWS fields. -/
  | rstNAssert
  /-- R64. Release of RST_N starts the start sequence of Table 3.3 at step 3. -/
  | rstNRelease
  /-- R415. A monitored supply stays below its brownout threshold for 1 µs, and the die acts as if RST_N were asserted. -/
  | brownout (ns : Nat)
  /-- R415. 2 ms after every monitored supply is back above its threshold, the die leaves brownout as if RST_N were released. -/
  | brownoutRecovery
  /-- R187. The root synthesizer has stayed injection-locked for 4,096 reference periods and counts as locked. -/
  | rootLock
  /-- R65. Every 1 ms without root lock at step 3, the die retries the lock. -/
  | rootLockRetry
  /-- R27. The root synthesizer loses lock; every station takes a hard fault and sheets in flight are carried out as waste. -/
  | rootLossOfLock
  /-- R71. At step 4 the engine sequencer starts from ROM and reads the flash SFDP table. -/
  | flashDiscovery (dev : Option FlashDev)
  /-- R75. At step 5 the die reads the headers, tries the copies in order and selects a valid image or the built-in default. -/
  | copySelection
  /-- R76. At step 6 the die verifies the SIGNATURE record against the OTP public-key hash. -/
  | signatureCheck
  /-- R80. At step 7 the die self-tests band SRAM and the context store, then applies the image records one at a time in image order. -/
  | imageApply (castFail : Nat)
  /-- R249. At step 8 all enabled DRAM channels train; a channel that fails stays out of service until RST_N. -/
  | dramTraining (pass : Nat)
  /-- R233. Training of the bridge, including the exchange of GLB_ID and PAIR_ID, runs at step 9 and in BR_DOWN. -/
  | bridgeTraining (lanes : Nat) (peer : Option BridgePeer)
  /-- R67. At step 10 the die releases its field outputs, checks the plinth set and raises READY. -/
  | ready
  /-- R67. Every 10 ms the die checks again whether ESTOP_N may be released. -/
  | estopReleaseCheck
  /-- R68. 2.0 s after step 9 without BR_READY, the host die raises READY in service-only mode with REASON 4. -/
  | engineReadyTimeout
  /-- R392. HELLO request; the die ACKs with its identity and boot state and makes the sender its event destination. -/
  | hello (h : ReqHdr)
  /-- R379. JOB_OPEN request takes a job slot for a new job. -/
  | jobOpen (h : ReqHdr) (job : Nat)
  /-- R379. JOB_CLOSE request closes an open job. -/
  | jobClose (h : ReqHdr) (job : Nat)
  /-- R380. A PAGE_DESC fragment is checked and added to its page description, which may complete the page. -/
  | pageDesc (h : ReqHdr) (f : PageFrag)
  /-- R381. A BAND_DATA part is stored in the page store; a band with every byte present becomes IN_PAGE_STORE. -/
  | bandData (h : ReqHdr) (p : BandPart)
  /-- R381. A BAND_RAW part is stored in raw staging; a complete raw band is passed on for compression. -/
  | bandRaw (h : ReqHdr) (p : BandPart)
  /-- R95. PAGE_RELEASE request releases a page, or every page of a job, at once or when its last admitted sheet is done. -/
  | pageRelease (h : ReqHdr) (job page : Nat)
  /-- R382. QUERY with KIND 0 returns the global status registers of the die. -/
  | queryGlobalStatus (h : ReqHdr)
  /-- R382. QUERY with KIND 1 returns the 16 token records. -/
  | queryTokens (h : ReqHdr)
  /-- R382. QUERY with KIND 2 returns the residency counts of a page's bands per plane. -/
  | queryResidency (h : ReqHdr) (job page : Nat)
  /-- R386. SET writes table bytes, or resolves runtime claims through table 0x00, subject to adjustability. -/
  | setTable (h : ReqHdr) (table inst off : Nat) (data : List Byte)
  /-- R384. READ_REG returns COUNT words from ADDR, each read acting as a register read. -/
  | readReg (h : ReqHdr) (addr count : Nat)
  /-- R385. WRITE_REG with FORM 0 applies masked register entries in order until the first refusal. -/
  | writeReg (h : ReqHdr) (entries : List RegEntry)
  /-- R268. WRITE_REG with FORM 1 writes 8-byte values into the DMA descriptor window in one access each. -/
  | writeRegWindow (h : ReqHdr) (entries : List WinEntry)
  /-- R84. A write to a register without a row of its own is judged for adjustability, clamped and stored. -/
  | registerWrite (e : RegEntry)
  /-- R383. TIME with OP 0 returns device time. -/
  | timeRead (h : ReqHdr)
  /-- R383. TIME with OP 1 sets SEC and NS, subject to R350 and to SRC 0. -/
  | timeSet (h : ReqHdr) (sec ns : Nat)
  /-- R383. TIME with OP 2 steps device time by a signed count of ns, subject to R350 and to SRC 0. -/
  | timeStep (h : ReqHdr) (ns : Int)
  /-- R407. CONSUMABLE with OP 0 returns one KIND 3 STATUS per enabled port. -/
  | consumableReport (h : ReqHdr)
  /-- R407. CONSUMABLE with OP 1 authenticates one port or every occupied port. -/
  | consumableAuthenticate (h : ReqHdr) (port : Nat)
  /-- R262. A retirement request with WHOLE 0, by RETIRE or MEM_RETIRE, takes a 64 KiB region out of allocation and starts the copy of its data. -/
  | retireRegion (h : Option ReqHdr) (ch region : Nat)
  /-- R263. A retirement request with WHOLE 1, by RETIRE or MEM_RETIRE, retires a DRAM channel and changes the interleave. -/
  | retireChannel (h : Option ReqHdr) (ch : Nat)
  /-- R262. The copy of a retired region or channel completes, and the region or channel is removed from use. -/
  | retirementCopyDone (whole : Bool) (ch region : Nat)
  /-- R284. 10 ms after a retirement copy halts, the copy is tried again. -/
  | retirementCopyRetry
  /-- R392. An unsent EVENT message is delivered to the event destination once one exists and there is room. -/
  | eventSend
  /-- R391. A W1C write to EVT_FLAGk clears event flags. -/
  | eventFlagClear (k : Nat) (v : Word)
  /-- R392. A write of EVT_ENk; an enable set while the flag is 1 sends one message. -/
  | eventEnableWrite (k : Nat) (v mask : Word)
  /-- R394. A write of the ROUTE or VEC of EVT_SRCn redirects, drops or sends the source's message. -/
  | eventRouteWrite (n : Nat) (v mask : Word)
  /-- R369. A write of RING_H2D_TAIL rings the doorbell, and the AZ746 reads the new messages. -/
  | ringH2dTail (tail : Nat) (bytes : List Byte)
  /-- R369. A write of RING_D2H_HEAD frees D2H ring space, and reading of the H2D ring resumes. -/
  | ringD2hHead (head : Nat)
  /-- R369. A write of RING_CTRL.RESET empties both rings. -/
  | ringReset (v : Word)
  /-- R370. PERST_N resets the PCIe endpoint and the ring registers only. -/
  | perstN
  /-- R368. A host link goes up or down, or changes rate or width. -/
  | hostLinkChange (link : Link) (up : Bool) (rate width : Nat)
  /-- R371. A datagram arrives on a host Ethernet port and is accepted as a message or discarded. -/
  | udpDatagram (d : Datagram)
  /-- R371. The AZ746 answers an ARP request on a host port. -/
  | arpRequest (port : Nat) (ip mac : Nat)
  /-- R371. The AZ746 answers IPv6 neighbour discovery on a host port. -/
  | neighbourDiscovery (port : Nat) (ip mac : Nat)
  /-- R371. The AZ746 answers an ICMP or ICMPv6 echo request. -/
  | echoRequest (port : Nat) (v6 : Bool) (ip : Nat) (data : List Byte)
  /-- R49. A PIN_SEL_n write claims a pool pin for a function or changes its electrical settings. -/
  | pinSelWrite (n : Nat) (v mask : Word)
  /-- R51. A write of FUNC 0x00 releases a pool pin whose function is idle, or is refused with BAD_STATE. -/
  | pinRelease (n : Nat)
  /-- R59. A write to an AZ5230 aperture register writes each aliased field under that field's rules. -/
  | apertureWrite (off : Nat) (v mask : Word)
  /-- R103. 1,000 µs before each pitch instant the scheduler snapshots the states and checks the reasons for an empty pitch, including the forecast. -/
  | admissionEvaluation
  /-- R96. At the pitch instant an admitted sheet is picked and takes a token in PICKED. -/
  | sheetPick
  /-- R98. The lead edge at the registration sensor is time-stamped, and the sheet moves to REGISTERED. -/
  | registrationCapture (sensor : Nat)
  /-- R101. With no lead edge captured within the registration window, the sheet is flagged MISFEED and WASTE and picks are held. -/
  | misfeedDecision (tok : Nat)
  /-- R101. At its nominal exit instant, the token of a misfed sheet is released. -/
  | misfeedTokenRelease (tok : Nat)
  /-- R101. A write of SHT_CTRL.MISFEED_ACK clears the misfeed hold. -/
  | misfeedAck
  /-- R99. At its scheduled instant a sheet-event entry takes effect: image start, HV switch, fuser entry, exit expected, compare pulse or event only. -/
  | sheetEvent (tok entry : Nat)
  /-- R339. FF_MS after a fuser-entry event, the heater's feed-forward duty ends. -/
  | feedForwardEnd
  /-- R96. The sheet's tail edge leaves the fuser and its token moves to EXITING. -/
  | tailLeavesFuser (tok : Nat)
  /-- R96. The tail edge passes the exit sensor; the token reaches DONE, returns to the pool and SHT_DONE is raised. -/
  | sheetDone (tok : Nat)
  /-- R109. The speed-change gap ends, SHT_STEP_READY is raised and picks may resume at the new step. -/
  | speedChangeGapEnd
  /-- R100. At its release time a band is handed to its station's casts; an unfinished check-ahead pass is abandoned. -/
  | bandRelease (tok station band : Nat)
  /-- R431. DMA starts moving the next band in order over VC1 once the band store has room, and the band becomes IN_TRANSIT. -/
  | bandMoveStart (hits : List MemHit := [])
  /-- R93. The last byte of a band is written into the band store, and the band becomes RESIDENT. -/
  | bandResident (r : BandRef)
  /-- R135. Output decoding of a band ends, by its last line and check or by a stream error, and the band becomes DECODED. -/
  | bandDecoded (cast : Nat) (hits : List MemHit := [])
  /-- R154. A check-ahead pass starts once its band is RESIDENT and the previous pass has ended. -/
  | checkAheadStart (r : BandRef)
  /-- R137. A check-ahead pass ends, and the band is verified or failed ahead. -/
  | checkAheadEnd (cast : Nat) (hits : List MemHit := [])
  /-- R153. A cast stalled for lack of a free line slot resumes when a slot is freed. -/
  | castStallResume (cast : Nat)
  /-- R155. A cast leaves service on an uncorrectable memory error or a failed self-test. -/
  | castOutOfService (cast : Nat)
  /-- R140. A complete BAND_RAW band is handed to the lowest-numbered idle chisel in service, which primes and compresses it. -/
  | chiselAssign
  /-- R141. A chisel finishes a band's stream, and the band becomes IN_PAGE_STORE. -/
  | chiselBandDone (n : Nat)
  /-- R146. A chisel stalled on a full output buffer resumes at the same bit when space frees. -/
  | chiselResume (n : Nat)
  /-- R146. After a stall of 1 ms, the engine sequencer saves the chisel's context and frees the chisel. -/
  | chiselContextSave (n : Nat)
  /-- R148. A chisel leaves service on an uncorrectable hash or chain memory error, and its band restarts on another chisel. -/
  | chiselOutOfService (n : Nat)
  /-- R156. A saved context is restored, and the unit resumes at the same bit of the stream. -/
  | contextRestore (ctx : Nat)
  /-- R184. An accepted SOS edge starts a scan and runs the actions of Table 7.6, including the beam-link frame. -/
  | sosEdge (st : Nat) (e : SosEdge)
  /-- R161. An SOS edge earlier than the window is ignored and counted in SOS_EARLY. -/
  | sosEarly (st : Nat)
  /-- R164. No SOS edge arrives by T_NOM + SOS_WIN; the station blanks and its sheet becomes waste. -/
  | sosLost (st : Nat)
  /-- R163. After 64 consecutive accepted edges in SOS_ACQUIRE, the station enters FACET_ID. -/
  | sosAcquired (st : Nat)
  /-- R162. An EOS edge is measured as a span from SOS and kept as a valid sample or discarded. -/
  | eosEdge (st span : Nat)
  /-- R165. After 64 revolutions of EOS spans, facet 0 is identified, or the attempt fails and restarts. -/
  | facetLearn (st : Nat)
  /-- R165. An edge on the index input makes the next accepted SOS edge facet 0. -/
  | indexFacetId (st : Nat)
  /-- R168. After 256 revolutions, new facet scales are computed and written to the shadow facet table. -/
  | autoLearnPeriod (st : Nat)
  /-- R183. One CORE clock after a table or boundary write, shadow copies of a station that is not imaging become active. -/
  | shadowApplyIdle (st : Nat)
  /-- R197. A pixel synthesizer loses lock; the imaging sheet becomes waste with cause CLOCK. -/
  | pixLossOfLock (n : Nat)
  /-- R197. A pixel synthesizer has been within 1/32 period for 1,024 PERI periods and is locked again. -/
  | pixRelock (n : Nat)
  /-- R200. Under COMPAT5, a pixel output switches to or from the bypass clock at its low phase. -/
  | bypassSwitch (n : Nat)
  /-- R196. A pending AUXCLK source or divider change takes effect at the next falling edge of the old output. -/
  | auxClockSwitch (a : Nat)
  /-- R202. Every 100 ms the compensation sensor is read and a new E_REF is interpolated. -/
  | refCompUpdate
  /-- R203. A delay-line gain recalibration starts after 10 ms or a 2 °C change. -/
  | gainRecalibration
  /-- R218. A status frame from a laser driver is received and updates lane, beam-fault, temperature and training state. -/
  | statusFrame (n : Nat) (bytes : List Byte)
  /-- R218. No valid status frame for 1 ms clears STATUS_OK and raises BLK_STATUS. -/
  | statusLost (n : Nat)
  /-- R224. Setting BLK_n_CTRL.EN starts beam-link training. -/
  | linkEnable (n : Nat)
  /-- R227. Clearing BLK_n_CTRL.EN takes the link to BL_OFF at once. -/
  | linkDisable (n : Nat)
  /-- R224. At half of TRAIN_TO with at least one lane locked, training leaves BL_LANES for BL_DESKEW. -/
  | lanesHalfTimeout (n : Nat)
  /-- R224. A training attempt that has not reached BL_UP within TRAIN_TO ends in BL_FAIL. -/
  | trainingTimeout (n : Nat)
  /-- R224. 100 ms after BL_FAIL a new training attempt starts. -/
  | trainingRetry (n : Nat)
  /-- R208. At least 2 µs after ALIGN leaves the ball, PIXCLK restarts at PEC 0 and the link is up. -/
  | alignPixclkRestart (n : Nat)
  /-- R225. 1 ms after a drop, a dropped lane starts retraining. -/
  | laneRetrainStart (n lane : Nat)
  /-- R231. A bridge flit arrives and is accepted and acknowledged, or discarded with a NAK. -/
  | flitReceive (bytes : List Byte)
  /-- R231. On NAK or replay timeout the sender resends every unacknowledged flit. -/
  | replay
  /-- R231. The oldest unacknowledged flit has waited 4 µs, and a replay starts. -/
  | replayTimeout
  /-- R237. A bridge message starts once its sender holds every credit it needs. -/
  | bridgeMessageSend
  /-- R232. A bridge lane in use loses block lock and a retrain starts. -/
  | laneLockLoss (lane : Nat)
  /-- R234. A bridge retrain ends with lanes tested, credit books checked and replay first. -/
  | retrainEnd (pass dur : Nat) (books : List (Nat × Nat × Nat))
  /-- R235. REJOIN × 100 ms after a drop, deferred up to 100 ms for VC1 traffic, a rejoin retrain runs. -/
  | rejoinRetrainDue
  /-- R233. In BR_DOWN a training attempt starts every 100 ms. -/
  | bridgeTrainingAttempt
  /-- R236. The last lane is lost or the peer is reset; in-transit bands return and events are held. -/
  | bridgeDown
  /-- R434. A BR_HELLO carries identity and the engine die's shared bridge settings. -/
  | brHello (peer : BridgePeer) (gen : Nat)
  /-- R68. BR_READY reports the engine die READY; the host die raises READY and returns bands of a reset engine die. -/
  | brReady (boot : Word)
  /-- R431. BR_BAND_REQ names the bands the engine die wants, in release order. -/
  | brBandReq (bands : List BandRef)
  /-- R240. A BR_BAND carries part of a band into the band store. -/
  | brBand (r : BandRef) (off : Nat) (data : List Byte)
  /-- R240. BR_RESIDENCY reports residency transitions to the other die. -/
  | brResidency (r : BandRef) (res : Nat)
  /-- R435. BR_RATE carries the host delivery window for the forecast. -/
  | brRate (bytes clocks : Nat) (links : Nat := 0)
  /-- R240. BR_FAULT carries the plinth-set and fault state of the sending die. -/
  | brFault (plinth thermal : Bool)
  /-- R240. BR_MON relays a monitor command or its answer. -/
  | brMon (text : List Byte)
  /-- R263. BR_RETIRE reports a channel retirement that affects band copies. -/
  | brRetire (ch region : Nat) (whole : Bool)
  /-- R240. A bridge message of a forbidden type or wrong VC is discarded and counted. -/
  | brBadMessage (vc type : Nat)
  /-- R241. Every 1 ms the leader sends a time mark; the follower answers with its own. -/
  | brTimeMark
  /-- R241. BR_TIME_FOLLOW delivers t1 and t4; the follower computes offset and delay and steers its addend. -/
  | brTimeFollow (t1 t4 : Nat)
  /-- R242. After 3 missed bridge time exchanges the follower holds its addend and clears TIME_OK. -/
  | timeExchangeMissed
  /-- R254. A DRAM merge-buffer entry flushes 256 FABRIC clocks after its first write, or when its entry is needed. -/
  | mergeFlush (ch : Nat) (ups : List Upset)
  /-- R255. An SRAM merge-buffer entry flushes 16 CORE clocks after its first write, or on a fifth word. -/
  | sramMergeFlush (bank : Nat) (ups : List Upset)
  /-- R258. In an idle slot at least GAP clocks after the last, the scrubber reads and corrects one granule or word. -/
  | scrubRead (unit : Nat) (ups : List Upset)
  /-- R261. A write of MEM_PAT_TAIL consumes patina entries. -/
  | patinaTailWrite (v : Word)
  /-- R273. DMA_CHn_CTRL.START begins the chain at HEAD and clears the audit counts. -/
  | dmaStart (n : Nat)
  /-- R275. TAIL_RECHECK makes a channel in TAIL_WAIT re-read its tail's link word once. -/
  | dmaTailRecheck (n : Nat)
  /-- R283. RESTART resumes a halted channel at the failing burst or re-reads its descriptor. -/
  | dmaRestart (n : Nat)
  /-- R283. SKIP completes a halted descriptor with FAILED set and continues the chain. -/
  | dmaSkip (n : Nat)
  /-- R283. ABORT halts a channel at the end of the current burst, or at once in TAIL_WAIT. -/
  | dmaAbort (n : Nat)
  /-- R273. STOP returns a channel in TAIL_WAIT or HALTED to IDLE. -/
  | dmaStop (n : Nat)
  /-- R277. The arbiter grants a ready channel a burst of up to 256 bytes; completion of the last burst completes the descriptor. -/
  | dmaBurst (input : List Byte) (ups : List Upset)
  /-- R292. MOVE starts a step channel's move or velocity run. -/
  | stpMove (n : Nat)
  /-- R296. STOP decelerates a step channel to STP_STOPPED, refused on transport channels with sheets in flight. -/
  | stpStop (n : Nat)
  /-- R296. RESUME runs a stopped step channel to its kept target. -/
  | stpResume (n : Nat)
  /-- R300. REFERENCE runs the selected referencing method. -/
  | stpReference (n : Nat)
  /-- R296. CLEAR moves a step channel from STP_FAULT to STP_STOPPED. -/
  | stpClear (n : Nat)
  /-- R288. ENABLE activates a step channel's enable output and leaves STP_DISABLED. -/
  | stpEnable (n : Nat)
  /-- R288. DISABLE takes a step channel at rest to STP_DISABLED. -/
  | stpDisable (n : Nat)
  /-- R293. A write of STP_n_TARGET is accepted only at rest, otherwise refused with REFUSED_MOTION. -/
  | stpTargetWrite (n : Nat) (v : Word)
  /-- R294. A write of VMAX, AMAX or JMAX takes effect at once along a jerk-limited transition. -/
  | stpLimitWrite (n which : Nat) (v : Word)
  /-- R291. The step interval expires and the channel emits the next step, ending a move or deceleration at its last step. -/
  | stepPulse (n : Nat)
  /-- R298. A stall, following error, thermal or overvoltage fault decelerates the channel with the fault set, or defers it on transport. -/
  | stpFault (n cause : Nat)
  /-- R300. The stall input becomes active during stall referencing, and the position is set. -/
  | stallInput (n : Nat) (level : Bool)
  /-- R300. The home input changes during home referencing, driving the seek, back-off and approach stages. -/
  | homeEdge (n : Nat) (level : Bool)
  /-- R307. RUN from MOT_OFF enters MOT_LISTEN to catch or start the rotor. -/
  | motRun (n : Nat)
  /-- R312. STOP brakes regeneratively or turns the gates off, refused for station or transport channels with sheets in flight. -/
  | motStop (n : Nat)
  /-- R312. COAST turns a channel's gates off at once. -/
  | motCoast (n : Nat)
  /-- R306. CLEAR takes a channel from MOT_STOPPED_FAULT to MOT_OFF. -/
  | motClear (n : Nat)
  /-- R311. A write of MOT_n_SPEED sets the target, with reversal held or refused above REV_RPM. -/
  | motSpeedWrite (n : Nat) (v : Word)
  /-- R307. 50 ms without a crossing in MOT_LISTEN leads to alignment. -/
  | listenTimeout (n : Nat)
  /-- R307. ALIGN_MS after alignment began, the channel starts its open-loop ramp. -/
  | alignEnd (n : Nat)
  /-- R307. With no handover 500 ms after the ramp reaches HANDOVER, the channel faults with CAUSE 2. -/
  | handoverTimeout (n : Nat)
  /-- R308. A sampled back-EMF crossing updates the observer, commutation and the catch or handover counts. -/
  | zeroCrossing (n dt : Nat) (pos : Bool)
  /-- R307. A Hall input change gives the rotor sector, or a broken code faults the channel. -/
  | hallEdge (n code dt : Nat)
  /-- R306. The estimate has stayed within 0.1 % of the target for 64 electrical periods, and MOT_ATSPEED is raised. -/
  | motAtSpeed (n : Nat)
  /-- R313. After 3 electrical periods without a good crossing the rotor counts as lost and the channel listens again. -/
  | rotorLost (n : Nat)
  /-- R313. After 64 crossings or 100 ms without one, the channel resumes in MOT_RUN or faults with CAUSE 1. -/
  | listenEnd (n : Nat)
  /-- R305. The peak-current comparator trips after blanking and ends the high-side on-time of that PWM period. -/
  | ilimTrip (n t : Nat)
  /-- R315. The polygon phase error has stayed within or outside 0.5 µs long enough to set or clear PLOCKED. -/
  | phaseLockChange (n : Nat)
  /-- R316. Every 1 µs the bus voltage is converted and the chopper, V_OV1 and V_OV2 thresholds act. -/
  | vbusSample (code : Nat)
  /-- R317. The chopper feedback has disagreed with its output for more than 10 µs, and the chopper has failed. -/
  | chopperFeedbackFault
  /-- R317. The chopper has been on for 2 ms with VBUS rising, and the chopper has failed. -/
  | chopperOnTimeout
  /-- R318. OV_ACK ends the V_OV2 state when the bus is low and no sheet is in flight. -/
  | ovAck
  /-- R317. CHOP_ACK clears CHOPFAIL and returns the chopper to service. -/
  | chopAck
  /-- R321. Every 10 ms each sensor is evaluated against its thresholds and domains go to WARN or CRIT. -/
  | thermalTick (i : ThermIn)
  /-- R329. A DWELL or REC_DWELL expires and a domain's computed step moves down or up. -/
  | ladderDwellStep (d : Nat)
  /-- R323. Every 100 ms a digital temperature sensor is read over 17 clock edges. -/
  | digitalSensorRead (k bits : Nat)
  /-- R324. After 10 good ticks a broken sensor stops being broken. -/
  | sensorRecovered (k : Nat)
  /-- R335. A ZC_IN edge marks a half-cycle, at which heaters fire. -/
  | zeroCrossEdge (us : Nat)
  /-- R335. No ZC_IN edge for 25 ms stops every heater output and clears ZC_OK. -/
  | zeroCrossLoss
  /-- R335. After 16 valid half-cycles ZC_OK sets again. -/
  | zeroCrossRegained
  /-- R337. Every 100 ms each heater's PID computes its output. -/
  | fuserPidUpdate
  /-- R338. A heater's sensor pair has differed by more than PAIR_DIFF for 1 s and becomes invalid. -/
  | pairInvalid (h : Nat)
  /-- R338. After 10 s of agreement an invalid heater pair turns valid. -/
  | pairValid (h : Nat)
  /-- R342. Every 100 µs each HV channel's feedback is taken, its ramp advanced and its duty set by the PI loop. -/
  | hvLoopUpdate (fb : List Nat)
  /-- R344. An HV error beyond ERR_LIM for ERR_MS faults the channel, flags sheets waste and clears PICK_EN. -/
  | hvFault (c : Nat)
  /-- R350. A write of TIM_STEP steps device time, refused while sheets are in flight. -/
  | timStepWrite (v : Word)
  /-- R348. A write of TIM_FREQ sets the frequency trim, refused with CONFLICT while the servo holds it. -/
  | timFreqWrite (v : Word)
  /-- R349. The servo takes an offset sample and steps or slews device time. -/
  | servoSample (o : Int)
  /-- R349. After 16 consecutive samples within LOCK_NS the servo sets LOCKED. -/
  | servoLocked
  /-- R349. After 3 sample intervals without a sample the servo holds FREQ and sets HOLD. -/
  | servoHoldover
  /-- R351. A wide compare target is reached; the channel pulses, raises TIM_WCMP and re-arms or disarms. -/
  | wideCompareFire (w : Nat)
  /-- R352. A fast compare target is reached; the channel pulses and advances its target in periodic or scan-reference mode. -/
  | fastCompareFire (c : Nat)
  /-- R354. An edge on a timestamp capture input latches device time. -/
  | capture (k : Nat)
  /-- R355. A master port sends Sync every 2^LOG_SYNC s with its one-step timestamp. -/
  | ptpSyncSend (p : Nat)
  /-- R355. A master port sends Announce every 2^LOG_ANN s. -/
  | ptpAnnounceSend (p : Nat)
  /-- R355. A slave port sends Delay_Req every 2^LOG_DREQ s. -/
  | ptpDelayReqSend (p : Nat)
  /-- R355. A slave port receives a Sync, stamps it and feeds the servo. -/
  | ptpSync (p : Nat) (m : PtpIn)
  /-- R355. A slave port receives the Follow_Up of a two-step Sync. -/
  | ptpFollowUp (p : Nat) (m : PtpIn)
  /-- R355. A master port receives a Delay_Req and answers with Delay_Resp. -/
  | ptpDelayReq (p : Nat) (m : PtpIn)
  /-- R355. A slave port receives Delay_Resp and computes the mean path delay. -/
  | ptpDelayResp (p : Nat) (m : PtpIn)
  /-- R355. A port receives an Announce. -/
  | ptpAnnounce (p : Nat) (m : PtpIn)
  /-- R355. A slave port with no Announce for 3 intervals enters FAULTY. -/
  | ptpAnnounceTimeout (p : Nat)
  /-- R358. A PTP event message is forwarded between line-link ports with its residence time added. -/
  | transparentClockForward (p type : Nat) (m : PtpIn)
  /-- R360. An Ouvoth frame arrives and is forwarded, deduplicated or taken in. -/
  | ouvothFrame (p : Nat) (f : OuvFrame)
  /-- R360. Every package sends an Ouvoth ANNOUNCE every 100 ms. -/
  | announceSend
  /-- R363. An ANNOUNCE is received, carrying a member's state and any join request. -/
  | announce (src role : Nat) (glbId : Word) (floor busy state : Nat) (joinReq : Bool)
  /-- R363. An ADMIT admits or refuses a joining worker and carries the line's ANCHOR. -/
  | admitMsg (accepted : Bool) (anchor : Nat)
  /-- R363. At a schedule boundary the manager admits a worker that requested to join. -/
  | joinAdmit (id : Nat)
  /-- R361. A route package receives an ORDER and holds it for evaluation. -/
  | order (id job page step pickT : Nat) (route : List (Nat × Nat × Nat))
  /-- R361. At PICK_T − 1,000 µs a package evaluates an order and answers ORDER_ACK or ORDER_REFUSED. -/
  | orderEvaluation (id : Nat)
  /-- R361. The manager receives an ORDER_ACK. -/
  | orderAck (src id : Nat)
  /-- R361. The manager receives an ORDER_REFUSED with its reason code. -/
  | orderRefused (src id code : Nat)
  /-- R361. At PICK_T − 600 µs the manager sends GO if every entry has acknowledged. -/
  | goDecision (id : Nat)
  /-- R361. The picking package receives GO for an order. -/
  | goMsg (id : Nat)
  /-- R361. At PICK_T − 400 µs entry 0 checks that it holds GO, else leaves the pitch empty with code 11. -/
  | linePickCheck (id : Nat)
  /-- R359. The manager receives a worker's sheet REPORT and relays it to the host. -/
  | report (src id state flags : Nat)
  /-- R362. A STEP message sets the line's step target, GAP start instant and ANCHOR. -/
  | lineStep (step gapT anchor : Nat)
  /-- R364. A STOP message reports that a controlled line stop has begun or ended. -/
  | lineStopMessage (begun : Bool)
  /-- R364. A LOST message declares a worker lost, and its sheets are flagged LOST. -/
  | lost (id : Nat)
  /-- R364. After 3 missed announces the manager declares a worker lost and begins a controlled line stop. -/
  | workerLost (id : Nat)
  /-- R364. A worker that misses 3 manager announces enters ISOLATED. -/
  | isolated
  /-- R364. A write of LNK_CTRL.STOP begins a controlled line stop. -/
  | lineStop
  /-- R365. A write of LNK_CTRL.RESUME ends a controlled line stop at a schedule boundary. -/
  | lineResume
  /-- R365. A line-link port goes up or down. -/
  | lineLinkPortChange (p : Nat) (up : Bool)
  /-- R397. Every 100 ms each consumable port is probed for presence. -/
  | presenceProbe (p : Nat) (answered : Bool)
  /-- R397. After 2 answered or 3 unanswered probes a port becomes occupied or empty. -/
  | presenceChange (p : Nat)
  /-- R398. An IDENT exchange reads a consumable's serial, counter, kind and version. -/
  | ident (p : Nat) (reply : Option (List Byte))
  /-- R400. An AUTH exchange verifies a consumable's MAC and counter. -/
  | auth (p : Nat) (reply : Option (List Byte))
  /-- R404. Within 10 ms of DONE, the pending units are sent as one COMMIT and moved to COMMITTED on a verified reply. -/
  | commit (p : Nat) (reply : Option (List Byte))
  /-- R398. Every 1 ms the AZ746 polls a consumable for its reply. -/
  | replyPoll (p : Nat) (reply : Option (List Byte))
  /-- R401. A reply missing after 20 ms makes the command be sent again, up to 3 times before cause 6. -/
  | replyTimeout (p : Nat)
  /-- R400. A write of CSM_CMD.AUTH authenticates the ports whose bits are set. -/
  | csmCmdAuth (v : Word)
  /-- R406. An unsent KIND 3 usage report is written to the host, and REPORTED takes its value. -/
  | usageReportSend (p : Nat)
  /-- R409. Monitor command id prints GLB_ID, GLB_BOOT and DBG_STAT. -/
  | monId
  /-- R409. Monitor command help prints the command list. -/
  | monHelp
  /-- R410. Monitor command unlock prints a challenge. -/
  | monUnlock
  /-- R410. The typed response to a challenge unlocks the monitor or counts a failure. -/
  | monUnlockResponse (r : List Byte)
  /-- R410. No response within 60 s of a challenge raises DBG_UNLOCK_FAIL. -/
  | monUnlockTimeout
  /-- R410. 60 s after the third failure, unlock attempts are accepted again. -/
  | lockoutEnd
  /-- R410. Monitor command lock, or DBG_CTRL.LOCK, locks the monitor. -/
  | monLock
  /-- R408. Monitor command baud changes the UART rate after the OK line. -/
  | monBaud (rate : Nat)
  /-- R409. Monitor command rr reads registers as READ_REG. -/
  | monitorRr (addr count : Nat)
  /-- R409. Monitor command wr writes one register entry as WRITE_REG. -/
  | monitorWr (addr : Nat) (v mask : Word)
  /-- R409. Monitor command rm reads memory words in DRAM or band SRAM. -/
  | monitorRm (addr count : Nat)
  /-- R409. Monitor command wm writes memory, only with picks off and no sheet in flight. -/
  | monitorWm (addr : Nat) (v : Word)
  /-- R409. Monitor command ev prints the state of one event or of all events. -/
  | monEv (n : Option Nat)
  /-- R409. Monitor command pat prints the unread patina log without moving the tail. -/
  | monPat
  /-- R409. Monitor command maq prints bytes of the maquette image in use, read again from flash. -/
  | monMaq (off count : Nat)
  /-- R409. Monitor command trace turns the per-token state-change trace on or off. -/
  | monTrace (on : Bool)
  /-- R409. Monitor command sched step runs one admission evaluation without a pick. -/
  | schedStep
  /-- R409. Monitor command e: relays a command over BR_MON to the engine die. -/
  | engineRelay (cmd : List Byte)
  /-- R232. A bridge lane's SKP ordered sets show LANE_ERR_LIM errors within 1 ms, and a retrain starts. -/
  | skpErrors (lane n : Nat)
  /-- R298. An edge on a transport encoder input ENC_A/B changes its count, which feeds the following-error check of step channels and the sub-scan error E. -/
  | encoderEdge (e : Nat) (a b : Bool)
  /-- R361. The line manager issues an ORDER for a sheet to every package of its route, at least 5 ms before PICK_T. -/
  | orderIssue (job page step pickT : Nat) (route : List (Nat × Nat × Nat))
  /-- R308. Half a sector after a sampled or predicted crossing, or at each open-loop ramp step, the channel advances to the next six-step sector. -/
  | commutation (n : Nat)
  /-- R308. Once per PWM period, in the middle of W_off, the observer samples the floating phase's comparator, or skips the sample where W_off is below SAMPLE_MIN. -/
  | floatingPhaseSample (n : Nat) (level : Bool)
  /-- R203. A delay-line gain recalibration completes; CLK_CAL_STAT counts it, and a synthesizer whose station has no accepted SOS edges applies the result at once. -/
  | recalibrationComplete
  deriving DecidableEq, Repr

end Sys2Proof
end

