-- ==== Sys2Proof/Decode.lean ====
section
/-! DEFINITION. The commands of this block have no bit encoding: the opcode table gives no row any bits, so no word spells a
command. -/
namespace Sys2Proof

/-- The command a word of `nbits` bits spells: none, since no row of the table has bits. -/
def decodeTableWord (_nbits _w : Nat) : Option Instr := none

end Sys2Proof
end

