-- ==== Sys2Proof/Machine/Bits.lean ====
section
/-! DEFINITION. Bit fields, signed fields, byte order, clamping, list updates and rounding: the plainest helpers every
chapter of the model uses. Registers and messages are little-endian (R4, R372). -/
namespace Sys2Proof.Machine

/-- The `n`-bit field of `w` whose lowest bit is `lo`. -/
def fld (w : Word) (lo n : Nat) : Nat := w.toNat / 2 ^ lo % 2 ^ n

/-- `w` with its `n`-bit field at `lo` set to the low `n` bits of `v`. -/
def setFld (w : Word) (lo n v : Nat) : Word :=
  BitVec.ofNat 32 (w.toNat % 2 ^ lo + v % 2 ^ n * 2 ^ lo + w.toNat / 2 ^ (lo + n) * 2 ^ (lo + n))

/-- Bit `i` of `w`. -/
def bitOf (w : Word) (i : Nat) : Bool := w.toNat / 2 ^ i % 2 == 1

/-- Bit `i` of a natural number. -/
def natBit (w i : Nat) : Bool := w / 2 ^ i % 2 == 1

/-- One bit as a number. -/
def b2n (b : Bool) : Nat := if b then 1 else 0

/-- The two's-complement value of the low `n` bits of `v`. -/
def sext (n v : Nat) : Int :=
  let u := v % 2 ^ n
  if u < 2 ^ (n - 1) then (u : Int) else (u : Int) - (2 ^ n : Nat)

/-- The low `n` bits of a signed value. -/
def wrapN (n : Nat) (v : Int) : Nat := (v % (2 ^ n : Nat)).toNat

/-- A signed field of `w`. -/
def sfld (w : Word) (lo n : Nat) : Int := sext n (fld w lo n)

/-- A natural number as a register word. -/
def wd (n : Nat) : Word := BitVec.ofNat 32 n

/-- `v` held between `lo` and `hi`. -/
def clampN (lo hi v : Nat) : Nat := if v < lo then lo else if hi < v then hi else v

/-- A signed `v` held between `lo` and `hi`. -/
def clampI (lo hi v : Int) : Int := if v < lo then lo else if hi < v then hi else v

/-- `v` saturating at the largest `n`-bit value. -/
def satN (n v : Nat) : Nat := if v < 2 ^ n then v else 2 ^ n - 1

/-- `v` saturating to a signed `n`-bit value. -/
def satI (n : Nat) (v : Int) : Int := clampI (-(2 ^ (n - 1) : Nat)) ((2 ^ (n - 1) : Nat) - 1) v

/-- `a / b` rounded up. -/
def ceilDiv (a b : Nat) : Nat := (a + b - 1) / b

/-- `a / b` rounded to the nearest whole number, halves away from zero. -/
def roundDiv (a : Int) (b : Nat) : Int :=
  if a < 0 then -(((2 * (-a).toNat + b) / (2 * b) : Nat) : Int) else (((2 * a.toNat + b) / (2 * b) : Nat) : Int)

/-- The `n` bytes of `v`, least significant first. -/
def leBytes : Nat → Nat → List Byte
  | 0, _ => []
  | n + 1, v => BitVec.ofNat 8 v :: leBytes n (v / 256)

/-- The number little-endian bytes spell. -/
def ofLe : List Byte → Nat
  | [] => 0
  | b :: bs => b.toNat + 256 * ofLe bs

/-- The number big-endian bytes spell. -/
def ofBe (bs : List Byte) : Nat := bs.foldl (fun a b => a * 256 + b.toNat) 0

/-- The `n` bytes of `v`, most significant first. -/
def beBytes (n v : Nat) : List Byte := (leBytes n v).reverse

/-- Byte `i` of a list, 0 past its end. -/
def byteAt (l : List Byte) (i : Nat) : Nat := (l.getD i 0).toNat

/-- The 16-bit little-endian number at offset `i`. -/
def half (l : List Byte) (i : Nat) : Nat := ofLe ((l.drop i).take 2)

/-- The 32-bit little-endian number at offset `i`. -/
def quad (l : List Byte) (i : Nat) : Nat := ofLe ((l.drop i).take 4)

/-- The 64-bit little-endian number at offset `i`. -/
def oct (l : List Byte) (i : Nat) : Nat := ofLe ((l.drop i).take 8)

/-- The four little-endian bytes of a word. -/
def wordBytes (w : Word) : List Byte := leBytes 4 w.toNat

/-- Element `i` of a list changed by `f`; unchanged where there is none. -/
def updAt {α : Type} : List α → Nat → (α → α) → List α
  | [], _, _ => []
  | a :: as, 0, f => f a :: as
  | a :: as, n + 1, f => a :: updAt as n f

/-- The numbers 0 to `n` − 1. -/
def upTo (n : Nat) : List Nat := List.range n

/-- How many of the low `n` bits of `v` are set. -/
def popCount (n v : Nat) : Nat := (upTo n).countP (natBit v)

/-- The lowest set bit among the low `n` bits of `v`. -/
def lowestBit (n v : Nat) : Option Nat := (upTo n).find? (natBit v)

/-- The index of the first element that satisfies `p`. -/
def findIx {α : Type} (p : α → Bool) : List α → Option Nat
  | [] => none
  | a :: as => if p a then some 0 else (findIx p as).map (· + 1)

/-- The last `n` elements of a list. -/
def lastN {α : Type} (n : Nat) (l : List α) : List α := l.drop (l.length - n)

/-- The sum of a list of numbers. -/
def sumN (l : List Nat) : Nat := l.foldl (· + ·) 0

/-- The element with the least key, the first of equals. -/
def minBy {α : Type} (key : α → Nat) : List α → Option α
  | [] => none
  | a :: as => some (as.foldl (fun m x => if key x < key m then x else m) a)

/-- A list in ascending order of a key, equals in their old order (insertion). -/
def insertBy {α : Type} (key : α → Int) (x : α) : List α → List α
  | [] => [x]
  | a :: as => if key x < key a then x :: a :: as else a :: insertBy key x as

/-- Stable sort by an integer key. -/
def sortBy {α : Type} (key : α → Int) (l : List α) : List α := l.foldl (fun acc x => insertBy key x acc) []

/-- Integer square root by Newton's method with fuel, rounded down. -/
def isqrtAux : Nat → Nat → Nat → Nat
  | 0, _, x => x
  | f + 1, n, x => let y := (x + n / x) / 2; if y < x then isqrtAux f n y else x

/-- The whole part of the square root of `n`. -/
def isqrt (n : Nat) : Nat := if n < 2 then n else isqrtAux (n.log2 + 8) n (2 ^ (n.log2 / 2 + 1))

end Sys2Proof.Machine
end

