-- ==== Sys2Proof/Machine/Crc.lean ====
section
/-! DEFINITION. The check codes of the device: CRC-32C of images, messages and bands (R78) and the CRC-16 of
the beam link (R212). -/
namespace Sys2Proof.Machine

/-- One bit of a reflected CRC with polynomial `poly`. -/
def crcBit (poly c : Nat) : Nat := if c % 2 == 1 then Nat.xor (c / 2) poly else c / 2

/-- One byte into a reflected CRC. -/
def crcByte (poly c : Nat) (b : Byte) : Nat :=
  let x := Nat.xor c b.toNat
  crcBit poly (crcBit poly (crcBit poly (crcBit poly (crcBit poly (crcBit poly (crcBit poly (crcBit poly x)))))))

/-- The reflected form of the Castagnoli polynomial 0x1EDC_6F41. -/
def castagnoli : Nat := 0x82F63B78

/-- A running CRC-32C over more bytes, before the final XOR. -/
def crc32cRun (c : Nat) (l : List Byte) : Nat := l.foldl (crcByte castagnoli) c

/-- CRC-32C (R78): initial value and final XOR 0xFFFF_FFFF. -/
def crc32c (l : List Byte) : Nat := Nat.xor (crc32cRun 0xFFFFFFFF l) 0xFFFFFFFF

/-- CRC-32 of the bridge flit (R230): polynomial 0x04C11DB7 reflected, initial value and final XOR 0xFFFFFFFF. -/
def crc32 (l : List Byte) : Nat := Nat.xor (l.foldl (crcByte 0xEDB88320) 0xFFFFFFFF) 0xFFFFFFFF

/-- The BODY_CRC of a message: 0 for an empty body (R372). -/
def bodyCrc (l : List Byte) : Nat := if l.isEmpty then 0 else crc32c l

/-- One bit of a CRC-16 that shifts left with polynomial 0x1021. -/
def crc16Bit (c : Nat) : Nat := if 0x8000 ≤ c then Nat.xor (c * 2 % 0x10000) 0x1021 else c * 2

/-- One byte into the CRC-16 of the beam link. -/
def crc16Byte (c : Nat) (b : Byte) : Nat :=
  crc16Bit (crc16Bit (crc16Bit (crc16Bit (crc16Bit (crc16Bit (crc16Bit (crc16Bit (Nat.xor c (b.toNat * 256)))))))))

/-- CRC-16 of the beam link (R212): initial value 0xFFFF, no final XOR. -/
def crc16 (l : List Byte) : Nat := l.foldl crc16Byte 0xFFFF

end Sys2Proof.Machine
end

