-- ==== Sys2Proof/Machine/Bythin.lean ====
section
/-! DEFINITION. The Bythin stream format (R115 to R132): the decoder of one band, exactly as the chapter's procedure
states it, with the error codes of Table 5.6. The stream is one number whose bit 0 is bit 0 of its first byte (R116). -/
namespace Sys2Proof.Machine

/-- A bit reader: the stream as a number, its length in bits and the position of the next bit. -/
structure Rd where
  bits : Nat
  len  : Nat
  pos  : Nat
  deriving DecidableEq, Repr

/-- The reader at bit 0 of a compressed band. -/
def Rd.of (l : List Byte) : Rd := ⟨ofLe l, 8 * l.length, 0⟩

/-- A fixed-width field, least significant bit first (R116); FRAME (9) past the compressed length (R135). -/
def Rd.take (r : Rd) (n : Nat) : Except Nat (Nat × Rd) :=
  if r.pos + n ≤ r.len then .ok (r.bits / 2 ^ r.pos % 2 ^ n, ⟨r.bits, r.len, r.pos + n⟩) else .error 9

/-- Skip to the next byte boundary; a non-zero skipped bit is PAD (10). -/
def Rd.align (r : Rd) : Except Nat Rd :=
  let n := (8 - r.pos % 8) % 8
  match r.take n with
  | .error e => .error e
  | .ok (v, r') => if v = 0 then .ok r' else .error 10

/-- A canonical prefix code: its used symbols with length and code word, and whether it has exactly one used symbol. -/
structure Code where
  words  : List (Nat × Nat × Nat)
  single : Bool
  deriving DecidableEq, Repr

/-- The used symbols of a list of lengths, with their lengths, in symbol order. -/
def usedSyms (lens : List Nat) : List (Nat × Nat) :=
  ((upTo lens.length).zip lens).filter (fun p => p.2 != 0)

/-- The first code word of length `n` (R123). -/
def firstCode (used : List (Nat × Nat)) : Nat → Nat
  | 0 => 0
  | n + 1 => (firstCode used n + (if n = 0 then 0 else used.countP (fun p => p.2 == n))) * 2

/-- The canonical code of a list of lengths (R123): symbol, length and code word of each used symbol. -/
def canonical (lens : List Nat) : List (Nat × Nat × Nat) :=
  let used := usedSyms lens
  used.map (fun p => (p.1, p.2, firstCode used p.2 + (used.filter (fun q => q.2 == p.2 && q.1 < p.1)).length))

/-- The code of a list of lengths, or `none` where R124 calls it a TABLE error. `emptyOk`: an alphabet D code with no used
symbol is legal. -/
def mkCode (emptyOk : Bool) (lens : List Nat) : Option Code :=
  let used := usedSyms lens
  match used with
  | [] => if emptyOk then some ⟨[], false⟩ else none
  | [(s, _)] => some ⟨[(s, 1, 0)], true⟩
  | _ => if sumN (used.map (fun p => 2 ^ (15 - p.2))) = 2 ^ 15 then some ⟨canonical lens, false⟩ else none

/-- One symbol, its code word read most significant bit first (R116). `bad` is the error of a bit no code word begins with
(the single-symbol case of R124). -/
def Code.decodeAux (c : Code) (bad : Nat) : Nat → Nat → Nat → Rd → Except Nat (Nat × Rd)
  | 0, _, _, _ => .error bad
  | f + 1, n, w, r =>
    match r.take 1 with
    | .error e => .error e
    | .ok (b, r') =>
      let w' := 2 * w + b
      match c.words.find? (fun p => p.2.1 == n + 1 && p.2.2 == w') with
      | some p => .ok (p.1, r')
      | none => if c.single then .error bad else c.decodeAux bad f (n + 1) w' r'

/-- One symbol of a code. -/
def Code.decode (c : Code) (bad : Nat) (r : Rd) : Except Nat (Nat × Rd) := c.decodeAux bad 15 0 0 r

/-- The order in which code-length code entries are sent (Table 5.2). -/
def clOrder : List Nat := [18, 17, 16, 0, 1, 2, 3, 4, 5, 6, 7, 8, 9, 10, 11, 12, 13, 14, 15]

/-- `n` code-length code entries of 3 bits. -/
def readCl : Nat → Rd → Except Nat (List Nat × Rd)
  | 0, r => .ok ([], r)
  | n + 1, r =>
    match r.take 3 with
    | .error e => .error e
    | .ok (v, r') =>
      match readCl n r' with
      | .error e => .error e
      | .ok (vs, r'') => .ok (v :: vs, r'')

/-- The code lengths of the 19 code-length symbols from the entries sent. -/
def clLens (vs : List Nat) : List Nat :=
  (upTo 19).map (fun s => match findIx (· == s) clOrder with | some i => vs.getD i 0 | none => 0)

/-- The length sequence (R122): `acc` holds the lengths so far, latest first, `left` how many are still to come. -/
def readLens (c : Code) : Nat → Nat → List Nat → Rd → Except Nat (List Nat × Rd)
  | 0, left, acc, r => if left = 0 then .ok (acc.reverse, r) else .error 5
  | f + 1, left, acc, r =>
    if left = 0 then .ok (acc.reverse, r) else
    match c.decode 5 r with
    | .error e => .error e
    | .ok (s, r') =>
      if s < 16 then readLens c f (left - 1) (s :: acc) r'
      else
        match (if s = 16 then (if acc.isEmpty then (.error 5 : Except Nat (Nat × Rd)) else r'.take 2)
               else if s = 17 then r'.take 3 else r'.take 7) with
        | .error e => .error e
        | .ok (x, r'') =>
          let n := x + (if s = 18 then 11 else 3)
          let v := if s = 16 then acc.headD 0 else 0
          if n ≤ left then readLens c f (left - n) (List.replicate n v ++ acc) r'' else .error 5

/-- The table description of a CODED block (R121 to R124): the codes of alphabets A and D. -/
def readTables (r : Rd) : Except Nat (Code × Code × Rd) := do
  let (ha, r) ← r.take 6
  if 40 < ha then .error 5
  let (hd, r) ← r.take 8
  if 161 < hd then .error 5
  let (hc, r) ← r.take 4
  let (vs, r) ← readCl (hc + 4) r
  match mkCode false (clLens vs) with
  | none => .error 5
  | some cl =>
    let (lens, r) ← readLens cl (ha + 257 + hd + 1) (ha + 257 + hd + 1) [] r
    let la := lens.take (ha + 257)
    let ld := lens.drop (ha + 257)
    if la.getD 256 0 = 0 then .error 5
    match mkCode false la, mkCode true ld with
    | some ca, some cd => .ok (ca, cd, r)
    | _, _ => .error 5

/-- Extra bits and base of length class `s` (Table 5.4). -/
def lenClass (s : Nat) : Nat × Nat :=
  if s < 269 then (0, s - 254)
  else
    let n := (s - 269) / 4 + 1
    -- four classes of each extra-bit count: bases 15, 23, 39, 71, 135, 263, 519
    (n, 2 ^ (n + 2) + 7 + (s - 269) % 4 * 2 ^ n)

/-- Extra bits and base of generic distance class `d` (R127). -/
def distClass (d : Nat) : Nat × Nat :=
  if d < 4 then (0, d + 1)
  else let n := (d - 2) / 2; (n, (2 + d % 2) * 2 ^ n + 1)

/-- The distance of row class `d` at a pitch (R128), as a signed number. -/
def rowDist (d pitch : Nat) : Int := (((d - 34) / 16 + 1) * pitch : Nat) - (((d - 34) % 16 : Nat) - 8 : Int)

/-- The window limit (R129). -/
def winMax : Nat := 131072

/-- One symbol of a band: the output position it begins at, the bit positions before and after it, the bit offset of its block's table
description (R156), whether it is a byte of a STORED block and how many of those follow, its length and, for a match, its distance. -/
structure Mark where
  pos    : Nat
  bit0   : Nat
  bit1   : Nat
  blk    : Nat
  stored : Bool
  left   : Nat
  len    : Nat
  dist   : Nat
  deriving DecidableEq, Repr

/-- A band's decoding so far: the symbols (latest first), the bytes output (latest first), the window behind them (latest first, output
included), its held count, the bytes output and the running CRC. -/
structure Dec where
  log  : List Mark
  out  : List Byte
  win  : List Byte
  held : Nat
  n    : Nat
  crc  : Nat
  deriving DecidableEq, Repr

/-- One output byte: into the lines, the window and the CRC. -/
def Dec.put (d : Dec) (b : Byte) : Dec :=
  ⟨d.log, b :: d.out, b :: d.win, min winMax (d.held + 1), d.n + 1, crcByte castagnoli d.crc b⟩

/-- A symbol is noted before its bytes are output. -/
def Dec.mark (d : Dec) (bit0 bit1 blk : Nat) (stored : Bool) (left len dist : Nat) : Dec :=
  { d with log := ⟨d.n, bit0, bit1, blk, stored, left, len, dist⟩ :: d.log }

/-- A match of `len` bytes at distance `dist`, one byte at a time (R130). -/
def Dec.copy : Nat → Nat → Dec → Dec
  | 0, _, d => d
  | n + 1, dist, d => Dec.copy n dist (d.put (d.win.getD (dist - 1) 0))

/-- The data bytes of a STORED block. -/
def decStored (limit : Nat) : Nat → Rd → Dec → Nat × Dec × Rd
  | 0, r, d => (0, d, r)
  | n + 1, r, d =>
    if d.n = limit then (8, d, r)
    else match r.take 8 with
      | .error e => (e, d, r)
      | .ok (v, r') => decStored limit n r' ((d.mark r.pos r'.pos 0 true n 1 0).put (BitVec.ofNat 8 v))

/-- The symbols of a CODED block up to symbol 256, its table description beginning at bit `blk`. The fuel is the number of bits left, one a
symbol at least. -/
def decCoded (ca cd : Code) (pitch limit blk : Nat) : Nat → Rd → Dec → Nat × Dec × Rd
  | 0, r, d => (9, d, r)
  | f + 1, r0, d =>
    match ca.decode 6 r0 with
    | .error e => (e, d, r0)
    | .ok (s, r) =>
      if s < 256 then
        (if d.n = limit then (8, d, r)
         else decCoded ca cd pitch limit blk f r ((d.mark r0.pos r.pos blk false 0 1 0).put (BitVec.ofNat 8 s)))
      else if s = 256 then (0, d, r)
      else
        match r.take (lenClass s).1 with
        | .error e => (e, d, r)
        | .ok (x, r) =>
          let len := (lenClass s).2 + x
          if 1026 < len then (6, d, r)
          else if cd.words.isEmpty then (6, d, r)
          else match cd.decode 6 r with
            | .error e => (e, d, r)
            | .ok (ds, r) =>
              match (if ds < 34 then r.take (distClass ds).1 else .ok (0, r)) with
              | .error e => (e, d, r)
              | .ok (y, r) =>
                let dist : Int := if ds < 34 then ((distClass ds).2 + y : Nat) else rowDist ds pitch
                if dist < 1 ∨ (d.held : Int) < dist ∨ (winMax : Int) < dist then (7, d, r)
                else if limit < d.n + len then (8, d, r)
                else decCoded ca cd pitch limit blk f r (Dec.copy len dist.toNat (d.mark r0.pos r.pos blk false 0 len dist.toNat))

/-- The blocks of a band (R118 to R132); 0 is a band that ends in order, else the code of Table 5.6. -/
def decBlocks (plane pitch limit : Nat) : Nat → Rd → Dec → Nat × Dec
  | 0, _, d => (9, d)
  | f + 1, r, d =>
    match r.take 2 with
    | .error e => (e, d)
    | .ok (bt, r) =>
    match r.take 3 with
    | .error e => (e, d)
    | .ok (pl, r) =>
    match r.take 14 with
    | .error e => (e, d)
    | .ok (pm, r) =>
      if bt = 3 then (3, d)
      else if pl ≠ plane ∨ pm + 1 ≠ pitch ∨ pitch < 8 then (4, d)
      else if bt = 2 then
        match r.align with
        | .error e => (e, d)
        | .ok r =>
          match r.take 32 with
          | .error e => (e, d)
          | .ok (check, r) =>
            match r.take 32 with
            | .error e => (e, d)
            | .ok (length, r) =>
              if r.pos ≠ r.len then (9, d)
              else if length ≠ d.n ∨ length ≠ limit then (2, d)
              else if check ≠ Nat.xor d.crc 0xFFFFFFFF then (1, d)
              else (0, d)
      else if bt = 0 then
        match r.align with
        | .error e => (e, d)
        | .ok r =>
          match r.take 16 with
          | .error e => (e, d)
          | .ok (n, r) =>
            match decStored limit (n + 1) r d with
            | (0, d, r) => decBlocks plane pitch limit f r d
            | (e, d, _) => (e, d)
      else
        let blk := r.pos
        match readTables r with
        | .error e => (e, d)
        | .ok (ca, cd, r) =>
          match decCoded ca cd pitch limit blk (r.len - r.pos + 1) r d with
          | (0, d, r) => decBlocks plane pitch limit f r d
          | (e, d, _) => (e, d)

/-- What decoding a band leaves: its symbols in order, the error (0 none), the bytes output in order and the window (latest first). -/
structure DecOut where
  log : List Mark
  err : Nat
  out : List Byte
  win : List Byte
  deriving DecidableEq, Repr

/-- Decode one band: plane, pitch, line count, the compressed bytes and the window it starts with (latest byte first). -/
def decodeBand (plane pitch lines : Nat) (comp win : List Byte) : DecOut :=
  let w := win.take winMax
  let (e, d) := decBlocks plane pitch (lines * pitch) (8 * comp.length + 1) (Rd.of comp)
    ⟨[], [], w, w.length, 0, 0xFFFFFFFF⟩
  ⟨d.log.reverse, e, d.out.reverse, d.win.take winMax⟩

end Sys2Proof.Machine
end

