-- ==== Sys2Proof/Config.lean ====
section
/-! DEFINITION. What an implementation, a board or a part fixes and the spec leaves open, and the free values. Every constant
here is opaque: no proof can see its value, so a statement that holds, holds whatever the hardware does there. -/
namespace Sys2Proof.Config

/-- The ball-map revision GLB_BALLMAP reports ("Per package", Table 2.1). Log entry 5. -/
opaque ballMap : Nat → BitVec 32

/-- The pool-pin bank levels PIN_BANKLVL reports ("Per board", Table 2.10). Log entry 5. -/
opaque bankLvl : BitVec 32

/-- Capacity of the page store in bytes (the spec says only that a full store refuses, R94). Log entry 8. -/
opaque pageStore : Nat

/-- Capacity of the band store in bytes (the spec gives none, R94). Log entry 8. -/
opaque bandStore : Nat

/-- VDDIO_AUX at 3.3 V, what AUX_33 reports ("Per board", Table 8.6). Log entry 5. -/
opaque aux33 : Bool

/-- Body length of a bridge message of a type whose layout the spec does not give, by type code and number of entries (Table 10.5).
Log entry 9. -/
opaque brBody : Nat → Nat → Nat

/-- The bytes of a bridge message whose layout the spec does not give, by their place in it, beyond its type code (Table 10.5). Log entry 9. -/
opaque brWire : BrBody → Nat → BitVec 8

/-- The host part of the IPv4 link-local address a port with a given MAC address chooses (RFC 3927, R371), and its IPv6 interface
identifier. Log entry 21. -/
opaque linkLocal4 : Nat → Nat
opaque linkLocal6 : Nat → Nat

/-- What a read of the flash at an address beyond the reach of 3-byte addressing gives (R72). Log entry 99. -/
opaque farFlash : Nat → BitVec 8

/-- A fresh free value: the `n`-th value the spec leaves open during a run. Log entry 6. -/
opaque freeValue : Nat → Nat

end Sys2Proof.Config
end

