-- ==== Sys2Proof/Machine/Mem.lean ====
section
/-! DEFINITION. Sparse stores as plain data: a list of (address, value) pairs, addresses strictly rising, with no entry
equal to what an unlisted address reads as. Byte memories (DRAM, band SRAM, the table windows) and the register file are
both kept so. -/
namespace Sys2Proof.Machine

/-- What is listed at an address. -/
def look {α : Type} : List (Nat × α) → Nat → Option α
  | [], _ => none
  | (b, v) :: t, a => if a = b then some v else look t a

/-- List `v` at `a`, in address order. -/
def ins {α : Type} : List (Nat × α) → Nat → α → List (Nat × α)
  | [], a, v => [(a, v)]
  | (b, w) :: t, a, v => if a < b then (a, v) :: (b, w) :: t else if a = b then (a, v) :: t else (b, w) :: ins t a v

/-- List nothing at `a`. -/
def del {α : Type} : List (Nat × α) → Nat → List (Nat × α)
  | [], _ => []
  | (b, w) :: t, a => if a = b then del t a else (b, w) :: del t a

/-- Write `v` at `a` of a store whose unlisted address `a` reads `d`. -/
def put {α : Type} [DecidableEq α] (l : List (Nat × α)) (a : Nat) (d v : α) : List (Nat × α) :=
  if v = d then del l a else ins l a v

/-- A byte memory. An unlisted byte reads 0 (DESIGN CHOICE, log entry 2). -/
abbrev Mem := List (Nat × Byte)

/-- One byte of a memory. -/
def Mem.byte (m : Mem) (a : Nat) : Byte := (look m a).getD 0

/-- One byte written. -/
def Mem.set (m : Mem) (a : Nat) (b : Byte) : Mem := put m a 0 b

/-- `n` bytes from `a` upwards. -/
def Mem.bytes (m : Mem) (a : Nat) : Nat → List Byte
  | 0 => []
  | n + 1 => m.byte a :: Mem.bytes m (a + 1) n

/-- Bytes written from `a` upwards. -/
def Mem.setBytes (m : Mem) (a : Nat) : List Byte → Mem
  | [] => m
  | b :: bs => Mem.setBytes (m.set a b) (a + 1) bs

/-- The little-endian number of `n` bytes at `a`. -/
def Mem.le (m : Mem) (a n : Nat) : Nat := ofLe (m.bytes a n)

/-- The lowest address of a store is above `lo`, addresses rise strictly, and no entry satisfies `bad`. -/
def canonFrom {α : Type} (bad : Nat → α → Bool) : Option Nat → List (Nat × α) → Bool
  | _, [] => true
  | lo, (a, v) :: t => (match lo with | none => true | some l => decide (l < a)) && !bad a v && canonFrom bad (some a) t

/-- The canonical form of a byte memory: addresses strictly rising and no entry 0, what an unlisted byte reads as. -/
def Mem.wf (m : Mem) : Bool := canonFrom (fun _ b => b == 0) none m

end Sys2Proof.Machine
end

