-- ==== Sys2Proof/Machine/State.lean ====
section
/-! DEFINITION. The state of one AZ746 die: everything the spec gives it that is not a command, as plain data, and its value
while RST_N is asserted. Register words live in `regs` by address; what a status register shows live lives in the typed
records and is put into the register by Machine/RegRead.lean. `pending` is the queue of waiting commands. -/
namespace Sys2Proof.Machine

/-- The die's identity: what fuses and bonding set at manufacture (R36, Table 0.1, Table 2.2). `variant` holds the last two
digits of the variant code in BCD. -/
structure Die where
  variant : Nat
  role    : Nat
  stepLtr : Nat
  stepDig : Nat
  deriving DecidableEq, Repr

/-- What Lemiz has provisioned in the integrator's OTP: the signature public-key hash (R76), ALLOW_V1 (R87), the consumable
master key (R400), MON_LOCK and the monitor key (R410), the MAC addresses of the host ports (Table 17.12). `none`: blank. -/
structure Otp where
  sigHash : Option (List Byte)
  allowV1 : Bool
  kMaster : Option (List Byte)
  monLock : Bool
  kDbg    : Option (List Byte)
  mac     : List Nat
  deriving DecidableEq, Repr

/-- One record of a maquette image as the die has checked it: its TYPE, the image offset of its frame and its body. -/
structure ImgRec where
  type : Nat
  off  : Nat
  body : List Byte
  deriving DecidableEq, Repr

/-- A maquette image that a copy holds: format, generation, PAIR_ID, HEADER.FLAGS, its records in order and its bytes. -/
structure Image where
  v1     : Bool
  gen    : Nat
  pairId : Nat
  flags  : Nat
  recs   : List ImgRec
  bytes  : List Byte
  deriving DecidableEq, Repr

/-- One claim entry (Table 3.7): class, index and owner word. -/
structure Claim where
  cls   : Nat
  index : Nat
  owner : Nat
  deriving DecidableEq, Repr

/-- The start sequence and what GLB_BOOT, GLB_BOOT_ERR, GLB_GEN and GLB_CLAIM_* report (Tables 3.10 to 3.13). -/
structure Boot where
  stage      : Nat
  copy       : Nat
  sig        : Nat
  mode       : Nat
  fmtV1      : Bool
  compat5    : Bool
  reason     : Nat
  bootMs     : Nat
  errA       : Nat
  errB       : Nat
  flash      : Option FlashDev
  /-- The copies still to be tried, in order: 0 copy A, 1 copy B (R75). -/
  toTry      : List Nat
  firstTried : Option Nat
  /-- The copy whose image step 5 found valid apart from its signature, and that image. -/
  cand       : Option (Nat × Image)
  image      : Option Image
  conflicts  : Nat
  noRes      : Nat
  firstBad   : Option Nat
  /-- TIME clock count at the end of step 9 (R68), and whether the engine die has reported READY. -/
  step9      : Option Nat
  peerReady  : Bool
  /-- What the peer die said of its image's PAIR_ID at step 9 (R69): nothing yet, or its value, `none` for the built-in default. -/
  peerPair   : Option (Option Nat)
  /-- ESTOP_N released by the engine sequencer (R67). -/
  estopOff   : Bool
  deriving DecidableEq, Repr

/-- One ADJUSTABLE entry (R84): a register mask or a table's instances. -/
structure AdjReg where
  addr : Nat
  mask : Word
  deriving DecidableEq, Repr

structure AdjTab where
  table : Nat
  insts : Word
  deriving DecidableEq, Repr

/-- Where messages to the host go: a link, an address and a port (R371, R392). -/
structure Dest where
  link : Link
  addr : Nat
  port : Nat
  deriving DecidableEq, Repr

/-- An unsent EVENT message (R392, Table 17.9): at most one a source. -/
structure EvMsg where
  src    : Nat
  detail : Nat
  ns     : Nat
  sec    : Nat
  pkg    : Nat
  extra  : List Byte
  /-- COUNT as the sending die or package reported it, for a relayed event; `none` for this die's own. -/
  count  : Option Nat
  /-- The DIE flag the message carries, and the SEQ of one relayed from the engine die. -/
  die    : Nat
  seq    : Nat
  deriving DecidableEq, Repr

/-- A reply kept for retransmission (R375). -/
structure Kept where
  link   : Link
  seq    : Nat
  type   : Nat
  crc    : Nat
  die    : Nat
  /-- Where the reply went, and its messages: type, STATUS and body. -/
  src    : Nat
  port   : Nat
  msgs   : List (Nat × Nat × List Byte)
  deriving DecidableEq, Repr

/-- The state of a host link (R368, Tables 17.1 and 17.12). -/
structure LinkState where
  up    : Bool
  rate  : Nat
  width : Nat
  deriving DecidableEq, Repr

/-- The host-interface state that is no register of its own: links, event destination, unsent events, kept replies. -/
structure HostIf where
  pcie     : LinkState
  eth      : List LinkState
  retrains : Nat
  /-- What the H2D ring in host memory holds between its head and its tail (R369). -/
  h2d      : List Byte
  dest     : Option Dest
  /-- The clock of the latest HELLO, and whether it raised HST_DEST (R394). -/
  helloAt  : Option (Nat × Bool)
  unsent   : List EvMsg
  /-- The latest occurrence of each source that has occurred (Table 17.9). -/
  latest   : List EvMsg
  kept     : List Kept
  /-- Requests relayed to the engine die whose reply is outstanding (R377): header and type. -/
  relayed  : List (ReqHdr × Nat)
  deriving DecidableEq, Repr

/-- The residency states of a band (Table 4.1). -/
inductive Res where
  | absent | inPageStore | inTransit | resident | decoded | printed
  deriving DecidableEq, Repr

/-- One band of a plane: its description (Table 17.5), residency (R14), the bytes received or moved so far by offset (R381), the
compressed stream once it is known, and when its move began. -/
structure Band where
  idx     : Nat
  first   : Nat
  lines   : Nat
  /-- COMP_LEN as described; 0 for a BAND_RAW band. -/
  compLen : Nat
  res     : Res
  got     : List (Nat × Byte)
  /-- The compressed stream, once complete. -/
  stream  : List Byte
  /-- The raw bytes of a complete BAND_RAW band, in raw staging (R140). -/
  raw     : List Byte
  /-- A BAND_RAW band that has been handed on for compression (R381). -/
  handed  : Bool
  /-- Bytes moved into the band store so far, and the FABRIC clock at which the move began (R435). -/
  moved   : Nat
  t0      : Nat
  /-- Check-ahead verdict (R137): 0 none, 1 verified, 2 failed. -/
  ahead   : Nat
  /-- The raw bytes that primed the band's chisel, once it has primed (R140). -/
  hist    : Option (List Byte)
  deriving DecidableEq, Repr

structure Plane where
  station : Nat
  pitch   : Nat
  bands   : List Band
  deriving DecidableEq, Repr

/-- A page as its PAGE_DESC fragments describe it (R380). -/
structure Page where
  page     : Nat
  lines    : Nat
  medium   : Nat
  mask     : Nat
  carry    : Bool
  /-- The page this page's history is carried from (R134), fixed when its first fragment is accepted. -/
  source   : Option Nat
  complete : Bool
  /-- PAGE_RELEASE has been received; and has taken effect (R95). -/
  relAsked : Bool
  released : Bool
  /-- The page has been picked by the scheduler (R91). -/
  picked   : Bool
  planes   : List Plane
  deriving DecidableEq, Repr

/-- A job slot (R379). -/
structure Job where
  id     : Nat
  closed : Bool
  pages  : List Page
  deriving DecidableEq, Repr

/-- Sheet states (Table 4.12). -/
inductive TokSt where
  | free | picked | registered | imaging | fusing | exiting | done
  deriving DecidableEq, Repr

/-- One of the 16 sheet tokens (R96, Tables 4.12): the record and the sheet's own instants in device time (ns). -/
structure Token where
  st       : TokSt
  job      : Nat
  page     : Nat
  step     : Nat
  stations : Nat
  seq      : Nat
  flags    : Nat
  cause    : Nat
  pick     : Nat
  /-- Registration capture (R98), `none` before it, and the transport encoder counts at it (R177). -/
  reg      : Option Nat
  encReg   : List Int
  medium   : Nat
  lines    : Nat
  /-- Lines/s of the step the sheet was admitted at, and the release lead it was admitted with (R114). -/
  rate     : Nat
  lead     : Nat
  blank    : List Nat
  /-- Stations at which imaging of the sheet has begun (R113, R404). -/
  began    : Nat
  /-- Stations whose imaging of the sheet has ended. -/
  ended    : Nat
  /-- Dots printed per station (R403). -/
  dots     : List Nat
  /-- The order of the printing line the sheet was picked for, if any. -/
  order    : Option Nat
  /-- Every station blanks for this sheet from its next scan (Table 4.6). -/
  dark     : Bool
  deriving DecidableEq, Repr

/-- An admitted sheet waiting for its pitch instant (R103, SHEET_PICK). -/
structure Admitted where
  job   : Nat
  page  : Nat
  pitch : Nat
  /-- RELEASE_LEAD when it was admitted (R114). -/
  lead  : Nat
  order : Option Nat
  deriving DecidableEq, Repr

/-- A rate sample of a band: bytes, start and end in FABRIC clocks (R435). -/
structure RateRec where
  bytes : Nat
  t0    : Nat
  t1    : Nat
  deriving DecidableEq, Repr

/-- LADDER_STATE (Table 4.11). -/
inductive LadderSt where
  | running | draining | gap | held
  deriving DecidableEq, Repr

/-- The sheet scheduler (Tables 4.8 to 4.12). -/
structure Sched where
  toks      : List Token
  stepCur   : Nat
  target    : Option Nat
  ladder    : LadderSt
  skipRun   : Nat
  okRun     : Nat
  misHold   : Bool
  seqNext   : Nat
  /-- Pitch instants still occupied by a long sheet (R102). -/
  longLeft  : Nat
  /-- Device time at which the pitches of the last sheet picked end (R102), for a package whose pitches orders fix. -/
  longTo    : Nat
  admitted  : Option Admitted
  brgWin    : List RateRec
  hostWin   : List RateRec
  /-- Domains that went to HIGH_CRIT and have not returned below HIGH_WARN (R332). -/
  thermHold : Nat
  deriving DecidableEq, Repr

/-- A match of a band: the output position it begins at, its length and its distance (R130). -/
structure Copy where
  pos  : Nat
  len  : Nat
  dist : Nat
  deriving DecidableEq, Repr

/-- A band in output decoding on a cast for the sheet of token `tok`: what decoding it gives (R117), the window it started with, how far its
symbols have been parsed (`written`), the matches still to come, the pending-copy queue (R150), and its release verdict (R137: 0 unverified,
1 verified, 2 failed ahead). -/
structure CastJob where
  tok     : Nat
  job     : Nat
  page    : Nat
  station : Nat
  band    : Nat
  pitch   : Nat
  first   : Nat
  err     : Nat
  out     : List Byte
  win0    : List Byte
  written : Nat
  todo    : List Copy
  queue   : List Copy
  verdict : Nat
  deriving DecidableEq, Repr

/-- A check-ahead pass on a cast (R137, R154): its band, the error it will find and the window after it. -/
structure CheckJob where
  job     : Nat
  page    : Nat
  station : Nat
  band    : Nat
  err     : Nat
  win     : List Byte
  deriving DecidableEq, Repr

/-- One cast (Tables 6.7 and 6.8). `waiting`: WAIT_DATA; `stalled`: STALLED_SLOT. -/
structure Cast where
  inServ  : Bool
  waiting : Bool
  stalled : Bool
  lastErr : Nat
  errSrc  : Nat
  errBand : Nat × Nat
  out     : Option CastJob
  check   : Option CheckJob
  /-- Output bytes not yet counted as a whole KiB. -/
  rem     : Nat
  deriving DecidableEq, Repr

/-- A plane under way in output decoding (R155): bands released and started so far, the window, and the fate of its lines
after a cast has left service. -/
structure PlaneRun where
  job      : Nat
  page     : Nat
  station  : Nat
  tok      : Nat
  released : Nat
  next     : Nat
  win      : List Byte
  /-- Casts that decode this plane, as a bit map, fixed when its first band was released (R149, R155). -/
  casts    : Nat
  /-- A cast of the station left service while the plane was under way: its unfilled lines print blank (R155). -/
  lost     : Bool
  deriving DecidableEq, Repr

/-- The check-ahead passes of a plane on a page (R154): the next band, the window so far, whether further passes run. -/
structure Ahead where
  job     : Nat
  page    : Nat
  station : Nat
  next    : Nat
  win     : List Byte
  on      : Bool
  deriving DecidableEq, Repr

/-- A window as it stood when decoding of a plane ended (R134). -/
structure KeptWin where
  job     : Nat
  page    : Nat
  station : Nat
  win     : List Byte
  deriving DecidableEq, Repr

/-- Chisel states (Table 6.6). -/
inductive ChsSt where
  | idle | priming | matching | stalled | out
  deriving DecidableEq, Repr

/-- One chisel: its band, the stream it produces, how much of it has been emitted, the priming still to do. -/
structure Chisel where
  st      : ChsSt
  ref     : Option BandRef
  stream  : List Byte
  emitted : Nat
  prime   : Nat
  rate    : Nat
  /-- TIME clock count when the band started. -/
  t0      : Nat
  raw     : Nat
  ctx     : Nat
  deriving DecidableEq, Repr

/-- A saved stream context (R156, Table 6.3): its kind (1 cast output, 2 cast check-ahead, 3 chisel), its record of 64 words
and the history bytes written with it, and what the unit needs to go on. -/
structure SavedCtx where
  ix      : Nat
  kind    : Nat
  ref     : BandRef
  words   : List Word
  history : List Byte
  stream  : List Byte
  deriving DecidableEq, Repr

/-- Chisels, casts and contexts. -/
structure Codec where
  casts   : List Cast
  runs    : List PlaneRun
  aheads  : List Ahead
  wins    : List KeptWin
  chisels : List Chisel
  /-- Complete BAND_RAW bands waiting for a chisel, in order of completion (R140). -/
  rawQ    : List BandRef
  saved   : List SavedCtx
  ctxMax  : Nat
  /-- Raw and compressed bytes not yet counted as a whole KiB (Table 6.5). -/
  inRem   : Nat
  outRem  : Nat
  deriving DecidableEq, Repr

/-- Line-slot states other than FREE (R181). -/
inductive SlotSt where
  | filling | full | printing
  deriving DecidableEq, Repr

/-- A band SRAM line slot that holds a line of the sheet of token `tok`. `bad`: its check has failed (R136). -/
structure LineSlot where
  tok  : Nat
  line : Nat
  st   : SlotSt
  bad  : Bool
  data : List Byte
  deriving DecidableEq, Repr

/-- SOS states (Table 7.1). -/
inductive SosSt where
  | idle | acquire | facetId | locked | lost
  deriving DecidableEq, Repr

/-- The sheet a station is imaging: token, page, the scan number (R158), whether the rest of the sheet is sent as code 0 (R164, R198), beams blanked to the end of the sheet (R186), and the lines already judged (R18). -/
structure Imaging where
  tok    : Nat
  job    : Nat
  page   : Nat
  /-- Image start in device time, and the latest scan number; scans before the image start carry negative numbers. -/
  ti     : Nat
  scan   : Int
  /-- A move or slip waiting for the next scan at SLIP_PHASE: +1, −1 or 0 (R179). -/
  want   : Int
  dead   : Bool
  blankB : Nat
  judged : List (Nat × Bool)
  slipped : Bool
  deriving DecidableEq, Repr

/-- The scan engine of one station (Tables 7.1, 7.8, 7.9). -/
structure Station where
  sos      : SosSt
  acc      : Nat
  facet    : Nat
  /-- An edge on the index input has been seen and the next accepted SOS edge is facet 0 (R165). -/
  idxEdge  : Bool
  setIn    : Option Nat
  img      : Option Imaging
  slots    : List LineSlot
  alloc    : Nat
  /-- A line-slot claim waiting for the sheet boundary (R433), and slots still to be given back. -/
  allocNew : Option Nat
  giveBack : Nat
  slotShort : Bool
  dlyClamp : Bool
  learnClamp : Bool
  /-- Valid EOS spans since the period began, by facet position: sum and count (R165, R168). -/
  spans    : List (Nat × Nat)
  edges    : Nat
  spanLast : Nat
  spanOk   : Bool
  /-- An EOS edge of this scan has been measured (R162). -/
  eosSeen  : Bool
  /-- The latest pixel-0 delay of the scan in 1/64 pixel (R171). -/
  lastT0   : Nat
  /-- Facet, mask and skew tables, boundary registers, laser limit waiting (SCN_n_PEND). -/
  pend     : Nat
  /-- SOS edges have been accepted since the last loss: the station has a running polygon (R183). -/
  running  : Bool
  /-- Registration offset D and net slip count X (R178 to R180). -/
  d        : Int
  x        : Int
  /-- Sets of the mask table that were eligible at the last decision (R175). -/
  elig     : Nat
  /-- The laser domain has gone to CRIT since the last accepted edge (R332, R345). -/
  hot      : Bool
  /-- The sheet whose scan the loss of SOS ended, until the next accepted edge (R186). -/
  lastTok  : Option Nat
  /-- The station's polygon has lost its rotor and has not come back: SOS counts as lost whatever edges arrive (R314). -/
  held     : Bool
  deriving DecidableEq, Repr

/-- One pixel synthesizer (Table 8.6). -/
structure PixSynth where
  mCur    : Nat
  locked  : Bool
  bypass  : Bool
  mClamp  : Bool
  lfsr    : Nat
  /-- What the delta-sigma modulator works on: M_scan with the dither of its last update added (R194). -/
  dith    : Int
  /-- The output returns from the bypass clock: a sheet boundary has come since the relock (R200). -/
  back    : Bool
  /-- A gain recalibration result waiting for the next SOS edge (R203). -/
  calPend : Bool
  deriving DecidableEq, Repr

/-- The clocks of the die: root lock, pixel synthesizers, auxiliary outputs, compensation (Tables 8.5, 8.6). -/
structure Clocks where
  rootLocked : Bool
  rootLost   : Bool
  pix        : List PixSynth
  /-- The AUXCLK selections in force, SRC and DIV_M1 (R196). -/
  aux        : List (Nat × Nat)
  eRef       : Int
  compHold   : Bool
  calRun     : Bool
  /-- TIME clock count of the last recalibration start. -/
  calAt      : Nat
  deriving DecidableEq, Repr

/-- Beam-link states (Table 9.4). -/
inductive BlSt where
  | off | status | lanes | deskew | align | up | fail
  deriving DecidableEq, Repr

/-- One beam link (Tables 9.6, 9.7). -/
structure BeamLink where
  st       : BlSt
  laneUp   : Nat
  /-- The lanes that a training attempt goes on with after BL_LANES; 0 outside an attempt (Table 9.4). -/
  chosen   : Nat
  retrain  : Nat
  /-- Lanes in retraining (R225): lane and the TIME clock count since which its markers have all been good. -/
  training : List (Nat × Nat)
  statusOk : Bool
  aligned  : Bool
  /-- Status frames of the state counted so far (Table 9.4). -/
  frames   : Nat
  scanSeq  : Nat
  /-- MARKER_FAIL and failure counts of the last status frame, LANE_LOCK of the last frame. -/
  marks    : List Nat
  segFail  : Nat
  hdrFail  : Nat
  lock     : Nat
  /-- The status was lost after having been good (R218). -/
  lostOnce : Bool
  /-- A SEGERR has been raised in this sheet (R223). -/
  segSeen  : Bool
  /-- Marker failures within the 16-interval window, by lane: TIME clock count and increment (R221). -/
  errWin   : List (Nat × Nat × Nat)
  /-- The rest of the sheet is sent as empty frames (R221). -/
  blankRest : Bool
  /-- The laser limit waiting for the sheet boundary and the one in force (R217). -/
  laserLim : Nat
  laserNew : Option Nat
  deriving DecidableEq, Repr

/-- Bridge states (Table 10.3). -/
inductive BrSt where
  | down | train | up | replay | retrain
  deriving DecidableEq, Repr

/-- One virtual channel of the bridge as sender and as receiver (R237, Table 10.8). -/
structure VcState where
  avail   : Nat
  pool    : Nat
  occ     : Nat
  retPend : Nat
  deriving DecidableEq, Repr

/-- A flit (R229, R231): FSEQ, virtual channel, whether it begins and ends a message, whether it is a control flit, the message bytes it
carries, the credits it holds and the credits it returns by virtual channel. `ev`: the EVENT whose message it ends (R236); `mark`: its first
block is that of a time mark (R241). -/
structure SentFlit where
  seq  : Nat
  vc   : Nat
  som  : Bool
  eom  : Bool
  ctl  : Bool
  data : List Byte
  cred : Nat
  ret  : List Nat
  ev   : Option EvMsg
  mark : Bool
  deriving DecidableEq, Repr

/-- A bridge message waiting for its credits (R237). -/
structure BrMsg where
  vc   : Nat
  body : BrBody
  deriving DecidableEq, Repr

/-- The isolation bridge or the on-die path (Tables 10.3, 10.8, 10.9). -/
structure Bridge where
  st        : BrSt
  laneUp    : Nat
  laneOut   : Nat
  vcs       : List VcState
  txSeq     : Nat
  rxSeq     : Nat
  nakSent   : Bool
  /-- The next flit sent requests a replay; an accepted flit is still to be acknowledged (R231). -/
  nakDue    : Bool
  ackDue    : Bool
  /-- The replay buffer, oldest flit first. -/
  buf       : List SentFlit
  /-- Flits of started messages that have not been sent yet. -/
  slots     : List SentFlit
  /-- A replay has started and its flits have not been sent again yet. -/
  resend    : Bool
  /-- Messages waiting to be started, oldest first. -/
  outQ      : List BrMsg
  /-- Message bytes received so far, by virtual channel. -/
  inBuf     : List (List Byte)
  /-- Replays started since ACKSEQ last advanced (R232). -/
  replays   : Nat
  /-- Lanes dropped and not yet back (R235). -/
  dropped   : Nat
  /-- REJOIN and TIME_DIR in force (R434), the end of a deferred rejoin retrain in TIME clocks (R235), and a rejoin retrain under way. -/
  rejoin    : Nat
  timeDir   : Bool
  rejoinDue : Option Nat
  rejoining : Bool
  /-- SKP errors of the last 1 ms (R232): lane, TIME clock count, errors. -/
  skp       : List (Nat × Nat × Nat)
  timeOk    : Bool
  timeGood  : Nat
  /-- The leader's departure stamp of a mark that is still to be answered (R241). -/
  t1        : Option Nat
  /-- The follower's own stamps of the exchange in progress (R241): t2 and t3. -/
  t2        : Option Nat
  t3        : Option Nat
  laneChanged : Bool
  qloss     : Bool
  /-- The peer's identity, PAIR_ID and governing settings as last received (R434). -/
  peer      : Option BridgePeer
  /-- The engine die's plinth and fault state as last reported (BR_FAULT). -/
  peerFault : Nat
  /-- Bands the engine die has asked for, in release order (BR_BAND_REQ). -/
  wanted    : List BandRef
  /-- Host delivery window last received (BR_RATE), bytes and TIME clocks, and the payload rate of the host die's links in MB/s. -/
  hostRate  : Option (Nat × Nat)
  hostLinks : Nat
  deriving DecidableEq, Repr

/-- One retirement in progress (R262, R263). -/
structure Retire where
  ch     : Nat
  region : Nat
  whole  : Bool
  halted : Bool
  deriving DecidableEq, Repr

/-- An entry of a merge buffer (R254, R255): the granule or word address within its unit's byte space and the bytes written. -/
structure MergeEnt where
  unit  : Nat
  addr  : Nat
  bytes : List (Nat × Byte)
  deriving DecidableEq, Repr

/-- One patina entry (Table 11.7). -/
structure Patina where
  addr   : Nat
  loc    : Nat
  ue     : Bool
  src    : Nat
  rep    : Nat
  synd   : Nat
  ns     : Nat
  sec    : Nat
  deriving DecidableEq, Repr

/-- The lap of a scrubber (R258, R259): the next address in its unit and when the lap began. -/
structure Scrub where
  pos  : Nat
  t0   : Nat
  last : Nat
  max  : Nat
  deriving DecidableEq, Repr

/-- The memories and their care (Tables 11.4 to 11.7). -/
structure MemSys where
  /-- Logical DRAM and band SRAM, byte by byte. -/
  dram    : Mem
  sram    : Mem
  /-- Cell bits that have flipped since they were written (R250 to R257): key = unit × 2^40 + beat or word index, value = XOR of
      the stored 40-bit beat or 72-bit word. -/
  upset   : List (Nat × Nat)
  trained : Nat
  failed  : Nat
  retired : Nat
  rmap    : List (List Nat)
  pend    : List Retire
  refused : Bool
  head    : Nat
  tail    : Nat
  /-- The TIME clock of the last overwrite, and that of the last write of the tail with the tail before it (R264). -/
  overAt  : Option Nat
  tailWas : Option (Nat × Nat)
  log     : List Patina
  /-- Corrected errors of each channel in the window, the second it began, and whether it has been raised (R261). -/
  ceWin   : List (Nat × Nat × Bool)
  merge   : List MergeEnt
  scrubs  : List Scrub
  deriving DecidableEq, Repr

/-- DMA channel states (Table 12.4). -/
inductive DmaSt where
  | idle | run | tailWait | halted
  deriving DecidableEq, Repr

/-- A descriptor as read (Table 12.3). -/
structure Desc where
  src  : Nat
  sstr : Nat
  dst  : Nat
  dstr : Nat
  count : Nat
  ctrl : Nat
  deriving DecidableEq, Repr

/-- What the engine sequencer uses a channel for (Table 12.1): a band on its way from the page store to the bridge port and from there into the
band store, a raw band on its way to a chisel, a retirement copy. -/
inductive DmaUse where
  | send (r : BandRef)
  | land (r : BandRef)
  | raw (r : BandRef)
  | copy (ch region : Nat) (whole : Bool)
  deriving DecidableEq, Repr

/-- One DMA channel (Tables 12.7, 12.8). -/
structure DmaCh where
  st      : DmaSt
  cur     : Nat
  desc    : Option Desc
  remain  : Nat
  err     : Nat
  dirW    : Bool
  fail    : Nat
  fetched : Nat
  retired : Nat
  bucket  : Nat
  /-- The descriptor at CUR is complete and its link word has been read: the channel waits at it, or has halted there. -/
  tail    : Bool
  /-- What the engine sequencer moves with it (R265). -/
  use     : Option DmaUse
  deriving DecidableEq, Repr

/-- Step channel states (Table 13.4). -/
inductive StpSt where
  | disabled | idle | moving | stopping | stopped | referencing | faultStop | fault
  deriving DecidableEq, Repr

/-- One constant-jerk piece of a profile: duration in TIME clocks and jerk in steps/s³. -/
structure Seg where
  dur  : Nat
  jerk : Int
  deriving DecidableEq, Repr

/-- One step channel (Tables 13.6, 13.7). The profile in force: its pieces, the position, velocity and acceleration it started with
(Machine/Profile.lean gives the units), the TIME clocks into it, the steps made of it, the step at which it ends, and the clock at
which the next step is due. -/
structure Stepper where
  st       : StpSt
  target   : Int
  actual   : Int
  faultPos : Int
  refd     : Bool
  refused  : Bool
  defer    : Bool
  cause    : Nat
  stallIn  : Bool
  homeIn   : Bool
  segs     : List Seg
  tau      : Nat
  made     : Nat
  goal     : Option Nat
  due      : Nat
  /-- The profile clock of the last step made, at least −400 (R291), and the device clock of the last step of the last move or stop (R302). -/
  stepAt   : Int
  lastAt   : Option Nat
  /-- The enable output is active (R288). -/
  enabled  : Bool
  dirPos   : Bool
  p0       : Int
  v0       : Int
  a0       : Int
  /-- VMAX, AMAX and JMAX in force for the move (R294). -/
  lims     : Nat × Nat × Nat
  /-- Referencing (R300): 0 stall, 1 seek, 2 slowing before the back-off, 3 back-off to an inactive input, 4 the BACKOFF steps, 5
      slowing before the approach, 6 approach, 7 the final stop; steps made in the stage; whether the home method follows. -/
  refStage : Nat
  refSteps : Nat
  refBoth  : Bool
  deriving DecidableEq, Repr

/-- Commutation channel states (Table 14.1). -/
inductive MotSt where
  | off | listen | align | ramp | run | brake | fault
  deriving DecidableEq, Repr

/-- One commutation channel (Tables 14.4, 14.5). -/
structure Motor where
  st       : MotSt
  target   : Int
  /-- Commanded speed on the ramp, and the phase-lock correction, in 1/1,000 rpm. -/
  cmd      : Int
  est      : Int
  duty     : Nat
  integ    : Int
  sector   : Nat
  predicting : Bool
  saturated : Bool
  plocked  : Bool
  revPend  : Bool
  ilimAct  : Bool
  refused  : Bool
  defer    : Bool
  cause    : Nat
  pherr    : Int
  lockRun  : Nat
  unlockRun : Nat
  /-- Consecutive good crossings, crossings heard while listening after a loss, skipped samples, sampled sectors since. -/
  goods    : Nat
  heard    : Nat
  skips    : Nat
  sampled  : Nat
  predSect : Nat
  /-- Electrical periods without a good crossing, and whether one outside INNOV_LIM occurred in them. -/
  badSect  : Nat
  badSeen  : Bool
  /-- Listening after a loss (R313) rather than at a start (R307). -/
  lostL    : Bool
  /-- Last sector time in TIME clocks. -/
  sectT    : Nat
  dirPos   : Bool
  hall     : Nat
  atSpeed  : Bool
  /-- The target was clamped to SPEED_LIM (R310). -/
  clamped  : Bool
  /-- A trip in this PWM period; every period of this electrical period limited so far; a saturation condition in it (R305, R310). -/
  tripped  : Bool
  /-- The clock of the PWM period at which it tripped. -/
  tripAt   : Nat
  limAll   : Bool
  satSeen  : Bool
  /-- Sectors since the electrical period began. -/
  perSect  : Nat
  /-- A forced sample is due (R308), and the DUTY it shortens for one PWM period. -/
  force    : Bool
  dutyWas  : Option Nat
  /-- The floating phase's comparator at the last sample. -/
  bemf     : Bool
  /-- A crossing has been sampled in this sector. -/
  crossed  : Bool
  /-- Commutation by zero crossings under SENSE 2 (R307). -/
  onBemf   : Bool
  deriving DecidableEq, Repr

/-- The bus: VBUS and its guards (Table 14.2). -/
structure Bus where
  vbus    : Nat
  chopOn  : Bool
  ov1     : Bool
  ov2     : Bool
  chopFail : Bool
  /-- VBUS when the chopper turned on. -/
  onV     : Nat
  onSince : Nat
  deriving DecidableEq, Repr

/-- One temperature sensor (Tables 15.1, 15.8, 15.9). -/
structure Sensor where
  temp    : Int
  raw     : Nat
  lowCrit : Bool
  lowWarn : Bool
  hiWarn  : Bool
  hiCrit  : Bool
  broken  : Bool
  why     : Nat
  /-- Good ticks in a row while broken, and 10 ms ticks since the last good digital read. -/
  good    : Nat
  age     : Nat
  deriving DecidableEq, Repr

/-- One thermal domain's ladder (Table 15.9): step in force, computed step, CRIT hold and the running counts in ms. -/
structure Ladder where
  step  : Nat
  tgt   : Nat
  warn  : Bool
  crit  : Bool
  /-- The LIMIT in force, as its step took it from the ladder table (R345: a load during a dwell takes effect at the next step change). -/
  limit : Nat
  /-- A load outside a dwell waits for the engine's sheet boundary (R85). -/
  wait  : Bool
  /-- The running count in ms, and the DWELL or REC_DWELL it runs to as the table gave it when the count began (R329, R345). -/
  ran   : Nat
  dwell : Nat
  deriving DecidableEq, Repr

/-- One heater (R336 to R339): PID output and accumulator in 1/65,536 of full power, `lastT` the error of the last update. -/
structure Heater where
  duty   : Nat
  integ  : Int
  lastT  : Int
  accum  : Nat
  on     : Bool
  pairOk : Bool
  /-- The pair has been valid and has become invalid (R338). -/
  pairLost : Bool
  /-- Feed-forward duty in force, 1/255, and the TIME clock count at which it ends (R339). -/
  ff     : Nat
  ffEnd  : Nat
  setp   : Int
  admitT : Int
  deriving DecidableEq, Repr

/-- One HV channel (R341 to R344). -/
structure HvCh where
  fb     : Nat
  duty   : Nat
  fault  : Bool
  integ  : Int
  /-- The ramp: from, to, length and time passed in µs. -/
  from0  : Nat
  to1    : Nat
  rampUs : Nat
  rampT  : Nat
  now    : Nat
  /-- Time the error has exceeded ERR_LIM, in µs. -/
  errUs  : Nat
  /-- The TIME clock of the last profile switch, in which a host write of TARGET is discarded (R345). -/
  swAt   : Option Nat
  deriving DecidableEq, Repr

/-- Thermal, fuser and high voltage. -/
structure Therm where
  sensors : List Sensor
  ladders : List Ladder
  heaters : List Heater
  hv      : List HvCh
  hvProf  : List Nat
  zcOk    : Bool
  /-- Half-cycle times of the last 16 edges in µs, and valid half-cycles since a loss. -/
  zcHist  : List Nat
  zcGood  : Nat
  fusReady : Bool
  deriving DecidableEq, Repr

/-- Device time and the servo (R346 to R350). Time is held in units of 2^−48 ns. -/
structure Time where
  now     : Nat
  addend  : Nat
  freq    : Int
  latched : Nat
  anchor  : Nat
  anchorSet : Bool
  locked  : Bool
  hold    : Bool
  offset  : Int
  sumO    : Int
  inRun   : Nat
  outRun  : Nat
  /-- The TIME clock of the last capture of each input (R366). -/
  capAt   : List (Option Nat)
  deriving DecidableEq, Repr

/-- A wide or fast compare channel beyond its registers (R351 to R353): LATE, whether the coming firing is late, the fraction carried in
2^−16 ns, and the scan period in use in 1/16 TIME clock (MODE 3). -/
structure Cmp where
  late     : Bool
  lateNext : Bool
  frac     : Nat
  per      : Nat
  deriving DecidableEq, Repr

/-- One PTP port (R355): its state, the exchange in progress and what it has measured. Times in 2^−16 ns. -/
structure PtpPort where
  st     : Nat
  mpd    : Int
  /-- Next sequence numbers of Sync, Announce and Delay_Req. -/
  seqSync : Nat
  seqAnn  : Nat
  seqReq  : Nat
  /-- The Sync received: t1, t2 and correction; a two-step Sync waits for its Follow_Up. -/
  t1     : Option Int
  t2     : Option Int
  corr   : Int
  waitFu : Option Nat
  /-- The Delay_Req sent: its sequence number and t3. -/
  t3     : Option (Nat × Int)
  deriving DecidableEq, Repr

/-- A route entry of an ORDER (Table 16.2). -/
structure RouteEnt where
  id   : Nat
  side : Nat
  refT : Nat
  deriving DecidableEq, Repr

/-- A sheet order (Table 16.2): `pickT` and `refT` in ns of device time. -/
structure Order where
  id    : Nat
  job   : Nat
  page  : Nat
  step  : Nat
  pickT : Nat
  route : List RouteEnt
  deriving DecidableEq, Repr

/-- An order as this package holds it: when it was received, what was answered (`none`: not yet evaluated), whether GO has come. -/
structure HeldOrder where
  order  : Order
  recv   : Nat
  answer : Option Nat
  go     : Bool
  deriving DecidableEq, Repr

/-- An order as the manager has issued it: acknowledgements by package, refusals, whether GO was sent. -/
structure IssuedOrder where
  order   : Order
  acks    : List Nat
  refused : Bool
  go      : Bool
  deriving DecidableEq, Repr

/-- A member of the line as it last announced itself (Table 16.1). -/
structure Member where
  id     : Nat
  glb    : Word
  recv   : Nat
  floor  : Nat
  busy   : Nat
  joined : Bool
  joinReq : Bool
  lost   : Bool
  deriving DecidableEq, Repr

/-- The armature (R359 to R365, Tables 16.6 and 16.7). -/
structure Line where
  state   : Nat
  admitted : Bool
  members : List Member
  lostSet : List Nat
  orders  : List HeldOrder
  issued  : List IssuedOrder
  seen    : List (Nat × Nat)
  seqOut  : Nat
  idNext  : Nat
  /-- The STEP message in force: target step, GAP start and ANCHOR in ns (R362). -/
  stepMsg : Option (Nat × Nat × Nat)
  mgrAt   : Nat
  ports   : List (Bool × Nat)
  draining : Bool
  deriving DecidableEq, Repr

/-- Consumable port states (Table 18.3). -/
inductive CsmSt where
  | empty | ident | auth | ready | commit | failed
  deriving DecidableEq, Repr

/-- One consumable port (Tables 18.3, 18.6). -/
structure CsmPort where
  st        : CsmSt
  present   : Bool
  /-- Consecutive answered and unanswered probes (R397). -/
  yes       : Nat
  no        : Nat
  genuine   : Bool
  cause     : Nat
  serial    : Option (List Byte)
  count     : Nat
  /-- COUNTER of the last reply accepted, from which the next COMMIT counts (Table 18.4). -/
  prev      : Nat
  committed : Nat
  reported  : Nat
  pend      : Nat
  rem       : Nat
  /-- The command frame in progress, the NONCE and UNITS it carries, re-reads and re-sends made. -/
  cmd       : Option Nat
  nonce     : List Byte
  units     : Nat
  reReads   : Nat
  reSends   : Nat
  /-- A failure with causes 1 to 4 stands (R402); an unsent report waits (R406); a commit, and an authentication, is due. -/
  report    : Bool
  due       : Bool
  authDue   : Bool
  deriving DecidableEq, Repr

/-- Consumables: ports, HOLD, and the last counter seen for each SERIAL since RST_N (R400). -/
structure Csm where
  ports : List CsmPort
  hold  : Bool
  seen  : List (List Byte × Nat)
  /-- CONSUMABLE requests with OP 1 whose reply waits for the authentications: header and the ports still running. -/
  asked : List (ReqHdr × List Nat × Bool)
  deriving DecidableEq, Repr

/-- The debug monitor (R408 to R410). -/
structure Monitor where
  unlocked : Bool
  lockout  : Bool
  fails    : Nat
  /-- Failures in a row towards the lockout. -/
  run      : Nat
  challenge : Option (List Byte)
  baud     : Nat
  deriving DecidableEq, Repr

/-- What leaves the die (log entry 3). -/
inductive Out where
  /-- A message to the host: reply, EVENT or STATUS. -/
  | msg (dest : Dest) (type status seq die : Nat) (body : List Byte)
  /-- An MSI-X vector signalled (R392). -/
  | msix (vec : Nat)
  /-- A message written to the D2H ring with its byte offset (R369). -/
  | ring (off : Nat) (bytes : List Byte)
  /-- A message handed to the bridge (Table 10.5). -/
  | bridge (vc : Nat) (body : BrBody)
  /-- A flit sent (R229): 272 bytes. -/
  | flit (bytes : List Byte)
  /-- A bridge retrain or training attempt begins (R233, R234). -/
  | train
  /-- A beam-link frame: station, header and payload (R210 to R213). -/
  | beam (st : Nat) (hdr payload : List Byte)
  /-- A compare pulse: wide or fast, channel, width in TIME clocks. -/
  | pulse (wide : Bool) (ch width : Nat)
  /-- A step pulse: channel and direction. -/
  | step (ch : Nat) (pos : Bool)
  /-- A heater firing: heater and angle in 1/1,000 of a half-cycle. -/
  | heat (h angle us : Nat)
  /-- A command frame to a consumable. -/
  | csm (port : Nat) (frame : List Byte)
  /-- A PTP message out of a port: kind, sequence number, timestamp and correctionField in 2^−16 ns. -/
  | ptp (port kind seq : Nat) (stamp corr : Int) (dom via : Nat)
  /-- An Ouvoth frame out of a line-link port (R360). -/
  | line (port : Nat) (frame : OuvFrame)
  /-- An ARP, neighbour discovery or echo answer on a host port. -/
  | net (port kind : Nat) (body : List Byte)
  /-- A line of monitor text. -/
  | text (s : String)
  /-- The status of a register-command: 0 carried out, else the code of Table 17.4. -/
  | reg (status addr : Nat)
  /-- The pixels of a station's scan that are dropped at the next accepted edge (R171): those due later than this time after their SOS edge, in
  1/64 pixel period. -/
  | cut (st left : Nat)
  /-- Bytes a DMA channel wrote to the bridge VC1 port (Table 12.2). -/
  | port (ch : Nat) (bytes : List Byte)
  /-- The pick output edge (Table 4.3). -/
  | pick (tok : Nat)
  deriving DecidableEq, Repr

/-- The whole die. -/
structure State where
  id      : Die
  otp     : Otp
  /-- The die is held in reset: by RST_N, by brownout, or by both (R415, R427). -/
  inReset : Bool
  rstLow  : Bool
  brown   : Bool
  /-- TIME clocks since RST_N was released. -/
  clk     : Nat
  /-- How many free values the run has taken (the model's own field, log entry 6). -/
  free    : Nat
  /-- The register file by address, and the words still in force for registers whose change waits for a boundary. -/
  regs    : List (Nat × Word)
  held    : List (Nat × Word)
  /-- The table windows by address (shadow copies, and the active copies of tables 0x01 to 0x03), and the bytes still in force
      for tables whose change waits for a boundary. -/
  tab     : Mem
  heldTab : Mem
  adjRegs : List AdjReg
  adjTabs : List AdjTab
  claims  : List Claim
  boot    : Boot
  host    : HostIf
  jobs    : List Job
  sched   : Sched
  codec   : Codec
  stn     : List Station
  clks    : Clocks
  links   : List BeamLink
  brg     : Bridge
  mem     : MemSys
  dma     : List DmaCh
  rr      : List Nat
  stp     : List Stepper
  enc     : List Int
  encPin  : List (Nat × Nat)
  mot     : List Motor
  bus     : Bus
  thm     : Therm
  time    : Time
  wcmp    : List Cmp
  fcmp    : List Cmp
  ptp     : List PtpPort
  line    : Line
  csm     : Csm
  mon     : Monitor
  /-- Capacity of the page store and of the band store in bytes (log entry 8). -/
  pageCap : Nat
  bandCap : Nat
  out     : List Out
  pending : List Instr
  deriving DecidableEq, Repr

/-- Why a step stops: no command of the table makes the machine stop, so there is no reason (safe). -/
inductive Fault where
  deriving DecidableEq, Repr

/-- Why a command has no meaning. -/
inductive Refusal where
  /-- Raised by the arm of a command that has no meaning in this model yet (safe). -/
  | notModelled (mnemonic : String)
  deriving DecidableEq, Repr

/-- A blank token (Table 4.12). -/
def Token.empty : Token :=
  { st := .free, job := 0, page := 0, step := 0, stations := 0, seq := 0, flags := 0, cause := 0, pick := 0, reg := none,
    encReg := [], medium := 0, lines := 0, rate := 0, lead := 0, blank := [0, 0, 0, 0, 0, 0], began := 0, ended := 0,
    dots := [0, 0, 0, 0, 0, 0], order := none, dark := false }

/-- A cast that has not been put into service. -/
def Cast.empty : Cast :=
  { inServ := false, waiting := false, stalled := false, lastErr := 0, errSrc := 0, errBand := (0, 0), out := none,
    check := none, rem := 0 }

/-- A chisel with no band. -/
def Chisel.empty : Chisel :=
  { st := .idle, ref := none, stream := [], emitted := 0, prime := 0, rate := 0, t0 := 0, raw := 0, ctx := 0 }

/-- A station at rest (Tables 7.8 and 7.9). -/
def Station.empty : Station :=
  { sos := .idle, acc := 0, facet := 0, idxEdge := false, setIn := none, img := none, slots := [], alloc := 0,
    allocNew := none, giveBack := 0, slotShort := false, dlyClamp := false, learnClamp := false, spans := [], edges := 0,
    spanLast := 0, spanOk := false, eosSeen := false, lastT0 := 0, pend := 0, running := false, d := 0, x := 0,
    elig := 0, hot := false, lastTok := none, held := false }

/-- A pixel synthesizer before its first lock (Table 8.6). -/
def PixSynth.empty : PixSynth :=
  { mCur := 0, locked := false, bypass := false, mClamp := false, lfsr := 0, dith := 0, back := false, calPend := false }

/-- A beam link in BL_OFF (Table 9.7). -/
def BeamLink.empty : BeamLink :=
  { st := .off, laneUp := 0, chosen := 0, retrain := 0, training := [], statusOk := false, aligned := false, frames := 0, scanSeq := 0,
    marks := [0, 0, 0, 0], segFail := 0, hdrFail := 0, lock := 0, lostOnce := false, segSeen := false,
    errWin := [], blankRest := false, laserLim := 255, laserNew := none }

/-- A virtual channel with its whole pool of credits free (Table 10.4). -/
def VcState.full (pool : Nat) : VcState := { avail := pool, pool := pool, occ := 0, retPend := 0 }

/-- The bridge before training (Tables 10.3, 10.4 and 10.8). -/
def Bridge.empty : Bridge :=
  { st := .down, laneUp := 0, laneOut := 0, vcs := [], txSeq := 0, rxSeq := 0, nakSent := false, nakDue := false, ackDue := false, buf := [], slots := [],
    resend := false, outQ := [],
    inBuf := [[], [], [], []], replays := 0, dropped := 0, rejoin := 0, timeDir := false, rejoinDue := none, rejoining := false, skp := [], timeOk := false, timeGood := 0, t1 := none, t2 := none, t3 := none,
    laneChanged := false, qloss := false, peer := none, peerFault := 0, wanted := [], hostRate := none, hostLinks := 0 }

/-- A DMA channel in IDLE (Table 12.8). -/
def DmaCh.empty : DmaCh :=
  { st := .idle, cur := 0, desc := none, remain := 0, err := 0, dirW := false, fail := 0, fetched := 0, retired := 0,
    bucket := 0, tail := false, use := none }

/-- A disabled step channel at position 0 (Table 13.7). -/
def Stepper.empty : Stepper :=
  { st := .disabled, target := 0, actual := 0, faultPos := 0, refd := false, refused := false, defer := false, cause := 0,
    stallIn := false, homeIn := false, segs := [], tau := 0, made := 0, goal := none, due := 0, stepAt := -400, lastAt := none, enabled := false, dirPos := true, p0 := 0, v0 := 0,
    a0 := 0, lims := (0, 0, 0), refStage := 0, refSteps := 0, refBoth := false }

/-- A commutation channel in MOT_OFF (Table 14.5). -/
def Motor.empty : Motor :=
  { st := .off, target := 0, cmd := 0, est := 0, duty := 0, integ := 0, sector := 0, predicting := false, saturated := false,
    plocked := false, revPend := false, ilimAct := false, refused := false, defer := false, cause := 0, pherr := 0,
    lockRun := 0, unlockRun := 0, goods := 0, heard := 0, skips := 0, sampled := 0, predSect := 0, badSect := 0,
    badSeen := false, lostL := false, sectT := 0, dirPos := true, hall := 0, atSpeed := false,
    clamped := false, tripped := false, tripAt := 0, limAll := true, satSeen := false, perSect := 0, force := false, dutyWas := none, bemf := false,
    crossed := false, onBemf := false }

/-- A sensor with no condition set (Table 15.9). -/
def Sensor.empty : Sensor :=
  { temp := 0, raw := 0, lowCrit := false, lowWarn := false, hiWarn := false, hiCrit := false, broken := false, why := 0,
    good := 0, age := 0 }

/-- A ladder at step 0 with no hold (Table 15.9). -/
def Ladder.empty : Ladder := { step := 0, tgt := 0, warn := false, crit := false, limit := 255, wait := false, ran := 0, dwell := 5000 }

/-- A heater that is off. -/
def Heater.empty : Heater :=
  { duty := 0, integ := 0, lastT := 0, accum := 0, on := false, pairOk := false, pairLost := false, ff := 0, ffEnd := 0, setp := 0, admitT := 0 }

/-- A high-voltage channel that is off. -/
def HvCh.empty : HvCh :=
  { fb := 0, duty := 0, fault := false, integ := 0, from0 := 0, to1 := 0, rampUs := 0, rampT := 0, now := 0, errUs := 0, swAt := none }

/-- A compare channel that is off. -/
def Cmp.empty : Cmp := { late := false, lateNext := false, frac := 0, per := 0 }

/-- A PTP port before any exchange. -/
def PtpPort.empty : PtpPort :=
  { st := 0, mpd := 0, seqSync := 0, seqAnn := 0, seqReq := 0, t1 := none, t2 := none, corr := 0, waitFu := none, t3 := none }

/-- An empty consumable port (Table 18.6). -/
def CsmPort.empty : CsmPort :=
  { st := .empty, present := false, yes := 0, no := 0, genuine := false, cause := 0, serial := none, count := 0,
    prev := 0, committed := 0, reported := 0, pend := 0, rem := 0, cmd := none, nonce := [], units := 0, reReads := 0, reSends := 0,
    report := false, due := false, authDue := false }

/-- The start sequence before RST_N is released (Tables 3.10 to 3.13). -/
def Boot.empty : Boot :=
  { stage := 0, copy := 0, sig := 0, mode := 0, fmtV1 := false, compat5 := false, reason := 0, bootMs := 0, errA := 0,
    errB := 0, flash := none, toTry := [], firstTried := none, cand := none, image := none, conflicts := 0, noRes := 0,
    firstBad := none, step9 := none, peerReady := false, peerPair := none, estopOff := false }

/-- A host link that is down. -/
def LinkState.down : LinkState := { up := false, rate := 0, width := 0 }

/-- A die with RST_N asserted: every register at its reset value (R63, R64, R80), whatever the fuses and OTP hold. -/
def State.cold (id : Die) (otp : Otp) : State :=
  { id := id, otp := otp, inReset := true, rstLow := true, brown := false, clk := 0, free := 0, regs := [], held := [], tab := [], heldTab := [],
    adjRegs := [], adjTabs := [], claims := [], boot := Boot.empty,
    host := { pcie := .down, eth := [.down, .down], retrains := 0, h2d := [], dest := none, helloAt := none, unsent := [], latest := [], kept := [], relayed := [] },
    jobs := [],
    sched := { toks := List.replicate 16 Token.empty, stepCur := 0, target := none, ladder := .running, skipRun := 0, okRun := 0,
               misHold := false, seqNext := 1, longLeft := 0, longTo := 0, admitted := none, brgWin := [], hostWin := [], thermHold := 0 },
    codec := { casts := List.replicate 12 { Cast.empty with inServ := true }, runs := [], aheads := [], wins := [],
               chisels := List.replicate 8 Chisel.empty, rawQ := [], saved := [], ctxMax := 0, inRem := 0, outRem := 0 },
    stn := List.replicate 6 Station.empty,
    clks := { rootLocked := false, rootLost := false, pix := List.replicate 6 PixSynth.empty, aux := [(0, 0), (0, 0)], eRef := 0,
              compHold := false, calRun := false, calAt := 0 },
    links := List.replicate 6 BeamLink.empty, brg := Bridge.empty,
    mem := { dram := [], sram := [], upset := [], trained := 0, failed := 0, retired := 0, rmap := [[], [], [], []], pend := [],
             refused := false, head := 0, tail := 0, overAt := none, tailWas := none, log := [], ceWin := [], merge := [],
             scrubs := List.replicate 21 { pos := 0, t0 := 0, last := 0, max := 0 } },
    dma := List.replicate 64 DmaCh.empty, rr := [63, 63, 63, 63], stp := List.replicate 24 Stepper.empty,
    enc := List.replicate 8 0, encPin := List.replicate 8 (0, 0), mot := List.replicate 12 Motor.empty,
    bus := { vbus := 0, chopOn := false, ov1 := false, ov2 := false, chopFail := false, onV := 0, onSince := 0 },
    thm := { sensors := List.replicate 46 Sensor.empty, ladders := List.replicate 15 Ladder.empty,
             heaters := List.replicate 4 Heater.empty, hv := List.replicate 32 HvCh.empty, hvProf := List.replicate 16 0,
             zcOk := false, zcHist := [], zcGood := 0, fusReady := false },
    time := { now := 0, addend := 5 * 2 ^ 48, freq := 0, latched := 0, anchor := 0, anchorSet := false, locked := false,
              hold := false, offset := 0, sumO := 0, inRun := 0, outRun := 0, capAt := List.replicate 32 none },
    wcmp := List.replicate 32 Cmp.empty, fcmp := List.replicate 8 Cmp.empty,
    ptp := List.replicate 6 PtpPort.empty,
    line := { state := 0, admitted := false, members := [], lostSet := [], orders := [], issued := [], seen := [], seqOut := 0,
              idNext := 0, stepMsg := none, mgrAt := 0, ports := List.replicate 4 (false, 0), draining := false },
    csm := { ports := List.replicate 12 CsmPort.empty, hold := false, seen := [], asked := [] },
    mon := { unlocked := false, lockout := false, fails := 0, run := 0, challenge := none, baud := 115200 },
    pageCap := Config.pageStore, bandCap := Config.bandStore, out := [], pending := [] }

/-- The die the model starts as: an AZ7465, combined, S package, stepping A1, with a blank OTP (DESIGN CHOICE, log entry 1). -/
def State.reset : State :=
  State.cold { variant := 0x65, role := 0, stepLtr := 0, stepDig := 1 }
    { sigHash := none, allowV1 := false, kMaster := none, monLock := false, kDbg := none, mac := [0, 0] }

end Sys2Proof.Machine
end

