-- ==== Sys2Proof/Machine/RegMap.lean ====
section
/-! DEFINITION. The register map (R389, Tables 2.10, 4.8, 6.5, 7.8, 8.5, 9.6, 10.8, 11.4, 12.7, 13.6, 14.4, 15.8, 15.10, 16.4,
16.6, 17.1, 17.10, 17.12, 18.6 and 18.8): for every register that software can change, or that holds a count, its
address, reset value, the bits of each access code, the legal range of its fields and when a change takes effect. -/
namespace Sys2Proof.Machine

/-- The legal range of one field; a value outside it is clamped (R81, R387). -/
structure Lim where
  lo  : Nat
  n   : Nat
  min : Int
  max : Int
  sgn : Bool
  deriving DecidableEq, Repr

/-- An unsigned range. -/
def lim (lo n min max : Nat) : Lim := { lo := lo, n := n, min := min, max := max, sgn := false }

/-- A signed range. -/
def slim (lo n : Nat) (min max : Int) : Lim := { lo := lo, n := n, min := min, max := max, sgn := true }

/-- When a runtime change of a register takes effect: at once, at its station's sheet boundary (R183), at the engine's (R85), or at the
next admission evaluation (R114). -/
inductive Moment where
  | now | station | engine | admission
  deriving DecidableEq, Repr

/-- A row of the map: `n1` registers `s1` bytes apart, each `n2` times `s2` bytes apart. -/
structure RegRow where
  base : Nat
  n1   : Nat
  s1   : Nat
  n2   : Nat
  s2   : Nat
  rst  : Nat
  rw   : Nat
  w1c  : Nat
  wo   : Nat
  rc   : Nat
  rws  : Nat
  cls  : Moment
  lims : List Lim
  deriving DecidableEq, Repr

/-- One register of RW fields. -/
def rw1 (base rst rw : Nat) (cls : Moment) (lims : List Lim) : RegRow :=
  { base, n1 := 1, s1 := 4, n2 := 1, s2 := 4, rst, rw, w1c := 0, wo := 0, rc := 0, rws := 0, cls, lims }

/-- A row of like registers of RW fields. -/
def rwN (base n1 s1 rst rw : Nat) (cls : Moment) (lims : List Lim) : RegRow := { rw1 base rst rw cls lims with n1, s1 }

/-- A row of RC registers. -/
def rcN (base n1 s1 rc : Nat) : RegRow := { rw1 base 0 0 .now [] with n1, s1, rc }

/-- A row of WO registers. -/
def woN (base n1 s1 wo : Nat) : RegRow := { rw1 base 0 0 .now [] with n1, s1, wo }

/-- A row of RO words that hold what was last latched into them. -/
def roN (base n1 s1 rst : Nat) : RegRow := rwN base n1 s1 rst 0 .now []

/-- Base of each block (Table 17.6). -/
def evtB : Nat := 0x10000
def clkB : Nat := 0x20000
def thmB : Nat := 0x30000
def timB : Nat := 0x40000
def lnkB : Nat := 0x50000
def ethB : Nat := 0x60000
def dmaB : Nat := 0x70000
def chsB : Nat := 0x80000
def cstB : Nat := 0x90000
def shtB : Nat := 0xA0000
def scnB : Nat := 0xB0000
def blkB : Nat := 0xC0000
def brgB : Nat := 0xD0000
def memB : Nat := 0xE0000
def stpB : Nat := 0xF0000
def motB : Nat := 0x100000
def hvfB : Nat := 0x110000
def csmB : Nat := 0x120000
def dbgB : Nat := 0x130000
def pinB : Nat := 0x140000
/-- Where the model keeps the BAR0 ring registers, which no block of the base map holds (R5, Table 17.1). -/
def ringB : Nat := 0x100000000

/-- EVT (Table 17.10). -/
def evtRows : List RegRow :=
  [{ roN evtB 8 4 0 with w1c := 0xFFFFFFFF }, rwN (evtB + 0x20) 8 4 0 0xFFFFFFFF .now [],
   roN (evtB + 0x44) 1 4 0, rwN (evtB + 0x400) 256 4 0 0xFF .now [lim 0 2 0 2]]

/-- CLK (Table 8.5). -/
def clkRows : List RegRow :=
  [{ roN (clkB + 0x4) 1 4 0 with rws := 0x3F }, rw1 (clkB + 0x8) 0 0x7F .engine [lim 1 6 0 39], roN (clkB + 0x10) 1 4 0,
   rwN (clkB + 0x20) 2 4 0 0xFF7F .now [lim 3 4 0 7],
   rwN (clkB + 0x100) 6 0x20 0x120 0x3FF .station [lim 1 2 0 2, lim 3 5 2 16],
   rwN (clkB + 0x104) 6 0x20 0x07ED807F 0x0FFFFFFF .station [],
   rwN (clkB + 0x108) 6 0x20 0x0ACE 0xFFFF .station [lim 0 16 1 0xFFFF], rcN (clkB + 0x110) 6 0x20 0xFFFF]

/-- THM (Table 15.8). -/
def thmRows : List RegRow :=
  [rwN (thmB + 0x100) 46 0x20 0x0A140000 0xFFFF01FF .engine [lim 3 3 0 5, lim 6 3 0 5, lim 16 8 1 255, lim 24 8 1 255],
   rwN (thmB + 0x104) 46 0x20 0x10000F6E 0xFFFFFFFF .engine [lim 0 16 1000 10000, lim 16 16 1 65535],
   rwN (thmB + 0x108) 46 0x20 0xFF38FE70 0xFFFFFFFF .engine [slim 0 16 (-500) 3500, slim 16 16 (-500) 3500],
   rwN (thmB + 0x10C) 46 0x20 0x041A03B6 0xFFFFFFFF .engine [slim 0 16 (-500) 3500, slim 16 16 (-500) 3500]]

/-- TIM (Table 16.4). -/
def timRows : List RegRow :=
  [rw1 timB 0xA00 0x3F3F .engine [lim 2 3 0 5, lim 8 6 1 50], rw1 (timB + 0x14) 0 0xFFFFFFFF .now [slim 0 32 (-32768000) 32768000],
   woN (timB + 0x18) 1 4 0xFFFFFFFF, rw1 (timB + 0x1C) 0x0A321040 0xFFFFFFFF .engine [lim 16 8 1 255, lim 24 8 1 255],
   rwN (timB + 0x100) 6 0x20 0x00198000 0x01FFFFFF .engine [slim 13 4 (-7) 4, slim 17 4 (-7) 4, slim 21 4 (-3) 4],
   rwN (timB + 0x104) 6 0x20 0 0xFFFFFFFF .engine [], rwN (timB + 0x108) 6 0x20 0 0xFFFFFFFF .engine [],
   rwN (timB + 0x400) 32 0x10 0x400 0xFFFFFF03 .now [lim 8 8 1 255], rwN (timB + 0x404) 32 0x10 0 0xFFFFFFFF .now [],
   rwN (timB + 0x408) 32 0x10 0 0x3FFFFFFF .now [lim 0 30 0 999999999],
   rwN (timB + 0x40C) 32 0x10 0x3E8 0xFFFFFFFF .now [lim 0 32 1000 0xFFFFFFFF],
   rwN (timB + 0x800) 8 0x10 0x400 0x1FF3B .now [lim 8 8 1 255, lim 3 3 0 5], rwN (timB + 0x804) 8 0x10 0 0xFFFFFFFF .now [],
   rwN (timB + 0x808) 8 0x10 0x3E8 0x7FFFFFFF .now [lim 0 31 1000 0x7FFFFFFF], rwN (timB + 0x80C) 8 0x10 0 0xFFFF .now [],
   rwN (timB + 0xC00) 32 0x10 0 0x3 .now [], roN (timB + 0xC04) 32 0x10 0, roN (timB + 0xC08) 32 0x10 0,
   rcN (timB + 0xC0C) 32 0x10 0xFFFF]

/-- LNK (Table 16.6). -/
def lnkRows : List RegRow :=
  [{ rw1 lnkB 0x100 0xFF03 .engine [lim 0 2 0 2, lim 8 7 1 64] with wo := 0x30000 },
   rw1 (lnkB + 0x4) 0x88B5 0xFFFF .engine [], rcN (lnkB + 0x20) 1 4 0xFFFFFFFF, rcN (lnkB + 0x24) 1 4 0xFFFFFFFF,
   rwN (lnkB + 0x100) 4 0x10 0x5 0x7 .engine [lim 1 2 0 2]]

/-- ETH (Table 17.12). -/
def ethRows : List RegRow :=
  [rwN ethB 2 0x100 0xBEE60038 0xFFFF007F .engine [lim 16 16 1 65535], rwN (ethB + 0x4) 2 0x100 0 0xFFFFFFFF .engine [],
   rwN (ethB + 0x8) 2 0x100 0xFFFF0000 0xFFFFFFFF .engine [], rwN (ethB + 0xC) 2 0x100 0 0xFFFFFFFF .engine [],
   { rwN (ethB + 0x10) 2 0x100 0 0xFFFFFFFF .engine [] with n2 := 4, s2 := 4 },
   rwN (ethB + 0x20) 2 0x100 0x5DC 0x3FFF .engine [lim 0 14 1280 9000], rcN (ethB + 0x28) 2 0x100 0xFFFFFFFF]

/-- DMA (Table 12.7). -/
def dmaRows : List RegRow :=
  [rw1 (dmaB + 0x4) 0 0xFFFFFFFF .engine [], rw1 (dmaB + 0x8) 0 0xFFFF .engine [],
   { rwN (dmaB + 0x100) 64 0x20 0 0xFFFC0 .now [] with wo := 0x3F }, rwN (dmaB + 0x104) 64 0x20 0 0xFFFFFFFF .now []]

/-- CHS (Table 6.5). -/
def chsRows : List RegRow :=
  [rw1 chsB 0x04081608 0x1FFFFFFF .now [lim 0 9 1 256, lim 11 11 3 1026, lim 22 7 2 64], rcN (chsB + 0x8) 1 4 0xFFFFFFFF,
   rcN (chsB + 0xC) 1 4 0xFFFFFFFF]

/-- CST (Table 6.7). -/
def cstRows : List RegRow :=
  [rcN (cstB + 0x10C) 12 0x20 0xFFFFFFFF, rcN (cstB + 0x110) 12 0x20 0xFFFFFFFF, rcN (cstB + 0x114) 12 0x20 0xFFFFFFFF]

/-- SHT (Table 4.8). -/
def shtRows : List RegRow :=
  [{ rw1 shtB 0 0x1F .now [] with wo := 0x20 }, rw1 (shtB + 0x4) 0x0200E628 0x1FFFFF7F .admission [lim 0 7 0 100, lim 16 13 16 4096],
   rw1 (shtB + 0x8) 0x00140003 0x00FF000F .admission [lim 0 4 1 15, lim 16 8 1 255],
   rw1 (shtB + 0xC) 0x3F0A05DC 0xFFFFFFFF .engine [lim 0 16 100 65535, lim 16 8 1 255, lim 24 8 10 255],
   rw1 (shtB + 0x10) 0 0x3F3F .engine [], rw1 (shtB + 0x2C) 0 0xFFFFFFFF .engine [], roN (shtB + 0x30) 1 4 0,
   rcN (shtB + 0x34) 1 4 0xFFFFFFFF, roN (shtB + 0x38) 1 4 0]

/-- SCN (Table 7.8). -/
def scnRows : List RegRow :=
  [rwN scnB 6 0x1000 0x60 0x7FBF .station [lim 0 4 1 12], rwN (scnB + 0x4) 6 0x1000 0x09B27FFF 0x0FFF7FFF .station [lim 16 2 0 2, lim 18 10 100 950],
   rwN (scnB + 0x8) 6 0x1000 0x8 0x3F .engine [lim 0 6 1 63], rwN (scnB + 0xC) 6 0x1000 0x10000 0x3FFFFF .station [],
   rwN (scnB + 0x10) 6 0x1000 0x20220000 0x7FFFFFFF .engine [], rwN (scnB + 0x14) 6 0x1000 0x10 0xFF .engine [],
   rwN (scnB + 0x18) 6 0x1000 0x1D4C 0x1FFF .engine [lim 0 13 1 7500],
   rwN (scnB + 0x1C) 6 0x1000 0 0x73F .station [slim 0 6 (-16) 16],
   rwN (scnB + 0x20) 6 0x1000 0x003060C2 0xFFFFFFFF .station [], rwN (scnB + 0x24) 6 0x1000 0x9 0xF .station [lim 0 4 4 9],
   rcN (scnB + 0x48) 6 0x1000 0xFFFFFFFF, rcN (scnB + 0x4C) 6 0x1000 0xFFFFFFFF,
   { rwN (scnB + 0x100) 6 0x1000 0 0x1FFFF .station [slim 0 17 (-32768) 32768] with n2 := 32, s2 := 4 }]

/-- BLK (Table 9.6). -/
def blkRows : List RegRow :=
  [rwN blkB 6 0x100 0x000A0410 0x00FF1F1F .engine [lim 2 3 1 4, lim 8 5 1 16, lim 16 8 1 255], roN (blkB + 0x8) 6 0x100 0,
   roN (blkB + 0xC) 6 0x100 0, roN (blkB + 0x10) 6 0x100 0, rcN (blkB + 0x14) 6 0x100 0xFFFFFFFF,
   rcN (blkB + 0x18) 6 0x100 0xFFFFFFFF, roN (blkB + 0x1C) 6 0x100 0, roN (blkB + 0x20) 6 0x100 0]

/-- BRG (Table 10.8). -/
def brgRows : List RegRow :=
  [rw1 brgB 0x000A0848 0x01FFFFFF .engine [lim 0 4 1 8, lim 4 4 1 15, lim 8 8 1 255], roN (brgB + 0xC) 1 4 0,
   rcN (brgB + 0x10) 1 4 0xFFFFFFFF, rcN (brgB + 0x14) 1 4 0xFFFF, roN (brgB + 0x18) 1 4 0, rcN (brgB + 0x1C) 1 4 0xFFFFFFFF,
   roN (brgB + 0x20) 1 4 0]

/-- MEM (Table 11.4). -/
def memRows : List RegRow :=
  [rw1 memB 0x45 0xFF .engine [lim 1 3 0 2, lim 4 4 0 4], rw1 (memB + 0x8) 0x221 0x3FF .engine [lim 1 8 4 255],
   rw1 (memB + 0xC) 0x003C0040 0xFFFFFFFF .engine [lim 0 16 1 65535, lim 16 16 1 65535], woN (memB + 0x10) 1 4 0x1FFFFF,
   rw1 (memB + 0x1C) 0 0x3F .now [], rcN (memB + 0x20) 1 4 0xFFFF, rcN (memB + 0x40) 4 0x10 0xFFFFFFFF,
   rcN (memB + 0x100) 17 0x10 0xFFFFFFFF]

/-- STP (Table 13.6). -/
def stpRows : List RegRow :=
  [rwN (stpB + 0x100) 24 0x40 0xC8640000 0xFFFF07FF .engine [lim 0 2 0 1, lim 3 2 0 2, lim 16 8 40 200, lim 24 8 40 255],
   woN (stpB + 0x104) 24 0x40 0x7F, rwN (stpB + 0x108) 24 0x40 0 0xFFFFFFFF .now [],
   rwN (stpB + 0x11C) 24 0x40 0x2710 0xFFFFF .now [lim 0 20 1 500000], rwN (stpB + 0x120) 24 0x40 0x186A0 0xFFFFFF .now [lim 0 24 100 16000000],
   rwN (stpB + 0x124) 24 0x40 0x1E8480 0xFFFFFFFF .now [lim 0 32 1000 4000000000], rwN (stpB + 0x128) 24 0x40 0 0xFFFFFFFF .engine [],
   rwN (stpB + 0x12C) 24 0x40 0x4060C0 0xFFFFFF .engine [], rwN (stpB + 0x130) 24 0x40 0x10 0xFFFF .engine [lim 0 16 1 65535],
   rwN (stpB + 0x134) 24 0x40 0x10000 0xFFFFFFFF .engine []]

/-- MOT (Table 14.4). -/
def motRows : List RegRow :=
  [rw1 motB 0x0D550C72 0x0FFF0FFF .engine [], rw1 (motB + 0x4) 0x00200E39 0x00FF0FFF .engine [],
   { rw1 (motB + 0xC) 0x1 0x1 .engine [] with wo := 0x6 }, rcN (motB + 0x10) 1 4 0xFFF,
   rwN (motB + 0x100) 12 0x40 0x00140808 0x00FF3FFF .engine [lim 0 2 0 2, lim 2 4 1 15, lim 11 2 0 1, lim 16 8 2 255],
   rwN (motB + 0x104) 12 0x40 0x00500FA0 0x00FF3FFF .engine [lim 0 14 2000 10000, lim 16 8 20 255],
   rwN (motB + 0x108) 12 0x40 0 0x3FFFF .now [], rwN (motB + 0x10C) 12 0x40 0x07D0EA60 0xFFFFFFFF .now [lim 0 16 1 60000, lim 16 16 1 65535],
   rwN (motB + 0x110) 12 0x40 0x2880 0xFFFF .engine [lim 8 8 4 255], rwN (motB + 0x114) 12 0x40 0x40 0xFF .engine [lim 0 8 8 192],
   rwN (motB + 0x118) 12 0x40 0x012C0BB8 0xFFFFFFFF .engine [], rwN (motB + 0x11C) 12 0x40 0x03E82064 0xFFFFFFFF .engine [lim 0 8 1 255],
   rwN (motB + 0x120) 12 0x40 0 0xFFFF .engine [], woN (motB + 0x124) 12 0x40 0xF, rcN (motB + 0x138) 12 0x40 0xFFFFFFFF,
   rwN (motB + 0x13C) 12 0x40 0x00080040 0xFFFFFFFF .now []]

/-- HVF (Table 15.10). -/
def hvfRows : List RegRow :=
  [rw1 hvfB 0x6400 0xFFF3 .engine [lim 8 8 10 255],
   rwN (hvfB + 0x20) 4 0x10 0 0xFFFFFFFF .now [],
   rwN (hvfB + 0x100) 32 0x10 0x08000A00 0xFFFFFF1F .engine [lim 8 8 1 255, lim 16 16 1 65535],
   rwN (hvfB + 0x104) 32 0x10 0 0xFFFF .now [], rwN (hvfB + 0x10C) 32 0x10 0x00100100 0xFFFFFFFF .engine []]

/-- CSM (Table 18.6). -/
def csmRows : List RegRow :=
  [rw1 csmB 0 0x1 .engine [], woN (csmB + 0x8) 1 4 0xFFF, rwN (csmB + 0x100) 12 0x40 0x5002 0x7F7F .engine [lim 8 7 0x08 0x77],
   rcN (csmB + 0x120) 12 0x40 0xFFFF]

/-- DBG (Table 18.8). -/
def dbgRows : List RegRow := [{ rw1 dbgB 0 0x1 .now [] with wo := 0x2 }, rcN (dbgB + 0x8) 1 4 0xFFFFFFFF]

/-- PIN (Table 2.10). -/
def pinRows : List RegRow := [rwN pinB 96 4 0x00030000 0xFFFFF .now []]

/-- BAR0 (Table 17.1). -/
def ringRows : List RegRow :=
  [{ rw1 (ringB + 0x8) 0 0xFF1 .now [lim 4 4 0 8, lim 8 4 0 8] with wo := 0x2 }, rw1 (ringB + 0x10) 0 0xFFFF0000 .now [],
   rw1 (ringB + 0x14) 0 0xFFFFFFFF .now [], rw1 (ringB + 0x18) 0 0xFFFF0000 .now [], rw1 (ringB + 0x1C) 0 0xFFFFFFFF .now [],
   rw1 (ringB + 0x20) 0 0xFFFFFFFF .now [], roN (ringB + 0x24) 1 4 0, roN (ringB + 0x28) 1 4 0, rw1 (ringB + 0x2C) 0 0xFFFFFFFF .now [],
   roN (ringB + 0x30) 1 4 0]

/-- The rows of the block an address lies in. -/
def rowsAt (a : Nat) : List RegRow :=
  match a / 0x10000 with
  | 0x1 => evtRows | 0x2 => clkRows | 0x3 => thmRows | 0x4 => timRows | 0x5 => lnkRows | 0x6 => ethRows | 0x7 => dmaRows
  | 0x8 => chsRows | 0x9 => cstRows | 0xA => shtRows | 0xB => scnRows | 0xC => blkRows | 0xD => brgRows | 0xE => memRows
  | 0xF => stpRows | 0x10 => motRows | 0x11 => hvfRows | 0x12 => csmRows | 0x13 => dbgRows | 0x14 => pinRows
  | 0x10000 => ringRows
  | _ => []

/-- A row holds the register at `a`. -/
def RegRow.has (r : RegRow) (a : Nat) : Bool :=
  decide (r.base ≤ a) && decide ((a - r.base) / r.s1 < r.n1) && decide ((a - r.base) % r.s1 / r.s2 < r.n2) &&
    (a - r.base) % r.s1 % r.s2 == 0

/-- The row of the register at `a`, if the map has one. -/
def rowOf (a : Nat) : Option RegRow := (rowsAt a).find? (fun r => r.has a)

/-- The AZ7476 (R40). -/
def Die.p (d : Die) : Bool := d.variant == 0x76

/-- Reset values that differ by variant or index: pixel seeds, DMA priorities, sensors, Ethernet port 0 (Tables 8.5, 9.6, 11.4,
12.7, 15.9, 17.12, 18.6). -/
def resetOf (d : Die) (a : Nat) : Word :=
  match rowOf a with
  | none => 0
  | some r =>
    let i := (a - r.base) / r.s1
    wd (if r.base == clkB + 0x108 then r.rst + 0x1000 * i
        else if r.base == ethB then (if i == 0 then 0xBEE60039 else r.rst)
        else if r.base == dmaB + 0x100 then (if i < 16 then 0 else if 32 ≤ i ∧ i < 48 then 0xC0 else 0x40)
        else if r.base == thmB + 0x100 then
          (if i < 32 then r.rst else if i < 40 then r.rst + 3 + 4 * 8 else r.rst + 4 + 3 * 8 + (i - 40) * 64)
        else if r.base == blkB ∧ d.p then 0x000A040A
        else if r.base == memB ∧ d.p then 0x44
        else if r.base == csmB + 0x100 ∧ d.p then 0x5000
        else r.rst)

end Sys2Proof.Machine
end

