-- ==== Sys2Proof/Machine/Die.lean ====
section
/-! DEFINITION. What each variant and role carries (Tables 0.1, 1.4, 2.2 to 2.4, 2.13, 17.6): unit counts, fuse words,
which units an address or a claim names are present. -/
namespace Sys2Proof.Machine

/-- Units a variant's fuses enable: stations, beams a station, casts, chisels, line-link ports, host-die and engine-die DRAM
channels (Table 0.1). -/
structure Units where
  stations : Nat
  beams    : Nat
  casts    : Nat
  chisels  : Nat
  ll       : Nat
  dramH    : Nat
  dramE    : Nat
  deriving DecidableEq, Repr

/-- Table 0.1. Single-die variants have their channels in `dramE`. -/
def unitsOf (v : Nat) : Units :=
  match v with
  | 0x61 => ⟨1, 16, 2, 2, 2, 0, 2⟩ | 0x62 => ⟨4, 16, 8, 4, 2, 0, 2⟩ | 0x63 => ⟨4, 32, 8, 8, 4, 0, 4⟩
  | 0x64 => ⟨0, 0, 0, 0, 4, 0, 1⟩ | 0x65 => ⟨6, 32, 12, 8, 4, 0, 4⟩ | 0x66 => ⟨6, 32, 12, 8, 4, 0, 4⟩
  | 0x71 => ⟨4, 16, 8, 8, 4, 2, 2⟩ | 0x72 => ⟨4, 32, 8, 8, 4, 4, 4⟩ | 0x73 => ⟨6, 32, 12, 8, 4, 4, 4⟩
  | 0x74 => ⟨6, 32, 12, 8, 4, 4, 4⟩ | 0x75 => ⟨1, 32, 2, 8, 4, 2, 4⟩ | 0x76 => ⟨4, 8, 8, 2, 0, 0, 2⟩
  | _ => ⟨0, 0, 0, 0, 0, 0, 0⟩

/-- Roles (Table 2.2): 0 C, 1 H, 2 E, 3 W. -/
def Die.isH (d : Die) : Bool := d.role == 1
def Die.isE (d : Die) : Bool := d.role == 2
def Die.isW (d : Die) : Bool := d.role == 3
/-- The die has host links, chisels and the page store (Table 1.4). -/
def Die.hostSide (d : Die) : Bool := d.role == 0 || d.role == 1
/-- The die has casts, the scan engine and the beam link (Table 1.4). -/
def Die.engineSide (d : Die) : Bool := d.role == 0 || d.role == 2
/-- The die carries motion functions, tokens and the line link (Table 1.4). -/
def Die.motion (d : Die) : Bool := d.role != 1
/-- A D package (Table 2.5). -/
def Die.dual (d : Die) : Bool := decide (0x71 ≤ d.variant) && decide (d.variant ≤ 0x75)

def Die.units (d : Die) : Units := unitsOf d.variant
def Die.stations (d : Die) : Nat := if d.engineSide then d.units.stations else 0
def Die.beams (d : Die) : Nat := if d.engineSide then d.units.beams else 0
def Die.casts (d : Die) : Nat := if d.engineSide then d.units.casts else 0
def Die.chisels (d : Die) : Nat := if d.hostSide then d.units.chisels else 0
def Die.llPorts (d : Die) : Nat := if d.motion then d.units.ll else 0
def Die.drams (d : Die) : Nat := if d.isH then d.units.dramH else d.units.dramE
def Die.motors (d : Die) : Nat := if d.motion then (if d.p then 8 else 12) else 0
def Die.steppers (d : Die) : Nat := if d.motion then 24 else 0
def Die.hvs (d : Die) : Nat := if d.motion then (if d.p then 16 else 32) else 0
def Die.heaters (d : Die) : Nat := if d.motion then 4 else 0
def Die.ains (d : Die) : Nat := if d.motion then (if d.p then 16 else 32) else 0
def Die.csms (d : Die) : Nat := if d.motion then (if d.p then 8 else 12) else 0
def Die.encs (d : Die) : Nat := if d.motion then (if d.p then 4 else 8) else 0
def Die.pins (d : Die) : Nat := if d.motion then (if d.p then 48 else 96) else 0
def Die.ethPorts (d : Die) : Nat := if d.hostSide then 2 else 0
def Die.pcie (d : Die) : Bool := d.dual && d.isH
/-- Highest host Ethernet rate (Table 2.4): 0 none, 1 10GBASE-R, 2 25GBASE-R. D packages reach 25GBASE-R (Table 1.3). -/
def Die.ethMax (d : Die) : Nat :=
  if d.hostSide then (if d.variant == 0x61 || d.p then 1 else 2) else 0
def Die.gradeI (d : Die) : Bool := d.variant == 0x64 || d.variant == 0x66 || d.variant == 0x74
/-- Highest line rate of a station (R39). -/
def Die.maxLines (d : Die) : Nat := 3750 * d.beams

/-- A mask of `n` ones. -/
def ones (n : Nat) : Nat := 2 ^ n - 1

/-- Package code of GLB_ID (Table 2.2). -/
def Die.pkg (d : Die) : Nat := if d.dual then 1 else if d.p then 2 else 0

/-- GLB_ID (Table 2.2). -/
def Die.glbId (d : Die) : Word :=
  wd (0x746 * 2 ^ 20 + d.variant * 2 ^ 12 + d.role * 2 ^ 10 + d.pkg * 2 ^ 8 + d.stepLtr * 16 + d.stepDig)

/-- GLB_FUSE0.BEAMS (Table 2.3). The host die of a D package has no beams of its own and reads 3, "none" (DEDUCED, log entry 92). -/
def Die.beamsCode (d : Die) : Nat := match d.beams with | 8 => 0 | 16 => 1 | 32 => 2 | _ => 3

/-- GLB_FUSE0 (Table 2.3). -/
def Die.fuse0 (d : Die) : Word :=
  wd (ones d.stations + d.beamsCode * 64 + ones d.casts * 256 + ones d.chisels * 2 ^ 20)

/-- GLB_FUSE1 (Table 2.4). -/
def Die.fuse1 (d : Die) : Word :=
  wd (ones d.drams + b2n (!d.p) * 16 + ones d.llPorts * 32 + d.ethMax * 512 + b2n d.pcie * 2048 + b2n d.gradeI * 4096
      + b2n d.p * 8192 + b2n d.dual * 16384)

/-- Sensor `k` exists on this die (R321, R57). -/
def Die.sensor (d : Die) (k : Nat) : Bool :=
  if d.motion then (decide (k < d.ains) || (decide (32 ≤ k) && decide (k < 40)) || (decide (40 ≤ k) && decide (k < 40 + d.stations)))
  else decide (32 ≤ k) && decide (k < 40)

/-- PTP port `p` exists: host Ethernet port `p`, or line-link port `p` − 2 (R355). -/
def Die.ptpPort (d : Die) (p : Nat) : Bool := if p < 2 then decide (p < d.ethPorts) else decide (p - 2 < d.llPorts)

/-- The auxiliary clock outputs are bonded (Tables 2.7 and 2.13): on the dies that have the pixel clocks, but for the AZ7476. -/
def Die.auxClk (d : Die) : Bool := d.engineSide && !d.p

/-- The register at `a` belongs to a unit this die has (R10, R389). -/
def Die.present (d : Die) (a : Nat) : Bool :=
  let o := a % 0x10000
  match a / 0x10000 with
  | 0x0 | 0x1 | 0xD | 0xE | 0x13 => true
  | 0x2 =>
    if 0x100 ≤ o then decide ((o - 0x100) / 0x20 < d.stations) else if o = 4 then d.stations != 0
    else if o = 0x20 ∨ o = 0x24 then d.auxClk else true
  | 0x4 => if 0x100 ≤ o ∧ o < 0x1C0 then d.ptpPort ((o - 0x100) / 0x20) else true
  | 0x3 => if 0x100 ≤ o then d.sensor ((o - 0x100) / 0x20) else true
  | 0x5 => d.llPorts != 0 && (if 0x100 ≤ o then decide ((o - 0x100) / 0x10 < d.llPorts) else true)
  | 0x6 => d.hostSide && (if o == 0x800 then d.pcie else true)
  | 0x7 => true
  | 0x8 => d.hostSide && (if 0x10 ≤ o then decide ((o - 0x10) / 0x10 < d.chisels) else true)
  | 0x9 => d.engineSide && (if 0x100 ≤ o then decide ((o - 0x100) / 0x20 < d.casts) else true)
  | 0xA => d.motion
  | 0xB => decide (o / 0x1000 < d.stations)
  | 0xC => decide (o / 0x100 < d.stations)
  | 0xF => d.motion
  | 0x10 => d.motion && (if 0x100 ≤ o then decide ((o - 0x100) / 0x40 < d.motors) else true)
  | 0x11 => d.motion && (if 0x100 ≤ o then decide ((o - 0x100) / 0x10 < d.hvs) else true)
  | 0x12 => d.motion && (if 0x100 ≤ o then decide ((o - 0x100) / 0x40 < d.csms) else true)
  | 0x14 => d.motion && (if o < 0x180 then decide (o / 4 < d.pins) else true)
  | 0x10000 => d.pcie
  | _ => false

end Sys2Proof.Machine
end

