-- ==== Sys2Proof/Machine/Ops.lean ====
section
/-! DEFINITION. The named operations over the register file, device time, events, outputs and free values that every
meaning shares. -/
namespace Sys2Proof.Machine

/-- The answer of every meaning: the machine goes on. -/
abbrev Ans := Host.Outcome State Fault Refusal

/-- A register word as software reads it back, before any read effect. -/
def State.reg (s : State) (a : Nat) : Word := (look s.regs a).getD (resetOf s.id a)

/-- The word in force in the unit: the old one while a change waits for its boundary (R85, R183). -/
def State.act (s : State) (a : Nat) : Word := (look s.held a).getD (s.reg a)

/-- A register word stored. -/
def State.setReg (s : State) (a : Nat) (w : Word) : State := { s with regs := put s.regs a (resetOf s.id a) w }

/-- A word stored that takes effect at the next boundary: the word in force is held. -/
def State.setLater (s : State) (a : Nat) (w : Word) : State :=
  { s with regs := put s.regs a (resetOf s.id a) w, held := ins s.held a (s.act a) }

/-- The held words that satisfy `p` give way to what has been written. -/
def State.release (s : State) (p : Nat → Bool) : State := { s with held := s.held.filter (fun e => !p e.1) }

/-- A field of a register in force. -/
def State.f (s : State) (a lo n : Nat) : Nat := fld (s.act a) lo n

/-- A flag of a register in force. -/
def State.flag (s : State) (a i : Nat) : Bool := bitOf (s.act a) i

/-- A signed field of a register in force. -/
def State.sf (s : State) (a lo n : Nat) : Int := sfld (s.act a) lo n

/-- A field of a stored register replaced. -/
def State.setF (s : State) (a lo n v : Nat) : State := s.setReg a (setFld (s.reg a) lo n v)

/-- `k` added to a count field, saturating (the RC counts of every chapter). -/
def State.bump (s : State) (a lo n k : Nat) : State := s.setF a lo n (satN n (fld (s.reg a) lo n + k))

/-- An output appended. -/
def State.emit (s : State) (o : Out) : State := { s with out := s.out ++ [o] }

/-- A fresh free value (log entry 6). -/
def State.freeVal (s : State) : Nat := Config.freeValue s.free

/-- One free value has been taken. -/
def State.tookFree (s : State) : State := { s with free := s.free + 1 }

/-- One second in ns. -/
def secNs : Nat := 1000000000

/-- Device time in ns (R346); the model holds it in 2^−48 ns. -/
def State.ns (s : State) : Nat := s.time.now / 2 ^ 48

/-- COMPAT5 is on (R40, R87). -/
def State.compat5 (s : State) : Bool := s.id.p || s.boot.compat5

/-- Ethernet port `p` is enabled and up (Table 17.12). -/
def State.ethUp (s : State) (p : Nat) : Bool := (s.host.eth.getD p .down).up && s.flag (ethB + 0x100 * p) 0

/-- READY has been raised (R66). -/
def State.ready (s : State) : Bool := s.boot.mode != 0

/-- The register words of the event block (Table 17.10). -/
def evFlagA (n : Nat) : Nat := evtB + 4 * (n / 32)
def evEnA (n : Nat) : Nat := evtB + 0x20 + 4 * (n / 32)
def evSrcA (n : Nat) : Nat := evtB + 0x400 + 4 * n

/-- Event `n` is flagged, enabled; its route. -/
def State.evFlag (s : State) (n : Nat) : Bool := bitOf (s.reg (evFlagA n)) (n % 32)
def State.evEn (s : State) (n : Nat) : Bool := bitOf (s.reg (evEnA n)) (n % 32)
def State.evRoute (s : State) (n : Nat) : Nat := fld (s.reg (evSrcA n)) 0 2

/-- A message of source `n` is queued, or the one still unsent is updated (R392). -/
def queueEv (l : List EvMsg) (m : EvMsg) : List EvMsg :=
  if l.any (fun x => x.src == m.src && x.die == m.die && x.pkg == m.pkg) then
    l.map (fun x => if x.src == m.src && x.die == m.die && x.pkg == m.pkg then m else x)
  else l ++ [m]

/-- A message of this die's source `n` (Table 17.9). -/
def State.evMsg (s : State) (n detail : Nat) (extra : List Byte) : EvMsg :=
  { src := n, detail := detail, ns := s.ns % secNs, sec := s.ns / secNs, pkg := 0, extra := extra, count := none,
    die := if s.id.isE then 1 else 0, seq := 0 }

/-- Queue a host message of source `n` where its enable and route send one (R392). -/
def State.sendEv (s : State) (n : Nat) (m : EvMsg) : State :=
  if s.evEn n && s.evRoute n != 1 then
    let late := s.id.isE && (s.brg.st == .down || s.brg.st == .train) && s.host.unsent.any (fun x => x.src == n && x.pkg == 0)
    let s1 : State := { s with host := { s.host with unsent := queueEv s.host.unsent m } }
    if late then ({ s1 with brg := { s1.brg with qloss := true } } : State).bump (brgB + 0x1C) 16 16 1 else s1
  else s

/-- One occurrence of event `n`: flag, COUNT and message (R391, R392). -/
def State.occur (s : State) (n detail : Nat) (extra : List Byte) : State :=
  let s1 := s.setF (evFlagA n) (n % 32) 1 1
  let s2 := s1.setF (evSrcA n) 16 16 (fld (s1.reg (evSrcA n)) 16 16 + 1)
  let m := s.evMsg n detail extra
  ({ s2 with host := { s2.host with latest := queueEv s2.host.latest m } } : State).sendEv n m

/-- One occurrence of event `n` with EXTRA bytes; the first update of a held message since the link went down raises BRG_QLOSS (R236). -/
def State.raiseX (s : State) (n detail : Nat) (extra : List Byte) : State :=
  let s1 := s.occur n detail extra
  if s1.brg.qloss && !s.brg.qloss then s1.occur 207 n [] else s1

/-- One occurrence of event `n`. -/
def State.raise (s : State) (n detail : Nat) : State := s.raiseX n detail []

/-- `raise` where a condition holds. -/
def State.raiseIf (s : State) (c : Bool) (n detail : Nat) : State := if c then s.raise n detail else s

/-- INT_N asserted (R393). -/
def State.int (s : State) : Bool := (upTo 256).any (fun n => s.evFlag n && s.evEn n && s.evRoute n != 0)

/-- Apply `f` for every number of a list, in order. -/
def State.each (s : State) (l : List Nat) (f : State → Nat → State) : State := l.foldl f s

/-- Typed parts changed in place. -/
def State.modTok (s : State) (t : Nat) (f : Token → Token) : State :=
  { s with sched := { s.sched with toks := updAt s.sched.toks t f } }
def State.modStn (s : State) (n : Nat) (f : Station → Station) : State := { s with stn := updAt s.stn n f }
def State.modLink (s : State) (n : Nat) (f : BeamLink → BeamLink) : State := { s with links := updAt s.links n f }
def State.modPix (s : State) (n : Nat) (f : PixSynth → PixSynth) : State :=
  { s with clks := { s.clks with pix := updAt s.clks.pix n f } }
def State.modCast (s : State) (n : Nat) (f : Cast → Cast) : State :=
  { s with codec := { s.codec with casts := updAt s.codec.casts n f } }
def State.modChs (s : State) (n : Nat) (f : Chisel → Chisel) : State :=
  { s with codec := { s.codec with chisels := updAt s.codec.chisels n f } }
def State.modDma (s : State) (n : Nat) (f : DmaCh → DmaCh) : State := { s with dma := updAt s.dma n f }
def State.modStp (s : State) (n : Nat) (f : Stepper → Stepper) : State := { s with stp := updAt s.stp n f }
def State.modMot (s : State) (n : Nat) (f : Motor → Motor) : State := { s with mot := updAt s.mot n f }
def State.modSens (s : State) (k : Nat) (f : Sensor → Sensor) : State :=
  { s with thm := { s.thm with sensors := updAt s.thm.sensors k f } }
def State.modLad (s : State) (d : Nat) (f : Ladder → Ladder) : State :=
  { s with thm := { s.thm with ladders := updAt s.thm.ladders d f } }
def State.modHeat (s : State) (h : Nat) (f : Heater → Heater) : State :=
  { s with thm := { s.thm with heaters := updAt s.thm.heaters h f } }
def State.modHv (s : State) (c : Nat) (f : HvCh → HvCh) : State := { s with thm := { s.thm with hv := updAt s.thm.hv c f } }
def State.modPtp (s : State) (p : Nat) (f : PtpPort → PtpPort) : State := { s with ptp := updAt s.ptp p f }
def State.modCsm (s : State) (p : Nat) (f : CsmPort → CsmPort) : State :=
  { s with csm := { s.csm with ports := updAt s.csm.ports p f } }

/-- Typed parts read; a default stands for an index past the end. -/
def State.tok (s : State) (t : Nat) : Token := s.sched.toks.getD t Token.empty
def State.st (s : State) (n : Nat) : Station := s.stn.getD n Station.empty
def State.lk (s : State) (n : Nat) : BeamLink := s.links.getD n BeamLink.empty
def State.px (s : State) (n : Nat) : PixSynth := s.clks.pix.getD n PixSynth.empty
def State.cast (s : State) (n : Nat) : Cast := s.codec.casts.getD n Cast.empty
def State.chs (s : State) (n : Nat) : Chisel := s.codec.chisels.getD n Chisel.empty
def State.dm (s : State) (n : Nat) : DmaCh := s.dma.getD n DmaCh.empty
def State.sp (s : State) (n : Nat) : Stepper := s.stp.getD n Stepper.empty
def State.mt (s : State) (n : Nat) : Motor := s.mot.getD n Motor.empty
def State.sens (s : State) (k : Nat) : Sensor := s.thm.sensors.getD k Sensor.empty
def State.lad (s : State) (d : Nat) : Ladder := s.thm.ladders.getD d Ladder.empty
def State.heat (s : State) (h : Nat) : Heater := s.thm.heaters.getD h Heater.empty
def State.hvc (s : State) (c : Nat) : HvCh := s.thm.hv.getD c HvCh.empty
def State.pt (s : State) (p : Nat) : PtpPort := s.ptp.getD p PtpPort.empty
def State.cp (s : State) (p : Nat) : CsmPort := s.csm.ports.getD p CsmPort.empty

/-- A sheet token is in PICKED to EXITING (Table 4.11). -/
def Token.busy (t : Token) : Bool := t.st != .free && t.st != .done

/-- The tokens in flight. -/
def State.inFlight (s : State) : List Nat := (upTo 16).filter (fun t => (s.tok t).busy)

/-- Some sheet is in flight. -/
def State.flying (s : State) : Bool := s.sched.toks.any Token.busy

/-- The claim on a resource, if one is held (R82). -/
def State.claim (s : State) (cls i : Nat) : Option Claim := s.claims.find? (fun c => c.cls == cls && c.index == i)

/-- Owner kind of a claimed channel: 0 station, 1 transport, 2 fuser, 3 HV, 4 consumables, 5 thermal (Table 3.7). -/
def State.owner (s : State) (cls i : Nat) : Option Nat := (s.claim cls i).map (fun c => c.owner % 256)

/-- Owner index of a claimed channel. -/
def Claim.ownIx (c : Claim) : Nat := c.owner / 256 % 256

/-- Status codes (Table 17.4). -/
def sOk : Nat := 0
def sBadType : Nat := 1
def sNotAdj : Nat := 2
def sConflict : Nat := 3
def sNoRes : Nat := 4
def sBusy : Nat := 5
def sBadState : Nat := 6
def sCheck : Nat := 7
def sAuth : Nat := 8
def sMotion : Nat := 9

/-- A register command is answered: its status and the register it went to. -/
def State.answer (a : Nat) (r : State × Nat) : State := r.1.emit (.reg r.2 a)

/-- A pool pin is claimed for function `f` with INDEX `i` (Table 2.12); a class 0x01 owner word is the PIN_SEL value. -/
def State.pinFor (s : State) (f i : Nat) : Bool :=
  s.claims.any (fun c => c.cls == 1 && c.owner % 256 == f && c.owner / 256 % 64 == i)

/-- A 32-bit signed count after a change. -/
def wrap32 (v : Int) : Int := sext 32 (wrapN 32 v)

end Sys2Proof.Machine
end

