-- ==== Sys2Proof/Machine/Tables.lean ====
section
/-! DEFINITION. The tables that TABLE_LOAD and SET write (Table 3.14) and their windows: where their bytes live, the legal
values of their fields (R81), and the copies in force (R183, R85, R430). -/
namespace Sys2Proof.Machine

/-- Number of instances of a table on this die (Table 3.14). -/
def Die.tabInsts (d : Die) (t : Nat) : Nat :=
  if d.isH then 0
  else match t with
    | 1 | 2 | 3 => d.stations
    | 4 | 8 | 9 => 1
    | 5 => d.steppers
    | 6 => 15
    | 7 => 16
    | 10 => 1
    | _ => 0

/-- Bytes of one instance of a table (Table 3.14). -/
def tabSize (t : Nat) : Nat :=
  match t with
  | 1 => 96 | 2 => 0x9000 | 3 => 64 | 4 => 128 | 5 => 24 | 6 => 16 | 7 => 1280 | 8 => 128 | 9 => 512 | 10 => 128 | _ => 0

/-- Window address of the shadow copy of an instance; the active copy is 0x1_0000 above (chapter 7). -/
def winBase (t i : Nat) : Nat := 0x01000000 + t * 2 ^ 22 + i * 2 ^ 17

/-- What a window byte reads while nothing has been loaded there: LIMIT 255 of a thermal ladder (R328), 0 elsewhere. -/
def tabDef (a : Nat) : Byte := if winBase 6 0 ≤ a ∧ a < winBase 7 0 ∧ a % 2 ^ 16 < 8 then 255 else 0

/-- One byte of the table store. -/
def State.tabByte (s : State) (a : Nat) : Byte := (look s.tab a).getD (tabDef a)

/-- One byte written into the table store. -/
def setTab (m : Mem) (a : Nat) (b : Byte) : Mem := put m a (tabDef a) b

/-- Tables whose changes wait for the station's sheet boundary, with shadow and active copies (R183). -/
def stationTab (t : Nat) : Bool := t == 1 || t == 2 || t == 3

/-- Tables whose changes wait for the engine's sheet boundary (R85). A thermal ladder has its own rule (`ladLoad`). -/
def engineTab (t : Nat) : Bool := t == 4 || t == 5 || t == 7 || t == 8 || t == 9 || t == 10

/-- A byte of the copy in force of table `t`, instance `i`. -/
def State.tabActByte (s : State) (t i off : Nat) : Byte :=
  if stationTab t then s.tabByte (winBase t i + 0x10000 + off)
  else (look s.heldTab (winBase t i + off)).getD (s.tabByte (winBase t i + off))

/-- `n` bytes in force, as a little-endian number. -/
def State.tabAct (s : State) (t i off : Nat) : Nat → Nat
  | 0 => 0
  | n + 1 => (s.tabActByte t i off).toNat + 256 * s.tabAct t i (off + 1) n

/-- A table field: its byte offset in an entry, its bytes, the writable bits and the legal ranges. -/
structure TabFld where
  off  : Nat
  len  : Nat
  mask : Nat
  lims : List Lim
  deriving DecidableEq, Repr

/-- Entries of one kind within an instance: where they start, how many, how far apart, and their fields. -/
structure TabPart where
  base : Nat
  cnt  : Nat
  step : Nat
  flds : List TabFld
  deriving DecidableEq, Repr

/-- The fields of each table (Tables 4.2, 4.5, 7.2 to 7.5, 8.3, 13.3, 15.3, 15.5, 15.6; R172). -/
def tabParts (t : Nat) : List TabPart :=
  match t with
  | 1 => [{ base := 0, cnt := 12, step := 8,
            flds := [⟨0, 4, 0x1FFF, [slim 0 13 (-2048) 2048]⟩, ⟨4, 4, 0x7FFFF, [slim 0 19 (-200000) 200000]⟩] }]
  | 2 => [{ base := 0, cnt := 8, step := 16, flds := [⟨0, 4, 0x3F3FFF3F, [lim 8 8 1 64]⟩, ⟨4, 4, 0, []⟩, ⟨8, 4, 0, []⟩, ⟨12, 4, 0, []⟩] },
          { base := 0x80, cnt := 240, step := 2, flds := [⟨0, 2, 0xFFFF, []⟩] },
          { base := 0x260, cnt := 872, step := 4, flds := [⟨0, 4, 0, []⟩] },
          { base := 0x1000, cnt := 16384, step := 2, flds := [⟨0, 2, 0x0FFF, []⟩] }]
  | 3 => [{ base := 0, cnt := 64, step := 1, flds := [⟨0, 1, 0xFF, [slim 0 8 (-8) 7]⟩] }]
  | 4 => [{ base := 0, cnt := 8, step := 16,
            flds := [⟨0, 4, 0xFFFFFFFF, []⟩, ⟨4, 4, 0xFFFFFFFF, [lim 0 32 10000 10000000]⟩, ⟨8, 2, 0xFFFF, [lim 0 16 0 5000]⟩,
                     ⟨10, 2, 0, []⟩, ⟨12, 4, 0, []⟩] }]
  | 5 => [{ base := 0, cnt := 1, step := 24,
            flds := [⟨0, 4, 0xFFFFFFFF, [lim 0 32 100 16000000]⟩, ⟨4, 4, 0xFFFFFFFF, [lim 0 32 1000 4000000000]⟩,
                     ⟨8, 4, 0xFFFFFFFF, [lim 0 32 1 500000]⟩, ⟨12, 4, 0xFFFFFFFF, [lim 0 32 1 500000]⟩,
                     ⟨16, 4, 0xFFFFFFFF, [lim 0 32 0 65535]⟩, ⟨20, 4, 0xFFFFFFFF, [lim 0 32 1 0x7FFFFFFF]⟩] }]
  | 6 => [{ base := 0, cnt := 1, step := 16,
            flds := [⟨8, 2, 0xFFFF, [lim 0 16 0 60000]⟩, ⟨10, 2, 0xFFFF, [lim 0 16 0 60000]⟩, ⟨12, 4, 0, []⟩] }]
  | 7 => [{ base := 0, cnt := 16, step := 0x50, flds := [⟨0, 4, 0xFFFFFFFF, [lim 0 32 0 1000000]⟩, ⟨4, 12, 0, []⟩] }]
  | 8 => [{ base := 0, cnt := 4, step := 32,
            flds := [⟨0, 1, 0xFF, [lim 0 8 0 39]⟩, ⟨1, 1, 0xFF, [lim 0 8 0 39]⟩, ⟨2, 2, 0xFFFF, [lim 0 16 1 1000]⟩, ⟨11, 1, 0, []⟩,
                     ⟨12, 2, 0xFFFF, [lim 0 16 0 5000]⟩, ⟨14, 18, 0, []⟩] }]
  | 9 => [{ base := 0, cnt := 64, step := 8,
            flds := [⟨0, 4, 0xFFFFFFFF, [slim 0 32 (-1000000) 4000000]⟩, ⟨4, 4, 0xFFFFBFFF, [lim 0 8 0 6]⟩] }]
  | 10 => [{ base := 0, cnt := 16, step := 8,
             flds := [⟨0, 4, 0xFFFF, [slim 0 16 (-500) 1500]⟩, ⟨4, 4, 0x3FFFF, [slim 0 18 (-100000) 100000]⟩] }]
  | _ => []

/-- One field of a word clamped to its range (R81). -/
def clampLim (v : Nat) (l : Lim) : Nat :=
  let f := v / 2 ^ l.lo % 2 ^ l.n
  let x : Int := if l.sgn then sext l.n f else (f : Int)
  let y := wrapN l.n (clampI l.min l.max x)
  v - f * 2 ^ l.lo + y * 2 ^ l.lo

/-- A word with its unwritable bits 0 and each field in range. -/
def clampWord (mask : Nat) (ls : List Lim) (v : Nat) : Nat := ls.foldl clampLim (Nat.land v mask)

/-- The little-endian number of `n` stored bytes at a window address. -/
def State.tabLe (s : State) (a : Nat) : Nat → Nat
  | 0 => 0
  | n + 1 => (s.tabByte a).toNat + 256 * s.tabLe (a + 1) n

/-- Bytes stored at a window address. -/
def State.putTab (s : State) (a : Nat) : List Byte → State
  | [] => s
  | b :: bs => ({ s with tab := setTab s.tab a b }).putTab (a + 1) bs

/-- The fields of table `t` that a write of bytes `lo` to `hi` − 1 of an instance touches, by offset. -/
def touched (t lo hi : Nat) : List (Nat × TabFld) :=
  (tabParts t).flatMap (fun p =>
    let k0 := (lo - p.base) / p.step
    let k1 := if hi ≤ p.base then 0 else (hi - p.base + p.step - 1) / p.step
    (upTo (Nat.min k1 p.cnt - k0)).flatMap (fun k =>
      (p.flds.map (fun f => (p.base + (k0 + k) * p.step + f.off, f))).filter (fun e => decide (e.1 < hi) && decide (lo < e.1 + e.2.len))))

/-- Every touched field of an instance clamped (R81). -/
def State.clampTab (s : State) (t i lo hi : Nat) : State :=
  (touched t lo hi).foldl (fun s e =>
    s.putTab (winBase t i + e.1) (leBytes e.2.len (clampWord e.2.mask e.2.lims (s.tabLe (winBase t i + e.1) e.2.len)))) s

/-- SLIP_PHASE clamped to PHASES_M1 of each set (Table 7.4). -/
def State.clampSlip (s : State) (i : Nat) : State :=
  s.each (upTo 8) (fun s m =>
    let a := winBase 2 i + 16 * m
    let w := s.tabLe a 4
    let ph := w % 64
    let sl := w / 2 ^ 24 % 64
    if ph < sl then s.putTab (a + 3) [BitVec.ofNat 8 ph] else s)

/-- The ladder's LINE_RATE limits, from step 0 on, and a GAP of 1 to 49 raised to 50 (Table 4.5, R39). Table 0.1 gives the AZ7464 no
maximum line rate ("–"), so its ladder has none (DEDUCED, log entry 91). -/
def State.clampLadder (s : State) : State :=
  s.each (upTo 8) (fun s k =>
    let a := winBase 4 0 + 16 * k
    let r := s.tabLe a 4
    let top := if s.id.maxLines = 0 then r else Nat.min r s.id.maxLines
    let prev := if k = 0 then 0 else s.tabLe (a - 16) 4
    let r' := if k ≠ 0 ∧ prev ≠ 0 ∧ prev ≤ top then prev - 1 else top
    let g := s.tabLe (a + 8) 2
    let g' := if 0 < g ∧ g < 50 then 50 else g
    let s1 := if r' = r then s else s.putTab a (leBytes 4 r')
    if g' = g then s1 else s1.putTab (a + 8) (leBytes 2 g'))

/-- LIMIT never above the step before it; DWELL and REC_DWELL of 1 to 49 raised to 50 (Table 15.3). -/
def State.clampTherm (s : State) (i : Nat) : State :=
  let a := winBase 6 i
  let s1 := s.each (upTo 7) (fun s k =>
    if (s.tabByte (a + k)).toNat < (s.tabByte (a + k + 1)).toNat then s.putTab (a + k + 1) [s.tabByte (a + k)] else s)
  s1.each [8, 10] (fun s o =>
    let d := s.tabLe (a + o) 2
    if 0 < d ∧ d < 50 then s.putTab (a + o) (leBytes 2 50) else s)

/-- INDEX and ARG of sheet events, by action (Table 4.2): the station, the HV group or the wide compare channel; the profile. -/
def State.clampEvents (s : State) : State :=
  s.each (upTo 64) (fun s k =>
    let a := winBase 9 0 + 8 * k + 4
    let w := s.tabLe a 4
    let act := w % 256
    let ix := w / 256 % 64
    let arg := w / 65536
    let ix' := if act = 1 then Nat.min ix (s.id.stations - 1) else if act = 2 then Nat.min ix 15 else if act = 5 then Nat.min ix 31 else ix
    let arg' := if act = 2 then Nat.min arg 15 else 0
    if ix' = ix ∧ arg' = arg then s else s.putTab a (leBytes 4 (act + ix' * 256 + w / 2 ^ 15 % 2 * 2 ^ 15 + arg' * 65536)))

/-- The entries of a list whose key lies in [`lo`, `lo` + `n`). -/
def keysIn {α : Type} (l : List (Nat × α)) (lo n : Nat) : List (Nat × α) :=
  l.filter (fun e => decide (lo ≤ e.1) && decide (e.1 < lo + n))

/-- The shadow copy of a station's table made its active copy. -/
def State.applyTab (s : State) (t i : Nat) : State :=
  let b := winBase t i
  let kept := s.tab.filter (fun e => !(decide (b + 0x10000 ≤ e.1) && decide (e.1 < b + 0x20000)))
  { s with tab := (keysIn s.tab b 0x10000).foldl (fun m e => setTab m (e.1 + 0x10000) e.2) kept }

/-- Bytes of instance `i` of table `t` written from `off` on, as far as the instance reaches (R430), fields clamped (R81). -/
def State.loadTab (s : State) (t i off : Nat) (data : List Byte) : State :=
  let n := tabSize t
  let d := data.take (n - off)
  if s.id.tabInsts t ≤ i ∨ d.isEmpty then s
  else
    let s1 := (s.putTab (winBase t i + off) d).clampTab t i off (off + d.length)
    match t with
    | 2 => if off < 0x80 then s1.clampSlip i else s1
    | 4 => s1.clampLadder
    | 6 => s1.clampTherm i
    | 9 => s1.clampEvents
    | _ => s1

/-- The bytes of an instance that are in force are held, so that a change waits for the engine's sheet boundary (R85). -/
def State.holdTab (s : State) (t i : Nat) : State :=
  let b := winBase t i
  if s.heldTab.any (fun e => decide (b ≤ e.1) && decide (e.1 < b + 0x20000)) then s
  else { s with heldTab := s.heldTab ++ (upTo (tabSize t)).map (fun k => (b + k, s.tabByte (b + k))) }

/-- LIMIT of step `st` of a thermal ladder (Table 15.3). -/
def State.ladLimit (s : State) (d st : Nat) : Nat := s.tabAct 6 d st 1

/-- The LIMIT in force of ladder `d` follows its instance; a station's laser limit waits for that station's sheet boundary (R217, Table 15.4). -/
def State.ladRefresh (s : State) (d : Nat) : State :=
  if 8 ≤ d ∧ d ≤ 13 then
    let v := s.ladLimit d (s.lad d).tgt
    if v = (s.lad d).limit then s
    else (s.modLad d (fun (l : Ladder) => { l with limit := v })).modLink (d - 8) (fun (l : BeamLink) => { l with laserNew := some v })
  else s.modLad d (fun (l : Ladder) => { l with limit := s.ladLimit d l.step, wait := false })

/-- A dwell of ladder `d` is running: its domain is in WARN or CRIT hold, or below full power (R329, R331). -/
def State.inDwell (s : State) (d : Nat) : Bool := (s.lad d).warn || (s.lad d).crit || (s.lad d).tgt != 0

/-- Thermal ladder `d` has been loaded at runtime: during a dwell the load takes effect at the next step change (R345); otherwise a laser
limit goes to its station's boundary (R183), and any other waits for the engine's while a sheet is in flight (R85). -/
def State.ladLoad (s : State) (d : Nat) : State :=
  if s.inDwell d then s
  else if s.flying && !(decide (8 ≤ d) && decide (d ≤ 13)) then s.modLad d (fun (l : Ladder) => { l with wait := true })
  else s.ladRefresh d

/-- A table change at runtime (R386): the shadow copy of a station's table waits for that station's boundary, a laser ladder's limit for
its station's, and any other table's change for the engine's, with a sheet in flight (R85, R183). -/
def State.setTabRun (s : State) (t i off : Nat) (data : List Byte) : State :=
  if t == 6 then (s.loadTab t i off data).ladLoad i
  else if engineTab t && s.flying then (s.holdTab t i).loadTab t i off data
  else if stationTab t then
    let s1 := s.loadTab t i off data
    if i < s.id.stations ∧ off < tabSize t ∧ data ≠ [] then s1.modStn i (fun x => { x with pend := Nat.lor x.pend (2 ^ (t - 1)) }) else s1
  else s.loadTab t i off data

/-- TIM_Pp registers, and the role of a PTP port. -/
def ptpA (p o : Nat) : Nat := timB + 0x100 + 0x20 * p + o
def State.ptpRole (s : State) (p : Nat) : Nat := s.f (ptpA p 0) 0 2

/-- The state a port takes when its role is written: 0 DISABLED, 1 MASTER, 2 LISTENING, 3 PASSIVE (Table 16.5). How a slave port passes
from LISTENING to SLAVE the spec does not say: UNCALIBRATED at the first Announce, SLAVE at the first offset (DESIGN CHOICE, log entry 42). -/
def ptpStart (role : Nat) : Nat := match role with | 0 => 0 | 1 => 2 | 2 => 1 | _ => 3

/-- A port whose role was `old` takes up its role. -/
def State.ptpRoleSet (s : State) (p old : Nat) : State :=
  if s.ptpRole p = old then s
  else
    let s1 := s.raiseIf ((s.pt p).st == 6) 38 p
    s1.modPtp p (fun (x : PtpPort) => { PtpPort.empty with st := ptpStart (s.ptpRole p), mpd := x.mpd })

/-- The engine's sheet boundary: every held register and table byte of the engine class gives way (R85). -/
def State.engineBoundary (s : State) : State :=
  if s.flying then s
  else
    let s1 := s.release (fun a => match rowOf a with | some r => r.cls == .engine | none => false)
    let s2 := ({ s1 with heldTab := [] } : State).each (upTo 15) (fun x d => if (x.lad d).wait then x.ladRefresh d else x)
    s2.each (upTo 6) (fun x p => x.ptpRoleSet p (s.ptpRole p))

/-- The steps of the speed ladder in use (R106). -/
def State.ladRate (s : State) (k : Nat) : Nat := s.tabAct 4 0 (16 * k) 4
def State.ladPitch (s : State) (k : Nat) : Nat := s.tabAct 4 0 (16 * k + 4) 4
/-- GAP in ms; 0 reads as 400 (Table 4.5). -/
def State.ladGap (s : State) (k : Nat) : Nat :=
  let g := s.tabAct 4 0 (16 * k + 8) 2
  if g = 0 then 400 else g

/-- Number of ladder steps in use: those before the first LINE_RATE of 0 (R106). -/
def State.ladSteps (s : State) : Nat := ((upTo 8).map s.ladRate).findIdx (· == 0)

end Sys2Proof.Machine
end

