-- ==== Sys2Proof/Machine/Flags.lean ====
section
/-! DEFINITION. The flags a sheet in flight carries and the fate each fault gives it (R112, R113, Tables 4.6 and 4.12). -/
namespace Sys2Proof.Machine

/-- Bits of SHT_TOKn_FLAGS (Table 4.12). -/
def fLate : Nat := 0
def fScale : Nat := 1
def fBeam : Nat := 2
def fCheck : Nat := 3
def fWaste : Nat := 4
def fMisfeed : Nat := 5
def fLost : Nat := 6

/-- STATE of a token (Table 4.12). -/
def tokState : TokSt → Nat
  | .free => 0 | .picked => 1 | .registered => 2 | .imaging => 3 | .fusing => 4 | .exiting => 5 | .done => 6

/-- A token changes; a change of its state gives a line of the monitor's trace where DBG_CTRL.TRACE is 1 (R409): SEQ, state, device time. -/
def State.moveTok (s : State) (t : Nat) (f : Token → Token) : State :=
  let s1 := s.modTok t f
  let x := s1.tok t
  if x.st != (s.tok t).st && s.flag dbgB 0 then
    s1.emit (.text (Nat.repr x.seq ++ " " ++ Nat.repr (tokState x.st) ++ " " ++ Nat.repr (s.ns / secNs) ++ "." ++ Nat.repr (s.ns % secNs)))
  else s1

/-- A flag is set on a sheet; the first setting raises event `ev` where one is given. -/
def State.flagTok (s : State) (t bit : Nat) (ev : Option Nat) : State :=
  if natBit (s.tok t).flags bit then s
  else
    let s1 := s.modTok t (fun k => { k with flags := k.flags + 2 ^ bit })
    match ev with
    | some e => s1.raise e t
    | none => s1

/-- The first waste cause of a sheet is kept (Table 4.12). -/
def State.causeTok (s : State) (t c : Nat) : State := s.modTok t (fun k => if k.cause = 0 then { k with cause := c } else k)

/-- A sheet becomes waste with a cause of Table 4.6; SHT_WASTE is raised the first time (R113). -/
def State.wasteTok (s : State) (t c : Nat) : State :=
  if (s.tok t).busy then (s.causeTok t c).flagTok t fWaste (some 144) else s

/-- Every sheet in flight is waste, and every station blanks for it from the next scan (Table 4.6). -/
def State.wasteAll (s : State) (c : Nat) : State :=
  s.each s.inFlight (fun s t => (s.wasteTok t c).modTok t (fun k => { k with dark := true }))

/-- Every sheet in flight is waste; imaging continues (HV fault, Table 4.6). -/
def State.wasteAllSeen (s : State) (c : Nat) : State := s.each s.inFlight (fun s t => s.wasteTok t c)

/-- The sheet a station images, if it images one. -/
def State.imgTok (s : State) (n : Nat) : Option Nat := (s.st n).img.map (·.tok)

/-- The station sends code 0 for the rest of its sheet, which is waste with cause `c`; the other stations continue. -/
def State.blankStation (s : State) (n c : Nat) : State :=
  match (s.st n).img with
  | none => s
  | some g => (s.wasteTok g.tok c).modStn n (fun x => { x with img := some { g with dead := true } })

/-- SHT_CTRL.PICK_EN is cleared by the engine sequencer (R299, R314, R344). -/
def State.pickOff (s : State) : State := s.setF shtB 0 1 0

end Sys2Proof.Machine
end

