-- ==== Sys2Proof/Machine/Patina.lean ====
section
/-! DEFINITION. The patina log (R260, R261): what every reader of a memory does with a corrected or an uncorrectable word (R253). -/
namespace Sys2Proof.Machine

/-- The tail that an entry made in this clock meets: the one before a write of the same clock (R264). -/
def State.patTail0 (s : State) : Nat :=
  match s.mem.tailWas with | some (c, t) => if c = s.clk then t else s.mem.tail | none => s.mem.tail

/-- A patina entry is written at the head (R260, R261). An overwrite wins over a write of the tail in the same clock (R264). -/
def State.patina (s : State) (e : Patina) : State :=
  let h := s.mem.head
  let lg := if h < s.mem.log.length then updAt s.mem.log h (fun _ => e) else s.mem.log ++ [e]
  let nh := (h + 1) % 64
  let full := nh == s.patTail0
  let first := s.f (memB + 0x20) 0 16 == 0
  let s1 : State := { s with mem := { s.mem with log := lg, head := nh, tail := if full then (s.patTail0 + 1) % 64 else s.mem.tail,
                                                 overAt := if full then some s.clk else s.mem.overAt } }
  let s2 := s1.raise (if e.ue then 209 else 208) e.loc
  if full then (s2.bump (memB + 0x20) 0 16 1).raiseIf first 210 0 else s2

/-- A corrected error of channel `ch` counts towards MEM_CE_THR (R261). -/
def State.ceCount (s : State) (ch : Nat) : State :=
  let sec := s.clk / 200000000
  let w := s.mem.ceWin.getD ch (0, sec, false)
  let fresh := decide (s.f (memB + 0xC) 16 16 ≤ sec - w.2.1)
  let n := if fresh then 1 else w.1 + 1
  let hit := decide (s.f (memB + 0xC) 0 16 ≤ n) && (fresh || !w.2.2)
  let pad := s.mem.ceWin ++ List.replicate (4 - s.mem.ceWin.length) (0, sec, false)
  let ws := updAt pad ch (fun _ => (n, if fresh then sec else w.2.1, if fresh then hit else w.2.2 || hit))
  let s1 : State := { s with mem := { s.mem with ceWin := ws } }
  s1.raiseIf hit 214 ch

/-- The error count register of a unit (Table 11.4). -/
def memErrA (unit : Nat) : Nat := if unit < 16 then memB + 0x40 + 0x10 * unit else memB + 0x100 + 0x10 * (unit - 16)

/-- A CORRECTED or UNCORRECTABLE result is counted and logged (R253, R260). `addr` in 4-byte units; `src` 0 access, 1 scrub, 2 merge flush. -/
def State.memErr (s : State) (unit addr : Nat) (ue : Bool) (src synd : Nat) : State :=
  let s1 := s.bump (memErrA unit) (if ue then 16 else 0) 16 1
  let s2 := if unit < 4 && !ue then s1.ceCount unit else s1
  let last := (s2.mem.head + 63) % 64
  let same := !ue && (match s2.mem.log[last]? with
    | some p => p.addr == addr && p.loc == unit && p.synd == synd && !p.ue
    | none => false)
  if same then { s2 with mem := { s2.mem with log := updAt s2.mem.log last (fun (p : Patina) => { p with rep := satN 16 (p.rep + 1) }) } }
  else s2.patina { addr := addr, loc := unit, ue := ue, src := src, rep := 0, synd := synd, ns := s2.ns % secNs, sec := s2.ns / secNs % 4 }

/-- The errors a reader of a coded memory met, in order (R253). -/
def State.memHits (s : State) (l : List MemHit) : State := l.foldl (fun s (h : MemHit) => s.memErr h.unit h.addr h.ue 0 h.synd) s

/-- A unit memory of a cast or chisel has an uncorrectable word (Table 11.3): the entry names no address the spec gives, nor a syndrome (free
values); these memories have no error register. -/
def State.unitMemBad (s : State) : State :=
  let a := s.freeVal
  let y := s.tookFree.freeVal
  s.tookFree.tookFree.patina { addr := a % 2 ^ 32, loc := 33, ue := true, src := 0, rep := 0, synd := y % 256, ns := s.ns % secNs, sec := s.ns / secNs % 4 }

/-- The bytes of a stream as they are read with damaged words in it: an uncorrectable word reads as its cells stand (R282). -/
def readThrough (l : List Byte) (hits : List MemHit) : List Byte :=
  (hits.filter (·.ue)).foldl (fun (x : List Byte) (h : MemHit) => (x.take h.off ++ h.data ++ x.drop (h.off + h.data.length)).take x.length) l

end Sys2Proof.Machine
end

