-- ==== Sys2Proof/Machine/Sequencer.lean ====
section
/-! DEFINITION. The DMA channels of the engine sequencer (R265, Table 12.1). Its descriptors lie where it places them, which the spec leaves open:
their addresses are free values (log entry 108). The data it moves is held with its bands. -/
namespace Sys2Proof.Machine

/-- DMA register of channel `n` at offset `o`. -/
def dmaA (n o : Nat) : Nat := dmaB + 0x100 + 0x20 * n + o

/-- The channel of sixteen from `base` that the sequencer takes next: the lowest-numbered one that is idle or waits at its tail, else the
lowest-numbered one that has halted. -/
def State.seqFree (s : State) (base : Nat) : Option Nat :=
  let l := (upTo 16).map (· + base)
  match l.find? (fun n => (s.dm n).st == .idle || (s.dm n).st == .tailWait) with
  | some n => some n
  | none => l.find? (fun n => (s.dm n).st == .halted)

/-- A descriptor of `len` bytes starts on channel `n`: by START at a new head, or after the tail at which the channel waits (R273, R274). -/
def State.seqStart (s : State) (n : Nat) (u : DmaUse) (len : Nat) : State :=
  let a := s.freeVal % 2 ^ 32
  let tail := (s.dm n).st == .tailWait
  let s1 := if tail then s.tookFree else s.tookFree.setReg (dmaA n 4) (wd a)
  s1.modDma n (fun (c : DmaCh) =>
    { c with st := .run, cur := a * 32, desc := none, remain := len % 2 ^ 24, err := 0, use := some u,
             fetched := if tail then (c.fetched + 1) % 65536 else 1, retired := if tail then c.retired else 0 })

/-- The sequencer starts a transfer on one of the channels from `base` on; with all of them busy it waits. -/
def State.seqTake (s : State) (base : Nat) (u : DmaUse) (len : Nat) : State :=
  match s.seqFree base with | some n => s.seqStart n u len | none => s

/-- `k` more bytes of a transfer have been moved. -/
def State.seqMoved (s : State) (u : DmaUse) (k : Nat) : State :=
  { s with dma := s.dma.map (fun (c : DmaCh) => if c.use == some u then { c with remain := c.remain - k } else c) }

/-- A transfer is complete (R271): its descriptor is written back and the channel waits at the tail. -/
def State.seqDone (s : State) (u : DmaUse) : State :=
  { s with dma := s.dma.map (fun (c : DmaCh) =>
      if c.use == some u then { c with st := .tailWait, remain := 0, use := none, retired := (c.retired + 1) % 65536 } else c) }

/-- A transfer is given up: its channel is stopped. -/
def State.seqDrop (s : State) (u : DmaUse) : State :=
  { s with dma := s.dma.map (fun (c : DmaCh) => if c.use == some u then { c with st := .idle, remain := 0, use := none, fetched := c.retired } else c) }

end Sys2Proof.Machine
end

