-- ==== Sys2Proof/Machine/Bands.lean ====
section
/-! DEFINITION. Pages, planes and bands (R91 to R95, R379 to R381, R431, R435): the page store and band store, residency, the
order in which bands move, and the measured rates. -/
namespace Sys2Proof.Machine

/-- FABRIC clocks since RST_N was released. -/
def State.fab (s : State) : Nat := 2 * s.clk

def State.job? (s : State) (j : Nat) : Option Job := s.jobs.find? (fun x => x.id == j)
def Job.page? (j : Job) (p : Nat) : Option Page := j.pages.find? (fun x => x.page == p)
def State.page? (s : State) (j p : Nat) : Option Page := (s.job? j).bind (fun x => x.page? p)
def Page.plane? (p : Page) (k : Nat) : Option Plane := p.planes.find? (fun x => x.station == k)
def Plane.band? (p : Plane) (b : Nat) : Option Band := p.bands.find? (fun x => x.idx == b)
def State.plane? (s : State) (j p k : Nat) : Option Plane := (s.page? j p).bind (fun x => x.plane? k)
def State.band? (s : State) (r : BandRef) : Option Band := (s.plane? r.job r.page r.plane).bind (fun x => x.band? r.band)

def State.modJob (s : State) (j : Nat) (f : Job → Job) : State :=
  { s with jobs := s.jobs.map (fun x => if x.id == j then f x else x) }
def Job.modPage (x : Job) (p : Nat) (f : Page → Page) : Job :=
  { x with pages := x.pages.map (fun y => if y.page == p then f y else y) }
def State.modPage (s : State) (j p : Nat) (f : Page → Page) : State := s.modJob j (fun x => x.modPage p f)
def Page.modPlane (x : Page) (k : Nat) (f : Plane → Plane) : Page :=
  { x with planes := x.planes.map (fun y => if y.station == k then f y else y) }
def Plane.modBand (x : Plane) (b : Nat) (f : Band → Band) : Plane :=
  { x with bands := x.bands.map (fun y => if y.idx == b then f y else y) }
def State.modBand (s : State) (r : BandRef) (f : Band → Band) : State :=
  s.modPage r.job r.page (fun p => p.modPlane r.plane (fun q => q.modBand r.band f))

/-- The bands of a page as references, plane by plane and in band order (R92). -/
def Page.refs (p : Page) (job : Nat) : List BandRef :=
  p.planes.flatMap (fun q => q.bands.map (fun b => ⟨job, p.page, q.station, b.idx⟩))

def Page.allBands (p : Page) : List Band := p.planes.flatMap (·.bands)

/-- Raw size of a band. -/
def Band.rawLen (b : Band) (pitch : Nat) : Nat := b.lines * pitch

/-- Delivered bytes of a band (R435): its compressed length, or its raw size where it is sent as BAND_RAW. -/
def Band.delivered (b : Band) (pitch : Nat) : Nat := if b.compLen = 0 then b.rawLen pitch else b.compLen

/-- Bytes a band has to move over the bridge (R435): the compressed length once known, the raw size of an ABSENT BAND_RAW band. -/
def Band.moveLen (b : Band) (pitch : Nat) : Nat :=
  if b.compLen ≠ 0 then b.compLen else if b.stream.isEmpty then b.rawLen pitch else b.stream.length

def Res.code : Res → Nat
  | .absent => 0 | .inPageStore => 1 | .inTransit => 2 | .resident => 3 | .decoded => 4 | .printed => 5

def Res.ofCode : Nat → Res
  | 1 => .inPageStore | 2 => .inTransit | 3 => .resident | 4 => .decoded | 5 => .printed | _ => .absent

/-- A band-store copy of the band exists. -/
def Res.held (r : Res) : Bool := decide (3 ≤ r.code)

/-- Bytes of the page store in use: parts received, streams and raw staging. -/
def State.pageUsed (s : State) : Nat :=
  sumN (s.jobs.flatMap (fun j => j.pages.flatMap (fun p => p.allBands.map (fun b => b.got.length + b.stream.length + b.raw.length))))

/-- Bytes of the band store in use, moves in progress included. -/
def State.bandUsed (s : State) : Nat :=
  sumN (s.jobs.flatMap (fun j => j.pages.flatMap (fun p => p.planes.flatMap (fun q =>
    q.bands.map (fun b => if b.res == .inTransit then b.moveLen q.pitch else if b.res.held then b.stream.length else 0)))))

/-- A message is handed to the bridge, or to the on-die path of a single-die package (R21, R237, R243); a worker die has no second role. -/
def State.toBridge (s : State) (vc : Nat) (m : BrBody) : State :=
  if s.id.isW then s else { s with brg := { s.brg with outQ := s.brg.outQ ++ [{ vc := vc, body := m }] } }

/-- A residency transition, reported to the other die of a D package (BR_RESIDENCY, Table 10.5). -/
def State.setRes (s : State) (r : BandRef) (x : Res) : State :=
  (s.modBand r (fun b => { b with res := x })).toBridge 0 (.residency r x.code)

/-- Check-ahead passes that have come to their end make room for those of the next sheet of the page, from its first band on (R154). -/
def State.freshAhead (s : State) (r : BandRef) : State :=
  if r.band ≠ 0 then s
  else { s with codec := { s.codec with
    aheads := s.codec.aheads.filter (fun (a : Ahead) => a.on || !(a.job == r.job && a.page == r.page && a.station == r.plane)) } }

/-- A PRINTED band whose page another admitted sheet prints is RESIDENT for it, with its check-ahead still to do (Table 4.1, R137). -/
def State.reuse (s : State) (r : BandRef) : State :=
  match s.band? r with
  | some b => if b.res == .printed then ((s.modBand r (fun b => { b with ahead := 0 })).setRes r .resident).freshAhead r else s
  | none => s

/-- A sheet admitted after the one of token `t`, or admitted now, prints this page (Table 4.1). -/
def State.wantedAfter (s : State) (t j p : Nat) : Bool :=
  (upTo 16).any (fun u => u != t && (s.tok u).busy && (s.tok u).job == j && (s.tok u).page == p &&
    (decide ((s.tok t).pick < (s.tok u).pick) || !(s.tok t).busy)) ||
  (match s.sched.admitted with | some a => a.job == j && a.page == p | none => false)

/-- A token of this page is in flight, or the page is admitted (R95). -/
def State.pageUsedBy (s : State) (j p : Nat) : Bool :=
  s.sched.toks.any (fun t => t.busy && t.job == j && t.page == p) ||
  (match s.sched.admitted with | some a => a.job == j && a.page == p | none => false)

/-- A job that is closed and whose pages are all released gives its slot back (R379). -/
def State.endJobs (s : State) : State :=
  { s with jobs := s.jobs.filter (fun j => !(j.closed && j.pages.all (·.released))) }

/-- Output decoding of a plane has begun or its page is over: a run exists, or its band 0 has been decoded (R432). -/
def State.begun (s : State) (j p k : Nat) : Bool :=
  s.codec.runs.any (fun r => r.job == j && r.page == p && r.station == k && r.next != 0) ||
  (match s.band? ⟨j, p, k, 0⟩ with | some b => b.res == .decoded || b.res == .printed | none => true)

/-- Some page not yet released carries plane `k`'s history from page `p` of job `j` and has not begun to decode it (R134, R432); while its
description goes on, plane `k` may still come. -/
def State.wantsWin (s : State) (j p k : Nat) : Bool :=
  match s.job? j with
  | none => false
  | some x => x.pages.any (fun q => q.carry && q.source == some p && !q.released &&
      (match q.plane? k with | some _ => !s.begun j q.page k | none => !q.complete))

/-- The page a job's next new page would carry from (R134): the last one in its pick order. -/
def Job.nextSource (j : Job) : Option Nat := ((j.pages.filter (fun (x : Page) => x.picked || !x.relAsked)).getLast?).map (·.page)

/-- A page still to be described could carry from page `p` of job `j` (R134). -/
def State.maySource (s : State) (j p : Nat) : Bool :=
  match s.job? j with
  | none => false
  | some x => !x.closed && x.nextSource == some p

/-- Kept windows that no page waits for, and none still to come can carry, are dropped (R134, R432). -/
def State.sweepWins (s : State) : State :=
  { s with codec := { s.codec with
      wins := s.codec.wins.filter (fun (w : KeptWin) => s.wantsWin w.job w.page w.station || s.maySource w.job w.page) } }

/-- The raw bytes of the last band of plane `k` are still to prime the chisel of a carrying page's first band (R140). -/
def State.wantsRaw (s : State) (j p k : Nat) : Bool :=
  match s.job? j with
  | none => false
  | some x => x.pages.any (fun q => q.carry && q.source == some p && !q.released &&
      (match q.plane? k with
       | some pl => (match pl.band? 0 with | some b => b.compLen == 0 && b.hist.isNone | none => true)
       | none => !q.complete))

/-- Raw bytes of a band stay in raw staging until its own stream is finished and the chisel of its successor has primed (R140): the next band
of the plane, or after the last one the first band of a page that carries its history. -/
def State.keepsRaw (s : State) (j : Nat) (p : Page) (q : Plane) (b : Band) : Bool :=
  (!p.released && b.stream.isEmpty) ||
  (match q.band? (b.idx + 1) with
   | some n => n.compLen == 0 && n.hist.isNone
   | none => !p.complete || s.wantsRaw j p.page q.station || s.maySource j p.page)

/-- Raw bytes nobody needs any more leave raw staging (R140). -/
def State.sweepRaw (s : State) : State :=
  { s with jobs := s.jobs.map (fun (j : Job) => { j with pages := j.pages.map (fun (p : Page) =>
      { p with planes := p.planes.map (fun (q : Plane) => { q with bands := q.bands.map (fun (b : Band) =>
          if b.raw.isEmpty || s.keepsRaw j.id p q b then b else { b with raw := [] }) }) }) }) }

/-- PAGE_RELEASE takes effect (R95): every band is ABSENT and nothing of it stays stored; windows kept for the page are dropped
(R432). -/
def State.releaseEffect (s : State) (j p : Nat) : State :=
  let s1 := s.modPage j p (fun x =>
    { x with released := true,
             planes := x.planes.map (fun q => { q with bands := q.bands.map (fun b =>
               { b with res := .absent, got := [], stream := [], moved := 0, ahead := 0, hist := some [],
                        raw := if b.idx + 1 == q.bands.length && (s.wantsRaw j p q.station || s.maySource j p) then b.raw else [] }) }) })
  let s2 := { s1 with codec := { s1.codec with
    rawQ := s1.codec.rawQ.filter (fun (r : BandRef) => !(r.job == j && r.page == p)),
    chisels := s1.codec.chisels.map (fun (c : Chisel) =>
      match c.ref with
      | some r => if r.job == j && r.page == p then { c with st := (if c.st == ChsSt.out then ChsSt.out else ChsSt.idle), ref := none } else c
      | none => c),
    saved := s1.codec.saved.filter (fun (c : SavedCtx) => !(c.ref.job == j && c.ref.page == p)),
    aheads := s1.codec.aheads.filter (fun (a : Ahead) => !(a.job == j && a.page == p)) } }
  s2.sweepWins.sweepRaw.endJobs

/-- Releases that have been asked for and are no longer in use take effect (R95). -/
def State.dueReleases (s : State) : State :=
  let due := s.jobs.flatMap (fun j => (j.pages.filter (fun p => p.relAsked && !p.released && !s.pageUsedBy j.id p.page)).map
    (fun p => (j.id, p.page)))
  due.foldl (fun s e => s.releaseEffect e.1 e.2) s

/-- The pages not yet picked, in the order in which they will be picked, across jobs (R91). -/
def State.pickOrder (s : State) : List (Nat × Page) :=
  s.jobs.flatMap (fun j => (j.pages.filter (fun p => !p.picked && !p.relAsked && !p.released)).map (fun p => (j.id, p)))

/-- One entry of the sheet-event table in force (Table 4.2). -/
structure SheetEv where
  pos  : Int
  act  : Nat
  idx  : Nat
  tail : Bool
  arg  : Nat
  deriving DecidableEq, Repr

def State.sheetEv (s : State) (i : Nat) : SheetEv :=
  let w := s.tabAct 9 0 (8 * i + 4) 4
  { pos := sext 32 (s.tabAct 9 0 (8 * i) 4), act := w % 256, idx := w / 256 % 64, tail := natBit w 15, arg := w / 65536 }

/-- Time in ns to travel `um` µm at `f` lines/s (R97): v = f × 127/12 µm/s. -/
def travelNs (f : Nat) (um : Int) : Int := if f = 0 then 0 else um * 12 * 1000000000 / ((127 * f : Nat) : Int)

/-- Distance of an entry for a medium of `m` tenths of a mm: tail-edge events add the medium length (R98). -/
def SheetEv.dist (e : SheetEv) (m : Nat) : Int := e.pos + (if e.tail then (100 * m : Nat) else 0)

/-- Distance of station `k`'s image start from registration: its first entry of ACTION 0x01 (R99). -/
def State.imgDist (s : State) (k m : Nat) : Option Int :=
  ((upTo 64).map s.sheetEv).find? (fun e => e.act == 1 && e.idx == k) |>.map (fun e => e.dist m)

/-- Release time of a band relative to registration, in ns (R100): image start plus (first line − lead) lines. -/
def State.relNs (s : State) (f lead m k first : Nat) : Int :=
  travelNs f ((s.imgDist k m).getD 0) + (if f = 0 then 0 else ((first : Int) - lead) * 1000000000 / f)

/-- Nominal registration after the pick, in ns (Table 4.3). -/
def State.regNs (s : State) (f : Nat) : Int := travelNs f (100 * s.f (shtB + 0xC) 0 16)

/-- RELEASE_LEAD (Table 4.10). -/
def State.lead (s : State) : Nat := s.f (shtB + 4) 16 13

/-- The bands of a page with their release times, taken from the given registration instant, in release order (R100, R431). -/
def State.pageRel (s : State) (job : Nat) (p : Page) (f lead : Nat) (reg : Int) : List (Int × BandRef) :=
  sortBy (·.1) (p.planes.flatMap (fun q => q.bands.map (fun b =>
    (reg + s.relNs f lead p.medium q.station b.first, ⟨job, p.page, q.station, b.idx⟩))))

/-- The registration instant of a sheet in flight: captured, or nominal before that. -/
def State.tokReg (s : State) (t : Token) : Int :=
  match t.reg with
  | some r => (r : Int)
  | none => (t.pick : Int) + s.regNs t.rate

/-- Release times held at the pick: none is earlier (R100). -/
def notBefore (pick : Int) (l : List (Int × BandRef)) : List (Int × BandRef) :=
  l.map (fun e => (if e.1 < pick then pick else e.1, e.2))

/-- The bands of a page in release order, no release earlier than the pick (R100). -/
def State.pageOrder (s : State) (job : Nat) (p : Page) (f lead : Nat) (pick reg : Int) : List (Int × BandRef) :=
  notBefore pick (s.pageRel job p f lead reg)

/-- The order in which bands move into the band store (R431): the sheets in flight by release time, then the pages not yet picked, by
release time relative to the pick. Bands released together keep the order of R92. -/
def State.moveOrder (s : State) : List BandRef :=
  let fly := s.inFlight.flatMap (fun i =>
    let t := s.tok i
    match s.page? t.job t.page with
    | some p => s.pageOrder t.job p t.rate t.lead t.pick (s.tokReg t)
    | none => [])
  let f := s.ladRate s.sched.stepCur
  (sortBy (·.1) fly).map (·.2) ++ s.pickOrder.flatMap (fun e =>
    (sortBy (·.1) (s.pageOrder e.1 e.2 f s.lead 0 (s.regNs f))).map (·.2))

/-- Bytes the band store has to take for a band (R431). -/
def State.needOf (s : State) (r : BandRef) : Nat :=
  match s.plane? r.job r.page r.plane with
  | some q => (match q.band? r.band with | some b => b.moveLen q.pitch | none => 0)
  | none => 0

/-- The bands of a list that the room left in the band store takes, in order: prefetching stops at the first that does not fit (R431). -/
def State.fitting (s : State) : Nat → List BandRef → List BandRef
  | _, [] => []
  | room, r :: l => if s.needOf r ≤ room then r :: s.fitting (room - s.needOf r) l else []

/-- A copy of a band starts to move (Table 4.1). -/
def State.startMove (s : State) (r : BandRef) : State :=
  (s.modBand r (fun b => { b with moved := 0, t0 := s.fab })).setRes r .inTransit

/-- BR_BAND parts of at most 16,368 bytes (Table 10.5). -/
def bandParts (r : BandRef) (fuel off : Nat) (l : List Byte) : List BrMsg :=
  match fuel with
  | 0 => []
  | n + 1 => if l.isEmpty then [] else { vc := 1, body := .band r off (l.take 16368) } :: bandParts r n (off + 16368) (l.drop 16368)

/-- Parts of band `r` that still wait for their credits. -/
def State.partsLeft (s : State) (r : BandRef) : Bool :=
  s.brg.outQ.any (fun (m : BrMsg) => match m.body with | .band x _ _ => x == r | _ => false)

/-- Parts of band `r` that have not been sent are dropped. -/
def State.dropParts (s : State) (r : BandRef) : State :=
  { s with brg := { s.brg with outQ := s.brg.outQ.filter (fun (m : BrMsg) => match m.body with | .band x _ _ => x != r | _ => true) } }

/-- A move meets a retirement copy in progress and waits for it (R263, R267): every band has bytes in every channel of the interleave; whether one
lies in a region is the engine's placement (a free value). -/
def State.copyBars (s : State) : Bool :=
  s.mem.pend.any (·.whole) || (!s.mem.pend.isEmpty && s.freeVal % 2 == 1)

/-- R431, R243: the next band in order that is IN_PAGE_STORE starts to move, if the band store has room and a DMA channel is free (R265); the
host die of a D package serves the engine die's requests, and the engine die names the bands it wants. The band goes as BR_BAND messages.
A damaged word of the page store crosses as it is read (R282). -/
def execBandMoveStart (s : State) (hits : List MemHit := []) : Ans :=
  if s.inReset || s.id.isW then .next s
  else if s.id.isE then
    let want := s.moveOrder.filter (fun r => match s.band? r with | some b => b.res == .inPageStore | none => false)
    match s.fitting (s.bandCap - s.bandUsed) want with
    | [] => .next s
    | l => .next (s.toBridge 0 (.bandReq l))
  else
    let order := if s.id.isH then s.brg.wanted else s.moveOrder
    match order.find? (fun r => match s.band? r with | some b => b.res == .inPageStore | none => false) with
    | none => .next s
    | some r =>
      let data := match s.band? r with | some b => readThrough b.stream hits | none => []
      if (s.seqFree 0).isNone || s.copyBars || (if s.id.isH then s.brg.st == .down else decide (s.bandCap < s.bandUsed + data.length)) then
        .next (if s.mem.pend.isEmpty then s else s.tookFree)
      else
        let s0 := (s.memHits hits).seqTake 0 (.send r) data.length
        let s1 := if s.id.isH then s0 else (s0.modBand r (fun (b : Band) => { b with stream := data })).seqTake 0 (.land r) data.length
        let s2 := s1.startMove r
        .next { s2 with brg := { s2.brg with wanted := s2.brg.wanted.filter (· != r),
                                             outQ := s2.brg.outQ ++ bandParts r (data.length + 1) 0 data } }

/-- A record appended to a rate window of 64 bands (R435). -/
def pushRate (l : List RateRec) (r : RateRec) : List RateRec := lastN 64 (l ++ [r])

/-- Payload of `w` PCIe lanes of generation `g` in MB/s: 126 Gbit/s at Gen5 x4 (Table 1.3), half as much a lane for each generation
below (DEDUCED, log entry 104). -/
def pcieRate (g w : Nat) : Nat := 15750 * w / (4 * 2 ^ (5 - g))

/-- The payload rate of this die's host links that are up, in MB/s: 1000BASE-X or SGMII 125, 10GBASE-R 1,250, 25GBASE-R 3,125, PCIe by
generation and width (Table 1.3). -/
def State.hostNominal (s : State) : Nat :=
  let e (p : Nat) : Nat :=
    if s.ethUp p then (match (s.host.eth.getD p .down).rate with | 0 => 125 | 1 => 125 | 2 => 1250 | _ => 3125) else 0
  e 0 + e 1 + (if s.host.pcie.up then pcieRate s.host.pcie.rate s.host.pcie.width else 0)

/-- BR_RATE (R435): the host delivery window of the host die, bytes and TIME clocks, and the payload rate of its host links. -/
def State.rateMsg (s : State) : BrBody :=
  let w := s.sched.hostWin
  match w.head?, w.getLast? with
  | some a, some z => .rate (sumN ((w.drop 1).map (·.bytes))) ((z.t1 - a.t1) / 2) s.hostNominal
  | _, _ => .rate 0 0 s.hostNominal

/-- The engine die hears of the host die's window and links (BR_RATE). -/
def State.tellRate (s : State) : State := if s.id.isH then s.toBridge 0 s.rateMsg else s

/-- A band is completely delivered by the host (R435). -/
def State.hostDone (s : State) (bytes : Nat) : State :=
  let w := pushRate s.sched.hostWin { bytes := bytes, t0 := s.fab, t1 := s.fab }
  ({ s with sched := { s.sched with hostWin := w } } : State).tellRate

/-- R93, R435: the last byte of a band is in the band store; it is RESIDENT and its move counts in the bridge rate. On the engine
die of a D package the bytes received over BR_BAND become the stream. -/
def State.nowResident (s : State) (r : BandRef) : State :=
  match s.band? r with
  | none => s
  | some b =>
    let data := if s.id.isE then b.got.map (·.2) else b.stream
    let s1 := s.modBand r (fun b => { b with stream := data, got := if s.id.isE then [] else b.got, moved := data.length })
    let s2 := { s1 with sched := { s1.sched with brgWin := pushRate s1.sched.brgWin { bytes := data.length, t0 := b.t0, t1 := s.fab } } }
    ((s2.seqDone (.land r)).seqDone (.send r)).setRes r .resident

/-- Total time covered by intervals in start order, in FABRIC clocks (R435: at least one move in progress). -/
def busyTime : Nat → List RateRec → Nat
  | _, [] => 0
  | fin, r :: t => if r.t1 ≤ fin then busyTime fin t else (r.t1 - Nat.max fin r.t0) + busyTime r.t1 t

/-- Bytes per second over the bridge (R435). -/
def State.rateBrg (s : State) : Nat :=
  let w := s.sched.brgWin
  let seed := s.f (shtB + 0x2C) 0 16
  let lanes := popCount 8 s.brg.laneUp
  if w.isEmpty then (if seed ≠ 0 then seed * 1000000 else if s.id.dual then lanes * 1437500000 else if s.brg.st == .up then 25600000000 else 0)
  else
    let t := busyTime 0 (sortBy (fun r => (r.t0 : Int)) w)
    if t = 0 then (if seed ≠ 0 then seed * 1000000 else if s.id.dual then lanes * 1437500000 else if s.brg.st == .up then 25600000000 else 0)
    else sumN (w.map (·.bytes)) * 400000000 / t

/-- Bytes per second from the host (R435). -/
def State.rateHost (s : State) : Nat :=
  let w := s.sched.hostWin
  let seed := s.f (shtB + 0x2C) 16 16
  let links := if s.id.isE then s.brg.hostLinks else s.hostNominal
  let nominal := if seed ≠ 0 then seed * 1000000 else links * 1000000
  if s.id.isE then
    match s.brg.hostRate with
    | some (b, c) => if c = 0 then nominal else b * 200000000 / c
    | none => nominal
  else
    match w with
    | [] => nominal
    | r :: t =>
      match t.getLast? with
      | none => nominal
      | some z => if z.t1 ≤ r.t1 then nominal else sumN (t.map (·.bytes)) * 400000000 / (z.t1 - r.t1)

end Sys2Proof.Machine
end

