-- ==== Sys2Proof/Machine/BeamLink.lean ====
section
/-! DEFINITION. The beam link (chapter 9): training, the status channel, lane drops and retraining, alignment. -/
namespace Sys2Proof.Machine

/-- BLK register of station `n` at offset `o`. -/
def blkA (n o : Nat) : Nat := blkB + 0x100 * n + o

/-- Beams the fuses of this die enable, as a map. -/
def State.beamMap (s : State) : Nat := ones s.id.beams

/-- Generation v1 is selected (R205). -/
def State.linkV1 (s : State) (n : Nat) : Bool := s.id.p || s.flag (blkA n 0) 1

/-- Beams of station `n` that are enabled and healthy (R207, R209, R219): SCN_n_BEAMOK. -/
def State.beamOk (s : State) (n : Nat) : Nat :=
  if !(s.lk n).aligned then 0
  else
    let m := Nat.land s.beamMap (0xFFFFFFFF - (s.reg (blkA n 8)).toNat)
    if s.linkV1 n then m % 256 else m

/-- The lanes training may use: those up to LANES_MAX (Table 9.4) that have not dropped eight times since RST_N (R225; DEDUCED,
log entry 57). -/
def State.laneMax (s : State) (n : Nat) : Nat :=
  let m := s.f (blkA n 0) 2 3
  sumN (((upTo (if s.linkV1 n then Nat.min m 2 else m)).filter (fun l => decide (fld (s.reg (blkA n 0x1C)) (8 * l) 8 < 8))).map (2 ^ ·))

/-- The station's link takes commands: the station exists and the die is out of reset. -/
def State.stOk (s : State) (n : Nat) : Bool := !s.inReset && decide (n < s.id.stations)

/-- R221, R225: lane `l` of station `n` drops; its station's sheet is waste with cause VIDEO_LOST. -/
def State.dropLane (s : State) (n l : Nat) : State :=
  let s1 := s.modLink n (fun k => { k with laneUp := k.laneUp - 2 ^ l, errWin := k.errWin.filter (fun e => e.2.1 != l) })
  let s2 := s1.bump (blkA n 0x1C) (8 * l) 8 1
  (s2.raise (184 + n) l).blankStation n 1

/-- The condition of R221 on lane `l`: LANE_ERR_LIM failures within 16 marker intervals (27,033 TIME clocks), or its lock missing in
this status frame (`lock`) and the one before it (`old`). -/
def State.laneBad (s : State) (n l lock old : Nat) : Bool :=
  let k := s.lk n
  let fails := sumN ((k.errWin.filter (fun e => e.2.1 == l && decide (s.clk ≤ e.1 + 27033))).map (·.2.2))
  natBit k.laneUp l && (decide (s.f (blkA n 0) 8 5 ≤ fails) || (!natBit lock l && !natBit old l))

/-- R225: one status frame's news of a lane in retraining; 64 good markers (108,135 TIME clocks) retrain it. -/
def State.trainLane (s : State) (n l lock delta : Nat) : State :=
  match (s.lk n).training.find? (fun e => e.1 == l) with
  | none => s
  | some e =>
    if !natBit lock l || delta != 0 then
      s.modLink n (fun k => { k with training := k.training.map (fun x => if x.1 == l then (l, s.clk) else x) })
    else if e.2 + 108135 ≤ s.clk then
      s.modLink n (fun k => { k with training := k.training.filter (fun x => x.1 != l), retrain := Nat.lor k.retrain (2 ^ l) })
    else s

/-- Table 9.4: what a valid status frame with READY bit `rdy` and lane locks `lock` does to a link in training. -/
def BeamLink.onStatus (k : BeamLink) (rdy : Bool) (lock lanes : Nat) : BeamLink :=
  match k.st with
  | .status => if rdy then (if 3 ≤ k.frames then { k with st := .lanes, frames := 0 } else { k with frames := k.frames + 1 }) else k
  | .lanes => if lanes != 0 && Nat.land lock lanes == lanes then { k with st := .deskew, frames := 0, chosen := lanes } else k
  | .deskew =>
    if Nat.land lock k.chosen == k.chosen then
      (if 3 ≤ k.frames then { k with st := .align, frames := 0, aligned := false } else { k with frames := k.frames + 1 })
    else k
  | _ => k

/-- Beams that turned faulty are blank to the end of the sheet, and the sheet is flagged BEAM_DROP (R186, R219); a sheet whose scan the loss of
SOS has ended takes the flag too (R186). -/
def State.beamFault (s : State) (n new : Nat) : State :=
  if new = 0 then s
  else match (s.st n).img, (s.st n).lastTok with
    | some g, _ => (s.modStn n (fun x => { x with img := some { g with blankB := Nat.lor g.blankB new } })).flagTok g.tok fBeam none
    | none, some t => s.flagTok t fBeam none
    | none, none => s

/-- The beams that set `m` of station `n` uses, in the mask table in force: those with a non-BLANK entry in some phase (R175). -/
def State.setBeams (s : State) (n m : Nat) : Nat :=
  let phases := s.tabAct 2 n (16 * m) 1 % 64 + 1
  sumN ((upTo 32).map (fun b =>
    if (upTo phases).any (fun p => s.tabAct 2 n (0x1000 + 0x1000 * m + 64 * p + 2 * b) 1 != 0xFF) then 2 ^ b else 0))

/-- The marker failures, segment and header failures a status frame shows since the one before it, counted (R221, R223). -/
def State.countFails (s : State) (n : Nat) (b : List Byte) : State :=
  let k := s.lk n
  let ds := (upTo 4).map (fun l => (byteAt b (2 + l) + 256 - k.marks.getD l 0) % 256)
  let seg := (half b 6 + 65536 - k.segFail) % 65536
  let hdr := (byteAt b 14 + 256 - k.hdrFail) % 256
  let s1 := s.each (upTo 4) (fun s l => s.bump (blkA n 0x14) (8 * l) 8 (ds.getD l 0))
  let s2 := (s1.bump (blkA n 0x18) 0 16 seg).bump (blkA n 0x18) 16 16 hdr
  let s3 := s2.modLink n (fun k =>
    { k with marks := (upTo 4).map (fun l => byteAt b (2 + l)), segFail := half b 6, hdrFail := byteAt b 14,
             errWin := (k.errWin.filter (fun e => decide (s.clk ≤ e.1 + 27033))) ++
               ((upTo 4).filter (fun l => ds.getD l 0 != 0)).map (fun l => (s.clk, l, ds.getD l 0)) })
  let s4 := s3.each (upTo 4) (fun s l => s.trainLane n l (byteAt b 1) (ds.getD l 0))
  if (seg + hdr != 0) && !k.segSeen && (s.st n).img.isSome then (s4.modLink n (fun k => { k with segSeen := true })).raise 197 n else s4

/-- R218: a status frame is valid when it is whole, of the right type and its CRC holds. -/
def statusValid (b : List Byte) : Bool := b.length == 32 && byteAt b 0 == 0x81 && crc16 (b.take 30) == half b 30

/-- R218 to R225, Table 9.4: a status frame from the laser driver of station `n`. -/
def State.statusFrame (s : State) (n : Nat) (bytes : List Byte) : State :=
  if !s.stOk n || !s.flag (blkA n 0) 0 || !statusValid bytes then s
  else
    let k := s.lk n
    let s1 := s.modLink n (fun k => { k with statusOk := true, lostOnce := false })
    let s2 := s1.raiseIf (!k.statusOk && k.lostOnce) 196 n
    let old := (s.reg (blkA n 8)).toNat
    let new := quad bytes 8
    let s3 := (s2.setReg (blkA n 8) (wd new)).raiseIf (Nat.land new s.beamMap != Nat.land old s.beamMap) (190 + n) n
    let fresh := Nat.land (Nat.land new (0xFFFFFFFF - old)) s.beamMap
    let s4 := s3.beamFault n fresh
    let s5 := (s4.setReg (blkA n 0xC) (wd (half bytes 12))).setReg (blkA n 0x10) (wd (byteAt bytes 15))
    let lock := byteAt bytes 1 % 16
    let s6 := s5.countFails n bytes
    let bad := if (s6.lk n).st == .up then (upTo 4).filter (fun l => s6.laneBad n l lock k.lock) else []
    let s7 := s6.each bad (fun s l => s.dropLane n l)
    s7.modLink n (fun k => { k.onStatus (natBit (byteAt bytes 15) 2) lock (s.laneMax n) with lock := lock })

/-- R218: no valid status frame for 1 ms; STATUS_OK clears and BLK_STATUS is raised. -/
def execStatusLost (n : Nat) (s : State) : Ans :=
  if s.stOk n && (s.lk n).statusOk then .next ((s.modLink n (fun k => { k with statusOk := false, lostOnce := true })).raise 196 n)
  else .next s

/-- R224: EN is set; the link leaves BL_OFF and waits for status frames. -/
def State.linkOn (s : State) (n : Nat) : State :=
  s.modLink n (fun k => if k.st == .off then { k with st := .status, frames := 0 } else k)

/-- R227, R218: EN is cleared; the link goes to BL_OFF at once, and a sheet being imaged fares as after a lane loss. -/
def State.linkOff (s : State) (n : Nat) : State :=
  let s1 := s.modLink n (fun k =>
    { k with st := .off, laneUp := 0, chosen := 0, retrain := 0, training := [], statusOk := false, lostOnce := false, aligned := false, frames := 0,
             lock := 0 })
  s1.blankStation n 1

/-- R224: BLK_n_CTRL.EN is set. -/
def execLinkEnable (n : Nat) (s : State) : Ans :=
  if s.stOk n then .next ((s.setF (blkA n 0) 0 1 1).linkOn n) else .next s

/-- R227: BLK_n_CTRL.EN is cleared. -/
def State.linkDisable (s : State) (n : Nat) : State :=
  if s.stOk n && s.flag (blkA n 0) 0 then (s.setF (blkA n 0) 0 1 0).linkOff n else s

/-- R224: half of TRAIN_TO has passed in BL_LANES; with at least one lane locked the link goes on with those. -/
def execLanesHalfTimeout (n : Nat) (s : State) : Ans :=
  let lanes := Nat.land (s.lk n).lock (s.laneMax n)
  if s.stOk n && (s.lk n).st == .lanes && lanes != 0 then
    .next (s.modLink n (fun k => { k with st := .deskew, frames := 0, chosen := lanes }))
  else .next s

/-- R224: an attempt that has not reached BL_UP within TRAIN_TO ends in BL_FAIL. -/
def execTrainingTimeout (n : Nat) (s : State) : Ans :=
  let st := (s.lk n).st
  if s.stOk n && (st == .status || st == .lanes || st == .deskew || st == .align) then
    .next ((s.modLink n (fun k => { k with st := .fail, laneUp := 0, chosen := 0, aligned := false, frames := 0 })).raise 198 n)
  else .next s

/-- R224: 100 ms after BL_FAIL a new attempt starts. -/
def execTrainingRetry (n : Nat) (s : State) : Ans :=
  if s.stOk n && (s.lk n).st == .fail then .next (s.modLink n (fun k => { k with st := .status, frames := 0 })) else .next s

/-- R208, R209: PIXCLK restarts at PEC 0 after ALIGN; the link is up. A synthesizer without lock abandons the alignment. -/
def execAlignPixclkRestart (n : Nat) (s : State) : Ans :=
  if s.stOk n && (s.lk n).st == .align && (s.px n).locked then
    .next ((s.modLink n (fun k =>
      { k with st := .up, aligned := true, laneUp := if k.chosen = 0 then k.laneUp else k.chosen, chosen := 0, scanSeq := 0, marks := [0, 0, 0, 0], errWin := [] })).setReg (blkA n 0x20) 0)
  else .next s

/-- R225: 1 ms after its drop a lane starts retraining, unless it has dropped eight times. -/
def execLaneRetrainStart (n lane : Nat) (s : State) : Ans :=
  let k := s.lk n
  if s.stOk n && k.st == .up && lane < 4 && !natBit k.laneUp lane && natBit (s.laneMax n) lane && !natBit k.retrain lane
      && !(k.training.any (fun e => e.1 == lane)) && 0 < fld (s.reg (blkA n 0x1C)) (8 * lane) 8
      && fld (s.reg (blkA n 0x1C)) (8 * lane) 8 < 8 then
    .next (s.modLink n (fun k => { k with training := k.training ++ [(lane, s.clk)] }))
  else .next s

/-- R225: retrained lanes rejoin at the station's sheet boundary. -/
def State.rejoinLanes (s : State) (n : Nat) : State :=
  let r := (s.lk n).retrain
  let s1 := s.modLink n (fun k => { k with laneUp := Nat.lor k.laneUp r, retrain := 0 })
  s1.each ((upTo 4).filter (natBit r)) (fun s l => s.raise (184 + n) l)

end Sys2Proof.Machine
end

