-- ==== Sys2Proof/Machine/Ecc.lean ====
section
/-! DEFINITION. The two memory codes: the Reed–Solomon code RS(10,8) over GF(16) of a DRAM beat (R250, R251) and the (72,64) SEC-DED code of the
SRAMs (R257). -/
namespace Sys2Proof.Machine

/-- α^i (Table 11.2). -/
def alog (i : Nat) : Nat := [1, 2, 4, 8, 3, 6, 12, 11, 5, 10, 7, 14, 15, 13, 9].getD (i % 15) 0

/-- The exponent of a non-zero element (Table 11.2). -/
def glog (x : Nat) : Nat := [0, 0, 1, 4, 2, 8, 5, 10, 3, 14, 9, 7, 6, 13, 11, 12].getD x 0

/-- α^i times an element of GF(16). -/
def gmulA (i x : Nat) : Nat := if x = 0 then 0 else alog (i + glog x)

/-- Symbol `j` of a beat: DQ and CB from bit 0 on. -/
def sym (w j : Nat) : Nat := w / 16 ^ j % 16

/-- The sum of the first `n` symbols, and that of the symbols weighted by α^j (R250). -/
def rsSum0 (w n : Nat) : Nat := (upTo n).foldl (fun a j => Nat.xor a (sym w j)) 0
def rsSum1 (w n : Nat) : Nat := (upTo n).foldl (fun a j => Nat.xor a (gmulA j (sym w j))) 0

/-- The stored 40-bit beat of 32 data bits (R250): x_9 = α^3·(B + α^8·A), x_8 = A + x_9. -/
def rsEncode (d : Nat) : Nat :=
  let a := rsSum0 d 8
  let b := rsSum1 d 8
  let x9 := gmulA 3 (Nat.xor b (gmulA 8 a))
  d + Nat.xor a x9 * 2 ^ 32 + x9 * 2 ^ 36

/-- The outcome of a read. -/
inductive EccRes where
  | clean | corrected | bad
  deriving DecidableEq, Repr

/-- Decoding of a beat (R251): the outcome, the SYNDROME as logged and the beat delivered. -/
def rsDecode (w : Nat) : EccRes × Nat × Nat :=
  let s0 := rsSum0 w 10
  let s1 := rsSum1 w 10
  let syn := s1 * 16 + s0
  if s0 = 0 ∧ s1 = 0 then (.clean, syn, w)
  else if s0 ≠ 0 ∧ s1 ≠ 0 then
    let j := (glog s1 + 15 - glog s0) % 15
    if j ≤ 9 then (.corrected, syn, Nat.xor w (s0 * 16 ^ j)) else (.bad, syn, w)
  else (.bad, syn, w)

/-- The 8-bit patterns of a weight in ascending order. -/
def weightPats (k : Nat) : List Nat := (upTo 256).filter (fun v => popCount 8 v == k)

/-- The columns H_0 to H_63 (R257). -/
def hsiao : List Nat := weightPats 3 ++ (weightPats 5).take 8

/-- The check bits of a 64-bit word (R257). -/
def secCheck (d : Nat) : Nat := ((upTo 64).zip hsiao).foldl (fun a e => if natBit d e.1 then Nat.xor a e.2 else a) 0

/-- The stored 72-bit word: data, then check bits. -/
def secEncode (d : Nat) : Nat := d + secCheck d * 2 ^ 64

/-- Decoding of a 72-bit word (R257): outcome, syndrome, and the word delivered with a good check. -/
def secDecode (w : Nat) : EccRes × Nat × Nat :=
  let d := w % 2 ^ 64
  let syn := Nat.xor (w / 2 ^ 64 % 256) (secCheck d)
  if syn = 0 then (.clean, 0, w)
  else match findIx (· == syn) hsiao with
    | some k => (.corrected, syn, secEncode (Nat.xor d (2 ^ k)))
    | none => if popCount 8 syn = 1 then (.corrected, syn, secEncode d) else (.bad, syn, w)

end Sys2Proof.Machine
end

