-- ==== Sys2Proof/Machine/HostOut.lean ====
section
/-! DEFINITION. What the die writes to the host (R369 to R375, R392): message bytes, the D2H ring, datagrams, and messages relayed over the
bridge by an engine die. -/
namespace Sys2Proof.Machine

/-- A message on the wire (Table 17.2). -/
def msgBytes (type status seq die : Nat) (body : List Byte) : List Byte :=
  [BitVec.ofNat 8 type, BitVec.ofNat 8 die] ++ leBytes 2 status ++ leBytes 4 seq ++ leBytes 2 body.length ++ [0, 0] ++ leBytes 4 (bodyCrc body) ++ body

/-- Sizes of the H2D and D2H rings (Table 17.1). -/
def State.h2dSize (s : State) : Nat := 65536 * 2 ^ Nat.min 8 (s.f (ringB + 8) 4 4)
def State.d2hSize (s : State) : Nat := 65536 * 2 ^ Nat.min 8 (s.f (ringB + 8) 8 4)

/-- Ring offsets. -/
def State.h2dTail (s : State) : Nat := (s.reg (ringB + 0x20)).toNat
def State.h2dHead (s : State) : Nat := (s.reg (ringB + 0x24)).toNat
def State.d2hTail (s : State) : Nat := (s.reg (ringB + 0x28)).toNat
def State.d2hHead (s : State) : Nat := (s.reg (ringB + 0x2C)).toNat

/-- Ring space of a message: it starts on a 64-byte boundary. -/
def ringLen (n : Nat) : Nat := ceilDiv n 64 * 64

/-- Ring space a message of `n` bytes takes, with the pad before the end where it would wrap (R369). -/
def State.d2hNeeds (s : State) (n : Nat) : Nat :=
  let len := ringLen n
  if s.d2hSize < s.d2hTail + len then s.d2hSize - s.d2hTail + len else len

/-- The ring takes a message of `n` bytes without the tail reaching the head. -/
def State.d2hRoom (s : State) (n : Nat) : Bool :=
  decide ((s.d2hTail + s.d2hSize - s.d2hHead) % s.d2hSize + s.d2hNeeds n < s.d2hSize)

/-- PCIe messages pass: the endpoint is up and the rings are enabled. -/
def State.ringOn (s : State) : Bool := s.id.pcie && s.host.pcie.up && s.flag (ringB + 8) 0

/-- The header of a pad record that covers `n` bytes (R369). -/
def padRecord (n : Nat) : List Byte := msgBytes 0 0 0 0 [] |>.set 8 (BitVec.ofNat 8 (n - 16)) |>.set 9 (BitVec.ofNat 8 ((n - 16) / 256))

/-- A message written into the D2H ring with its vector signalled. -/
def State.ringWrite (s : State) (vec : Nat) (bytes : List Byte) : State :=
  let len := ringLen bytes.length
  let wrap := decide (s.d2hSize < s.d2hTail + len)
  let s1 := if wrap then s.emit (.ring s.d2hTail (padRecord (s.d2hSize - s.d2hTail))) else s
  let at0 := if wrap then 0 else s.d2hTail
  (((s1.emit (.ring at0 bytes)).setReg (ringB + 0x28) (wd ((at0 + len) % s.d2hSize))).emit (.msix vec))

/-- A message goes to the host; `none` where its path is down or has no room. -/
def State.toHost (s : State) (d : Dest) (type status seq die vec : Nat) (body : List Byte) : Option State :=
  match d.link with
  | .pcie =>
    let b := msgBytes type status seq die body
    if s.ringOn && s.d2hRoom b.length then some ((s.ringWrite vec b).emit (.msg d type status seq die body)) else none
  | .eth p => if s.ethUp p then some (s.emit (.msg d type status seq die body)) else none

/-- An EVENT body (Table 17.9). -/
def EvMsg.body (m : EvMsg) (count : Nat) : List Byte :=
  leBytes 2 m.src ++ leBytes 2 count ++ leBytes 4 m.detail ++ leBytes 4 m.ns ++ leBytes 6 m.sec ++ [BitVec.ofNat 8 m.pkg, 0] ++ m.extra

/-- The body of an unsent EVENT as it goes out now: COUNT is the source's, unless another die or package has reported it (Table 17.9). -/
def State.evBody (s : State) (m : EvMsg) : List Byte := m.body (m.count.getD (fld (s.reg (evSrcA m.src)) 16 16))

/-- An EVENT or STATUS without a request (R375, R392): it carries the die's event sequence and goes to the event destination, or over the
bridge from an engine die. -/
def State.unasked (s : State) (type vec : Nat) (body : List Byte) : Option State :=
  let seq := ((s.reg (evtB + 0x44)).toNat + 1) % 2 ^ 32
  let s1 := s.setReg (evtB + 0x44) (wd seq)
  if s.id.isE then (if s.brg.st == .down then none else some (s1.toBridge 3 (.host type 0 seq 1 body)))
  else match s.host.dest with
    | none => none
    | some d => s1.toHost d type 0 seq 0 vec body

end Sys2Proof.Machine
end

