-- ==== Sys2Proof/Machine/ChiselCodec.lean ====
section
/-! DEFINITION. The compressor of a chisel (R142 to R145): matching, distance choice, blocks, code construction and
emission. The stream depends only on the raw bytes, the history, the pitch and CHS_CTRL at the band's start (R141). -/
namespace Sys2Proof.Machine

/-- The settings of CHS_CTRL a band is compressed with (Table 6.6). -/
structure ChsCfg where
  depth    : Nat
  lazy     : Bool
  rowProbe : Bool
  nice     : Nat
  blockKib : Nat
  deriving DecidableEq, Repr

/-- One coded symbol: a literal, or a match of a length at a distance. -/
inductive Sym where
  | lit (b : Byte)
  | mat (len dist : Nat)
  deriving DecidableEq, Repr

/-- The hash of three bytes (R142). -/
def hash3 : List Byte → Option Nat
  | b0 :: b1 :: b2 :: _ => some (Nat.xor (Nat.xor (b0.toNat * 256) (b1.toNat * 16)) b2.toNat)
  | _ => none

/-- How many bytes agree, at most `n`. -/
def matchLen : Nat → List Byte → List Byte → Nat
  | 0, _, _ => 0
  | n + 1, a :: as, b :: bs => if a = b then matchLen n as bs + 1 else 0
  | _, _, _ => 0

/-- A candidate: length, whether it is a row-probe candidate, distance. -/
structure Cand where
  len  : Nat
  row  : Bool
  dist : Nat
  deriving DecidableEq, Repr

/-- The selection of R142: the longest, then the row probe, then the smaller distance. -/
def Cand.better (a b : Cand) : Bool :=
  if a.len ≠ b.len then decide (b.len < a.len)
  else if a.row != b.row then a.row
  else decide (a.dist < b.dist)

def Cand.pick (a : Option Cand) (b : Cand) : Option Cand :=
  match a with
  | none => some b
  | some x => if b.better x then some b else some x

/-- The 16 row-probe distances: k = 1, 2 and c = −4 to +3, at least 1. -/
def rowProbes (pitch : Nat) : List Nat :=
  ([1, 2].flatMap fun k => (upTo 8).map fun (j : Nat) => ((k * pitch : Nat) : Int) - (Int.ofNat j - 4)).filterMap
    fun d => if 1 ≤ d then some d.toNat else none

/-- The chain walk: earlier positions of the same hash, most recent first, up to DEPTH of them, stopping when a match reaches
NICE. `data` is history and band; `p` the position; `lim` the length limit. -/
def chainWalk (data : List Byte) (p lim nice : Nat) : Nat → List Nat → Option Cand → Option Cand
  | 0, _, best => best
  | _, [], best => best
  | n + 1, q :: qs, best =>
    if winMax < p - q then best
    else
      let c : Cand := ⟨matchLen lim (data.drop q) (data.drop p), false, p - q⟩
      let best' := Cand.pick best c
      if nice ≤ c.len then best' else chainWalk data p lim nice n qs best'

/-- The best match at `p` (R142), or none where the best length is below 3. -/
def bestMatch (cfg : ChsCfg) (pitch : Nat) (data : List Byte) (p stop : Nat) : Option Cand :=
  let lim := min 1026 (stop - p)
  let probes := if cfg.rowProbe then (rowProbes pitch).filter (fun d => decide (d ≤ p ∧ d ≤ winMax)) else []
  let best := probes.foldl
    (fun b d => Cand.pick b ⟨matchLen lim (data.drop (p - d)) (data.drop p), true, d⟩) none
  let full := match best with | some c => decide (cfg.nice ≤ c.len) | none => false
  let best :=
    if full then best else
    match hash3 (data.drop p) with
    | none => best
    | some h =>
      let chain := ((upTo p).filter (fun q => hash3 (data.drop q) == some h)).reverse
      chainWalk data p lim cfg.nice cfg.depth chain best
  match best with
  | some c => if c.len < 3 then none else some c
  | none => none

/-- The symbols of one block from position `p` to `stop` (R142, R143). -/
def blockSyms (cfg : ChsCfg) (pitch : Nat) (data : List Byte) (stop : Nat) : Nat → Nat → List Sym
  | 0, _ => []
  | f + 1, p =>
    if stop ≤ p then [] else
    match bestMatch cfg pitch data p stop with
    | none => .lit (data.getD p 0) :: blockSyms cfg pitch data stop f (p + 1)
    | some c =>
      let next :=
        if cfg.lazy && decide (c.len < cfg.nice) && decide (p + 1 < stop)
        then bestMatch cfg pitch data (p + 1) stop else none
      match next with
      | some c' =>
        if c.len < c'.len then
          .lit (data.getD p 0) :: .mat c'.len c'.dist :: blockSyms cfg pitch data stop f (p + 1 + c'.len)
        else .mat c.len c.dist :: blockSyms cfg pitch data stop f (p + c.len)
      | none => .mat c.len c.dist :: blockSyms cfg pitch data stop f (p + c.len)

/-- The length symbol of a match length, with its extra bits and their value (Table 5.4). -/
def lenSym (len : Nat) : Nat × Nat × Nat :=
  match (((upTo 40).map (· + 257)).filter (fun s => (lenClass s).2 ≤ len)).getLast? with
  | some s => (s, (lenClass s).1, len - (lenClass s).2)
  | none => (257, 0, 0)

/-- The row class of a distance with the smallest k that expresses it, if any (R144). -/
def rowSym (dist pitch : Nat) : Option Nat :=
  (upTo 8).findSome? fun i =>
    let c : Int := (((i + 1) * pitch : Nat) : Int) - dist
    if -8 ≤ c ∧ c ≤ 7 then some (34 + i * 16 + (c + 8).toNat) else none

/-- The distance symbol, extra bits and value: a row class where one expresses it, else a generic class (R144). -/
def distSym (dist pitch : Nat) : Nat × Nat × Nat :=
  match rowSym dist pitch with
  | some s => (s, 0, 0)
  | none =>
    match ((upTo 34).filter (fun d => (distClass d).2 ≤ dist)).getLast? with
    | some d => (d, (distClass d).1, dist - (distClass d).2)
    | none => (0, 0, 0)

/-- A package of package-merge: its weight and how often each symbol is in it. -/
abbrev Pkg := Nat × List Nat

/-- Adjacent packages joined in pairs; a last odd one is dropped. -/
def pairUp : List Pkg → List Pkg
  | a :: b :: t => (a.1 + b.1, a.2 ++ b.2) :: pairUp t
  | _ => []

/-- Items and packages in order of weight; at equal weight the item first. -/
def mergePkgs : Nat → List Pkg → List Pkg → List Pkg
  | 0, _, _ => []
  | _, [], l => l
  | _, l, [] => l
  | f + 1, a :: as, b :: bs =>
    if b.1 < a.1 then b :: mergePkgs f (a :: as) bs else a :: mergePkgs f as (b :: bs)

/-- `n` rounds of package-merge over the sorted items. -/
def packRounds (items : List Pkg) : Nat → List Pkg
  | 0 => items
  | n + 1 => let ps := pairUp (packRounds items n); mergePkgs (items.length + ps.length + 1) items ps

/-- Code lengths by package-merge with a limit (R145): ties between equal counts go by symbol number. One used symbol gets
length 1. -/
def codeLengths (limit : Nat) (counts : List Nat) : List Nat :=
  let used := ((upTo counts.length).zip counts).filter (fun p => p.2 != 0)
  let items : List Pkg := (sortBy (fun p => (p.2 : Int)) used).map fun p => (p.2, [p.1])
  match used with
  | [] => counts.map fun _ => 0
  | [(s, _)] => (upTo counts.length).map fun i => if i = s then 1 else 0
  | _ =>
    let all := ((packRounds items (limit - 1)).take (2 * used.length - 2)).flatMap (·.2)
    (upTo counts.length).map fun i => all.countP (· == i)

/-- How long the run of `v` at the head of a list is. -/
def runLen (v : Nat) : List Nat → Nat
  | [] => 0
  | x :: t => if x = v then runLen v t + 1 else 0

/-- The length sequence in code-length symbols (R145): symbol, extra bits, extra value. -/
def clSyms : Nat → Option Nat → List Nat → List (Nat × Nat × Nat)
  | 0, _, _ => []
  | _, _, [] => []
  | f + 1, prev, x :: t =>
    let n := runLen x (x :: t)
    if x = 0 then
      (if 11 ≤ n then (18, 7, min n 138 - 11) :: clSyms f (some 0) ((x :: t).drop (min n 138))
       else if 3 ≤ n then (17, 3, n - 3) :: clSyms f (some 0) ((x :: t).drop n)
       else (0, 0, 0) :: clSyms f (some 0) t)
    else if prev = some x ∧ 3 ≤ n then (16, 2, min n 6 - 3) :: clSyms f prev ((x :: t).drop (min n 6))
    else (x, 0, 0) :: clSyms f (some x) t

/-- A bit writer: the bits so far as a number, and their count. -/
structure Wr where
  acc : Nat
  cnt : Nat
  deriving DecidableEq, Repr

/-- A fixed-width field (R116). -/
def Wr.put (w : Wr) (n v : Nat) : Wr := ⟨w.acc + v % 2 ^ n * 2 ^ w.cnt, w.cnt + n⟩

/-- A code word, most significant bit first (R116). -/
def Wr.code (w : Wr) : Nat → Nat → Wr
  | 0, _ => w
  | n + 1, v => (w.put 1 (v / 2 ^ n % 2)).code n v

/-- Zero bits up to the next byte boundary. -/
def Wr.align (w : Wr) : Wr := ⟨w.acc, (w.cnt + 7) / 8 * 8⟩

def Wr.bytes (w : Wr) : List Byte := leBytes (w.cnt / 8) w.acc

/-- The code word of a symbol of a code. -/
def Wr.sym (w : Wr) (c : Code) (s : Nat) : Wr :=
  match c.words.find? (fun p => p.1 == s) with
  | some p => w.code p.2.1 p.2.2
  | none => w

/-- The block header (R118). -/
def Wr.header (w : Wr) (btype plane pitch : Nat) : Wr := ((w.put 2 btype).put 3 plane).put 14 (pitch - 1)

/-- The last index of a non-zero entry, plus one. -/
def sentCount (l : List Nat) : Nat := l.length - runLen 0 l.reverse

/-- The header and table description of a CODED block (R118, R121, R145), with the codes of alphabets A and D. -/
def codedHead (plane pitch : Nat) (syms : List Sym) (w : Wr) : Wr × Code × Code :=
  let aSyms := syms.map (fun s => match s with | .lit b => b.toNat | .mat l _ => (lenSym l).1) ++ [256]
  let dSyms := syms.filterMap (fun s => match s with | .lit _ => none | .mat _ d => some (distSym d pitch).1)
  let lenA := codeLengths 15 ((upTo 297).map fun i => aSyms.countP (· == i))
  let lenD := codeLengths 15 ((upTo 162).map fun i => dSyms.countP (· == i))
  let nA := max 257 (sentCount lenA)
  let nD := max 1 (sentCount lenD)
  let seq := clSyms 512 none (lenA.take nA ++ lenD.take nD)
  let lenC := codeLengths 7 ((upTo 19).map fun i => seq.countP (fun p => p.1 == i))
  let clIn := clOrder.map fun s => lenC.getD s 0
  let nC := max 4 (sentCount clIn)
  let cc := (mkCode false lenC).getD ⟨[], false⟩
  let ca := (mkCode false lenA).getD ⟨[], false⟩
  let cd := (mkCode true lenD).getD ⟨[], false⟩
  let w := (((w.header 1 plane pitch).put 6 (nA - 257)).put 8 (nD - 1)).put 4 (nC - 4)
  let w := (clIn.take nC).foldl (fun w v => w.put 3 v) w
  (seq.foldl (fun w p => (w.sym cc p.1).put p.2.1 p.2.2) w, ca, cd)

/-- One symbol in the codes of its block (R125, R127). -/
def putSym (pitch : Nat) (ca cd : Code) (w : Wr) : Sym → Wr
  | .lit b => w.sym ca b.toNat
  | .mat l d =>
    let ls := lenSym l
    let ds := distSym d pitch
    (((w.sym ca ls.1).put ls.2.1 ls.2.2).sym cd ds.1).put ds.2.1 ds.2.2

/-- A CODED block of symbols (R121 to R125, R145). -/
def codedBlock (plane pitch : Nat) (syms : List Sym) (w : Wr) : Wr :=
  let (w, ca, cd) := codedHead plane pitch syms w
  (syms.foldl (putSym pitch ca cd) w).sym ca 256

/-- A STORED block of bytes (R120). -/
def storedBlock (plane pitch : Nat) (bytes : List Byte) (w : Wr) : Wr :=
  let w := (w.header 0 plane pitch).align
  bytes.foldl (fun w b => w.put 8 b.toNat) (w.put 16 (bytes.length - 1))

/-- The blocks of a band from position `p`, `stop` being its end (R145). -/
def bandBlocks (cfg : ChsCfg) (plane pitch : Nat) (data : List Byte) (stop : Nat) : Nat → Nat → Wr → Wr
  | 0, _, w => w
  | f + 1, p, w =>
    if stop ≤ p then w else
    let e := min stop (p + cfg.blockKib * 1024)
    let coded := codedBlock plane pitch (blockSyms cfg pitch data e (e - p) p) w
    let stored := storedBlock plane pitch ((data.drop p).take (e - p)) w
    bandBlocks cfg plane pitch data stop f e (if stored.cnt < coded.cnt then stored else coded)

/-- The END_OF_BAND record (R131). -/
def endOfBand (plane pitch : Nat) (raw : List Byte) (w : Wr) : Wr :=
  (((w.header 2 plane pitch).align).put 32 (crc32c raw)).put 32 raw.length

/-- A place at which a chisel's emission can stand: the bits emitted, PHASE (Table 6.3), the raw bytes they cover, the raw offset of the block
and the symbols of it already emitted. -/
structure Stand where
  bit   : Nat
  phase : Nat
  raw   : Nat
  blk   : Nat
  done  : Nat
  deriving DecidableEq, Repr

/-- Raw bytes a symbol covers. -/
def Sym.size : Sym → Nat
  | .lit _ => 1
  | .mat l _ => l

/-- The places within the symbols of a CODED block, from the one after its table description on. -/
def symStands (pitch blk : Nat) (ca cd : Code) : Wr → Nat → Nat → List Sym → List Stand
  | w, raw, done, [] => [⟨w.cnt, 3, raw, blk, done⟩]
  | w, raw, done, x :: l => ⟨w.cnt, 3, raw, blk, done⟩ :: symStands pitch blk ca cd (putSym pitch ca cd w x) (raw + x.size) (done + 1) l

/-- The places of the emission of a band, block by block as `bandBlocks` makes them; `h` history bytes precede it. -/
def bandStands (cfg : ChsCfg) (plane pitch : Nat) (data : List Byte) (h stop : Nat) : Nat → Nat → Wr → List Stand
  | 0, _, _ => []
  | f + 1, p, w =>
    if stop ≤ p then [⟨w.cnt, 5, p - h, p - h, 0⟩] else
    let e := min stop (p + cfg.blockKib * 1024)
    let syms := blockSyms cfg pitch data e (e - p) p
    let coded := codedBlock plane pitch syms w
    let stored := storedBlock plane pitch ((data.drop p).take (e - p)) w
    let head : Stand := ⟨w.cnt, 1, p - h, p - h, 0⟩
    if stored.cnt < coded.cnt then
      head :: (upTo (e - p)).map (fun i => ⟨stored.cnt - 8 * (e - p - i), 4, p - h + i, p - h, i⟩) ++
        bandStands cfg plane pitch data h stop f e stored
    else
      let (w0, ca, cd) := codedHead plane pitch syms w
      head :: symStands pitch (p - h) ca cd w0 (p - h) 0 syms ++ bandStands cfg plane pitch data h stop f e coded

/-- The stream of one band: settings, plane, pitch, the history bytes in order and the raw bytes. -/
def chiselStream (cfg : ChsCfg) (plane pitch : Nat) (history raw : List Byte) : List Byte :=
  let h := lastN winMax history
  let data := h ++ raw
  (endOfBand plane pitch raw
    (bandBlocks cfg plane pitch data data.length (raw.length + 1) h.length ⟨0, 0⟩)).bytes

end Sys2Proof.Machine
end

