-- ==== Sys2Proof/Machine/Contexts.lean ====
section
/-! DEFINITION. Stream contexts (R156, Table 6.3): the record of 64 words a context save writes for a cast and for a chisel. -/
namespace Sys2Proof.Machine

/-- The matches of a band in stream order. -/
def DecOut.copies (d : DecOut) : List Copy := (d.log.filter (fun m => m.dist != 0)).map (fun m => ⟨m.pos, m.len, m.dist⟩)

/-- The fields of a context record beyond the band's identity (Table 6.3). -/
structure CtxRec where
  kind  : Nat
  phase : Nat
  err   : Nat
  held  : Nat
  out   : Nat
  crc   : Nat
  bits  : Nat
  cnt   : Nat
  mlen  : Nat
  mdist : Nat
  lit   : Option Byte
  pos   : Nat
  blk   : Nat
  left  : Nat
  deriving DecidableEq, Repr

/-- The record's words: band `r` of a plane with a line pitch. -/
def CtxRec.words (c : CtxRec) (r : BandRef) (pitch : Nat) : List Word :=
  [wd (c.kind + r.plane * 4 + (pitch - 1) * 32 + c.phase * 2 ^ 19 + c.err * 2 ^ 22), wd c.held, wd (c.held % winMax), wd c.out, wd c.crc,
   wd (c.bits % 2 ^ 32), wd (c.bits / 2 ^ 32), wd (c.cnt + c.mlen * 64),
   wd (c.mdist + (match c.lit with | some b => b.toNat * 2 ^ 18 + 2 ^ 26 | none => 0)), wd c.pos, wd c.blk, wd c.left,
   wd (r.band % 8192 + r.plane * 8192 + r.page * 65536), wd r.job] ++ List.replicate 50 0

/-- The CRC-32C of bytes before its final XOR. -/
def crcRun (l : List Byte) : Nat := Nat.xor (crc32c l) 0xFFFFFFFF

/-- The most recent bytes of a window (latest first) behind `w` bytes of output: what the history area takes, oldest first. -/
def historyOf (win0 out : List Byte) (w : Nat) : List Byte := (((out.take w).reverse ++ win0).take winMax).reverse

/-- The record of a cast that has parsed `w` of a band's output bytes (R156). `hold`: it stands before the next byte with its symbol read
(R153); `k` tells how many whole bytes beyond the symbol the reservoir holds. -/
def castRec (kind : Nat) (comp win0 : List Byte) (d : DecOut) (w k : Nat) (hold : Bool) : CtxRec :=
  let next := d.log.find? (fun m => decide (w < m.pos + m.len))
  let mid := match next with | some m => decide (m.pos < w) || hold | none => false
  let bit := match next with
    | some m => if mid then m.bit1 else m.bit0
    | none => match d.log.getLast? with | some m => m.bit1 | none => 0
  let all := 8 * comp.length
  let cnt := Nat.min ((8 - bit % 8) % 8 + 8 * (k % 8)) (all - bit)
  let cnt := if 63 < cnt then cnt - 8 else cnt
  { kind := kind, held := (historyOf win0 d.out w).length, out := w, crc := crcRun (d.out.take w), err := if next.isNone then d.err else 0,
    phase := (match next with | some m => if m.stored then 4 else 3 | none => if d.err = 0 then 5 else 6),
    bits := ofLe comp / 2 ^ bit % 2 ^ cnt, cnt := cnt, pos := (bit + cnt) / 8,
    mlen := (match next with | some m => if mid && m.dist != 0 then m.pos + m.len - w else 0 | none => 0),
    mdist := (match next with | some m => if mid then m.dist else 0 | none => 0),
    lit := (match next with | some m => if mid && m.dist == 0 then some (d.out.getD w 0) else none | none => none),
    blk := (match next with | some m => m.blk | none => 0),
    left := (match next with | some m => m.left | none => 0) }

/-- Where the emission of a chisel can stand with `emitted` bytes out and up to 63 bits pending (R146): a place between two symbols, `k`
choosing among those in reach, or within the table description after the last place before them. -/
def standAt (l : List Stand) (emitted k : Nat) : Stand :=
  let near := l.filter (fun x => decide (8 * emitted ≤ x.bit) && decide (x.bit ≤ 8 * emitted + 63))
  if near.isEmpty then
    match (l.filter (fun x => decide (x.bit < 8 * emitted))).getLast? with
    | some x => { x with phase := 2, bit := 8 * emitted + k % 64 }
    | none => ⟨8 * emitted, 0, 0, 0, 0⟩
  else near.getD (k % near.length) ⟨0, 0, 0, 0, 0⟩

/-- The record of a chisel that has emitted `emitted` bytes of its stream and stands at `x` (R156). -/
def chiselRec (stream hist raw : List Byte) (emitted : Nat) (x : Stand) : CtxRec :=
  { kind := 3, phase := x.phase, err := 0, held := (historyOf hist.reverse raw x.raw).length, out := x.raw, crc := crcRun (raw.take x.raw),
    bits := ofLe stream / 2 ^ (8 * emitted) % 2 ^ (x.bit - 8 * emitted), cnt := x.bit - 8 * emitted, mlen := 0, mdist := 0, lit := none,
    pos := emitted, blk := x.blk, left := x.done }

end Sys2Proof.Machine
end

