-- ==== Sys2Proof/Machine/Codec.lean ====
section
/-! DEFINITION. Casts and chisels at work (chapter 6, R134 to R140): release of bands to the casts, output decoding into line
slots, check-ahead passes, compression of raw bands, stalls, contexts and units leaving service. -/
namespace Sys2Proof.Machine

/-- The casts of station `k` in service, as a map. -/
def State.castMap (s : State) (k : Nat) : Nat :=
  sumN ((upTo 2).map (fun i => if 2 * k + i < s.id.casts && (s.cast (2 * k + i)).inServ then 2 ^ (2 * k + i) else 0))

/-- The cast that output-decodes band `b` where the casts of `m` share the plane of station `k` (R149). -/
def castFor (m k b : Nat) : Nat :=
  let c := 2 * k + b % 2
  if natBit m c then c else 2 * k + (1 - b % 2)

/-- The cast that runs the check-ahead pass of band `b` (R154): the partner of the one that will output-decode it. -/
def checkCast (m k b : Nat) : Nat :=
  let c := castFor m k b
  let o := 4 * k + 1 - c
  if natBit m o then o else c

/-- Stream contexts in use on this die (R432, CST_CTX). -/
def State.ctxUsed (s : State) : Nat :=
  s.codec.runs.length + s.codec.aheads.countP (·.on) + s.codec.wins.countP (fun w => s.wantsWin w.job w.page w.station)
    + (if s.id.isH || s.id.isE then 0 else s.codec.saved.length)

/-- The most contexts in use is kept up to date. -/
def State.ctxSeen (s : State) : State := { s with codec := { s.codec with ctxMax := Nat.max s.codec.ctxMax s.ctxUsed } }

/-- The window the first band of a plane starts with (R134): empty, or as decoding of the plane of the source page left it. -/
def State.startWin (s : State) (p : Page) (job k : Nat) : List Byte :=
  match p.carry, p.source with
  | true, some q =>
    match s.codec.wins.find? (fun w => w.job == job && w.page == q && w.station == k) with
    | some w => w.win
    | none => []
  | _, _ => []

/-- The window a page would start with is settled: it carries none, or its source page's decoding is over (R134). -/
def State.sourceOver (s : State) (p : Page) (job k : Nat) : Bool :=
  match p.carry, p.source with
  | true, some q => s.codec.wins.any (fun w => w.job == job && w.page == q && w.station == k) ||
      (match s.page? job q with | some x => x.released | none => true)
  | _, _ => true

/-- Decoding of the plane of the source page has not ended yet (R134): a carrying plane waits for its window. -/
def State.sourceBusy (s : State) (p : Page) (job k : Nat) : Bool :=
  match p.carry, p.source with
  | true, some q => s.codec.runs.any (fun r => r.job == job && r.page == q && r.station == k) &&
      !s.codec.wins.any (fun w => w.job == job && w.page == q && w.station == k)
  | _, _ => false

/-- A cast still decodes a band of the plane for a sheet. -/
def State.decoding (s : State) (tok k : Nat) : Bool :=
  s.codec.casts.any (fun c => match c.out with | some j => j.tok == tok && j.station == k | none => false)

/-- The window of a plane whose decoding has ended is kept where a page carries from it, or one still to be described may (R134, R432). -/
def State.keepWin (s : State) (job page k : Nat) (win : List Byte) : State :=
  if (s.wantsWin job page k || s.maySource job page) && !s.codec.wins.any (fun w => w.job == job && w.page == page && w.station == k) then
    { s with codec := { s.codec with wins := s.codec.wins ++ [{ job := job, page := page, station := k, win := win }] } }
  else s

/-- CST_n_ERRCNT, CST_n_OUT_KIB and CST_n_AHEAD. -/
def cstA (n o : Nat) : Nat := cstB + 0x100 + 0x20 * n + o

/-- Bytes counted in whole KiB, the remainder carried (Tables 6.5 and 6.7). -/
def addKib (rem n : Nat) : Nat × Nat := ((rem + n) / 1024, (rem + n) % 1024)

/-- A stream error met by cast `n` (R135): its status, its count and CST_CHECK. -/
def State.streamError (s : State) (n err src band page : Nat) : State :=
  let s1 := s.modCast n (fun c => { c with lastErr := err, errSrc := src, errBand := (band, page) })
  (s1.bump (cstA n 0xC) 0 16 1).raise (128 + n) (n + err * 256 + src * 4096)

/-- The lines of a sheet that a station has judged so far. -/
def Station.judgedOf (x : Station) (tok : Nat) : List (Nat × Bool) :=
  match x.img with
  | some g => if g.tok == tok then g.judged else []
  | none => []

/-- Every line of a band has been judged for the sheet. -/
def Station.allJudged (x : Station) (tok first lines : Nat) : Bool :=
  let j := x.judgedOf tok
  decide (lines ≤ j.countP (fun e => decide (first ≤ e.1) && decide (e.1 < first + lines)))

/-- Slots of a station that hold no line. -/
def Station.freeSlots (x : Station) : Nat := x.alloc - x.slots.length

/-- Slots whose line the filter names become FREE; slots still owed under R433 are given back. -/
def Station.freeWhere (x : Station) (f : LineSlot → Bool) : Station :=
  let slots := x.slots.filter (fun y => !f y)
  let want := x.alloc - x.giveBack
  let alloc := Nat.max want slots.length
  { x with slots := slots, alloc := alloc, giveBack := alloc - want }

/-- A line of the sheet of token `tok` has a slot, which holds what the line will read as once it is FULL. The answer is `none` where no slot
is free (R153); a line judged before it had a slot is discarded (R111). -/
def Station.openLine (x : Station) (tok line : Nat) (data : List Byte) (bad : Bool) : Option Station :=
  if x.slots.any (fun y => y.tok == tok && y.line == line) || (x.judgedOf tok).any (fun e => e.1 == line) then some x
  else if x.freeSlots = 0 then none
  else some { x with slots := x.slots ++ [{ tok := tok, line := line, st := .filling, bad := bad, data := data }] }

/-- A queued match still owes some byte from `lo` to before `hi`. -/
def owes (q : List Copy) (lo hi : Nat) : Bool := q.any (fun c => decide (c.pos < hi) && decide (lo < c.pos + c.len))

/-- The output bytes from `lo` to before `hi` have been written. -/
def CastJob.has (j : CastJob) (lo hi : Nat) : Bool := decide (hi ≤ lo) || (decide (hi ≤ j.written) && !owes j.queue lo hi)

/-- Every source byte of a match has been written (R150): those of its own band before it, and, reaching behind the band, those of the band
before it, which the partner cast may still decode. -/
def CastJob.ready (j : CastJob) (prev : Option CastJob) (c : Copy) : Bool :=
  let own := c.pos - c.dist
  let last := c.pos - (c.dist - Nat.min c.len c.dist)
  !owes j.queue own last &&
  (match prev with
   | some p => p.has (p.out.length + c.pos - c.dist) (p.out.length + Nat.min (c.pos + c.len) c.dist - c.dist) || decide (c.dist ≤ c.pos)
   | none => true)

/-- Queued matches execute in stream order as their sources complete (R150). -/
def CastJob.drain (prev : Option CastJob) : Nat → CastJob → CastJob
  | 0, j => j
  | f + 1, j =>
    match j.queue with
    | [] => j
    | c :: q => if j.ready prev c then CastJob.drain prev f { j with queue := q } else j

/-- Up to `k` bytes of a cast's symbols are parsed: literals and matches whose sources are written are written at once, other matches are
queued, and a queue of 1,024 entries stalls the parsing (R150). The flag tells whether it stalled on a slot (R153). -/
def parseOut (prev : Option CastJob) : Nat → Nat → CastJob → Station → CastJob × Bool × Station
  | 0, _, j, x => (j, false, x)
  | f + 1, k, j, x =>
    let pos := j.written
    if k = 0 ∨ j.out.length ≤ pos then (j, false, x)
    else
      let line := pos / j.pitch
      match x.openLine j.tok (j.first + line) ((j.out.drop (line * j.pitch)).take j.pitch) (j.verdict == 2) with
      | none => (j, true, x)
      | some y =>
        let now := match j.todo with | c :: _ => if c.pos = pos then some c else none | [] => none
        let wait := match now with | some c => !j.ready prev c | none => false
        if wait && decide (1024 ≤ j.queue.length) then (j, false, y)
        else
          let rest := if now.isSome then j.todo.drop 1 else j.todo
          let reach := match rest with | c :: _ => c.pos - pos | [] => j.out.length - pos
          let n := Nat.min k (Nat.min (j.pitch - pos % j.pitch) (Nat.min reach (j.out.length - pos)))
          let j1 : CastJob := { j with written := pos + n, todo := rest, queue := if wait then j.queue ++ now.toList else j.queue }
          parseOut prev f (k - n) j1 y

/-- Lines of the band whose last byte has been written are FULL (R181), unless the band failed ahead (R137). -/
def CastJob.settle (j : CastJob) (x : Station) : Station :=
  { x with slots := x.slots.map (fun (y : LineSlot) =>
      if y.tok == j.tok && y.st == .filling && j.verdict != 2 && decide (j.first ≤ y.line) && decide ((y.line - j.first) * j.pitch < j.out.length)
        && j.has ((y.line - j.first) * j.pitch) ((y.line - j.first + 1) * j.pitch)
      then { y with st := .full } else y) }

/-- The band before `j` in its plane, where the partner of cast `n` still decodes it. -/
def State.prevJob (s : State) (n : Nat) (j : CastJob) : Option CastJob :=
  match (s.cast (4 * (n / 2) + 1 - n)).out with
  | some p => if p.tok == j.tok && p.station == j.station && p.band + 1 == j.band then some p else none
  | none => none

/-- Cast `n` goes on, by up to `k` bytes; what its partner has written is taken as it stood in `old` (R157). -/
def State.castStep (old s : State) (n k : Nat) : State :=
  match (s.cast n).out with
  | none => s
  | some j =>
    let prev := old.prevJob n j
    let j1 := j.drain prev j.queue.length
    let (j2, stall, x) := parseOut prev (k + 1) k j1 (s.st j.station)
    let (kib, rem) := addKib (s.cast n).rem (j2.written - j.written)
    let s1 := s.modStn j.station (fun _ => j2.settle x)
    (s1.modCast n (fun c => { c with out := some j2, stalled := stall, rem := rem })).bump (cstA n 0x10) 0 32 kib

/-- Cast `n` goes on, by up to `k` bytes. -/
def State.castWrite (s : State) (n k : Nat) : State := s.castStep s n k

/-- The next released band of a plane starts on its cast once it is RESIDENT and the cast is free (R100, R111, R149); its cast shows
WAIT_DATA until then. -/
def State.startBand (s : State) (r : PlaneRun) : Option State :=
  if r.lost || r.released ≤ r.next then none
  else
    let n := castFor r.casts r.station r.next
    match s.page? r.job r.page, s.band? ⟨r.job, r.page, r.station, r.next⟩ with
    | some p, some b =>
      match p.plane? r.station with
      | none => none
      | some q =>
        if (s.cast n).out.isSome || !(s.cast n).inServ || (r.next = 0 && s.sourceBusy p r.job r.station) then none
        else if b.res != .resident then some (s.modCast n (fun c => { c with waiting := true }))
        else
          let win := if r.next = 0 then s.startWin p r.job r.station else r.win
          let d := decodeBand r.station q.pitch b.lines b.stream win
          let j : CastJob := { tok := r.tok, job := r.job, page := r.page, station := r.station, band := r.next, pitch := q.pitch, first := b.first,
                               err := d.err, out := d.out, win0 := win, written := 0, todo := d.copies, queue := [], verdict := b.ahead }
          let s1 := s.modCast n (fun c => { c with out := some j, waiting := false, stalled := false })
          some { s1 with codec := { s1.codec with runs := s1.codec.runs.map (fun (x : PlaneRun) =>
            if x.job == r.job && x.page == r.page && x.station == r.station && x.tok == r.tok
            then { x with next := r.next + 1, win := d.win } else x) } }
    | _, _ => none

/-- Every plane under way starts what it can; windows kept for planes that have begun are dropped. -/
def State.pump (s : State) : State :=
  let once (s : State) : State := s.codec.runs.foldl (fun s r => (s.startBand r).getD s) s
  (once (once s)).sweepWins

/-- A band is PRINTED for the sheet of token `tok`, or at once RESIDENT where another admitted sheet prints its page (Table 4.1). -/
def State.bandIsPrinted (s : State) (tok : Nat) (r : BandRef) : State :=
  let s1 := s.setRes r .printed
  if s1.wantedAfter tok r.job r.page then s1.reuse r else s1

/-- A band becomes DECODED, or PRINTED where the scan engine has already judged all its lines (Table 4.1). -/
def State.bandIsDecoded (s : State) (tok : Nat) (r : BandRef) (first lines : Nat) : State :=
  let s1 := s.setRes r .decoded
  if (s1.st r.plane).allJudged tok first lines then s1.bandIsPrinted tok r else s1

/-- Output decoding of a band ends on cast `n` (R135, R136). -/
def State.finishBand (s : State) (n : Nat) (j : CastJob) : State :=
  let s1 := s.modCast n (fun c => { c with out := none, stalled := false, waiting := false })
  let r : BandRef := ⟨j.job, j.page, j.station, j.band⟩
  let lines := match s.band? r with | some b => b.lines | none => 0
  let s2 :=
    if j.err = 0 then s1
    else
      let inBand (l : Nat) : Bool := decide (j.first ≤ l) && decide (l < j.first + lines)
      let printed := ((s1.st j.station).judgedOf j.tok).countP (fun e => inBand e.1 && e.2)
      let a := (s1.streamError n j.err 0 j.band j.page).bump (cstA n 0xC) 16 16 printed
      let b := (a.modBand r (fun b => { b with ahead := 2 })).modStn j.station (fun x =>
        { x with slots := x.slots.map (fun y =>
            if y.tok == j.tok && inBand y.line && y.st != .printing then { y with bad := true } else y) })
      b.flagTok j.tok fCheck none
  let s3 := s2.bandIsDecoded j.tok r j.first lines
  let all := match s3.plane? j.job j.page j.station with | some q => q.bands.length | none => 0
  let s4 := match s3.codec.runs.find? (fun x => x.tok == j.tok && x.station == j.station) with
    | some x => if all ≤ x.next && !s3.decoding j.tok j.station then s3.keepWin j.job j.page j.station x.win else s3
    | none => s3
  s4.pump

/-- A plane under way from the release of its first band (R155). -/
def State.newRun (s : State) (tok station : Nat) : PlaneRun :=
  let t := s.tok tok
  { job := t.job, page := t.page, station := station, tok := tok, released := 0, next := 0, win := [],
    casts := s.castMap station, lost := s.castMap station == 0 }

/-- R100, R137, R149: a band's release time has come and it is handed to the station's casts, verified, failed ahead or unverified. -/
def execBandRelease (tok station band : Nat) (s : State) : Ans :=
  let t := s.tok tok
  if s.inReset || !t.busy || s.id.stations ≤ station || !natBit t.stations station then .next s
  else
    match s.page? t.job t.page with
    | none => .next s
    | some p =>
      match (p.plane? station).bind (fun q => q.band? band) with
      | none => .next s
      | some b =>
        let here (x : PlaneRun) : Bool := x.job == t.job && x.page == t.page && x.station == station && x.tok == tok
        let s1 :=
          if band = 0 && !s.codec.runs.any here then
            { s with codec := { s.codec with runs := s.codec.runs ++
                [s.newRun tok station] } }
          else s
        match s1.codec.runs.find? here with
        | none => .next s
        | some r =>
          if r.released ≠ band then .next s
          else
            let n := castFor r.casts station band
            let s2 := { s1 with codec := { s1.codec with runs := s1.codec.runs.map (fun x =>
                          if here x then { x with released := band + 1 } else x) } }
            let s3 :=
              if b.ahead = 0 then
                let old (a : Ahead) : Bool := a.job == t.job && a.page == t.page && a.station == station
                let a0 : Ahead := { job := t.job, page := t.page, station := station, next := 0, win := [], on := false }
                let mine (c : Cast) : Bool := match c.check with
                  | some k => k.job == t.job && k.page == t.page && k.station == station
                  | none => false
                { s2 with codec := { s2.codec with
                    aheads := s2.codec.aheads.filter (fun a => !old a) ++ [a0],
                    casts := s2.codec.casts.map (fun c => if mine c then { c with check := none } else c) } }.bump (cstA n 0x14) 16 16 1
              else if b.ahead = 1 then s2.bump (cstA n 0x14) 0 16 1
              else s2
            .next s3.pump.ctxSeen

/-- R93, R111, R153: the last byte of a band is in the band store; a cast that waits for it starts. -/
def execBandResident (r : BandRef) (s : State) : Ans :=
  match s.band? r with
  | none => .next s
  | some b => if s.inReset || b.res != .inTransit || s.partsLeft r then .next s else .next ((s.nowResident r).pump.ctxSeen)

/-- Decoding of a band stops short on a word that cannot be read (R253): the next band of the plane, unless it has begun, starts with the window
as it stands (R136). -/
def State.stopShort (s : State) (j : CastJob) : State :=
  let here (x : PlaneRun) : Bool := x.tok == j.tok && x.station == j.station && x.next == j.band + 1
  let w := ((j.out.take j.written).reverse ++ j.win0).take winMax
  { s with codec := { s.codec with runs := s.codec.runs.map (fun x => if here x then { x with win := w } else x) } }

/-- R135, R93: output decoding of the band on cast `n` ends; a cast without a free slot for what is left stalls instead (R153), and matches
whose sources are not written yet stay queued (R150). At an uncorrectable word of the band store the band ends with stream error CHECK (R253). -/
def execBandDecoded (n : Nat) (s : State) (hits : List MemHit := []) : Ans :=
  match (s.cast n).out with
  | none => .next s
  | some j =>
    let s0 := s.memHits hits
    if hits.any (·.ue) then .next (((s0.stopShort j).finishBand n { j with err := if j.err = 0 then 1 else j.err }).ctxSeen) else
    let s1 := s0.castWrite n j.out.length
    match (s1.cast n).out with
    | some k => if k.written = k.out.length ∧ k.queue = [] then .next ((s1.finishBand n k).ctxSeen) else .next s1
    | none => .next s1

/-- The next band in which check-ahead of a plane stands, with the window it starts with; `none` where no pass runs any more. -/
def State.aheadOf (s : State) (p : Page) (job k : Nat) : Option (Nat × List Byte) :=
  match s.codec.aheads.find? (fun a => a.job == job && a.page == p.page && a.station == k) with
  | some a => if a.on then some (a.next, a.win) else none
  | none =>
    let waits := match p.carry, p.source with
      | true, some q => (match s.page? job q with | some x => !x.released && (x.plane? k).isSome | none => false) &&
          !s.codec.wins.any (fun w => w.job == job && w.page == q && w.station == k)
      | _, _ => false
    if waits then none else some (0, s.startWin p job k)

/-- R137, R154: the check-ahead pass of a RESIDENT band not yet released starts on its cast. -/
def execCheckAheadStart (r : BandRef) (s : State) : Ans :=
  match s.page? r.job r.page, s.band? r with
  | some p, some b =>
    match p.plane? r.plane, s.aheadOf p r.job r.plane with
    | some q, some (next, win) =>
      let m := s.castMap r.plane
      let n := checkCast m r.plane r.band
      let released := s.codec.runs.any (fun x => x.job == r.job && x.page == r.page && x.station == r.plane &&
        decide (r.band < x.released) && decide (x.next ≤ r.band))
      if s.inReset || b.res != .resident || next ≠ r.band || released || m = 0 || (s.cast n).check.isSome then .next s
      else
        let d := decodeBand r.plane q.pitch b.lines b.stream win
        let k : CheckJob := { job := r.job, page := r.page, station := r.plane, band := r.band, err := d.err, win := d.win }
        let rest := s.codec.aheads.filter (fun (a : Ahead) => !(a.job == r.job && a.page == r.page && a.station == r.plane))
        let s1 := { s with codec := { s.codec with
          aheads := rest ++ [({ job := r.job, page := r.page, station := r.plane, next := r.band, win := win, on := true } : Ahead)] } }
        .next ((s1.modCast n (fun c => { c with check := some k })).ctxSeen)
    | _, _ => .next s
  | _, _ => .next s

/-- R137, R154: the check-ahead pass on cast `n` ends, verified or with a stream error; after the plane's last band its passes end, and start
again for the next sheet of the page where its first band is RESIDENT once more (Table 4.1). -/
def execCheckAheadEnd (n : Nat) (s : State) (hits : List MemHit := []) : Ans :=
  match (s.cast n).check with
  | none => .next s
  | some k0 =>
    let k : CheckJob := if k0.err = 0 && hits.any (·.ue) then { k0 with err := 1 } else k0
    let s1 := (s.memHits hits).modCast n (fun c => { c with check := none })
    let s2 := if k.err = 0 then s1 else s1.streamError n k.err 1 k.band k.page
    let s3 := s2.modBand ⟨k.job, k.page, k.station, k.band⟩ (fun b => { b with ahead := if k.err = 0 then 1 else 2 })
    let last := match s3.plane? k.job k.page k.station with | some q => decide (q.bands.length ≤ k.band + 1) | none => true
    let again := last && (match s3.band? ⟨k.job, k.page, k.station, 0⟩ with | some b => b.res == .resident && b.ahead == 0 | none => false)
    if again then
      .next { s3 with codec := { s3.codec with aheads := s3.codec.aheads.filter (fun (a : Ahead) =>
        !(a.job == k.job && a.page == k.page && a.station == k.station)) } }
    else .next { s3 with codec := { s3.codec with aheads := s3.codec.aheads.map (fun (a : Ahead) =>
      if a.job == k.job && a.page == k.page && a.station == k.station then { a with next := k.band + 1, win := k.win, on := !last } else a) } }

/-- R153, R157: a slot has become free; the stalled cast goes on at the byte at which it stopped. -/
def execCastStallResume (n : Nat) (s : State) : Ans :=
  if (s.cast n).stalled then .next (s.castWrite n 1) else .next s

/-- The window of a plane as it stands: that of the last band decoded whole, with what has been written in one piece of the first one in
decoding (R134). -/
def State.windowNow (s : State) (r : PlaneRun) : List Byte :=
  let mine := s.codec.casts.filterMap (fun c => match c.out with
    | some j => if j.tok == r.tok && j.station == r.station then some j else none
    | none => none)
  match minBy (·.band) mine with
  | some j => ((j.out.take (j.queue.foldl (fun a c => Nat.min a c.pos) j.written)).reverse ++ j.win0).take winMax
  | none => r.win

/-- Casts of station `k` that have come to the end of a band which stops on a stream error: it is found before they leave their band
(R135, R157). -/
def State.lastErrors (s : State) (k : Nat) : State :=
  s.each [2 * k, 2 * k + 1] (fun s n =>
    match (s.cast n).out with
    | some j => if j.err ≠ 0 ∧ j.written = j.out.length then (s.streamError n j.err 0 j.band j.page).flagTok j.tok fCheck none else s
    | none => s)

/-- R155: cast `n` leaves service; every plane of its station that is under way gets no further lines, and keeps its window as it stands
(R134). -/
def State.castOut (s0 : State) (n : Nat) : State :=
  let k := n / 2
  let s := s0.lastErrors k
  let s1 := s.modCast n (fun c => { c with inServ := false, lastErr := 0, errSrc := 0, check := none })
  let ended := match (s.cast n).check with
    | some j => s1.codec.aheads.map (fun (a : Ahead) =>
        if a.job == j.job && a.page == j.page && a.station == j.station then { a with on := false } else a)
    | none => s1.codec.aheads
  let s2 := { s1 with codec := { s1.codec with
    aheads := ended,
    runs := s1.codec.runs.map (fun (x : PlaneRun) => if x.station == k then { x with lost := true, win := s.windowNow x } else x),
    casts := s1.codec.casts.mapIdx (fun i (c : Cast) => if i / 2 == k then { c with out := none, waiting := false, stalled := false } else c) } }
  s2.raise (128 + n) n

/-- A sheet's plane at a station whose decoding never began leaves its window as it would have started (R134). -/
def State.endUnbegun (s : State) (tok station : Nat) : State :=
  let t := s.tok tok
  match s.page? t.job t.page with
  | some p => if (p.plane? station).isSome && !natBit t.ended station && s.sourceOver p t.job station
      then s.keepWin t.job t.page station (s.startWin p t.job station) else s
  | none => s

/-- Decoding of a plane ends with the imaging of its page: a window some page carries from is kept, its casts are free (R134, R432), and the
sheet's line slots with them. -/
def State.endPlane (s : State) (tok station : Nat) : State :=
  match s.codec.runs.find? (fun r => r.tok == tok && r.station == station) with
  | none => s.endUnbegun tok station
  | some r =>
    let s := s.keepWin r.job r.page r.station (s.windowNow r)
    let stays := s.wantedAfter tok r.job r.page
    let here (a : Ahead) : Bool := a.job == r.job && a.page == r.page && a.station == station && !(a.on && stays)
    ({ s with
      stn := updAt s.stn station (fun x => x.freeWhere (fun y => y.tok == tok)),
      codec := { s.codec with
        runs := s.codec.runs.filter (fun (x : PlaneRun) => !(x.tok == tok && x.station == station)),
        aheads := s.codec.aheads.filter (fun (a : Ahead) => !here a),
        casts := s.codec.casts.map (fun (c : Cast) =>
          { c with out := (match c.out with | some j => if j.tok == tok && j.station == station then none else some j | none => none),
                   check := (match c.check with
                     | some j => if j.job == r.job && j.page == r.page && j.station == station && !stays then none else some j
                     | none => none),
                   waiting := c.waiting && !(match c.out with | some j => j.tok == tok && j.station == station | none => true) }) } } : State).pump.ctxSeen

/-- Chisel `n` of this die is in service. -/
def State.chsServ (s : State) (n : Nat) : Bool := decide (n < s.id.chisels) && (s.chs n).st != .out

/-- CHS_CTRL as a band starts (Table 6.6, R157). -/
def State.chsCfg (s : State) : ChsCfg :=
  { depth := s.f chsB 0 9, lazy := s.flag chsB 9, rowProbe := s.flag chsB 10, nice := s.f chsB 11 11, blockKib := s.f chsB 22 7 }

/-- The band whose raw bytes prime a band (R140): its predecessor in the plane, or the last band of the plane of the source page. -/
def State.primeBand (s : State) (r : BandRef) : Option Band :=
  if r.band ≠ 0 then s.band? { r with band := r.band - 1 }
  else
    match s.page? r.job r.page with
    | none => none
    | some p =>
      match p.carry, p.source with
      | true, some q => (s.plane? r.job q r.plane).bind (fun pl => pl.bands.getLast?)
      | _, _ => none

/-- A raw band can start: what primes it is complete (R140). -/
def State.canPrime (s : State) (r : BandRef) : Bool :=
  match s.primeBand r with
  | none => true
  | some b => b.compLen != 0 || b.handed || b.res != .absent || !b.stream.isEmpty

/-- R140: the next raw band in order of arrival goes to the lowest-numbered idle chisel in service, which primes first. -/
def execChiselAssign (s : State) : Ans :=
  if s.inReset then .next s
  else
    match (upTo 8).find? (fun n => s.chsServ n && (s.chs n).st == .idle), s.codec.rawQ.find? s.canPrime with
    | some n, some r =>
      match s.band? r, s.plane? r.job r.page r.plane with
      | some b, some q =>
        let hist := b.hist.getD (match s.primeBand r with | some x => lastN winMax x.raw | none => [])
        let stream := chiselStream s.chsCfg r.plane q.pitch hist b.raw
        let s1 := { s with codec := { s.codec with rawQ := s.codec.rawQ.filter (· != r) } }
        let s2 := if hist.isEmpty then (s1.modBand r (fun (x : Band) => { x with hist := some [] })).sweepRaw else s1
        let s3 := s2.seqTake 16 (.raw r) b.raw.length
        .next (s3.modChs n (fun c => { c with st := if hist.isEmpty then .matching else .priming, ref := some r, stream := stream,
                                              emitted := 0, prime := hist.length, t0 := s.clk, raw := b.raw.length, ctx := 0 }))
      | _, _ => .next { s with codec := { s.codec with rawQ := s.codec.rawQ.filter (· != r) } }
    | _, _ => .next s

/-- A chisel has primed: the raw bytes of the band before are no longer needed (R140); the band keeps what primed it for a restart (R148). -/
def State.primed (s : State) (r : BandRef) : State :=
  match s.band? r with
  | some b =>
    if b.hist.isSome then s
    else (s.modBand r (fun (x : Band) => { x with hist := some (match s.primeBand r with | some y => lastN winMax y.raw | none => []) })).sweepRaw
  | none => s

/-- R139, R93, R435: chisel `n` finishes its band, which is then IN_PAGE_STORE with its stream. -/
def execChiselBandDone (n : Nat) (s : State) : Ans :=
  let c := s.chs n
  match c.ref with
  | none => .next s
  | some r =>
    if s.inReset || !(c.st == .priming || c.st == .matching) then .next s
    else
      let dt := Nat.max 1 (s.clk - c.t0)
      let s1 := s.modChs n (fun c => { c with st := .idle, ref := none, stream := [], emitted := 0, prime := 0,
                                              rate := satN 16 (c.raw * 200 / dt) })
      let (ki, ri) := addKib s.codec.inRem c.raw
      let (ko, ro) := addKib s.codec.outRem c.stream.length
      let s2 := { s1 with codec := { s1.codec with inRem := ri, outRem := ro } }
      let s3 := (s2.bump (chsB + 8) 0 32 ki).bump (chsB + 0xC) 0 32 ko
      let s4 := ((s3.seqDone (.raw r)).modBand r (fun b => { b with stream := c.stream, got := [], hist := some [] })).sweepRaw
      .next ((s4.setRes r .inPageStore).hostDone c.raw)

/-- R146: output space is free again; the chisel resumes at the same bit. -/
def execChiselResume (n : Nat) (s : State) : Ans :=
  if (s.chs n).st == .stalled then .next (s.modChs n (fun c => { c with st := .matching })) else .next s

/-- R146, R156: after a stall of 1 ms the sequencer saves the chisel's context; the chisel is free for other bands. -/
def execChiselContextSave (n : Nat) (s : State) : Ans :=
  let c := s.chs n
  match c.ref with
  | none => .next s
  | some r =>
    match (upTo 128).find? (fun i => !s.codec.saved.any (fun x => x.ix == i)), s.band? r, s.plane? r.job r.page r.plane with
    | some ix, some b, some q =>
      if s.inReset || c.st != .stalled then .next s
      else
        let hist := b.hist.getD []
        let data := hist ++ b.raw
        let x := standAt (bandStands s.chsCfg r.plane q.pitch data hist.length data.length (b.raw.length + 1) hist.length ⟨0, 0⟩) c.emitted s.freeVal
        let m := chiselRec c.stream hist b.raw c.emitted x
        let ctx : SavedCtx := { ix := ix, kind := m.kind, ref := r, words := m.words r q.pitch, history := historyOf hist.reverse b.raw x.raw,
                                stream := c.stream }
        let s1 := s.tookFree.modChs n (fun c => { c with st := .idle, ref := none, stream := [], emitted := 0, prime := 0, ctx := ix })
        .next ({ s1 with codec := { s1.codec with saved := s1.codec.saved ++ [ctx] } }.ctxSeen)
    | _, _, _ => .next s

/-- R148: a chisel leaves service; its band goes back to the front of the queue and restarts on another chisel. -/
def execChiselOutOfService (n : Nat) (s : State) : Ans :=
  if s.inReset || !s.chsServ n then .next s
  else
    let back := match (s.chs n).ref with | some r => [r] | none => []
    let s1 := s.modChs n (fun c => { c with st := .out, ref := none, stream := [], emitted := 0, prime := 0 })
    let s2 : State := { s1 with codec := { s1.codec with rawQ := back ++ s1.codec.rawQ } }
    .next ((back.foldl (fun s r => s.seqDrop (.raw r)) s2).unitMemBad.raise (120 + n) n)

/-- R156, R146: a saved context is restored on the lowest-numbered idle chisel in service, which resumes at the same bit. -/
def execContextRestore (ctx : Nat) (s : State) : Ans :=
  match s.codec.saved.find? (fun x => x.ix == ctx), (upTo 8).find? (fun n => s.chsServ n && (s.chs n).st == .idle) with
  | some x, some n =>
    let raw := match s.band? x.ref with | some b => b.raw.length | none => 0
    let s1 := s.modChs n (fun c => { c with st := .matching, ref := some x.ref, stream := x.stream, emitted := (x.words.getD 9 0).toNat,
                                            prime := 0, t0 := s.clk, raw := raw, ctx := 0 })
    .next { s1 with codec := { s1.codec with saved := s1.codec.saved.filter (fun (y : SavedCtx) => y.ix != ctx) } }
  | _, _ => .next s

end Sys2Proof.Machine
end

