-- ==== Sys2Proof/Machine/Scan.lean ====
section
/-! DEFINITION. The scan engine (chapter 7): supervision of SOS and EOS edges, facets, mask sets, the sheet boundary, line presence,
registration, the pixel multiplier of each scan (R191, R192) and the beam-link frame it sends (R210 to R213). -/
namespace Sys2Proof.Machine

/-- SCN register of station `n` at offset `o`. -/
def scnA (n o : Nat) : Nat := scnB + 0x1000 * n + o

/-- FACETS, 0 reading as 1 (Table 7.9). -/
def State.facets (s : State) (n : Nat) : Nat := clampN 1 12 (s.f (scnA n 0) 0 4)

/-- Header of a relief-mask set (Table 7.4). -/
structure MaskSet where
  phases  : Nat
  advance : Nat
  family  : Nat
  lineDbl : Bool
  pixDbl  : Bool
  valid   : Bool
  slip    : Nat
  deriving DecidableEq, Repr

/-- Set `m` of the mask table in force at station `n`. -/
def State.maskSet (s : State) (n m : Nat) : MaskSet :=
  let w := s.tabAct 2 n (16 * m) 4
  { phases := w % 64 + 1, advance := clampN 1 64 (w / 256 % 256), family := w / 2 ^ 16 % 8, lineDbl := natBit w 19, pixDbl := natBit w 20,
    valid := natBit w 21, slip := Nat.min (w / 2 ^ 24 % 64) (w % 64) }

/-- OFFSET and TILE of an entry (Table 7.5). -/
def State.maskEntry (s : State) (n m p b : Nat) : Nat × Nat :=
  let e := s.tabAct 2 n (0x1000 + 0x1000 * m + 64 * p + 2 * b) 2
  (e % 256, e / 256 % 16)

/-- The non-BLANK offsets of one phase of a set. -/
def State.phaseOfs (s : State) (n m p : Nat) : List Nat := ((upTo 32).map (fun b => (s.maskEntry n m p b).1)).filter (· != 0xFF)

/-- The non-BLANK offsets of a set. -/
def State.setOfs (s : State) (n m : Nat) : List Nat := (upTo (s.maskSet n m).phases).flatMap (s.phaseOfs n m)

/-- OFS_MAX and OFS_MIN of a set (R158, R159). -/
def State.ofsMax (s : State) (n m : Nat) : Nat := (s.setOfs n m).foldl Nat.max 0
def State.ofsMin (s : State) (n m : Nat) : Nat := (s.setOfs n m).foldl Nat.min 255

/-- ACTIVE_PIX, SEG_SHIFT and the code of BPP (Table 7.9, R172), which v1 holds at 2 bits (R207). -/
def State.activePix (s : State) (n : Nat) : Nat := s.f (scnA n 4) 0 15 + 1
def State.segShift (s : State) (n : Nat) : Nat := clampN 4 9 (s.f (scnA n 0x24) 0 4)
def State.bppCode (s : State) (n : Nat) : Nat := if s.linkV1 n then Nat.min 1 (s.f (scnA n 4) 16 2) else s.f (scnA n 4) 16 2

/-- HOP of each segment that the active width uses (R172, R182). -/
def State.hops (s : State) (n : Nat) : List Int :=
  (upTo (Nat.min 63 ((s.activePix n - 1) / 2 ^ s.segShift n) + 1)).map (fun k => clampI (-8) 7 (sext 8 (s.tabAct 3 n k 1)))

def maxI (l : List Int) : Int := l.foldl (fun a b => if a < b then b else a) (l.headD 0)
def minI (l : List Int) : Int := l.foldl (fun a b => if b < a then b else a) (l.headD 0)

/-- SLOTS_MIN of a set (R182). -/
def State.slotsMin (s : State) (n m : Nat) : Nat :=
  let h := s.hops n
  (((s.ofsMax n m : Int) - s.ofsMin n m + 1) + (maxI h - minI h) + 32 + 2 * (s.maskSet n m).advance).toNat

/-- The sets of the station's family whose beams are all in `healthy` (R175), as a map. -/
def State.eligible (s : State) (n healthy : Nat) : Nat :=
  sumN ((upTo 8).map (fun m =>
    let h := s.maskSet n m
    let used := s.setBeams n m
    if h.valid && h.family == s.f (scnA n 0) 7 3 && used != 0 && Nat.land used (Nat.land healthy s.beamMap) == used then 2 ^ m else 0))

/-- Among eligible sets the one with the largest ADVANCE, and the lowest-numbered of equals (R175). -/
def State.bestSet (s : State) (n elig : Nat) : Option Nat :=
  ((upTo 8).filter (natBit elig)).foldl (fun b m =>
    match b with
    | none => some m
    | some k => if (s.maskSet n k).advance < (s.maskSet n m).advance then some m else some k) none

/-- The set in use or, while none is eligible, the one every beam healthy would give (R161). -/
def State.superSet (s : State) (n : Nat) : Option Nat :=
  match (s.st n).setIn with
  | some m => some m
  | none => s.bestSet n (s.eligible n 0xFFFFFFFF)

/-- T_NOM in 1/16 TIME clock (R161); 0: edges are not supervised. -/
def State.tnom (s : State) (n : Nat) : Nat :=
  let rate := s.ladRate s.sched.stepCur
  match s.superSet n with
  | none => 0
  | some m => if rate = 0 then 0 else (s.maskSet n m).advance * 3200000000 / rate

/-- An edge `dt` sixteenths of a TIME clock after the one before lies, against T_NOM ± T_NOM × SOS_TOL / 1,024, before the window, in it, its
limits included, or after it (R161, R186); with the exact T_NOM, ADVANCE / LINE_RATE. -/
inductive SosSide where
  | early | within | late
  deriving DecidableEq, Repr

def State.sosSide (s : State) (n dt : Nat) : SosSide :=
  let rate := s.ladRate s.sched.stepCur
  let per := (match s.superSet n with | some m => (s.maskSet n m).advance | none => 0) * 3200000000
  let tol := s.f (scnA n 8) 0 6
  if dt * rate * 1024 < per * (1024 - tol) then .early
  else if per * (1024 + tol) < dt * rate * 1024 then .late
  else .within

/-- Casts of station `n` in service. -/
def State.castsUp (s : State) (n : Nat) : Nat := (upTo 2).countP (fun i => natBit (s.castMap n) (2 * n + i))

/-- SCAN_LIM (R176). -/
def State.scanLim (s : State) (n : Nat) : Nat :=
  Nat.min (Nat.min (s.f (scnA n 0x18) 0 13) 7500) (200000 * s.f (scnA n 4) 18 10 / s.activePix n)

/-- The largest facet SCALE in force (R222). -/
def State.scaleMax (s : State) (n : Nat) : Int :=
  maxI ((upTo (s.facets n)).map (fun f => sext 19 (s.tabAct 1 n (8 * f + 4) 4)))

/-- Station `n` sustains a line rate (R155, R176, R222). -/
def State.sustains (s : State) (n rate : Nat) : Bool :=
  match (s.st n).setIn with
  | none => false
  | some m =>
    let adv := (s.maskSet n m).advance
    let top := adv * s.scanLim n
    let lim := if s.castsUp n = 2 then top else if s.castsUp n = 1 then top / 2 else 0
    let cap := if s.linkV1 n then 2560000000 else 7750000000
    let lanes := popCount 4 (s.lk n).laneUp
    let need : Int := (popCount 32 (s.setBeams n m) * s.activePix n * rate * 1000 : Nat) * (100000000 + s.scaleMax n) *
      ((2 ^ s.bppCode n * 258 : Nat) : Int)
    let have1 : Int := (cap * lanes * adv * s.f (scnA n 4) 18 10 * 100000000 * 256 : Nat)
    decide (rate ≤ lim) && s.castsUp n != 0 && decide (need ≤ have1)

/-- SLOT_SHORT against the allocation as claimed (R182, R433). -/
def State.slotShortNow (s : State) (n : Nat) : Bool :=
  match (s.st n).setIn with
  | some m => decide ((s.st n).alloc - (s.st n).giveBack < s.slotsMin n m)
  | none => false

/-- A station counts for the line rate: it has a cast in service, without which it is lost as a station until RST_N (R155, Table 1.7), an eligible
set and a lane of its link. A station that only acquires SOS again, as at a GAP, still counts. -/
def State.stnServes (s : State) (n : Nat) : Bool := s.castsUp n != 0 && (s.st n).setIn.isSome && (s.lk n).laneUp != 0

/-- A station is READY (R185, R209, R221). -/
def State.stnReady (s : State) (n : Nat) : Bool :=
  let x := s.st n
  decide (n < s.id.stations) && x.sos == .locked && (s.px n).locked && x.setIn.isSome && !s.slotShortNow n && s.castsUp n != 0
    && (s.lk n).st == .up && (s.lk n).laneUp != 0

/-- A new line-slot allocation in force (R433). -/
def Station.allocate (x : Station) (a : Nat) : Station :=
  let alloc := Nat.max a x.slots.length
  { x with alloc := alloc, giveBack := alloc - a, allocNew := none }

/-- The registers of station `n` that wait for its boundary: its SCN page and its pixel synthesizer (R183, R190). -/
def ofStation (n a : Nat) : Bool :=
  (decide (scnA n 0 ≤ a) && decide (a < scnA n 0x1000)) || (decide (clkB + 0x100 + 0x20 * n ≤ a) && decide (a < clkB + 0x120 + 0x20 * n))

/-- The set selection of R175 and what it raises (Table 7.10). A station without T_NOM is not supervised and is in SOS_IDLE (R161). -/
def State.chooseSet (s : State) (n : Nat) : State :=
  let x := s.st n
  let e := s.eligible n (s.beamOk n)
  let m := s.bestSet n e
  let s1 := s.modStn n (fun x => { x with setIn := m, elig := e })
  let short := s1.slotShortNow n
  let lost := Nat.land x.elig (0xFF - e) != 0
  let s1 := if s1.tnom n = 0 then s1.modStn n (fun x => { x with sos := .idle, running := false }) else s1
  (s1.modStn n (fun x => { x with slotShort := short })).raiseIf (m != x.setIn || lost || (short && !x.slotShort)) (163 + 4 * n) n

/-- The sheet boundary of a station (R183): waiting copies become active together, the mask set is chosen. -/
def State.stnBoundary (s : State) (n : Nat) : State :=
  let p := (s.st n).pend
  let s1 := s.release (ofStation n)
  let s2 := s1.each [1, 2, 3] (fun s t => if natBit p (t - 1) then s.applyTab t n else s)
  let s2 := if (s2.lk n).laserNew.isSome then s2.modLad (8 + n) (fun l => { l with step := l.tgt }) else s2
  let s3 := s2.modLink n (fun l => { l with laserLim := l.laserNew.getD l.laserLim, laserNew := none, blankRest := false })
  let s4 := s3.modStn n (fun x =>
    let y := { x with pend := 0, dlyClamp := false, learnClamp := false }
    match y.allocNew with
    | some a => y.allocate a
    | none => y)
  let s5 := s4.modPix n (fun q => { q with mClamp := false, lfsr := s4.f (clkB + 0x108 + 0x20 * n) 0 16,
                                           back := q.back || (q.bypass && q.locked) })
  s5.chooseSet n

/-- The pixel multiplier of a scan in 2^−24 (R191), held within R190's limits (R192): the value and whether it was held. -/
def mScan (mNom post : Nat) (scale eRef : Int) : Nat × Bool :=
  let num : Int := (mNom : Int) * (100000000 + scale) * (1000000000 - eRef)
  let den : Int := 100000000000000000
  let m := ((2 * num + den) / (2 * den)).toNat
  let lo := Nat.max (4 * 2 ^ 24) (2 ^ 23 * post)
  let hi := Nat.min (10 * 2 ^ 24) (5 * 2 ^ 23 * post)
  (clampN lo hi m, decide (m < lo) || decide (hi < m))

/-- POST of station `n`'s synthesizer. -/
def State.post (s : State) (n : Nat) : Nat := clampN 2 16 (s.f (clkB + 0x100 + 0x20 * n) 3 5)

/-- Step 3 of Table 7.6: the synthesizer is loaded for the coming scan; a finished recalibration is applied (R203). -/
def State.reload (s : State) (n : Nat) (scale : Int) : State :=
  let (m, c) := mScan (s.f (clkB + 0x104 + 0x20 * n) 0 28) (s.post n) scale s.clks.eRef
  s.modPix n (fun q => { q with mCur := m, mClamp := q.mClamp || c, calPend := false })

/-- Sub-scan error E(j) in 1/(127·2^24) line (R177). -/
def State.subError (s : State) (n : Nat) (t : Token) (adv : Nat) (j : Int) : Int :=
  let e := s.f (scnA n 0x1C) 8 3
  let trav := wrap32 (s.enc.getD e 0 - t.encReg.getD e 0) * ((s.act (scnA n 0x20)).toNat : Int)
  trav * 127 - ((s.imgDist n t.medium).getD 0) * 12 * 2 ^ 24 - j * (adv : Int) * (127 * 2 ^ 24)

/-- One line at 2400 dpi in the unit of `subError`. -/
def lineU : Int := 127 * 2 ^ 24

/-- Step 4 of Table 7.6: registration. D and X are set at scan 0 (R178); a move or slip found due at an earlier scan takes effect at a scan
whose phase is SLIP_PHASE (R179, R180); then the error is compared again. -/
def State.register (s : State) (n : Nat) (g : Imaging) (h : MaskSet) (j : Int) : State :=
  if j < 0 then s
  else
    let t := s.tok g.tok
    let e := s.subError n t h.advance j
    let x := s.st n
    let corr := scnA n 0x4C
    let due (d x' : Int) : Int := if 3 * lineU ≤ 4 * (e - (d + x') * lineU) then 1 else if 4 * (e - (d + x') * lineU) ≤ -3 * lineU then -1 else 0
    let s1 :=
      if j = 0 then
        let d := clampI (-16) 16 (s.sf (scnA n 0x1C) 0 6 + (2 * e + lineU) / (2 * lineU))
        s.modStn n (fun y => { y with d := d, x := 0 })
      else if g.want ≠ 0 ∧ (j % h.phases) = h.slip then
        if -16 ≤ x.d + g.want ∧ x.d + g.want ≤ 16 then
          (s.modStn n (fun y => { y with d := y.d + g.want })).bump corr (if 0 < g.want then 0 else 8) 8 1
        else
          let a := (s.modStn n (fun y => { y with x := y.x + g.want })).bump corr (if 0 < g.want then 16 else 24) 8 1
          if g.slipped then a
          else (a.flagTok g.tok fScale (some 143)).raise (162 + 4 * n) n
      else s
    let y := s1.st n
    let slip := g.slipped || y.x != 0
    let kept := j ≠ 0 ∧ g.want ≠ 0 ∧ (j % h.phases) ≠ h.slip
    s1.modStn n (fun z => { z with img := some { g with want := if kept then g.want else due y.d y.x, slipped := slip } })

/-- The 2400-dpi lines a scan reads (R174): every beam in use with a non-BLANK entry, at every hop the active width uses. -/
def scanLines (row : List (Nat × Nat)) (beams : Nat) (base : Int) (hops : List Int) : List Int :=
  (row.zipIdx.filter (fun e => e.1.1 != 0xFF && natBit beams e.2)).flatMap (fun e => hops.map (fun h => base + e.1.1 + h))

/-- Plane line of a 2400-dpi line (R174). -/
def planeLine (dbl : Bool) (l : Int) : Int := if dbl then l / 2 else l

/-- A line is judged present (R18): its slot is FULL and its check has not failed; the verdict at the first read stands. A missing line
prints blank, counts at the station, and flags CHECK or LATE_DATA (R112, R136), or both where a cast has left the plane as well (R157). -/
def State.judge (s : State) (n : Nat) (g : Imaging) (line : Nat) : State :=
  let x := s.st n
  match x.img with
  | none => s
  | some g1 =>
    if g1.judged.any (fun e => e.1 == line) then s
    else
      let here (y : LineSlot) : Bool := y.tok == g.tok && y.line == line
      let slot := x.slots.find? here
      let ok := match slot with | some y => y.st == .full && !y.bad | none => false
      let s1 := s.modStn n (fun x => { x with img := some { g1 with judged := (line, ok) :: g1.judged },
                                              slots := x.slots.map (fun y => if here y then { y with st := .printing } else y) })
      if ok then s1
      else
        let failed := (match slot with | some y => y.bad | none => false) ||
          (match (s.plane? g.job g.page n).bind (fun q => q.bands.find? (fun b => decide (b.first ≤ line) && decide (line < b.first + b.lines))) with
           | some b => b.ahead == 2
           | none => false)
        let gone := s.codec.runs.any (fun r => r.tok == g.tok && r.station == n && r.lost)
        let s2 := s1.modTok g.tok (fun t => { t with blank := updAt t.blank n (fun c => Nat.min 131071 (c + 1)) })
        let s3 := if failed then s2.flagTok g.tok fCheck none else s2
        if failed && !gone then s3 else s3.flagTok g.tok fLate (some 142)

/-- Bands whose lines have all been judged become PRINTED (Table 4.1). -/
def State.printBands (s : State) (n : Nat) (g : Imaging) : State :=
  match s.plane? g.job g.page n with
  | none => s
  | some q => (q.bands.filter (fun b => b.res == .decoded && (s.st n).allJudged g.tok b.first b.lines)).foldl
      (fun s b => s.bandIsPrinted g.tok ⟨g.job, g.page, n, b.idx⟩) s

/-- Some scan from phase `p` on reads the line `rel` lines above the base line (R181). -/
def State.needed (s : State) (n m p : Nat) (rel : Int) : Bool :=
  let h := s.maskSet n m
  let hs := s.hops n
  let lo : Int := s.ofsMin n m + minI hs
  let top : Int := s.ofsMax n m + maxI hs
  let a : Int := h.advance
  if rel < lo then false
  else
    let k0 : Int := if rel ≤ top then 0 else (rel - top) / a
    (upTo ((top - lo) / a + 3).toNat).any (fun i =>
      let k := k0.toNat + i
      (s.phaseOfs n m ((p + k) % h.phases)).any (fun o => hs.any (fun hp => (k : Int) * a + o + hp == rel)))

/-- Step 7 of Table 7.6: the slots of lines that no scan from this one on reads are FREE; a line skipped by a slip counts as passed.
Before scan 0 no scan has read the plane and D is not known (R178), so every slot stays. -/
def State.freePassed (s : State) (n m p : Nat) (g : Imaging) (base : Int) : State :=
  if g.scan < 0 then s else
  let h := s.maskSet n m
  let gone (l : Nat) : Bool :=
    if h.lineDbl then !s.needed n m p (2 * l - base) && !s.needed n m p (2 * l + 1 - base) else !s.needed n m p (l - base)
  let lowI : Int := base + s.ofsMin n m + minI (s.hops n)
  let low := (planeLine h.lineDbl lowI).toNat
  let back := h.advance + 64
  s.modStn n (fun x =>
    let y := x.freeWhere (fun y => y.tok == g.tok && gone y.line)
    match y.img with
    | none => y
    | some g1 =>
      let skipped := ((upTo back).map (fun i => low - back + i)).filter (fun l => decide (l < low) && !(g1.judged.any (fun e => e.1 == l)))
      { y with img := some { g1 with judged := (skipped.map (fun l => (l, false))) ++ g1.judged } })

/-- One pixel of a stored line (R160); past its end code 0. -/
def pixCode (line : Array Byte) (bpp i : Nat) : Nat := (line.getD (i * bpp / 8) 0).toNat / 2 ^ (i * bpp % 8) % 2 ^ bpp

/-- The codes of one beam for a scan (R174). -/
def State.beamCodes (s : State) (n m : Nat) (g : Imaging) (base : Int) (e : Nat × Nat) (last : Int) : List Nat :=
  let h := s.maskSet n m
  let act := s.activePix n
  let sh := s.segShift n
  let bpp := 2 ^ s.bppCode n
  let hs := s.hops n
  let x := s.st n
  let judged := match x.img with | some g1 => g1.judged | none => []
  hs.zipIdx.flatMap (fun (hp, k) =>
    let l := base + e.1 + hp
    let lp := planeLine h.lineDbl l
    let data : Array Byte :=
      if lp < 0 ∨ last < lp then #[]
      else
        match judged.find? (fun v => v.1 == lp.toNat), x.slots.find? (fun y => y.tok == g.tok && y.line == lp.toNat) with
        | some (_, true), some y => y.data.toArray
        | _, _ => #[]
    let row := if e.2 = 0 then 0xFFFF else s.tabAct 2 n (0x80 + 32 * (e.2 - 1) + 2 * (l % 16).toNat) 2
    let lo := k * 2 ^ sh
    let hi := if k = 63 then act else Nat.min act (lo + 2 ^ sh)
    (upTo (hi - lo)).map (fun i =>
      let p := lo + i
      if natBit row (p % 16) then pixCode data bpp (if h.pixDbl then p / 2 else p) else 0))

/-- Pixel codes packed as a plane line (R160), to `n` bytes. -/
def packCodes (bpp n : Nat) (codes : List Nat) : List Byte :=
  let a := codes.toArray
  let per := 8 / bpp
  (upTo n).map (fun i => BitVec.ofNat 8 (sumN ((upTo per).map (fun k => a.getD (i * per + k) 0 * 2 ^ (bpp * k)))))

/-- Segments of 256 bytes, the last padded with zeros, each with its CRC-16 (R213). -/
def segments : Nat → List Byte → List Byte
  | 0, _ => []
  | f + 1, l =>
    if l.isEmpty then []
    else
      let c := l.take 256
      let seg := c ++ List.replicate (256 - c.length) 0
      seg ++ leBytes 2 (crc16 seg) ++ segments f (l.drop 256)

/-- t_0 of beam `b` in 1/64 pixel before its limit (R169). -/
def State.t0Raw (s : State) (n : Nat) (adj : Int) (b : Nat) : Int :=
  (s.f (scnA n 0xC) 0 22 : Int) + adj + clampI (-32768) 32768 (s.sf (scnA n (0x100 + 4 * b)) 0 17)

/-- t_0 of beam `b`, at least 256 pixel periods (R170). -/
def State.t0 (s : State) (n : Nat) (adj : Int) (b : Nat) : Nat := Nat.max 16384 (s.t0Raw n adj b).toNat

/-- The frame header (Table 9.2), or its v1 form (R226): beams 0 to 7, START in whole pixels. -/
def frameHeader (v1 : Bool) (facet bpp phase laser seq map slices pec : Nat) (starts : List Nat) : List Byte :=
  let head := [BitVec.ofNat 8 1, BitVec.ofNat 8 (facet % 16 + bpp % 4 * 16), BitVec.ofNat 8 (phase % 64), BitVec.ofNat 8 laser] ++
    leBytes 4 seq ++ leBytes 4 map ++ leBytes 2 slices ++ leBytes 2 pec
  let body := if v1 then head ++ (starts.take 8).flatMap (fun v => leBytes 2 ((v + 32) / 64)) else head ++ starts.flatMap (fun v => leBytes 4 (v % 2 ^ 24))
  body ++ leBytes 2 (crc16 body) ++ List.replicate 6 0

/-- R210 to R213: one frame for this scan. `map`: the beams in BEAM_MAP, with their codes. -/
def State.sendFrame (s : State) (n facet phase : Nat) (adj : Int) (e : SosEdge) (beams : List (Nat × List Nat)) : State :=
  let k := s.lk n
  let pec := ((s.reg (blkA n 0x20)).toNat + e.edges) % 2 ^ 32
  let s1 := if k.aligned then s.setReg (blkA n 0x20) (wd pec) else s
  if k.st != .up then s1
  else
    let bpp := 2 ^ s.bppCode n
    let slices := ceilDiv (s.activePix n * bpp) 64
    let map := sumN (beams.map (fun b => 2 ^ b.1))
    let starts := (upTo 32).map (fun b => if natBit map b then (s.t0 n adj b + 2 ^ 24 - e.phase % 2 ^ 24) % 2 ^ 24 else 0)
    let hdr := frameHeader (s.linkV1 n) facet (s.bppCode n) phase k.laserLim k.scanSeq map slices (pec % 65536) starts
    let packed := beams.map (fun b => packCodes bpp (8 * slices) b.2)
    let pay := (upTo slices).flatMap (fun i => packed.flatMap (fun l => (l.drop (8 * i)).take 8))
    (s1.modLink n (fun k => { k with scanSeq := (k.scanSeq + 1) % 2 ^ 32 })).emit (.beam n hdr (segments (pay.length + 1) pay))

/-- Imaging of a sheet ends at a station: its plane is over, its slots are FREE, and with the last station the sheet is FUSING (R96). -/
def State.endImaging (s : State) (n : Nat) : State :=
  match (s.st n).img with
  | none => s
  | some g =>
    let s1 := (s.modStn n (fun x => { x.freeWhere (fun y => y.tok == g.tok) with img := none })).endPlane g.tok n
    s1.moveTok g.tok (fun t =>
      let e := Nat.lor t.ended (2 ^ n)
      { t with ended := e, st := if (t.st == .imaging || t.st == .registered) && Nat.land e t.stations == t.stations then .fusing else t.st })

/-- A station that cannot image a sheet at all ends it as after a video loss (R175, R185). -/
def State.cannotImage (s : State) (n tok : Nat) : State :=
  let s1 := (s.wasteTok tok 1).endPlane tok n
  s1.moveTok tok (fun t =>
    let e := Nat.lor t.ended (2 ^ n)
    { t with ended := e, st := if (t.st == .imaging || t.st == .registered) && Nat.land e t.stations == t.stations then .fusing else t.st })

/-- The image start of a sheet in flight at station `n`, once it is registered (R98, R99). -/
def State.imgStart (s : State) (n tok : Nat) : Option Nat :=
  let t := s.tok tok
  match t.reg, s.imgDist n t.medium with
  | some r, some d => some (((r : Int) + travelNs t.rate d).toNat)
  | _, _ => none

/-- The sheet a station images next: registered, not yet ended there, the earliest image start first. -/
def State.nextSheet (s : State) (n : Nat) : Option (Nat × Nat) :=
  minBy (·.2) (s.inFlight.filterMap (fun t =>
    let k := s.tok t
    if natBit k.stations n && !natBit k.ended n && !natBit k.flags fMisfeed then (s.imgStart n t).map (fun ti => (t, ti)) else none))

/-- Imaging of the next sheet begins at scan −ceil(23 / ADVANCE) (R159); scan 0 is the first edge at or after the image
start. -/
def State.startImaging (s : State) (n : Nat) : State :=
  match s.nextSheet n with
  | none => s
  | some (tok, ti) =>
    let tn := s.tnom n
    match (s.st n).setIn with
    | none => if ti ≤ s.ns then s.cannotImage n tok else s
    | some m =>
      let j : Int := if ti ≤ s.ns then 0 else -((ceilDiv ((ti - s.ns) * 16) (5 * tn) : Nat) : Int)
      if j < -((ceilDiv 23 (s.maskSet n m).advance : Nat) : Int) then s
      else
        let t := s.tok tok
        let lost := !(s.px n).locked
        let s1 := if lost then s.wasteTok tok 2 else s
        let g : Imaging :=
          { tok := tok, job := t.job, page := t.page, ti := ti, scan := j, want := 0, dead := lost || t.dark, blankB := 0, judged := [],
            slipped := false }
        ((s1.modStn n (fun x => { x with d := 0, x := 0, img := some g })).modLink n (fun k => { k with segSeen := false })).modTok tok (fun t => { t with began := Nat.lor t.began (2 ^ n) })

/-- The scan number of the coming scan of the sheet being imaged, or the end of its imaging after the last scan (R158, R159). -/
def State.nextScan (s : State) (n : Nat) : State :=
  match (s.st n).img, (s.st n).setIn with
  | some g, some m =>
    let h := s.maskSet n m
    let j : Int := if s.ns < g.ti then (if g.scan + 1 < 0 then g.scan + 1 else -1) else (if g.scan + 1 < 0 then 0 else g.scan + 1)
    let lines := match s.page? g.job g.page with | some p => p.lines | none => 0
    let last : Int := (if h.lineDbl then 2 * lines else lines : Nat) - 1
    let b : Int := j * h.advance - s.ofsMax n m
    if last < b + s.ofsMin n m - 24 + (s.st n).x then s.endImaging n
    else s.modStn n (fun x => { x with img := some { g with scan := j } })
  | some _, none => s.endImaging n
  | none, _ => s

/-- A scan of the sheet being imaged that no beam of reads a line of it, as in the margins of R159: the station is between sheets (R183). -/
def State.inMargin (s : State) (n : Nat) : Bool :=
  match (s.st n).img, (s.st n).setIn with
  | some g, some m =>
    let h := s.maskSet n m
    let x := s.st n
    let lines := match s.page? g.job g.page with | some q => q.lines | none => 0
    let row := (upTo 32).map (s.maskEntry n m (g.scan % h.phases).toNat)
    (scanLines row (s.setBeams n m) (g.scan * h.advance - s.ofsMax n m + x.d + x.x) (s.hops n)).all (fun l =>
      decide (planeLine h.lineDbl l < 0) || decide ((lines : Int) ≤ planeLine h.lineDbl l))
  | _, _ => false

/-- Words of line slots with a memory error as the beams in use read them (R253): logged; an uncorrectable one flags the sheet CHECK and counts
its line. -/
def State.slotHits (s : State) (n tok : Nat) (hits : List MemHit) : State :=
  (hits.filter (·.ue)).foldl (fun s _ =>
    (s.modTok tok (fun t => { t with blank := updAt t.blank n (fun c => Nat.min 131071 (c + 1)) })).flagTok tok fCheck none) (s.memHits hits)

/-- The codes of a beam with code 0 from its first uncorrectable word on (R253): a byte of the line carries `num`/`den` pixels. -/
def cutCodes (hits : List (Nat × MemHit)) (num den : Nat) (c : Nat × List Nat) : Nat × List Nat :=
  match ((hits.filter (fun x => x.1 == c.1 && x.2.ue)).map (·.2.off)).min? with
  | none => c
  | some o => (c.1, c.2.take (o * num / den) ++ List.replicate (c.2.length - o * num / den) 0)

/-- Steps 4 to 7 of Table 7.6 and the frame, for the sheet being imaged, or an empty frame. A station that blanks for the sheet
reads no line of it (R164, Table 4.6); the frame at a sheet boundary is empty (`fresh`, R225). -/
def State.scan (s : State) (n facet : Nat) (adj : Int) (e : SosEdge) (fresh : Bool) : State :=
  match (s.st n).img, (s.st n).setIn with
  | some g, some m =>
    let h := s.maskSet n m
    let p := (g.scan % h.phases).toNat
    let s1 := s.register n g h g.scan
    let x := s1.st n
    let base : Int := g.scan * h.advance - s1.ofsMax n m + x.d + x.x
    let lines := match s1.page? g.job g.page with | some q => q.lines | none => 0
    let last : Int := (lines : Int) - 1
    let row := (upTo 32).map (s1.maskEntry n m p)
    let beams := Nat.land (s1.setBeams n m) (0xFFFFFFFF - g.blankB)
    let dead := g.dead || (s1.tok g.tok).dark
    let read := if dead then [] else (scanLines row beams base (s1.hops n)).map (planeLine h.lineDbl)
    let todo := (read.filter (fun l => decide (0 ≤ l) && decide (l ≤ last))).map Int.toNat
    let s2 := (todo.eraseDups).foldl (fun s l => s.judge n g l) s1
    let map := if dead || fresh then [] else (upTo 32).filter (fun b => natBit beams b && (row.getD b (0xFF, 0)).1 != 0xFF)
    let codes := (map.map (fun b => (b, s2.beamCodes n m g base (row.getD b (0xFF, 0)) last))).map
      (cutCodes e.hits (if h.pixDbl then 16 else 8) (2 ^ s2.bppCode n))
    let dots := sumN (codes.map (fun c => c.2.countP (· != 0)))
    let s2h := s2.slotHits n g.tok ((e.hits.filter (fun x => map.contains x.1)).map (·.2))
    let s3 := s2h.modTok g.tok (fun t => { t with dots := updAt t.dots n (· + dots) })
    let s4 := s3.sendFrame n facet (if dead then 0 else p) adj e codes
    let clampD := map.any (fun b => decide (s4.t0Raw n adj b < 16384))
    let s5 := s4.modStn n (fun x => { x with dlyClamp := x.dlyClamp || clampD, lastT0 := (map.map (s4.t0 n adj)).foldl Nat.max 0 })
    (s5.freePassed n m p g base).printBands n g
  | _, _ => (s.modStn n (fun x => { x with lastT0 := 0 })).sendFrame n facet 0 adj e []

/-- The phase error of every channel locked to station `n` at an accepted edge (R315), in 1/16 ns, and its runs. -/
def State.phaseEdge (s : State) (n : Nat) : State :=
  s.each (upTo s.id.motors) (fun s c =>
    let a := motB + 0x100 + 0x40 * c
    match s.claim 2 c with
    | some k =>
      if k.owner % 256 == 0 && k.ownIx == n && s.flag a 7 then
        let fc := s.f a 8 3
        let ref := s.f (timB + 0x800 + 0x10 * fc) 3 3
        let t : Int := 5 * s.tnom ref
        if t = 0 then s
        else
          let raw := (16 * ((s.ns : Int) - s.time.anchor) + 160 * s.sf (a + 0x20) 0 16) % t
          let err := if t < 2 * raw then raw - t else raw
          let near := decide (-8000 ≤ err) && decide (err ≤ 8000)
          s.modMot c (fun m => { m with pherr := satI 16 (err / 16), lockRun := if near then m.lockRun + 1 else 0,
                                        unlockRun := if near then 0 else m.unlockRun + 1 })
      else s
    | none => s)

/-- A scan that ends without an EOS counts a missing one (R162). -/
def State.eosMissed (s : State) (n : Nat) : State :=
  if (s.st n).running && !(s.st n).eosSeen then s.bump (scnA n 0x48) 16 8 1 else s

/-- Scans of the spans gathered now: while facet 0 is being identified, and in LOCKED while AUTO_LEARN is 1, which starts a period (R165, R168). -/
def State.gathers (s : State) (n : Nat) : Bool := (s.st n).sos == .facetId || ((s.st n).sos == .locked && s.flag (scnA n 0) 5)

/-- The scans a period of identification or of auto-learn takes: 64 or 256 revolutions (R165, R168). -/
def State.period (s : State) (n : Nat) : Nat := (if (s.st n).sos == .facetId then 64 else 256) * s.facets n

/-- The facet number, the SOS state's counts and the EOS bookkeeping at an accepted edge (R162, R163, R165, R171). -/
def State.acceptEdge (s : State) (n : Nat) (e : SosEdge) (first : Bool) : State :=
  let x := s.st n
  let k := s.facets n
  let s1 := s.eosMissed n
  let left := 2 * e.dt * (s.px n).mCur
  let endT := (x.lastT0 + 64 * s.activePix n) * 2 ^ 24 * s.post n
  let s2 := if !first && x.lastT0 != 0 && decide (left < endT) then
      (s1.bump (scnA n 0x48) 24 8 1).emit (.cut n (left / (2 ^ 24 * s.post n)))
    else s1
  let zero := x.idxEdge && s.flag (scnA n 0) 4
  let on := s.gathers n
  s2.modStn n (fun x =>
    { x with sos := (match x.sos with | .idle => .acquire | .lost => .acquire | t => t),
             acc := if first then 1 else x.acc + 1, facet := if zero then 0 else if first then 0 else (x.facet + 1) % k, idxEdge := false,
             edges := (if on then x.edges + 1 else 0), spans := (if on then x.spans else List.replicate 12 (0, 0)),
             eosSeen := false, running := true, lastT0 := 0, lastTok := none })

/-- R184: what an accepted SOS edge does, in the order of Table 7.6. -/
def State.sosAccepted (s : State) (n : Nat) (e : SosEdge) (first : Bool) : State :=
  let s1 := (s.acceptEdge n e first).nextScan n
  let locked := (s1.st n).sos == .locked
  let f := if locked then (s1.st n).facet else 0
  let scale : Int := if locked then sext 19 (s1.tabAct 1 n (8 * f + 4) 4) else 0
  let adj : Int := if locked then sext 13 (s1.tabAct 1 n (8 * f) 4) else 0
  let idle := (s1.st n).img.isNone
  let s2 := if idle || s1.inMargin n then s1.stnBoundary n else s1
  let s3i := if idle then s2.startImaging n else s2
  let fresh := (s3i.st n).img.isNone || s3i.inMargin n
  let s3 := if fresh then s3i.rejoinLanes n else s3i
  let s4 := if (s3.st n).hot then (s3.blankStation n 3).modStn n (fun x => { x with hot := false }) else s3
  ((s4.reload n scale).scan n f adj e fresh).phaseEdge n

/-- A station stops imaging its sheet, which is carried out as waste (R164, R314, Table 1.7). -/
def State.stopImaging (s : State) (n : Nat) : State := (s.blankStation n 1).endImaging n

/-- SOS is lost at a station (R161, R163, R164): counted, raised; a sheet it images is waste and images no further scan. -/
def State.sosGone (s : State) (n : Nat) : State :=
  let s1 := ((s.eosMissed n).bump (scnA n 0x48) 0 8 1).raise (160 + 4 * n) n
  let s2 := s1.modStn n (fun x => { x with sos := (match x.sos with | .locked => .lost | .lost => .lost | .idle => .idle | _ => .acquire),
                                           acc := 0, running := false, lastT0 := 0, lastTok := x.img.map (·.tok) })
  s2.stopImaging n

/-- R161, R163, R184, R210: an edge on SCN_SOS of station `n`, early, within the window, or later than it (SOS was then lost). While its polygon is
lost the station counts as without SOS, whatever edges arrive (R314). -/
def State.sosEdge (s : State) (n : Nat) (e : SosEdge) : State :=
  if (s.st n).held then s
  else if s.tnom n = 0 then s.modStn n (fun x => { x with sos := .idle, running := false })
  else if !(s.st n).running then s.sosAccepted n e true
  else match s.sosSide n e.dt with
    | .early => s.bump (scnA n 0x48) 8 8 1
    | .late => (s.sosGone n).sosAccepted n e true
    | .within => s.sosAccepted n e false

/-- The SOS edges of station `n` are supervised: the die runs, T_NOM is known, and an edge has been accepted since the last loss (R161). -/
def State.supervised (s : State) (n : Nat) : Bool :=
  !s.inReset && decide (n < s.id.stations) && (s.st n).running && s.tnom n != 0

/-- R161: an edge earlier than the window is ignored and counted. -/
def execSosEarly (n : Nat) (s : State) : Ans :=
  if s.supervised n then .next (s.bump (scnA n 0x48) 8 8 1) else .next s

/-- R161, R163, R164: no edge by T_NOM + SOS_WIN. -/
def execSosLost (n : Nat) (s : State) : Ans := if s.supervised n then .next (s.sosGone n) else .next s

/-- R163: 64 consecutive accepted edges; identification of facet 0 begins. -/
def execSosAcquired (n : Nat) (s : State) : Ans :=
  if !s.inReset && (s.st n).sos == .acquire && 64 ≤ (s.st n).acc then
    .next (s.modStn n (fun x => { x with sos := .facetId, spans := List.replicate 12 (0, 0), edges := 0, facet := 0, idxEdge := false }))
  else .next s

/-- R162: an EOS edge measured from the last accepted SOS edge; valid spans feed identification and auto-learn. An edge before the tolerance, or
with no scan running, belongs to no scan: it is discarded and counted, and the scan's own EOS may still come. -/
def execEosEdge (n span : Nat) (s : State) : Ans :=
  if s.inReset || s.id.stations ≤ n then .next s
  else if !(s.st n).running then .next (s.bump (scnA n 0x48) 16 8 1)
  else
    let nom := s.f (scnA n 0x10) 0 23
    let tol := 64 * s.f (scnA n 0x10) 23 8
    let ok := decide (nom ≤ span + tol) && decide (span ≤ nom + tol)
    let take := ok && s.gathers n && decide ((s.st n).edges ≤ s.period n)
    let s1 := s.modStn n (fun x =>
      { x with spanLast := Nat.min span 0x7FFFFF, spanOk := ok, eosSeen := x.eosSeen || decide (nom ≤ span + tol),
               spans := if take then updAt x.spans x.facet (fun e => (e.1 + span, e.2 + 1)) else x.spans })
    .next (if ok then s1 else s1.bump (scnA n 0x48) 16 8 1)

/-- The station is LOCKED with its facet known; SCN_LOCK is raised (R163, R165). -/
def State.stnLocked (s : State) (n facet : Nat) : State :=
  (s.modStn n (fun x => { x with sos := .locked, facet := facet, spans := List.replicate 12 (0, 0), edges := 0 })).raise (161 + 4 * n) n

/-- R165: 64 revolutions of learning end: facet 0 is the position with the largest mean span, if it exceeds the second largest by LEARN_MARGIN. -/
def execFacetLearn (n : Nat) (s : State) : Ans :=
  let x := s.st n
  let k := s.facets n
  if s.inReset || x.sos != .facetId || s.flag (scnA n 0) 4 || x.edges < 64 * k then .next s
  else
    let sp := (x.spans.take k).zipIdx
    let big := sp.foldl (fun (b : (Nat × Nat) × Nat) e => if b.1.1 * e.1.2 < e.1.1 * b.1.2 || b.1.2 = 0 then e else b) (((0, 0), 0) : (Nat × Nat) × Nat)
    let rest := sp.filter (fun e => e.2 != big.2)
    let margin := s.f (scnA n 0x14) 0 8
    let ahead := sp.all (fun e => e.1.2 != 0) &&
      rest.all (fun e => decide ((e.1.1 + margin * e.1.2) * big.1.2 ≤ big.1.1 * e.1.2) && decide (e.1.1 * big.1.2 < big.1.1 * e.1.2))
    if ahead then .next (s.stnLocked n ((x.facet + k - big.2) % k))
    else
      .next ((s.modStn n (fun x => { x with spans := List.replicate 12 (0, 0), edges := 0 })).raise (161 + 4 * n) (n + 256))

/-- R168: an auto-learn period of 256 revolutions ends; new scales go to the shadow facet table. -/
def execAutoLearnPeriod (n : Nat) (s : State) : Ans :=
  let x := s.st n
  if s.inReset || x.sos != .locked || !s.flag (scnA n 0) 5 || x.edges < 256 * s.facets n then .next s
  else
    let nom := s.f (scnA n 0x10) 0 23
    let learn (s : State) (f : Nat) : State :=
      match x.spans.getD f (0, 0) with
      | (sum, cnt) =>
        if cnt < 128 || sum = 0 then s
        else
          let old := sext 19 (s.tabAct 1 n (8 * f + 4) 4)
          let num : Int := (100000000 + old) * (nom * cnt : Nat)
          let new := (2 * num + sum) / (2 * sum) - 100000000
          let held := clampI (-200000) 200000 new
          let s1 := s.putTab (winBase 1 n + 8 * f + 4) (leBytes 4 (wrapN 19 held))
          s1.modStn n (fun x => { x with pend := Nat.lor x.pend 1, learnClamp := x.learnClamp || held != new })
    .next ((s.each (upTo (s.facets n)) learn).modStn n (fun x => { x with spans := List.replicate 12 (0, 0), edges := 0 }))

/-- R163: the ladder enters GAP; every station acquires again, and from then on its edges are supervised against the new T_NOM. -/
def State.stnGap (s : State) (n : Nat) : State :=
  let t := s.tnom n
  s.modStn n (fun x => { x with sos := if t = 0 then .idle else .acquire, acc := 0, running := x.running && t != 0 })

end Sys2Proof.Machine
end

