-- ==== Sys2Proof/Machine/Plinth.lean ====
section
/-! DEFINITION. Sensors and domains (R321, R327), the conditions that hold picks for heat (R331, R333, R338), the release of ESTOP_N
(R67) and the printing plinth set (R29, Table 1.6). -/
namespace Sys2Proof.Machine

/-- THM register of sensor `k` at offset `o`. -/
def thmA (k o : Nat) : Nat := thmB + 0x100 + 0x20 * k + o

def State.sensKind (s : State) (k : Nat) : Nat := s.f (thmA k 0) 0 3

/-- The domain of a sensor as its ladder instance (Table 15.2). -/
def State.domOf (s : State) (k : Nat) : Option Nat :=
  let ix := s.f (thmA k 0) 6 3
  match s.f (thmA k 0) 3 3 with
  | 1 => some 0
  | 2 => if ix ≤ 5 then some (2 + ix) else none
  | 3 => if ix ≤ 5 then some (8 + ix) else none
  | 4 => some 1
  | 5 => some 14
  | _ => none

/-- A sensor is in use (Table 15.1). -/
def State.sensUsed (s : State) (k : Nat) : Bool :=
  s.id.sensor k && s.sensKind k != 0 &&
  (if k < 32 then (s.claim 6 k).isSome && (s.sensKind k != 2 || (s.pinFor 8 k && s.pinFor 9 k))
   else if k < 40 then true
   else s.flag (blkA (k - 40) 0) 0)

/-- The sensors in use of a domain. -/
def State.domSens (s : State) (d : Nat) : List Nat := (upTo 46).filter (fun k => s.sensUsed k && s.domOf k == some d)

/-- V_OV1 and V_HYS (Table 14.4). -/
def State.vOv1 (s : State) : Nat := s.f motB 16 12
def State.vHys (s : State) : Nat := s.f (motB + 4) 16 8

/-- The conditions of R67 for releasing ESTOP_N. -/
def State.estopMay (s : State) : Bool :=
  s.boot.image.isSome && decide (s.bus.vbus < s.vOv1) &&
  (upTo 46).all (fun k => !(s.sensUsed k && (match s.domOf k with | some d => d == 0 || (decide (2 ≤ d) && decide (d ≤ 13)) | none => false) &&
    ((s.sens k).hiCrit || (s.sens k).broken)))

/-- ESTOP_N is released or asserted by the die; a change raises GLB_ESTOP. -/
def State.setEstop (s : State) (off : Bool) : State :=
  if s.boot.estopOff == off then s else ({ s with boot := { s.boot with estopOff := off } } : State).raise 13 (b2n off)

/-- SENS_A and SENS_B of heater `h` (Table 15.5). -/
def State.sensA (s : State) (h : Nat) : Nat := s.tabAct 8 0 (32 * h) 1
def State.sensB (s : State) (h : Nat) : Nat := s.tabAct 8 0 (32 * h + 1) 1

/-- HEN of heater `h`. -/
def State.hen (s : State) (h : Nat) : Bool := s.flag hvfB (4 + h)

/-- The fuser is below its admission temperature (R335, R338). -/
def State.fuserLow (s : State) : Bool :=
  !s.thm.zcOk || (upTo 4).any (fun h => s.hen h && (s.heat h).pairOk && decide ((s.sens (s.sensA h)).temp < (s.heat h).admitT))

/-- Reason 4 of Table 4.4 (R331, R333, R338); a host die's CRIT is known from BR_FAULT (Table 15.4). -/
def State.thermHeld (s : State) : Bool :=
  (upTo 15).any (fun d => (s.lad d).crit) || (s.domSens 14).any (fun k => (s.sens k).lowCrit) || (s.id.motion && s.fuserLow)
    || natBit s.brg.peerFault 1

/-- The bridge carries messages. -/
def State.bridgeUp (s : State) : Bool := s.brg.st == .up || s.brg.st == .replay || s.brg.st == .retrain

/-- Station `n` is working with its polygon motor channel (Table 1.6). -/
def State.stnWorks (s : State) (n : Nat) : Bool :=
  s.stnReady n && s.claims.any (fun c => c.cls == 2 && c.owner % 256 == 0 && c.ownIx == n && (s.mt c.index).st != .fault)

/-- One DRAM channel of this die is in service (Table 1.6, R30). -/
def State.dramUp (s : State) : Bool := (upTo 4).any (fun c => natBit s.mem.trained c && !natBit s.mem.retired c)

/-- The units a worker needs for line service (R30) beyond the service-only set: a DRAM channel and a line-link port. -/
def State.lineServes (s : State) : Bool :=
  s.clks.rootLocked && s.boot.image.isSome && s.dramUp && (upTo s.id.llPorts).any (fun p => (s.line.ports.getD p (false, 0)).1)

/-- This die's part of Table 1.6. -/
def State.plinthPart (s : State) : Bool :=
  s.clks.rootLocked &&
  (if s.id.isE then s.bridgeUp && s.brg.laneUp != 0 else s.host.pcie.up || (upTo 2).any s.ethUp) &&
  (!s.id.isH || (s.bridgeUp && s.brg.laneUp != 0)) &&
  s.dramUp &&
  (upTo 8).any (fun i => !(s.sens (32 + i)).broken) &&
  (!s.id.engineSide ||
    ((upTo s.id.stations).any s.stnWorks && s.flag hvfB 0 && (upTo 4).any (fun h => (s.heat h).pairOk)))

/-- Both dies of a D package run images with one PAIR_ID (R69); the built-in default has none. -/
def State.paired (s : State) : Bool :=
  !s.id.dual || (match s.boot.peerPair, s.boot.image with | some p, some i => p == some i.pairId | some _, none => false | none, _ => true)

/-- GLB_BOOT.REASON of service-only mode, or 0 while the printing plinth set is complete (R29, R30, R69, Table 3.11). Of several reasons the
first in the order 1, 5, 4, 3, 2 shows (DESIGN CHOICE, log entry 100). A worker die has no printing plinth set: its REASON is 1 on the
default image and else 0 (DESIGN CHOICE, log entry 101). -/
def State.plinthWhy (s : State) : Nat :=
  if s.boot.image.isNone then 1
  else if s.id.isW then 0
  else if !s.paired then 5
  else if s.id.isH && !s.boot.peerReady then 4
  else if s.id.dual && !s.bridgeUp then 3
  else if s.plinthPart && !natBit s.brg.peerFault 0 then 0
  else 2

/-- GLB_BOOT.MODE (R70): printing-capable while the printing plinth set is complete. A worker die, which cannot print, reports
service-only (DESIGN CHOICE, log entry 101). -/
def State.modeFor (s : State) (why : Nat) : Nat := if why = 0 && !s.id.isW then 1 else 2

/-- BR_FAULT with the state of this die (Table 10.5). -/
def State.sendFault (s : State) : State :=
  s.toBridge 0 (.fault s.plinthPart ((upTo 15).any (fun d => (s.lad d).crit)) (!s.flying))

/-- R29, R70: the check before every pick; after READY it sets GLB_BOOT.MODE, and the other die hears of it. -/
def State.plinthCheck (s : State) : State :=
  let w := s.plinthWhy
  if s.boot.mode = 0 then s
  else
    let m := s.modeFor w
    let s1 := { s with boot := { s.boot with mode := m, reason := w } }
    (s1.raiseIf (m != s.boot.mode) 12 m).sendFault

end Sys2Proof.Machine
end

