-- ==== Sys2Proof/Machine/HostReq.lean ====
section
/-! DEFINITION. How a host request is taken in and answered (R66, R373 to R378): replies, the replies kept for retransmission, the relay to
the engine die, and NAK bodies. -/
namespace Sys2Proof.Machine

/-- What carrying out a request leaves: the state and the messages of its reply (type, STATUS, body); none while the reply waits. -/
structure Rsp where
  st   : State
  msgs : List (Nat × Nat × List Byte)
  deriving DecidableEq, Repr

/-- ACK with a body. -/
def ack (s : State) (body : List Byte) : Rsp := { st := s, msgs := [(0x11, 0, body)] }

/-- The 8-byte NAK body (R378). -/
def nakBody (ix addr : Nat) : List Byte := leBytes 2 ix ++ [0, 0] ++ leBytes 4 addr

/-- NAK of a request as a whole. -/
def nak (s : State) (code : Nat) : Rsp := { st := s, msgs := [(0x12, code, nakBody 0xFFFF 0)] }

/-- NAK of one entry. -/
def nakAt (s : State) (code ix addr : Nat) : Rsp := { st := s, msgs := [(0x12, code, nakBody ix addr)] }

/-- STATUS in reply. -/
def status (s : State) (body : List Byte) : Rsp := { st := s, msgs := [(0x0D, 0, body)] }

/-- The messages of a reply go to the requester, or over the bridge from an engine die; what has no path is discarded (R370). -/
def State.sendReply (s : State) (link : Link) (src port seq die : Nat) (msgs : List (Nat × Nat × List Byte)) : State :=
  msgs.foldl (fun s m =>
    if s.id.isE then s.toBridge (if m.1 == 0x0D then 3 else 0) (.host m.1 m.2.1 seq 1 m.2.2)
    else (s.toHost ⟨link, src, port⟩ m.1 m.2.1 seq die 0 m.2.2).getD s) s

/-- The reply is kept with the last 64 of its link (R375) and sent. -/
def State.keepSend (s : State) (h : ReqHdr) (type : Nat) (msgs : List (Nat × Nat × List Byte)) : State :=
  let k : Kept := { link := h.link, seq := h.seq, type := type, crc := h.crc, die := h.die, src := h.src, port := h.port, msgs := msgs }
  let mine := s.host.kept.filter (fun (k : Kept) => k.link == h.link)
  let rest := s.host.kept.filter (fun (k : Kept) => k.link != h.link)
  ({ s with host := { s.host with kept := rest ++ lastN 64 (mine ++ [k]) } } : State).sendReply h.link h.src h.port h.seq h.die msgs

/-- A request has been carried out: its reply is kept and sent; an answer with BAD_TYPE or CHECK_FAIL raises HST_BADMSG (Table
17.8). A reply without messages waits. -/
def State.finish (h : ReqHdr) (type : Nat) (r : Rsp) : State :=
  if r.msgs.isEmpty then r.st
  else (r.st.keepSend h type r.msgs).raiseIf (r.msgs.any (fun m => m.1 == 0x12 && (m.2.1 == sBadType || m.2.1 == sCheck))) 249
    (match h.link with | .pcie => 2 | .eth p => p)

/-- Requests reach this die over a link: an enabled Ethernet port that is up, the rings with room for replies (R369), the bridge for an
engine die. -/
def State.linkOk (s : State) (l : Link) : Bool :=
  if s.id.isE then s.bridgeUp
  else s.id.hostSide && (match l with
    | .pcie => s.ringOn && s.d2hRoom 1024
    | .eth p => decide (p < 2) && s.ethUp p)

/-- A message accepted over Ethernet is counted (Table 17.12). -/
def State.countMsg (s : State) (l : Link) : State :=
  if s.id.isE then s
  else match l with
    | .pcie => s
    | .eth p => s.bump (ethB + 0x100 * p + 0x28) 0 16 1

/-- The largest message of the path a request came by (R374): an IPv6 source address is 2^32 or more (DESIGN CHOICE, log entry 20). -/
def State.maxMsg (s : State) (h : ReqHdr) : Nat :=
  if s.id.isE then 1024
  else match h.link with
    | .pcie => 16384
    | .eth p => s.f (ethB + 0x100 * p + 0x20) 0 14 - (if h.src < 2 ^ 32 then 28 else 48)

/-- R369, R376: while the D2H ring is full, a request over PCIe stays in the H2D ring behind what waits there. -/
def State.ringHolds (s : State) (h : ReqHdr) (type : Nat) (body : List Byte) : State :=
  if !s.inReset && !s.id.isE && h.link == .pcie && s.ringOn && !s.d2hRoom 1024 then
    let m := msgBytes type 0 h.seq h.die body
    let m := m ++ List.replicate (ringLen m.length - m.length) 0
    ({ s with host := { s.host with h2d := s.host.h2d ++ m } } : State).setReg (ringB + 0x20) (wd ((s.h2dTail + m.length) % s.h2dSize))
  else s

/-- R66, R375 to R377: a request of code `type` with the given body arrives and is carried out by `run`, unless it repeats a kept
one, comes before READY, or is for the engine die; with `here` it is answered by this die whatever its DIE. -/
def State.requestX (s : State) (here : Bool) (h : ReqHdr) (type : Nat) (body : List Byte) (run : State → Rsp) : State :=
  if s.inReset || !s.linkOk h.link then s.ringHolds h type body
  else
    let s0 := s.countMsg h.link
    match s0.host.kept.find? (fun (k : Kept) => k.link == h.link && k.seq == h.seq && k.type == type && k.crc == h.crc) with
    | some k => s0.sendReply k.link h.src h.port k.seq k.die k.msgs
    | none =>
      if s0.host.relayed.any (fun e => e.1.link == h.link && e.1.seq == h.seq && e.2 == type && e.1.crc == h.crc)
          || s0.csm.asked.any (fun e => e.1.link == h.link && e.1.seq == h.seq && e.1.crc == h.crc) then s0
      else if !s0.ready && type != 1 then State.finish h type (nak s0 sBusy)
      else if s0.maxMsg h < body.length + 16 then State.finish h type (nak s0 sCheck)
      else if s0.id.isH && h.die == 1 && !here then
        if 1024 < body.length + 16 then State.finish h type (nak s0 sCheck)
        else if s0.brg.st == .down then State.finish h type (nak s0 sBusy)
        else ({ s0 with host := { s0.host with relayed := s0.host.relayed ++ [(h, type)] } } : State).toBridge 0 (.host type 0 h.seq 1 body)
      else State.finish h type (run s0)

/-- A request that the engine die answers where it bears DIE 1. -/
def State.request (s : State) (h : ReqHdr) (type : Nat) (body : List Byte) (run : State → Rsp) : State := s.requestX false h type body run

/-- The reply of an engine die comes back and goes to its requester unchanged (R377); a CONSUMABLE report comes as several STATUS messages. What
answers nothing is `none`. -/
def State.relayBack (s : State) (type status seq : Nat) (body : List Byte) : Option State :=
  let usage := type == 0x0D && byteAt body 0 == 3
  match s.host.relayed.find? (fun e => e.1.seq == seq && (type != 0x0D || (e.2 == 0x10) == usage)) with
  | some e =>
    let s1 : State := { s with host := { s.host with relayed := s.host.relayed.filter (fun x => x != e) } }
    some (s1.keepSend e.1 e.2 [(type, status, body)])
  | none =>
    match s.host.kept.find? (fun (k : Kept) => usage && k.seq == seq && k.type == 0x10 && k.die == 1 && k.msgs.all (fun m => m.1 == 0x0D)) with
    | some k =>
      let s1 : State := { s with host := { s.host with
        kept := s.host.kept.map (fun (x : Kept) => if x == k then { x with msgs := x.msgs ++ [(type, status, body)] } else x) } }
      some (s1.sendReply k.link k.src k.port k.seq k.die [(type, status, body)])
    | none => none

end Sys2Proof.Machine
end

