-- ==== Sys2Proof/Machine/Memory.lean ====
section
/-! DEFINITION. DRAM and band SRAM (R247 to R263): interleave, coded reads and writes, merge buffers, scrubbing, the patina log and retirement.
Data is kept by logical address (R267); cell bits that have flipped are kept apart as the XOR with what was stored. -/
namespace Sys2Proof.Machine

/-- Channels up: trained and not retired. -/
def State.chUp (s : State) : Nat := (upTo 4).foldl (fun a n => if natBit s.mem.trained n && !natBit s.mem.retired n then a + 2 ^ n else a) 0

/-- The channels in the interleave, in ascending order (R248). -/
def interleave (up : Nat) : List Nat :=
  if up % 16 = 15 then [0, 1, 2, 3]
  else if up % 4 = 3 then [0, 1]
  else if up / 4 % 4 = 3 then [2, 3]
  else match lowestBit 4 up with | some n => [n] | none => []

def State.ways (s : State) : List Nat := interleave s.chUp

/-- Bytes of a channel (Table 11.5) and of logical DRAM. -/
def State.chBytes (s : State) : Nat := 2 ^ (30 + Nat.min 4 (s.f memB 4 4))
def State.dramBytes (s : State) : Nat := s.ways.length * s.chBytes

/-- Channel of a logical DRAM address, and its address within the channel (R248). -/
def State.dramCh (s : State) (a : Nat) : Nat := s.ways.getD (a / 256 % Nat.max 1 s.ways.length) 0
def State.dramIn (s : State) (a : Nat) : Nat := a / 256 / Nat.max 1 s.ways.length * 256 + a % 256

/-- The logical address of an address within channel `ch`. -/
def State.dramOut (s : State) (ch a : Nat) : Nat :=
  (a / 256 * Nat.max 1 s.ways.length + ((findIx (· == ch) s.ways).getD 0)) * 256 + a % 256

/-- Key of the flipped bits of a beat or word. -/
def upKey (unit ix : Nat) : Nat := unit * 2 ^ 40 + ix

/-- Flipped bits of a beat or word. -/
def State.upset (s : State) (unit ix : Nat) : Nat := (look s.mem.upset (upKey unit ix)).getD 0

def State.setUpset (s : State) (unit ix v : Nat) : State :=
  { s with mem := { s.mem with upset := put s.mem.upset (upKey unit ix) 0 v } }

/-- Cell bits flip (the operand of the memory commands). -/
def State.applyUps (s : State) (l : List Upset) : State :=
  l.foldl (fun s u => s.setUpset u.unit u.idx (Nat.xor (s.upset u.unit u.idx) (u.bits % 2 ^ (if u.unit < 16 then 40 else 72)))) s

/-- Bytes of DRAM and band SRAM changed. -/
def State.setDram (s : State) (a : Nat) (l : List Byte) : State := { s with mem := { s.mem with dram := s.mem.dram.setBytes a l } }
def State.setSram (s : State) (a : Nat) (l : List Byte) : State := { s with mem := { s.mem with sram := s.mem.sram.setBytes a l } }

/-- One beat of DRAM at a logical address that is a multiple of 4 is read and decoded (R251): its four bytes as delivered, and whether it is
uncorrectable. A corrected beat is written back. -/
def State.readBeat (s : State) (a src : Nat) : State × List Byte × Bool :=
  let ch := s.dramCh a
  let ix := s.dramIn a / 4
  let up := s.upset ch ix
  let d := s.mem.dram.bytes a 4
  if up = 0 then (s, d, false)
  else
    let r := rsDecode (Nat.xor (rsEncode (ofLe d)) up)
    let d' := leBytes 4 (r.2.2 % 2 ^ 32)
    match r.1 with
    | .clean => ((s.setDram a d').setUpset ch ix 0, d', false)
    | .corrected => (((s.memErr ch ix false src r.2.1).setDram a d').setUpset ch ix 0, d', false)
    | .bad => (s.memErr ch ix true src r.2.1, d', true)

/-- Bank and word of a band SRAM address; bank 16 is the context store. -/
def sramUnit (a : Nat) : Nat := 16 + Nat.min 16 (a / 2 ^ 21)
def sramIx (a : Nat) : Nat := a % 2 ^ 21 / 8

/-- One 64-bit word of SRAM at an address that is a multiple of 8 is read and decoded (R257). -/
def State.readSword (s : State) (a src : Nat) : State × List Byte × Bool :=
  let u := sramUnit a
  let ix := sramIx a
  let up := s.upset u ix
  let d := s.mem.sram.bytes a 8
  if up = 0 then (s, d, false)
  else
    let r := secDecode (Nat.xor (secEncode (ofLe d)) up)
    let d' := leBytes 8 (r.2.2 % 2 ^ 64)
    match r.1 with
    | .clean => ((s.setSram a d').setUpset u ix 0, d', false)
    | .corrected => (((s.memErr u (2 * ix) false src r.2.1).setSram a d').setUpset u ix 0, d', false)
    | .bad => (s.memErr u (2 * ix) true src r.2.1, d', true)

/-- Bytes pending in a merge buffer over what was read (R256). -/
def State.overlay (s : State) (sram : Bool) (a : Nat) (l : List Byte) : List Byte :=
  let es := s.mem.merge.filter (fun (e : MergeEnt) => (decide (16 ≤ e.unit)) == sram)
  if es.isEmpty then l
  else (l.zip (upTo l.length)).map (fun x =>
    match es.findSome? (fun (e : MergeEnt) => if e.addr ≤ a + x.2 then look e.bytes (a + x.2 - e.addr) else none) with
    | some b => b
    | none => x.1)

/-- Units of `w` bytes from `a` on are read: the bytes, and the first uncorrectable unit's address. -/
def State.readUnits (s : State) (sram : Bool) (src : Nat) : Nat → Nat → State × List Byte × Option Nat
  | 0, _ => (s, [], none)
  | n + 1, a =>
    let r := if sram then s.readSword a src else s.readBeat a src
    let t := r.1.readUnits sram src n (a + if sram then 8 else 4)
    (t.1, r.2.1 ++ t.2.1, if r.2.2 then some a else t.2.2)

/-- `n` bytes from address `a` of DRAM or band SRAM, as a reader sees them (R251, R256), with the first uncorrectable address. -/
def State.memRead (s : State) (sram : Bool) (a n : Nat) : State × List Byte × Option Nat :=
  let w := if sram then 8 else 4
  let a0 := a / w * w
  let r := s.readUnits sram 0 (if n = 0 then 0 else (a + n - 1) / w - a / w + 1) a0
  (r.1, s.overlay sram a ((r.2.1.drop (a - a0)).take n), r.2.2)

/-- The unit words of a merge entry: `w` bytes each; those fully covered are written fresh, the others read, corrected and merged; an
uncorrectable one is left as it is (R254, R255). -/
def State.flushUnits (s : State) (e : MergeEnt) (sram : Bool) : Nat → Nat → State
  | 0, _ => s
  | n + 1, o =>
    let w := if sram then 8 else 4
    let a := e.addr + o
    let mine := (upTo w).map (fun k => look e.bytes (o + k))
    let s1 :=
      if mine.all (·.isNone) then s
      else if mine.all (·.isSome) then
        let d := mine.map (·.getD 0)
        if sram then (s.setSram a d).setUpset (sramUnit a) (sramIx a) 0 else (s.setDram a d).setUpset (s.dramCh a) (s.dramIn a / 4) 0
      else
        let r := if sram then s.readSword a 2 else s.readBeat a 2
        if r.2.2 then r.1 else
          let d := (r.2.1.zip mine).map (fun x => x.2.getD x.1)
          if sram then r.1.setSram a d else r.1.setDram a d
    s1.flushUnits e sram n (o + w)

/-- A merge entry is flushed. Where it does not cover its granule or word, the whole of it is read first (R254): the beats that are merged below
are read there, the others here. -/
def State.flushEnt (s : State) (e : MergeEnt) : State :=
  let sram := decide (16 ≤ e.unit)
  let s1 : State := { s with mem := { s.mem with merge := s.mem.merge.filter (fun (x : MergeEnt) => !(x.unit == e.unit && x.addr == e.addr)) } }
  if sram then s1.flushUnits e true 1 0
  else
    let full := decide (64 ≤ e.bytes.length)
    let s2 := if full then s1
      else s1.each ((upTo 16).filter (fun k => (upTo 4).all (fun j => (look e.bytes (4 * k + j)).isSome == (look e.bytes (4 * k)).isSome)))
        (fun s k => (s.readBeat (e.addr + 4 * k) 2).1)
    s2.flushUnits e false 16 0

/-- The oldest entry of a merge buffer. -/
def State.oldest (s : State) (unit : Nat) : Option MergeEnt := s.mem.merge.find? (fun (e : MergeEnt) => e.unit == unit)

/-- Bytes enter a merge buffer: an entry of the granule or word takes them; a full buffer flushes its oldest entry first (R254, R255). -/
def State.mergeIn (s : State) (unit addr : Nat) (bytes : List (Nat × Byte)) : State :=
  if s.mem.merge.any (fun (e : MergeEnt) => e.unit == unit && e.addr == addr) then
    let es := s.mem.merge.map (fun (e : MergeEnt) =>
      if e.unit == unit && e.addr == addr then { e with bytes := bytes.foldl (fun l b => ins l b.1 b.2) e.bytes } else e)
    { s with mem := { s.mem with merge := es } }
  else
    let cap := if unit < 16 then 16 else 4
    let s1 := if cap ≤ s.mem.merge.countP (fun (e : MergeEnt) => e.unit == unit) then
        (match s.oldest unit with | some e => s.flushEnt e | none => s)
      else s
    { s1 with mem := { s1.mem with merge := s1.mem.merge ++ [{ unit := unit, addr := addr, bytes := bytes.foldl (fun l b => ins l b.1 b.2) [] }] } }

/-- One granule's or word's part of a write: whole ones go straight in and discard an entry (R264), the others merge. -/
def State.writePart (s : State) (sram : Bool) (a : Nat) (l : List Byte) : State :=
  let w := if sram then 8 else 64
  let g := a / w * w
  let unit := if sram then sramUnit a else s.dramCh a
  if l.length = w then
    let s1 : State := { s with mem := { s.mem with merge := s.mem.merge.filter (fun (e : MergeEnt) => !(e.unit == unit && e.addr == g)) } }
    if sram then (s1.setSram g l).setUpset unit (sramIx g) 0
    else (s1.setDram g l).each (upTo 16) (fun s k => s.setUpset unit (s.dramIn g / 4 + k) 0)
  else s.mergeIn unit g ((upTo l.length).zip l |>.map (fun x => (a - g + x.1, x.2)))

/-- Bytes written from an address of DRAM or band SRAM on. -/
def State.memWrite (s : State) (sram : Bool) : Nat → Nat → List Byte → State
  | 0, _, _ => s
  | f + 1, a, l =>
    if l.isEmpty then s
    else
      let w := if sram then 8 else 64
      let n := Nat.min l.length (w - a % w)
      (s.writePart sram a (l.take n)).memWrite sram f (a + n) (l.drop n)

/-- R254: the oldest entry of a DRAM channel's merge buffer is flushed. -/
def execMergeFlush (ch : Nat) (ups : List Upset) (s : State) : Ans :=
  if s.inReset || 4 ≤ ch then .next s
  else
    let s1 := s.applyUps ups
    match s1.oldest ch with
    | some e => .next (s1.flushEnt e)
    | none => .next s1

/-- R255: the oldest entry of an SRAM bank's merge buffer is flushed. -/
def execSramMergeFlush (bank : Nat) (ups : List Upset) (s : State) : Ans :=
  if s.inReset || 17 ≤ bank then .next s
  else
    let s1 := s.applyUps ups
    match s1.oldest (16 + bank) with
    | some e => .next (s1.flushEnt e)
    | none => .next s1

/-- The scrubber's index of a unit: channels 0 to 3, banks 4 to 19, the context store 20. -/
def scrubIx (unit : Nat) : Option Nat := if unit < 4 then some unit else if 16 ≤ unit ∧ unit ≤ 32 then some (unit - 12) else none

/-- Granules or words of a unit. -/
def State.scrubTop (s : State) (unit : Nat) : Nat := if unit < 4 then s.chBytes / 64 else if unit = 32 then 4096 else 2 ^ 18

/-- The first position from `p` on that lies in no retired region (R258). -/
def scrubSkip (rs : List Nat) : Nat → Nat → Nat
  | 0, p => p
  | f + 1, p => if rs.contains (p / 1024) then scrubSkip rs f ((p / 1024 + 1) * 1024) else p

/-- R258 to R260: one granule or word is read and, where corrected, written back; at the top address the lap ends. -/
def execScrubRead (unit : Nat) (ups : List Upset) (s : State) : Ans :=
  match scrubIx unit with
  | none => .next s
  | some i =>
    if s.inReset || !(if unit < 4 then s.flag (memB + 8) 0 && s.ways.contains unit else s.flag (memB + 8) 9) then .next s
    else
      let s0 := s.applyUps ups
      let rs := if unit < 4 then s.mem.rmap.getD unit [] else []
      let top := s.scrubTop unit
      let p := scrubSkip rs (rs.length + 1) ((s.mem.scrubs.getD i { pos := 0, t0 := 0, last := 0, max := 0 }).pos)
      let s1 := if top ≤ p then s0
        else if unit < 4 then (s0.readUnits false 1 16 (s0.dramOut unit (64 * p))).1
        else (s0.readUnits true 1 1 ((unit - 16) * 2 ^ 21 + 8 * p)).1
      let np := scrubSkip rs (rs.length + 1) (p + 1)
      if np < top then .next { s1 with mem := { s1.mem with scrubs := updAt s1.mem.scrubs i (fun (x : Scrub) => { x with pos := np }) } }
      else
        let lap (x : Scrub) : Scrub :=
          let d := satN 32 ((s.clk - x.t0) / 65536)
          { pos := 0, t0 := s.clk, last := d, max := Nat.max x.max d }
        let s2 : State := { s1 with mem := { s1.mem with scrubs := updAt s1.mem.scrubs i lap } }
        .next (s2.raiseIf (unit < 4) 213 unit)

/-- MEM_PAT_TAIL is written (R261); an overwrite of the same clock wins (R264). -/
def State.patTail (s : State) (v : Word) : State :=
  if s.mem.overAt = some s.clk then s else { s with mem := { s.mem with tail := fld v 0 6, tailWas := some (s.clk, s.mem.tail) } }

/-- R261: software consumes patina entries. -/
def execPatinaTailWrite (v : Word) (s : State) : Ans := if s.inReset then .next s else .next (State.answer (memB + 0x1C) (s.patTail v, sOk))

/-- Every band-store copy goes back to the page store (R263): copies are interleaved over every channel. -/
def State.dropCopies (s : State) (ch : Nat) : State :=
  if !s.id.engineSide || !s.ways.contains ch then s
  else (s.jobs.flatMap (fun j => j.pages.flatMap (fun p => (p.refs j.id).filter (fun r =>
    match s.band? r with | some b => b.res == .resident | none => false)))).foldl (fun s r => s.setRes r .inPageStore) s

/-- A channel leaves the interleave (R248, R263): capacities fall with the number of channels in use. -/
def State.chanGone (s : State) (ch : Nat) : State :=
  let s0 := s.mem.merge.foldl (fun s e => if e.unit < 4 then s.flushEnt e else s) s
  let before := Nat.max 1 s0.ways.length
  let s1 : State := { s0 with mem := { s0.mem with
    retired := Nat.lor s0.mem.retired (2 ^ ch), pend := s0.mem.pend.filter (fun (r : Retire) => r.ch != ch),
    upset := s0.mem.upset.filter (fun e => decide (16 * 2 ^ 40 ≤ e.1)) } }
  ({ s1 with pageCap := s1.pageCap * s1.ways.length / before, bandCap := s1.bandCap * s1.ways.length / before } : State).raise 212 ch

/-- REFUSED of MEM_RET_STAT after a request. -/
def State.retRefused (s : State) (r : Bool) : State := { s with mem := { s.mem with refused := r } }

/-- A pending retirement is added and its copy started on a DMA channel (R265). -/
def State.retAdd (s : State) (ch region : Nat) (whole : Bool) : State :=
  let s1 : State := { s with mem := { s.mem with pend := s.mem.pend ++ [{ ch := ch, region := region, whole := whole, halted := false }] } }
  s1.seqTake 32 (.copy ch region whole) (if whole then s.chBytes else 65536)

/-- A region of 64 KiB leaves the allocation of the store that fills this die's DRAM, the page store where it has one (R262, log entry 35). -/
def State.lessRoom (s : State) : State :=
  if s.id.hostSide then { s with pageCap := s.pageCap - 65536 } else { s with bandCap := s.bandCap - 65536 }

/-- No free region can take the copy of a pending region (MEM_RET_STAT.WAIT): what the store still allocates is less than what it holds. -/
def State.retWait (s : State) : Bool :=
  s.mem.pend.any (fun (r : Retire) => !r.whole) && (if s.id.hostSide then decide (s.pageCap < s.pageUsed) else decide (s.bandCap < s.bandUsed))

/-- R262, R264: a request to retire a region. -/
def State.retRegion (s : State) (ch region : Nat) : State × Nat :=
  let rg := Nat.min region (s.chBytes / 65536 - 1)
  let s1 := s.retRefused false
  let rs := s.mem.rmap.getD ch []
  if s.id.drams ≤ ch then (s.retRefused true, sNoRes)
  else if natBit s.mem.retired ch || natBit s.mem.failed ch || s.mem.pend.any (fun (r : Retire) => r.ch == ch && r.whole) then (s1, sOk)
  else if rs.contains rg || s.mem.pend.any (fun (r : Retire) => r.ch == ch && r.region == rg) then (s1, sOk)
  else if 256 ≤ rs.length + s.mem.pend.countP (fun (r : Retire) => r.ch == ch) then (s.retRefused true, sNoRes)
  else
    let s2 := (s1.retAdd ch rg false).lessRoom
    (if s2.id.isH then s2.toBridge 0 (.retire ch rg false) else s2, sOk)

/-- R263: a request to retire a channel. -/
def State.retChannel (s : State) (ch : Nat) : State × Nat :=
  let s1 := s.retRefused false
  let going (c : Nat) : Bool := c == ch || s.mem.pend.any (fun (r : Retire) => r.ch == c && r.whole)
  let after := interleave (sumN (((upTo 4).filter (fun c => natBit s.chUp c && !going c)).map (fun c => 2 ^ c)))
  if s.id.drams ≤ ch then (s.retRefused true, sNoRes)
  else if natBit s.mem.retired ch || natBit s.mem.failed ch || s.mem.pend.any (fun (r : Retire) => r.ch == ch && r.whole) then (s1, sOk)
  else if after.isEmpty then (s.retRefused true, sConflict)
  else if s.id.hostSide && decide (s.pageCap * after.length / Nat.max 1 s.ways.length < s.pageUsed) then (s.retRefused true, sNoRes)
  else
    let s2 := s1.dropCopies ch
    if s.id.hostSide then
      let s3 := s2.retAdd ch 0 true
      (if s3.id.isH then s3.toBridge 0 (.retire ch 0 true) else s3, sOk)
    else (if s.id.isE then (s2.chanGone ch).toBridge 0 (.retire ch 0 true) else s2.chanGone ch, sOk)

/-- A request by MEM_RETIRE or RETIRE (Table 11.6). -/
def State.retire (s : State) (v : Word) : State × Nat :=
  if bitOf v 20 then s.retChannel (fld v 18 2) else s.retRegion (fld v 18 2) (fld v 0 18)

/-- A RETIRE message carries the word of MEM_RETIRE (R383). -/
def doRetire (v : Word) (s : State) : Rsp :=
  let r := s.retire v
  if r.2 = sOk then ack r.1 [] else nakAt r.1 r.2 0xFFFF 0

/-- The word of a retirement request. -/
def retWord (ch region : Nat) (whole : Bool) : Word := wd (region % 2 ^ 18 + ch % 4 * 2 ^ 18 + b2n whole * 2 ^ 20)

/-- R262: retirement of a region by RETIRE, or by MEM_RETIRE where there is no message. -/
def execRetireRegion (h : Option ReqHdr) (ch region : Nat) (s : State) : Ans :=
  match h with
  | some h => .next (s.request h 0x0F (wordBytes (retWord ch region false)) (doRetire (retWord ch region false)))
  | none => if s.inReset then .next s else .next (State.answer (memB + 0x10) (s.retire (retWord ch region false)))

/-- R263: retirement of a channel by RETIRE, or by MEM_RETIRE where there is no message. -/
def execRetireChannel (h : Option ReqHdr) (ch : Nat) (s : State) : Ans :=
  match h with
  | some h => .next (s.request h 0x0F (wordBytes (retWord ch 0 true)) (doRetire (retWord ch 0 true)))
  | none => if s.inReset then .next s else .next (State.answer (memB + 0x10) (s.retire (retWord ch 0 true)))

/-- R262, R263: the copy of what a retired region or channel held is complete, and it is removed from use. -/
def execRetirementCopyDone (whole : Bool) (ch region : Nat) (s : State) : Ans :=
  match s.mem.pend.find? (fun (r : Retire) => r.ch == ch && r.whole == whole && (whole || r.region == region) && !r.halted) with
  | none => .next s
  | some r =>
    if s.inReset || (!whole && s.retWait) then .next s
    else if whole then .next ((s.seqDone (.copy ch r.region true)).chanGone ch)
    else
      let s0 := s.seqDone (.copy ch region false)
      let s1 : State := { s0 with mem := { s0.mem with
        pend := s0.mem.pend.filter (fun (x : Retire) => x != r),
        rmap := updAt s0.mem.rmap ch (fun l => l ++ [region]) } }
      .next (s1.raise 211 ch)

/-- R284: a halted retirement copy is tried again, on another channel. -/
def execRetirementCopyRetry (s : State) : Ans :=
  if s.inReset then .next s
  else
    let s1 : State := { s with mem := { s.mem with pend := s.mem.pend.map (fun (r : Retire) => { r with halted := false }) } }
    .next ((s.mem.pend.filter (·.halted)).foldl (fun s (r : Retire) =>
      s.seqTake 32 (.copy r.ch r.region r.whole) (if r.whole then s.chBytes else 65536)) s1)

end Sys2Proof.Machine
end

