-- ==== Sys2Proof/Machine/Dma.lean ====
section
/-! DEFINITION. The DMA engine (R265 to R286): descriptors, bursts in five modes, arbitration, halting and the actions of DMA_CHn_CTRL. -/
namespace Sys2Proof.Machine

/-- Start and length of the user region in logical DRAM (R268). -/
def State.userBase (s : State) : Nat := s.f (dmaB + 4) 0 32 * 65536
def State.userLen (s : State) : Nat := s.f (dmaB + 8) 0 16 * 65536

/-- Channel `n` may access `len` bytes at `a` (R267, R268). -/
def State.busOk (s : State) (n a len : Nat) (write : Bool) : Bool :=
  let sp := a / 2 ^ 44 % 16
  let o := a % 2 ^ 44
  if sp = 0 then decide (o + len ≤ s.dramBytes) && (decide (n < 48) || (decide (s.userBase ≤ o) && decide (o + len ≤ s.userBase + s.userLen)))
  else if sp = 1 then decide (n < 48) && decide (o + len ≤ 2 ^ 25)
  else if sp = 2 then decide (n < 16) && !s.id.isW && (if write then !s.id.isE else !s.id.isH)
  else if sp = 3 then decide (16 ≤ n) && decide (n < 32) && !write
  else false

/-- A descriptor lies where the channel may have one (R268, R270). -/
def State.descOk (s : State) (n a : Nat) : Bool :=
  decide (n < 48) || (decide (s.userBase ≤ a) && decide (a + 32 ≤ s.userBase + Nat.min s.userLen 32768))

/-- Planes and bits a pixel of the reshuffle modes, and whether the mode splits (Table 12.3). -/
def Desc.mode (d : Desc) : Nat := d.ctrl % 8
def Desc.planes (d : Desc) : Nat := if d.mode = 1 ∨ d.mode = 2 then 4 + 2 * (d.ctrl / 8 % 4) else if d.mode = 0 then 1 else 4
def Desc.bits (d : Desc) : Nat := if d.mode = 1 ∨ d.mode = 2 then 2 ^ (d.ctrl / 32 % 4) else 1
def Desc.split (d : Desc) : Bool := d.mode == 1 || d.mode == 3
def Desc.merge (d : Desc) : Bool := d.mode == 2 || d.mode == 4
def Desc.irq (d : Desc) : Bool := natBit d.ctrl 7

/-- R270: the descriptor is valid. -/
def Desc.valid (d : Desc) : Bool :=
  d.count != 0 && decide (d.mode ≤ 4) && (!(d.mode == 1 || d.mode == 2) || (d.ctrl / 8 % 4 != 3 && d.ctrl / 32 % 4 != 3)) &&
    (if d.mode = 1 ∨ d.mode = 2 then d.count % (d.planes * d.bits) == 0 else if d.mode = 0 then true else d.count % 4 == 0)

/-- Address of byte `k` of plane `p` on the plane side. -/
def Desc.planeAt (d : Desc) (p k : Nat) : Nat := (if d.split then d.dst + p * d.dstr * 256 else d.src + p * d.sstr * 256) + k

/-- A burst of `l` bytes from offset `done` on would end here (R276). -/
def Desc.ends (d : Desc) (done l : Nat) : Bool :=
  let seq := if d.split then d.src else d.dst
  let k := (done + l) / d.planes
  (seq + done + l) % 256 == 0 ||
    (if d.mode = 0 then (d.src + done + l) % 256 == 0
     else k != done / d.planes && (upTo d.planes).any (fun p => (d.planeAt p k) % 256 == 0))

/-- Length of the next burst with `remain` bytes left (R276). -/
def Desc.burst (d : Desc) (remain : Nat) : Nat :=
  let done := d.count - remain
  ((upTo 256).find? (fun i => i + 1 == remain || d.ends done (i + 1))).elim (Nat.min 256 remain) (· + 1)

/-- The bytes of a plane that bits `8 done` to `8 (done + l)` − 1 of the pixel side touch: first and count (Table 12.5). -/
def Desc.planeRun (d : Desc) (done l : Nat) : Nat × Nat :=
  let pb := d.planes * d.bits
  let lo := 8 * done / pb * d.bits / 8
  let hi := ((8 * (done + l) - 1) / pb * d.bits + d.bits - 1) / 8
  (lo, hi - lo + 1)

/-- The runs a burst reads. -/
def Desc.srcRuns (d : Desc) (done l : Nat) : List (Nat × Nat) :=
  if d.merge then
    let r := d.planeRun done l
    (upTo d.planes).map (fun p => (d.planeAt p r.1, r.2))
  else [(d.src + done, l)]

/-- Bit `i` of a byte list. -/
def bitAt (l : List Byte) (i : Nat) : Bool := natBit (byteAt l (i / 8)) (i % 8)

/-- Eight bits as a byte, least significant first. -/
def byteOf (f : Nat → Bool) : Byte := BitVec.ofNat 8 (sumN ((upTo 8).map (fun j => if f j then 2 ^ j else 0)))

/-- What a split writes into plane `p`: bits outside the burst keep what is there. -/
def Desc.splitPlane (d : Desc) (done l p : Nat) (src old : List Byte) : List Byte :=
  let r := d.planeRun done l
  (upTo r.2).map (fun y => byteOf (fun j =>
    let bp := 8 * (r.1 + y) + j
    let t := bp / d.bits * (d.planes * d.bits) + p * d.bits + bp % d.bits
    if 8 * done ≤ t ∧ t < 8 * (done + l) then bitAt src (t - 8 * done) else bitAt old (8 * y + j)))

/-- What a merge writes: bit t of the pixel side comes from plane p. -/
def Desc.mergeBytes (d : Desc) (done l : Nat) (planes : List (List Byte)) : List Byte :=
  let r := d.planeRun done l
  let pb := d.planes * d.bits
  (upTo l).map (fun y => byteOf (fun j =>
    let t := 8 * (done + y) + j
    let p := t % pb / d.bits
    bitAt (planes.getD p []) (t / pb * d.bits + t % d.bits - 8 * r.1)))

/-- Runs are read (R267, R281, R282): the data by run, or the error and its address. Ports give the bytes that came with the burst. -/
def State.dmaRead (s : State) (n : Nat) : List (Nat × Nat) → List Byte → State × List (List Byte) × Option (Nat × Nat)
  | [], _ => (s, [], none)
  | (a, l) :: t, inp =>
    if !s.busOk n a l false then (s, [], some (1, a))
    else
      let sp := a / 2 ^ 44 % 16
      if sp = 2 ∨ sp = 3 then
        let r := s.dmaRead n t (inp.drop l)
        (r.1, inp.take l :: r.2.1, r.2.2)
      else
        let m := s.memRead (sp == 1) (a % 2 ^ 44) l
        match m.2.2 with
        | some u =>
          if n < 16 ∧ sp = 0 then
            let r := m.1.dmaRead n t inp
            (r.1, m.2.1 :: r.2.1, r.2.2)
          else (m.1, [], some (2, a / 2 ^ 44 * 2 ^ 44 + u))
        | none =>
          let r := m.1.dmaRead n t inp
          (r.1, m.2.1 :: r.2.1, r.2.2)

/-- Runs are written granule by granule; the first access that fails ends the burst (R281). -/
def State.dmaWrite (s : State) (n : Nat) : Nat → List (Nat × List Byte) → State × Option Nat
  | 0, _ => (s, none)
  | _, [] => (s, none)
  | f + 1, (a, l) :: t =>
    if l.isEmpty then s.dmaWrite n f t
    else
      let k := Nat.min l.length (64 - a % 64)
      if !s.busOk n a k true then (s, some a)
      else
        let sp := a / 2 ^ 44 % 16
        let s1 := if sp = 2 then s.emit (.port n (l.take k)) else s.memWrite (sp == 1) (k + 1) (a % 2 ^ 44) (l.take k)
        s1.dmaWrite n f ((a + k, l.drop k) :: t)

/-- What is stored now at a run, without a read's checks. -/
def State.rawBytes (s : State) (a l : Nat) : List Byte :=
  let sp := a / 2 ^ 44 % 16
  let o := a % 2 ^ 44
  if sp = 1 then s.overlay true o (s.mem.sram.bytes o l) else s.overlay false o (s.mem.dram.bytes o l)

/-- A band whose move has halted goes back to the page store (R284). -/
def State.moveBack (s : State) (r : BandRef) : State :=
  let s1 := s.dropParts r
  match s.band? r with
  | some b =>
    if b.res == .inTransit then
      (s1.modBand r (fun (x : Band) => { x with moved := 0, got := if s.id.isE then [] else x.got })).setRes r .inPageStore
    else s1
  | none => s1

/-- What the engine sequencer does when one of its channels has halted (R284). -/
def State.seqHalted (s : State) (u : DmaUse) : State :=
  match u with
  | .send r => (s.seqDrop (.land r)).moveBack r
  | .land r => (s.seqDrop (.send r)).moveBack r
  | .raw _ => s
  | .copy ch rg w =>
    { s with mem := { s.mem with pend := s.mem.pend.map (fun (r : Retire) =>
        if r.ch == ch && r.region == rg && r.whole == w then { r with halted := true } else r) } }

/-- A channel halts (R281, R284). -/
def State.dmaHalt (s : State) (n err addr : Nat) (w : Bool) : State :=
  let s1 := s.modDma n (fun (c : DmaCh) => { c with st := .halted, err := err, fail := addr, dirW := w, use := none })
  let s2 := match (s.dm n).use with | some u => s1.seqHalted u | none => s1
  s2.raise (if n < 48 then 113 else 112) n

/-- A channel whose descriptor was complete halts on what follows it: the descriptor counts as started again, so that HELD is 1 (R285). -/
def State.dmaHaltDone (s : State) (n err addr : Nat) : State :=
  (s.modDma n (fun (c : DmaCh) => { c with fetched := (c.fetched + 1) % 65536 })).dmaHalt n err addr false

/-- A descriptor from its 24 bytes (Table 12.3). -/
def mkDesc (b : List Byte) : Desc :=
  { src := oct b 0 % 2 ^ 48, sstr := half b 6, dst := oct b 8 % 2 ^ 48, dstr := half b 14, count := quad b 16 % 2 ^ 24, ctrl := quad b 20 }

/-- The channel starts the descriptor at `a` (R270, R271, R285). -/
def State.dmaFetch (s : State) (n a : Nat) (count : Bool) : State :=
  let s1 := s.modDma n (fun (c : DmaCh) =>
    { c with st := .run, cur := a, desc := none, remain := 0, err := 0, tail := false, use := none, fetched := if count then (c.fetched + 1) % 65536 else c.fetched })
  if !s.descOk n a then s1.dmaHalt n 3 a false
  else if s.dramBytes < a + 32 then s1.dmaHalt n 1 a false
  else
    let m := s1.memRead false a 24
    let d := mkDesc m.2.1
    if m.2.2.isSome then m.1.dmaHalt n 4 a false
    else if !d.valid then m.1.dmaHalt n 3 a false
    else m.1.modDma n (fun (c : DmaCh) => { c with desc := some d, remain := d.count })

/-- The channel follows its link word (R271, step 4): the next descriptor, or TAIL_WAIT, in which it keeps its tail. -/
def State.dmaFollow (s : State) (n link : Nat) : State :=
  let next := link / 32 % 2 ^ 43 * 32
  if natBit link 0 then
    (s.modDma n (fun (c : DmaCh) => { c with st := .tailWait, remain := 0, tail := true })).raiseIf (decide (48 ≤ n)) 114 n
  else if !s.descOk n next then s.dmaHaltDone n 3 (s.dm n).cur
  else s.dmaFetch n next true

/-- A descriptor's bytes 20 to 23 are written back with DONE, and with FAILED after SKIP, and its event is raised (R271, R283). -/
def State.dmaWriteBack (s : State) (n ctrl : Nat) (failed : Bool) : State :=
  let w := Nat.lor ctrl (2 ^ 31 + (if failed then 2 ^ 30 else 0))
  let s1 := s.memWrite false 5 ((s.dm n).cur + 20) (leBytes 4 w)
  let s2 := s1.modDma n (fun (c : DmaCh) => { c with retired := (c.retired + 1) % 65536, err := 0 })
  s2.raiseIf (natBit ctrl 7) (48 + n) n

/-- The link of a completed descriptor is read again and followed. -/
def State.dmaRelink (s : State) (n : Nat) : State :=
  let m := s.memRead false ((s.dm n).cur + 24) 8
  if m.2.2.isSome then m.1.dmaHaltDone n 4 (s.dm n).cur else m.1.dmaFollow n (ofLe m.2.1)

/-- A descriptor is completed (R271): link word, DONE, event, then the link is followed. -/
def State.dmaComplete (s : State) (n : Nat) (d : Desc) : State :=
  let m := s.memRead false ((s.dm n).cur + 24) 8
  if m.2.2.isSome then m.1.dmaHalt n 4 (s.dm n).cur false else (m.1.dmaWriteBack n d.ctrl false).dmaFollow n (ofLe m.2.1)

/-- The runs a burst writes. -/
def Desc.dstRuns (d : Desc) (done l : Nat) : List (Nat × Nat) :=
  if d.split then
    let r := d.planeRun done l
    (upTo d.planes).map (fun p => (d.planeAt p r.1, r.2))
  else [(d.dst + done, l)]

/-- A run of DRAM meets a retirement copy in progress, which the burst waits for (R267). -/
def State.copying (s : State) (r : Nat × Nat) : Bool :=
  r.1 / 2 ^ 44 % 16 == 0 && [r.1 % 2 ^ 44, r.1 % 2 ^ 44 + r.2 - 1].any (fun a =>
    s.mem.pend.any (fun (x : Retire) => !x.halted && x.ch == s.dramCh a && (x.whole || x.region == s.dramIn a / 65536)))

/-- The bridge VC1 port is down (R236). -/
def State.vc1Down (s : State) : Bool := s.id.dual && !s.bridgeUp

/-- A run lies in the bridge VC1 port. -/
def atVc1 (a : Nat) : Bool := a / 2 ^ 44 % 16 == 2

/-- PRIO and RATE of a channel, and its bucket's capacity in quarter-bytes (R278). -/
def State.dmaPrio (s : State) (n : Nat) : Nat := fld (s.reg (dmaA n 0)) 6 2
def State.dmaRate (s : State) (n : Nat) : Nat := fld (s.reg (dmaA n 0)) 8 8
def State.dmaCap (s : State) (n : Nat) : Nat := (fld (s.reg (dmaA n 0)) 16 4 + 1) * 1024

/-- A channel is ready for its next burst (R277): its source data is there, or an error takes its place, and no copy in progress is met (R267); one
that goes on after its completed descriptor only reads the link. -/
def State.dmaReady (s : State) (n : Nat) (inp : List Byte) : Bool :=
  let c := s.dm n
  match c.st, c.desc with
  | .run, some d =>
    let l := d.burst c.remain
    let done := d.count - c.remain
    let src := d.srcRuns done l
    let port := src.any (fun r => (atVc1 r.1 && !s.vc1Down) || r.1 / 2 ^ 44 % 16 == 3)
    c.tail || ((!port || decide (l ≤ inp.length)) && (s.dmaRate n == 0 || decide (4 * l ≤ c.bucket)) && !(src ++ d.dstRuns done l).any s.copying)
  | _, _ => false

/-- The arbiter's choice (R277): the lowest-numbered level with a ready channel, round robin after its last winner. -/
def State.dmaPick (s : State) (inp : List Byte) : Option Nat :=
  (upTo 4).findSome? (fun lv =>
    let last := s.rr.getD lv 63
    ((upTo 64).map (fun i => (last + 1 + i) % 64)).find? (fun n => s.dmaPrio n == lv && s.dmaReady n inp))

/-- One burst of channel `n` (R276 to R282). -/
def State.dmaBurst (s : State) (n : Nat) (inp : List Byte) : State :=
  let c := s.dm n
  match c.desc with
  | none => s
  | some d =>
    let l := d.burst c.remain
    let done := d.count - c.remain
    let s0 : State := { s with rr := updAt s.rr (s.dmaPrio n) (fun _ => n) }
    let s0 := if s.dmaRate n = 0 then s0 else s0.modDma n (fun (c : DmaCh) => { c with bucket := c.bucket - 4 * l })
    let vc1 := if atVc1 d.src then some d.src else if atVc1 d.dst then some d.dst else none
    if c.tail then (s.modDma n (fun (c : DmaCh) => { c with retired := (c.retired + 1) % 65536 })).dmaRelink n
    else if s.vc1Down && vc1.isSome && s.busOk n (vc1.getD 0) 1 (!atVc1 d.src) then s0.dmaHalt n 6 (vc1.getD 0) (!atVc1 d.src)
    else
      let r := s0.dmaRead n (d.srcRuns done l) inp
      match r.2.2 with
      | some e => r.1.dmaHalt n e.1 e.2 false
      | none =>
        let src := r.2.1.headD []
        let outs : List (Nat × List Byte) :=
          if d.split then
            let pr := d.planeRun done l
            (upTo d.planes).map (fun p => (d.planeAt p pr.1, d.splitPlane done l p src (r.1.rawBytes (d.planeAt p pr.1) pr.2)))
          else if d.merge then [(d.dst + done, d.mergeBytes done l r.2.1)]
          else [(d.dst + done, src)]
        let w := r.1.dmaWrite n 600 outs
        match w.2 with
        | some a => w.1.dmaHalt n 1 a true
        | none =>
          let s1 := w.1.modDma n (fun (c : DmaCh) => { c with remain := c.remain - l })
          if c.remain ≤ l then s1.dmaComplete n d else s1

/-- R277: the arbiter grants one burst. -/
def execDmaBurst (input : List Byte) (ups : List Upset) (s : State) : Ans :=
  if s.inReset then .next s
  else
    let s1 := s.applyUps ups
    match s1.dmaPick input with
    | none => .next s1
    | some n => .next (s1.dmaBurst n input)

/-- START (R273): the chain at HEAD begins and the audit counts clear; without effect in RUN. -/
def State.dmaStart (s : State) (n : Nat) : State :=
  if (s.dm n).st == .run then s
  else (s.modDma n (fun (c : DmaCh) => { c with fetched := 0, retired := 0, err := 0 })).dmaFetch n ((s.reg (dmaA n 4)).toNat * 32) true

/-- TAIL_RECHECK (R275). -/
def State.dmaRecheck (s : State) (n : Nat) : State :=
  if (s.dm n).st != .tailWait then s
  else
    let m := s.memRead false ((s.dm n).cur + 24) 8
    let link := ofLe m.2.1
    if m.2.2.isSome then m.1.dmaHaltDone n 4 (s.dm n).cur
    else if natBit link 0 then m.1
    else m.1.dmaFollow n link

/-- RESTART (R283). After an ABORT in TAIL_WAIT nothing of the descriptor is left to move: the channel runs, and its next grant reads the link
again. -/
def State.dmaRestart (s : State) (n : Nat) : State :=
  let c := s.dm n
  if c.st != .halted then s
  else if c.err = 3 ∨ c.err = 4 ∨ c.desc.isNone then s.dmaFetch n c.cur false
  else s.modDma n (fun (c : DmaCh) => { c with st := .run, err := 0 })

/-- SKIP (R283): the descriptor is written back with DONE and FAILED, and the channel goes on at step 4 of R271. A descriptor that has not been
read gives its bytes 20 to 23 now, as they read; one out of the channel's reach is a bus error (R267). -/
def State.dmaSkip (s : State) (n : Nat) : State :=
  let c := s.dm n
  if c.st != .halted then s
  else
    let s1 := s.modDma n (fun (c : DmaCh) => { c with st := .run, err := 0, remain := 0, tail := true })
    if !s.descOk n c.cur || decide (s.dramBytes < c.cur + 32) then s1.dmaHalt n 1 c.cur true
    else match c.desc with
      | some d => (s1.dmaWriteBack n d.ctrl true).dmaRelink n
      | none =>
        let m := s1.memRead false (c.cur + 20) 4
        (m.1.dmaWriteBack n (ofLe m.2.1) true).dmaRelink n

/-- ABORT (R283). -/
def State.dmaAbort (s : State) (n : Nat) : State :=
  match (s.dm n).st with
  | .run => s.dmaHalt n 5 0 false
  | .tailWait => s.dmaHaltDone n 5 0
  | _ => s

/-- STOP (R273, R285). -/
def State.dmaStop (s : State) (n : Nat) : State :=
  if (s.dm n).st == .tailWait || (s.dm n).st == .halted then
    s.modDma n (fun (c : DmaCh) => { c with st := .idle, desc := none, remain := 0, err := 0, tail := false, fetched := c.retired })
  else s

/-- The action bits of a write of DMA_CHn_CTRL (R286): START, else ABORT, else RESTART, else SKIP, then TAIL_RECHECK and STOP. -/
def State.dmaActs (s : State) (n : Nat) (v : Nat) : State :=
  if natBit v 0 && (s.dm n).st != .run then s.dmaStart n
  else if natBit v 4 then s.dmaAbort n
  else if natBit v 0 then s
  else if natBit v 2 && (s.dm n).st == .halted then s.dmaRestart n
  else if natBit v 3 && (s.dm n).st == .halted then s.dmaSkip n
  else if natBit v 5 then s.dmaStop n
  else if natBit v 1 then s.dmaRecheck n
  else s

/-- The channel exists and the die runs; a software channel's command is answered. -/
def State.dmaCmd (s : State) (n : Nat) (f : State → State) : State :=
  if s.inReset || decide (64 ≤ n) then s else if n < 48 then f s else State.answer (dmaA n 0) (f s, sOk)

def execDmaStart (n : Nat) (s : State) : Ans := .next (s.dmaCmd n (fun s => s.dmaStart n))
def execDmaTailRecheck (n : Nat) (s : State) : Ans := .next (s.dmaCmd n (fun s => s.dmaRecheck n))
def execDmaRestart (n : Nat) (s : State) : Ans := .next (s.dmaCmd n (fun s => s.dmaRestart n))
def execDmaSkip (n : Nat) (s : State) : Ans := .next (s.dmaCmd n (fun s => s.dmaSkip n))
def execDmaAbort (n : Nat) (s : State) : Ans := .next (s.dmaCmd n (fun s => s.dmaAbort n))
def execDmaStop (n : Nat) (s : State) : Ans := .next (s.dmaCmd n (fun s => s.dmaStop n))

/-- The buckets fill by two FABRIC clocks (R278). -/
def State.dmaTick (s : State) : State :=
  { s with dma := (s.dma.zip (upTo s.dma.length)).map (fun x =>
    let r := s.dmaRate x.2
    let c : DmaCh := x.1
    if r = 0 ∧ c.bucket = 0 then c else { c with bucket := Nat.min (s.dmaCap x.2) (c.bucket + 2 * r) }) }

/-- A bucket above the new capacity is cut to it (R286). -/
def State.dmaCut (s : State) (n : Nat) : State := s.modDma n (fun (c : DmaCh) => { c with bucket := Nat.min (s.dmaCap n) c.bucket })

/-- The descriptor window (R268): logical DRAM address of a DMA block offset of 0x8000 or above. -/
def State.winDram (s : State) (o : Nat) : Nat := s.userBase + (o - 0x8000)

end Sys2Proof.Machine
end

