-- ==== Sys2Proof/Machine/Claims.lean ====
section
/-! DEFINITION. Resource claims (R41, R49 to R52, R82, R86, R388, R433): units, pool pins and line slots, and how a refusal is counted. -/
namespace Sys2Proof.Machine

/-- A refused claim is counted and raises RES_CONFLICT; its DETAIL holds class, index and status code (R388). -/
def State.refuseClaim (s : State) (cls ix code : Nat) : State :=
  let s1 : State := { s with boot := { s.boot with
    conflicts := if code = sConflict then satN 16 (s.boot.conflicts + 1) else s.boot.conflicts,
    noRes := if code = sNoRes then satN 16 (s.boot.noRes + 1) else s.boot.noRes } }
  s1.raise 11 (cls % 256 + ix % 65536 * 256 + code * 2 ^ 24)

/-- Units of a claim class this die has (R41, Table 3.7). -/
def Die.claimable (d : Die) (cls : Nat) : Nat :=
  match cls with
  | 1 => d.pins | 2 => d.motors | 3 => d.steppers | 4 => d.hvs | 5 => d.heaters | 6 => d.ains | 7 => d.csms | 8 => d.encs
  | 9 => 32 | 10 => 8 | 11 => d.casts | 12 => d.stations | _ => 0

/-- The owner word as held (Table 3.7, R81). -/
def Die.ownerWord (d : Die) (w : Nat) : Nat :=
  let k := Nat.min (w % 256) 5
  if k = 0 then Nat.min (w / 256 % 256) (d.stations - 1) * 256 else k

/-- Highest INDEX of a pool-pin function (Table 2.12). -/
def pinTop (f : Nat) : Nat :=
  if f = 0 then 63 else if f ≤ 6 then 23 else if f = 7 then 35 else if f ≤ 9 then 31 else if f = 10 then 7 else if f ≤ 12 then 31
  else if f = 13 then 63 else if f ≤ 15 then 0 else 63

/-- A PIN_SEL value with FUNC and INDEX clamped (R52, Table 2.12). -/
def pinWord (v : Word) : Word :=
  let f := if fld v 0 8 ≤ 0x11 then fld v 0 8 else 0
  let i := Nat.min (fld v 8 6) (pinTop f)
  setFld (setFld (wd (v.toNat % 2 ^ 20)) 0 8 f) 8 6 i

/-- The function of pool pin `n` is idle (R428, Table 2.15) for FUNC `f` and INDEX `i`; a register field
named there is the field as the register reads (DEDUCED, log entry 58). -/
def State.funcIdle (s : State) (f i : Nat) : Bool :=
  if f = 0 then true
  else if f ≤ 6 then (s.claim 3 i).isNone || (s.sp i).st == .disabled
  else if f = 7 then (s.claim 2 (i / 3)).isNone || (s.mt (i / 3)).st == .off || (s.mt (i / 3)).st == .fault
  else if f ≤ 9 then fld (s.reg (thmB + 0x100 + 0x20 * i)) 0 3 != 2
  else if f = 10 then fld (s.reg (timB + 0x800 + 0x10 * i)) 0 2 == 0
  else if f = 11 then !bitOf (s.reg (timB + 0x400 + 0x10 * i)) 0
  else if f = 12 then !bitOf (s.reg (timB + 0xC00 + 0x10 * i)) 0 &&
    (upTo s.id.stations).all (fun n => !(bitOf (s.reg (scnA n 0)) 4 && fld (s.reg (scnA n 0)) 10 5 == i))
  else if f = 13 then !s.flying
  else if f ≤ 15 then !bitOf (s.reg (motB + 0xC)) 0
  else true

/-- The claims on pool pin `n`. -/
def State.pinClaims (s : State) (n : Nat) : List Claim := s.claims.filter (fun c => c.cls == 1 && c.index == n)

/-- INV, PULL, DRIVE and SLEW_FAST of a PIN_SEL word (Table 2.11). -/
def electrical : Nat := 0xFC000

/-- A PIN_SEL write or a pin claim (R49 to R51): the state and the status. A repeated FUNC and INDEX change the electrical fields only. Where
several step channels share an enable pin, INDEX reads the channel whose claim came last (DESIGN CHOICE, log entry 93). -/
def State.pinClaim (s : State) (n : Nat) (v : Word) : State × Nat :=
  let w := pinWord v
  let f := fld w 0 8
  let i := fld w 8 6
  let held := s.pinClaims n
  let same := held.any (fun c => c.owner == f + i * 256)
  if s.id.pins ≤ n then (s.refuseClaim 1 n sNoRes, sNoRes)
  else if f = 0 then
    if held.all (fun c => s.funcIdle (c.owner % 256) (c.owner / 256)) then
      (({ s with claims := s.claims.filter (fun c => !(c.cls == 1 && c.index == n)) } : State).setReg (pinB + 4 * n) w, sOk)
    else (s, sBadState)
  else if same then
    (s.setReg (pinB + 4 * n)
      (wd (Nat.land (s.reg (pinB + 4 * n)).toNat (0xFFFFFFFF - electrical) + Nat.land w.toNat electrical)), sOk)
  else if s.pinFor f i || (!held.isEmpty && !(f == 3 && held.all (fun c => c.owner % 256 == 3))) then
    (s.refuseClaim 1 n sConflict, sConflict)
  else (({ s with claims := s.claims ++ [{ cls := 1, index := n, owner := f + i * 256 }] } : State).setReg (pinB + 4 * n) w, sOk)

/-- Line slots claimed by the other stations. -/
def State.slotsOf (s : State) (n : Nat) : Nat :=
  sumN ((upTo 6).map (fun k => if k = n then 0 else ((s.st k).allocNew.getD ((s.st k).alloc - (s.st k).giveBack))))

/-- A line-slot claim (R82, R433). -/
def State.slotClaim (s : State) (n count : Nat) : State × Nat :=
  let c := Nat.min count 320
  if 2048 < s.slotsOf n + c then (s.refuseClaim 12 n sConflict, sConflict)
  else if s.ready then (s.modStn n (fun (x : Station) => { x with allocNew := some c }), sOk)
  else (s.modStn n (fun (x : Station) => x.allocate c), sOk)

/-- One claim entry (R82, R86): the state and the status. An entry of table 0x00 that repeats a pin's FUNC and INDEX is a claim under R86
and asks no ADJUSTABLE entry; a PIN_SEL_n write does, as every register write (R49, R84; DESIGN CHOICE, log entry 94). -/
def State.claimEntry (s : State) (cls ix owner : Nat) : State × Nat :=
  if s.id.claimable cls ≤ ix then (s.refuseClaim cls ix sNoRes, sNoRes)
  else if cls = 1 then s.pinClaim ix (wd owner)
  else if cls = 12 then s.slotClaim ix owner
  else if (s.claim cls ix).isSome then (s.refuseClaim cls ix sConflict, sConflict)
  else if owner % 256 = 0 ∧ s.id.stations = 0 then (s.refuseClaim cls ix sNoRes, sNoRes)
  else ({ s with claims := s.claims ++ [{ cls := cls, index := ix, owner := s.id.ownerWord owner }] }, sOk)

end Sys2Proof.Machine
end

