-- ==== Sys2Proof/Machine/Clock.lean ====
section
/-! DEFINITION. Clock synthesis (chapter 8): root and pixel synthesizer lock, the COMPAT5 bypass, auxiliary outputs, reference
compensation and delay-line recalibration. -/
namespace Sys2Proof.Machine

/-- The addend of R347 in 2^−48 ns for FREQ in 2^−16 ppm and E_REF in 0.001 ppm, rounded to nearest, halves upwards. -/
def addendOf (freq eRef : Int) : Nat :=
  let num : Int := 5 * 2 ^ 48 * (2 ^ 16 * 1000000 + freq) * (1000000000 - eRef)
  let den : Int := 2 ^ 16 * 1000000 * 1000000000
  ((2 * num + den) / (2 * den)).toNat

/-- A new addend after FREQ or E_REF has changed (R347). -/
def State.retrim (s : State) : State :=
  { s with time := { s.time with addend := addendOf s.time.freq s.clks.eRef } }

/-- R187, R65, R27: the root synthesizer counts as locked; at step 3 the start sequence goes on to step 4. -/
def execRootLock (s : State) : Ans :=
  if s.inReset then .next s
  else
    .next { s with clks := { s.clks with rootLocked := true },
                   boot := if s.boot.stage = 3 then { s.boot with stage := 4 } else s.boot }

/-- R65: without root lock the die stays at step 3 and the lock is tried again. -/
def execRootLockRetry (s : State) : Ans := .next s

/-- R187, R27: root lock is lost; the field LOST sets, CLK_ROOT_LOL is raised, every sheet in flight is waste with cause CLOCK. -/
def execRootLossOfLock (s : State) : Ans :=
  if s.clks.rootLocked then
    let s1 := { s with clks := { s.clks with rootLocked := false, rootLost := true } }
    .next ((s1.raise 3 0).wasteAll 2)
  else .next s

/-- R197, R198, R209: the synthesizer of station `n` has lost lock. -/
def execPixLossOfLock (n : Nat) (s : State) : Ans :=
  if s.inReset || s.id.stations ≤ n then .next s
  else
    let s1 := (s.setF (clkB + 4) n 1 1).bump (clkB + 0x110 + 0x20 * n) 0 16 1
    let s2 := s1.modPix n (fun p => { p with locked := false, back := false })
    let s3 := s2.modLink n (fun l => if l.st == .align then { l with aligned := false } else l)
    .next ((s3.raise (4 + n) n).blankStation n 2)

/-- R197, R194, R209: the synthesizer of station `n` is locked again; its LFSR restarts and its link aligns again. -/
def execPixRelock (n : Nat) (s : State) : Ans :=
  if s.inReset || s.id.stations ≤ n || (s.px n).locked then .next s
  else
    let s1 := s.modPix n (fun p => { p with locked := true, lfsr := s.f (clkB + 0x108 + 0x20 * n) 0 16 })
    .next (s1.modLink n (fun l => if l.st == .up then { l with st := .align, aligned := false } else l))

/-- R200: under COMPAT5 the output goes to the bypass clock after a loss, and back once a sheet boundary has followed the relock. -/
def execBypassSwitch (n : Nat) (s : State) : Ans :=
  if s.inReset || s.id.stations ≤ n || !s.compat5 then .next s
  else if (s.px n).bypass && (s.px n).back then .next (s.modPix n (fun p => { p with bypass := false, back := false }))
  else if !(s.px n).bypass && !(s.px n).locked then .next (s.modPix n (fun p => { p with bypass := true }))
  else .next s

/-- R196: the source and divider written last come into force at the falling edge of the old output. -/
def execAuxClockSwitch (a : Nat) (s : State) : Ans :=
  let w := s.act (clkB + 0x20 + 4 * a)
  .next { s with clks := { s.clks with aux := updAt s.clks.aux a (fun _ => (fld w 3 4, fld w 8 8)) } }

/-- TEMP and ERR of entry `i` of the reference-compensation table (Table 8.3). -/
def State.compEntry (s : State) (i : Nat) : Int × Int :=
  (sext 16 (s.tabAct 10 0 (8 * i) 2), sext 18 (s.tabAct 10 0 (8 * i + 4) 4))

/-- The entries of a compensation table up to the first whose TEMP does not rise (R201). -/
def rising : List (Int × Int) → List (Int × Int)
  | [] => []
  | [e] => [e]
  | e :: f :: t => if e.1 < f.1 then e :: rising (f :: t) else [e]

/-- ERR at temperature `t`, linear between neighbours, the end values beyond the ends (R202), to the nearest unit (log entry 12). -/
def interpolate (t : Int) : List (Int × Int) → Int
  | [] => 0
  | [e] => e.2
  | e :: f :: r =>
    if t ≤ e.1 then e.2
    else if t ≤ f.1 then e.2 + roundDiv ((f.2 - e.2) * (t - e.1)) (f.1 - e.1).toNat
    else interpolate t (f :: r)

/-- The 16 compensation entries; a table never loaded holds only zeros and is empty (R201). -/
def State.compTable (s : State) : List (Int × Int) :=
  let l := (upTo 16).map s.compEntry
  if l.all (fun e => e.1 == 0 && e.2 == 0) then [] else rising l

/-- R202, R347: E_REF is taken from the selected sensor's temperature and trims the addend; a broken sensor holds it. -/
def execRefCompUpdate (s : State) : Ans :=
  let k := s.f (clkB + 8) 1 6
  if s.inReset then .next s
  else if !s.flag (clkB + 8) 0 then
    .next { s with clks := { s.clks with eRef := 0, compHold := false } }.retrim
  else if (s.sens k).broken || !s.id.sensor k then
    if s.clks.compHold then .next s
    else .next ({ s with clks := { s.clks with compHold := true } }.raise 10 k)
  else
    .next { s with clks := { s.clks with eRef := interpolate (s.sens k).temp s.compTable, compHold := false } }.retrim

/-- R203: a recalibration of the delay-line gain starts. -/
def execGainRecalibration (s : State) : Ans :=
  if s.inReset then .next s else .next { s with clks := { s.clks with calRun := true, calAt := s.clk } }

/-- R203: a recalibration completes; CLK_CAL_STAT counts it, and each synthesizer applies it at its next accepted SOS edge, or at
once where its station has none. -/
def execRecalibrationComplete (s : State) : Ans :=
  if s.inReset || !s.clks.calRun then .next s
  else
    let s1 := { s with clks := { s.clks with calRun := false } }.setF (clkB + 0x10) 0 16 (fld (s.reg (clkB + 0x10)) 0 16 + 1)
    .next (s1.each (upTo s.id.stations) (fun s n => s.modPix n (fun p => { p with calPend := (s.st n).running })))

end Sys2Proof.Machine
end

