-- ==== Sys2Proof/Machine/Time.lean ====
section
/-! DEFINITION. Device time (R346 to R350), the compare channels (R351 to R353) and the timestamp captures (R354). -/
namespace Sys2Proof.Machine

/-- TIM registers of wide compare `w`, fast compare `c`, capture `k`. -/
def wcA (w o : Nat) : Nat := timB + 0x400 + 0x10 * w + o
def fcA (c o : Nat) : Nat := timB + 0x800 + 0x10 * c + o
def capA (k o : Nat) : Nat := timB + 0xC00 + 0x10 * k + o

def State.wc (s : State) (w : Nat) : Cmp := s.wcmp.getD w Cmp.empty
def State.fc (s : State) (c : Nat) : Cmp := s.fcmp.getD c Cmp.empty
def State.modWc (s : State) (w : Nat) (f : Cmp → Cmp) : State := { s with wcmp := updAt s.wcmp w f }
def State.modFc (s : State) (c : Nat) (f : Cmp → Cmp) : State := { s with fcmp := updAt s.fcmp c f }

/-- What steers FREQ (R348): the follower die of a D package, by the TIME_DIR in force (R434), is forced to 2. -/
def State.follower (s : State) : Bool := s.id.dual && (if s.id.isE then !s.brg.timeDir else s.brg.timeDir)
def State.timSrc (s : State) : Nat := if s.follower then 2 else s.f timB 0 2

/-- FREQ takes a value (R347). -/
def State.setFreq (s : State) (f : Int) : State :=
  let g := clampI (-32768000) 32768000 f
  (({ s with time := { s.time with freq := g } } : State).setReg (timB + 0x14) (wd (wrapN 32 g))).retrim

/-- Target of a wide compare in ns (R351). -/
def State.wcTarget (s : State) (w : Nat) : Nat :=
  (s.f (wcA w 0) 16 16 * 2 ^ 32 + (s.reg (wcA w 4)).toNat) * secNs + s.f (wcA w 8) 0 30

/-- A wide compare has a new target (R351). -/
def State.setWcTarget (s : State) (w t : Nat) : State :=
  ((s.setF (wcA w 0) 16 16 (t / secNs / 2 ^ 32)).setReg (wcA w 4) (wd (t / secNs))).setReg (wcA w 8) (wd (t % secNs))

/-- A wide compare is armed, or has its target written while armed: a target already reached fires late (R351). -/
def State.wcArm (s : State) (w : Nat) : State :=
  s.modWc w (fun (c : Cmp) => { c with late := false, lateNext := decide (s.wcTarget w ≤ s.ns) })

/-- The ns domain of the fast compares (R352). -/
def State.nsDomain (s : State) : Nat := s.ns % 2 ^ 32

/-- A fast compare is armed (R352): its target must lie 1 ns to 2^31 − 1 ns ahead. -/
def State.fcArm (s : State) (c : Nat) : State :=
  let d := sext 32 (((s.reg (fcA c 4)).toNat + 2 ^ 32 - s.nsDomain) % 2 ^ 32)
  s.modFc c (fun (x : Cmp) => { x with late := false, lateNext := decide (d ≤ 0), frac := 0 })

/-- The first scan-reference instant at least 1 ms ahead becomes the target (R353), in 2^−16 ns. -/
def State.fcScan (s : State) (c : Nat) : State :=
  let t := s.tnom (s.f (fcA c 0) 3 3)
  if t = 0 then s.modFc c (fun (x : Cmp) => { x with per := 0, lateNext := false })
  else
    let per := 5 * t * 4096
    let from0 : Int := ((s.ns + 1000000 : Nat) : Int) * 65536
    let a : Int := (s.time.anchor : Int) * 65536
    let k := (from0 - a + per - 1) / (per : Int)
    let tgt := (a + k * per).toNat
    (s.modFc c (fun (x : Cmp) => { x with late := false, lateNext := false, frac := tgt % 65536, per := t })).setReg (fcA c 4) (wd (tgt / 65536))

/-- ANCHOR is set (R353); every scan reference takes it at once. -/
def State.setAnchor (s : State) (ns : Nat) : State :=
  ({ s with time := { s.time with anchor := ns, anchorSet := true } } : State).each
    ((upTo 8).filter (fun c => s.f (fcA c 0) 0 2 == 3)) (fun s c => s.fcScan c)

/-- Device time jumps to `now` (2^−48 ns): armed wide compares whose targets a forward step passes will fire late (R351, R366). -/
def State.stepTo (s : State) (now : Nat) : State :=
  let old := s.ns
  let s1 : State := { s with time := { s.time with now := now } }
  let s2 := s1.each ((upTo 32).filter (fun w => s.flag (wcA w 0) 0)) (fun s w =>
    if old < s.wcTarget w && decide (s.wcTarget w ≤ s.ns) then s.modWc w (fun (c : Cmp) => { c with lateNext := true }) else s)
  let s3 := s2.each ((upTo 8).filter (fun c => s.f (fcA c 0) 0 2 != 0)) (fun s c =>
    let d := ((s.reg (fcA c 4)).toNat + 2 ^ 32 - old % 2 ^ 32) % 2 ^ 32
    if decide (0 < d) && decide (d ≤ s.ns - old) then s.modFc c (fun (x : Cmp) => { x with lateNext := true }) else s)
  s3.raise 33 0

/-- Device time is stepped by `d` ns (R350): never below 0. -/
def State.stepBy (s : State) (d : Int) : State :=
  let t : Int := (s.time.now : Int) + d * 2 ^ 48
  s.stepTo (if t < 0 then 0 else t.toNat)

/-- R350: a step of device time by software. -/
def State.timStep (s : State) (d : Int) : State × Nat := if s.flying then (s, sBadState) else (s.stepBy d, sOk)

/-- R348: a write of TIM_FREQ. -/
def State.timFreq (s : State) (v : Word) : State × Nat :=
  if s.timSrc ≠ 0 then (s.refuseClaim 0 0 sConflict, sConflict) else (s.setFreq (sext 32 v.toNat), sOk)

/-- R350: a write of TIM_STEP. -/
def execTimStepWrite (v : Word) (s : State) : Ans :=
  if s.inReset then .next s else .next (State.answer (timB + 0x18) (s.timStep (sext 32 v.toNat)))

/-- R348: a write of TIM_FREQ. -/
def execTimFreqWrite (v : Word) (s : State) : Ans :=
  if s.inReset then .next s else .next (State.answer (timB + 0x14) (s.timFreq v))

/-- log2 of the sample interval in s of the PTP slave port (R349); `none` for the bridge's 1 ms. -/
def State.servoFreq (s : State) (sum o : Int) : Int :=
  let kp : Int := (s.f (timB + 0x1C) 0 8 : Nat)
  let ki : Int := (s.f (timB + 0x1C) 8 8 : Nat)
  let e := kp * o + ki * sum
  let lim : Int := (s.f timB 8 6 * 655360 : Nat)
  let raw : Int :=
    if s.timSrc = 2 then roundDiv (e * 65536) 256
    else
      let l := sext 4 (s.f (timB + 0x100 + 0x20 * s.f timB 2 3) 13 4)
      if l < 0 then roundDiv (e * 65536 * 2 ^ l.natAbs) 256000 else roundDiv (e * 65536) (256000 * 2 ^ l.natAbs)
  clampI (-lim) lim (-raw)

/-- R349, R350: an offset sample `o` in ns steps or slews device time and feeds the lock counts. -/
def State.servo (s : State) (o : Int) : State :=
  let inside := decide (o.natAbs ≤ s.f (timB + 0x1C) 16 8)
  let big := decide (s.f (timB + 0x1C) 24 8 * 100000 < o.natAbs)
  let t := s.time
  let inRun := if inside then t.inRun + 1 else 0
  let outRun := if inside then 0 else t.outRun + 1
  let drop := t.locked && decide (4 ≤ outRun)
  let s1 : State := { s with time := { t with offset := satI 32 o, inRun := inRun, outRun := outRun, hold := false, locked := t.locked && !drop } }
  let s2 := s1.raiseIf (drop || t.hold) 32 0
  if big && !s.flying then
    ({ s2 with time := { s2.time with sumO := 0 } } : State).stepBy (-o)
  else
    let sum := t.sumO + o
    ({ s2 with time := { s2.time with sumO := sum } } : State).setFreq (s2.servoFreq sum o)

/-- R349: the servo takes a sample while it steers FREQ. -/
def execServoSample (o : Int) (s : State) : Ans := if s.inReset || s.timSrc == 0 then .next s else .next (s.servo o)

/-- R349: 16 consecutive samples lay within LOCK_NS. -/
def execServoLocked (s : State) : Ans :=
  if s.inReset || s.time.locked || decide (s.time.inRun < 16) then .next s
  else .next (({ s with time := { s.time with locked := true } } : State).raise 32 0)

/-- R349: the servo holds FREQ. -/
def State.holdover (s : State) : State :=
  if s.time.hold then s
  else ({ s with time := { s.time with hold := true, locked := false, inRun := 0, outRun := 0 } } : State).raise 32 0

/-- R349: 3 sample intervals without a sample. -/
def execServoHoldover (s : State) : Ans := if s.inReset || s.timSrc == 0 then .next s else .next s.holdover

/-- R351: a wide compare fires: pulse, event, then re-arming at target + PERIOD or disarming. -/
def State.wcFire (s : State) (w : Nat) : State :=
  let late := (s.wc w).lateNext
  let s1 := s.modWc w (fun (c : Cmp) => { c with late := late, lateNext := false })
  let s2 := if s.pinFor 0xB w then s1.emit (.pulse true w (s.f (wcA w 0) 8 8)) else s1
  let s3 := (s2.raise 34 w).raiseIf late 37 w
  if s.flag (wcA w 0) 1 then
    let t := s.wcTarget w + (s.reg (wcA w 0xC)).toNat
    (s3.setWcTarget w t).modWc w (fun (c : Cmp) => { c with lateNext := decide (t ≤ s.ns) })
  else s3.setF (wcA w 0) 0 1 0

/-- R351: an armed, claimed wide compare whose target has been reached. -/
def execWideCompareFire (w : Nat) (s : State) : Ans :=
  if s.inReset || (s.claim 9 w).isNone || !s.flag (wcA w 0) 0 || decide (s.ns < s.wcTarget w) then .next s else .next (s.wcFire w)

/-- R99, R351: a sheet event loads its instant as the target of a wide compare and arms it. -/
def State.wcEvent (s : State) (w t : Nat) : State := ((s.setWcTarget w t).setF (wcA w 0) 0 1 1).wcArm w

/-- The target of a fast compare is reached, or reads as passed (R352). -/
def State.fcDue (s : State) (c : Nat) : Bool :=
  (s.fc c).lateNext || decide (sext 32 (((s.reg (fcA c 4)).toNat + 2 ^ 32 - s.nsDomain) % 2 ^ 32) ≤ 0)

/-- A scan reference whose period has changed takes its next target before it fires (R353). -/
def State.fcStale (s : State) (c : Nat) : Bool :=
  s.f (fcA c 0) 0 2 == 3 && (s.fc c).per != s.tnom (s.f (fcA c 0) 3 3)

/-- R352, R353: a fast compare fires and advances. -/
def State.fcFire (s : State) (c : Nat) : State :=
  let mode := s.f (fcA c 0) 0 2
  let late := (s.fc c).lateNext
  let s1 := s.modFc c (fun (x : Cmp) => { x with late := late, lateNext := false })
  let s2 := if s.pinFor 0xA c then s1.emit (.pulse false c (s.f (fcA c 0) 8 8)) else s1
  let s3 := (s2.raiseIf (s.flag (fcA c 0) 16) 35 c).raiseIf late 37 c
  let inc := if mode = 2 then (s.reg (fcA c 8)).toNat * 65536 + s.f (fcA c 0xC) 0 16 else 5 * (s.fc c).per * 4096
  let t := (s.reg (fcA c 4)).toNat * 65536 + (s.fc c).frac + inc
  if mode = 1 then s3.setF (fcA c 0) 0 2 0
  else (s3.modFc c (fun (x : Cmp) => { x with frac := t % 65536 })).setReg (fcA c 4) (wd (t / 65536))

/-- R352: a claimed fast compare that is on and due. -/
def execFastCompareFire (c : Nat) (s : State) : Ans :=
  if s.inReset || (s.claim 10 c).isNone || s.f (fcA c 0) 0 2 == 0 then .next s
  else if s.fcStale c then .next (s.fcScan c)
  else if s.f (fcA c 0) 0 2 == 3 && (s.fc c).per == 0 then .next s
  else if s.fcDue c then .next (s.fcFire c) else .next s

/-- R353: a fast compare is switched; the first enable of a MODE 3 channel sets ANCHOR on a package that stands alone. -/
def State.fcEnable (s : State) (c : Nat) : State :=
  let mode := s.f (fcA c 0) 0 2
  if mode = 0 then s
  else if mode = 3 then
    if !s.time.anchorSet && s.f lnkB 0 2 == 0 then s.setAnchor s.ns else s.fcScan c
  else s.fcArm c

/-- R354: capture input `k` latches device time, counts and raises TIM_CAPTURE; two edges within one TIME clock are one capture (R366). -/
def State.capture (s : State) (k : Nat) : State :=
  if s.time.capAt.getD k none = some s.clk then s
  else
    let sec := s.ns / secNs
    let s1 : State := { s with time := { s.time with capAt := updAt s.time.capAt k (fun _ => some s.clk) } }
    ((((s1.setF (capA k 0) 16 16 (sec / 2 ^ 32)).setReg (capA k 4) (wd sec)).setReg (capA k 8) (wd (s.ns % secNs))).bump (capA k 0xC) 0 16 1).raise 36 k

/-- R354: an edge of the selected polarity on a claimed, enabled capture input. -/
def execCapture (k : Nat) (s : State) : Ans :=
  if s.inReset || !s.pinFor 0xC k || !s.flag (capA k 0) 0 then .next s else .next (s.capture k)

/-- R165, R354: an edge on the claimed index input of a station is captured as any other; identification completes in FACET_ID, and the next accepted
SOS edge is facet 0. -/
def execIndexFacetId (n : Nat) (s : State) : Ans :=
  if s.inReset || s.id.stations ≤ n || !s.flag (scnA n 0) 4 || !s.pinFor 0xC (s.f (scnA n 0) 10 5) then .next s
  else
    let k := s.facets n
    let s0 := s.capture (s.f (scnA n 0) 10 5)
    let s1 := if (s.st n).sos == .facetId then s0.stnLocked n (k - 1) else s0
    .next (s1.modStn n (fun x => { x with idxEdge := true }))

/-- A fast compare in service whose target is written: where the old target is reached in the same TIME clock it fires first, and the new one is
armed after it (R366). -/
def State.fcRetarget (s : State) (c : Nat) : State :=
  let mode := s.f (fcA c 0) 0 2
  if (s.claim 10 c).isSome && (mode == 1 || mode == 2) && s.fcDue c then (s.fcFire c).setF (fcA c 0) 0 2 mode else s

end Sys2Proof.Machine
end

