-- ==== Sys2Proof/Machine/Bridge.lean ====
section
/-! DEFINITION. The isolation bridge (R228 to R246, R434): messages and credits, flits and replay, lanes, retraining and the states of the
link, and time transfer. What a message does when it arrives is in Machine/BridgeRx.lean. -/
namespace Sys2Proof.Machine

/-- Credit size, pool and largest message of a virtual channel (Table 10.4). -/
def vcSize (v : Nat) : Nat := if v = 1 then 256 else 64
def vcPool (v : Nat) : Nat := match v with | 1 => 64 | 2 => 4 | _ => 16
def vcMax (v : Nat) : Nat := match v with | 1 => 16384 | 2 => 256 | _ => 1024

/-- The pools as they are filled at the end of BR_TRAIN (Table 10.3). -/
def fullPools : List VcState := (upTo 4).map (fun v => VcState.full (vcPool v))

def State.vc (s : State) (v : Nat) : VcState := s.brg.vcs.getD v (VcState.full 0)
def State.modBrg (s : State) (f : Bridge → Bridge) : State := { s with brg := f s.brg }
def State.modVc (s : State) (v : Nat) (f : VcState → VcState) : State :=
  s.modBrg (fun (b : Bridge) => { b with vcs := updAt b.vcs v f })

/-- Type code of a bridge message (Table 10.5). -/
def brCode : BrBody → Nat
  | .host t _ _ _ _ => t | .hello _ _ => 0x80 | .ready _ => 0x81 | .bandReq _ => 0x82 | .band _ _ _ => 0x83 | .residency _ _ => 0x84
  | .rate _ _ _ => 0x85 | .timeMark => 0x86 | .timeFollow _ _ => 0x87 | .fault _ _ _ => 0x88 | .mon _ => 0x89 | .retire _ _ _ => 0x8A
  | .audit _ => 0x8B

/-- Bytes of a message, its header included: the body of a type whose layout the spec does not give has the length Config gives it,
within the largest message of the channel (log entry 9). -/
def BrMsg.len (m : BrMsg) : Nat :=
  let n := match m.body with
    | .host _ _ _ _ b => b.length
    | .band _ _ d => d.length
    | .mon t => t.length
    | .bandReq l => Config.brBody 0x82 l.length
    | b => Config.brBody (brCode b) 1
  16 + Nat.min n (vcMax m.vc - 16)

/-- Credits a message needs (R237). -/
def BrMsg.need (m : BrMsg) : Nat := ceilDiv m.len (vcSize m.vc)

/-- The bytes of a message (R240). A host message keeps its bytes, and a band's data follow the header; for the rest the spec gives the type
code and no layout. -/
def BrMsg.bytes (m : BrMsg) : List Byte :=
  let own (k : Nat) : List Byte := (upTo k).map (fun i => if i = 0 then BitVec.ofNat 8 (brCode m.body) else Config.brWire m.body i)
  (match m.body with
    | .host ty st sq d b => msgBytes ty st sq d b
    | .band _ _ d => own 16 ++ d
    | _ => own m.len).take m.len

/-- The flits of a message, 256 payload bytes each (R229); they get their FSEQ when they are sent. The first carries a time mark's stamp (R241), the
last stands for the EVENT (R236). -/
def flitsOf (v : Nat) (ev : Option EvMsg) (mark : Bool) : Nat → List Byte → Bool → List SentFlit
  | 0, _, _ => []
  | fuel + 1, l, som =>
    let fin := decide (l.length ≤ 256)
    { seq := 0, vc := v, som := som, eom := fin, ctl := false, data := l.take 256, cred := ceilDiv (Nat.min 256 l.length) (vcSize v),
      ret := [0, 0, 0, 0], ev := if fin then ev else none, mark := som && mark } ::
      (if fin then [] else flitsOf v ev mark fuel (l.drop 256) false)

/-- The 272 bytes of a flit (R229, R230, Table 10.2). -/
def SentFlit.bytes (f : SentFlit) (nak : Bool) (ack : Nat) : List Byte :=
  let rv := (findIx (fun (k : Nat) => k != 0) f.ret).getD 0
  let w0 := f.seq % 4096 + f.vc * 2 ^ 12 + b2n f.som * 2 ^ 14 + b2n f.eom * 2 ^ 15 + b2n f.ctl * 2 ^ 16 + 2 ^ 17 + b2n nak * 2 ^ 18
  let w1 := ack % 4096 + (if f.ctl then 0 else rv * 2 ^ 12 + f.ret.getD rv 0 % 256 * 2 ^ 16)
  let pay := if f.ctl then f.ret.flatMap (leBytes 2) else f.data
  let b := leBytes 4 w0 ++ leBytes 4 w1 ++ leBytes 4 f.data.length ++ pay ++ List.replicate (256 - pay.length) 0
  b ++ leBytes 4 (crc32 b)

/-- The order in which a flit slot is given to the virtual channels (R237). -/
def vcOrder : List Nat := [2, 0, 3, 1]

/-- The message the oldest unsent EVENT of an engine die makes (R236, R375, R392). -/
def State.evStart (s : State) (e : EvMsg) : BrMsg :=
  { vc := 3, body := .host 0xC 0 (((s.reg (evtB + 0x44)).toNat + 1) % 2 ^ 32) 1 (s.evBody e) }

/-- The message that may start next: the oldest of the first channel in order that has one and holds its credits (R237). On VC3 an engine
die's oldest unsent EVENT follows what waits there. -/
def State.nextMsg (s : State) : Option (BrMsg × Option EvMsg) :=
  let may (m : BrMsg) (e : Option EvMsg) : Option (BrMsg × Option EvMsg) := if m.need ≤ (s.vc m.vc).avail then some (m, e) else none
  vcOrder.findSome? (fun v => match s.brg.outQ.find? (fun (m : BrMsg) => m.vc == v) with
    | some m => may m none
    | none => if v = 3 && s.id.isE then (match s.host.unsent with | e :: _ => may (s.evStart e) (some e) | [] => none) else none)

/-- The first element that satisfies `p` leaves the list. -/
def eraseFirst {α : Type} (p : α → Bool) : List α → List α
  | [] => []
  | x :: l => if p x then l else x :: eraseFirst p l

/-- What a flit sent carries beside its own: a replay request that is due, and the acknowledgement of what has been accepted (R231). -/
def State.flitOut (s : State) (f : SentFlit) : State :=
  (s.modBrg (fun (b : Bridge) => { b with nakDue := false, ackDue := false })).emit (.flit (f.bytes s.brg.nakDue s.brg.rxSeq))

/-- The departure of a mark's first block is stamped (R241). -/
def State.stampOut (s : State) : State :=
  s.modBrg (fun (b : Bridge) => if s.follower then { b with t3 := some s.ns } else { b with t1 := some s.ns, laneChanged := false })

/-- A flit is sent with the next FSEQ and kept in the replay buffer (R231). -/
def State.sendFlit (s : State) (f : SentFlit) : State :=
  let q := (s.brg.txSeq + 1) % 4096
  let g : SentFlit := { f with seq := q }
  let s1 := (s.modBrg (fun (b : Bridge) => { b with txSeq := q, buf := b.buf ++ [g] })).flitOut g
  if f.mark then s1.stampOut else s1

/-- Credits waiting to be returned on one channel leave with a flit (RET_VC, RET_CNT). -/
def State.takeRet (s : State) : State × List Nat :=
  match (upTo 4).find? (fun v => (s.vc v).retPend != 0) with
  | none => (s, [0, 0, 0, 0])
  | some v => (s.modVc v (fun (c : VcState) => { c with retPend := 0 }), (upTo 4).map (fun k => if k = v then (s.vc v).retPend else 0))

/-- Waiting flits are sent, by the strict priority of R237, until none is left or the replay buffer is full (R231). -/
def State.pumpFlits (s : State) (fuel : Nat) : State :=
  match fuel with
  | 0 => s
  | n + 1 =>
    if s.brg.st != .up || decide (64 ≤ s.brg.buf.length) then s
    else match vcOrder.find? (fun v => s.brg.slots.any (fun (f : SentFlit) => f.vc == v)) with
      | none => s
      | some v =>
        match s.brg.slots.find? (fun (f : SentFlit) => f.vc == v) with
        | none => s
        | some f =>
          let r := (s.modBrg (fun (b : Bridge) => { b with slots := eraseFirst (fun (f : SentFlit) => f.vc == v) b.slots })).takeRet
          State.pumpFlits (r.1.sendFlit { f with ret := r.2 }) n

/-- Something waits for a flit to carry it: an acknowledgement, a replay request, credits to return (R231, R244). -/
def State.flitDue (s : State) : Bool := s.brg.ackDue || s.brg.nakDue || s.brg.vcs.any (fun (c : VcState) => c.retPend != 0)

/-- A control flit goes where something waits and there is nothing else to send: it carries every credit that waits to be returned (Table
10.2). No new flit is sent while the replay buffer is full or a replay is due (R231). -/
def State.ctlFlit (s : State) : State :=
  if 64 ≤ s.brg.buf.length || s.brg.resend || !s.flitDue || !(s.brg.st == .up || s.brg.st == .replay) then s
  else
    let ret := (upTo 4).map (fun v => (s.vc v).retPend)
    let s1 := s.modBrg (fun (b : Bridge) => { b with vcs := b.vcs.map (fun (c : VcState) => { c with retPend := 0 }) })
    s1.sendFlit { seq := 0, vc := 0, som := false, eom := false, ctl := true, data := [], cred := 0, ret := ret, ev := none, mark := false }

/-- A message that holds its credits starts: it leaves its queue, and its flits wait for their slots (R237). The last part of a band ends
the DMA transfer that fetched it. -/
def State.startOne (s : State) (m : BrMsg) (e : Option EvMsg) : State :=
  let s1 := s.modVc m.vc (fun (c : VcState) => { c with avail := c.avail - m.need })
  let s2 := match e with
    | some x => ({ s1 with host := { s1.host with unsent := eraseFirst (· == x) s1.host.unsent } } : State).setReg (evtB + 0x44)
        (wd ((s.reg (evtB + 0x44)).toNat + 1))
    | none => s1.modBrg (fun (b : Bridge) => { b with outQ := eraseFirst (fun (x : BrMsg) => x == m) b.outQ })
  let s3 := match m.body with
    | .band r _ d => if s2.partsLeft r then s2.seqMoved (.send r) d.length else s2.seqDone (.send r)
    | _ => s2
  s3.emit (.bridge m.vc m.body)

/-- R237: a message that holds every credit it needs starts; its flits go out as the replay buffer has room. -/
def State.startMsg (s : State) : State :=
  if s.brg.st != .up then s
  else match s.nextMsg with
    | none => s.pumpFlits 64
    | some (m, e) =>
      let s1 := (s.startOne m e).modBrg (fun (b : Bridge) => { b with slots := b.slots ++ flitsOf m.vc e (m.body == .timeMark) 65 m.bytes true })
      s1.pumpFlits 64

/-- On the on-die path a message reaches the other role of the die at once (R21, R243): it takes its credits up until they come back (log entry
109). A part of a band lies in the band store then. -/
def State.onDie (s : State) (m : BrMsg) : State :=
  let s1 := (s.startOne m none).modVc m.vc (fun (c : VcState) => { c with occ := c.occ + m.need })
  match m.body with
  | .band r off d => (s1.modBand r (fun (b : Band) => { b with moved := off + d.length })).seqMoved (.land r) d.length
  | _ => s1

/-- R237, R243. -/
def execBridgeMessageSend (s : State) : Ans :=
  if s.inReset then .next s
  else if s.id.dual then .next s.startMsg.ctlFlit
  else if s.brg.st != .up then .next s
  else match s.nextMsg with
    | some (m, _) => .next (s.onDie m)
    | none => .next s

/-- One TIME clock of the on-die path: returns on their way arrive, and credits whose message has been consumed are returned (R237, R243). -/
def State.onDieTick (s : State) : State :=
  if s.id.dual || s.brg.vcs.all (fun (c : VcState) => c.occ == 0 && c.retPend == 0) then s
  else s.modBrg (fun (b : Bridge) => { b with vcs := b.vcs.map (fun (c : VcState) =>
    { c with avail := Nat.min c.pool (c.avail + c.retPend), retPend := c.occ, occ := 0 }) })

/-- A retrain starts (R232): flit traffic stops until it ends. A rejoin retrain that waits becomes one with it (R246). -/
def State.retrainStart (s : State) : State :=
  if s.brg.st == .up || s.brg.st == .replay then
    (s.modBrg (fun (b : Bridge) => { b with st := .retrain, rejoinDue := none })).emit .train
  else s

/-- A replay starts (R231); the RETRY_LIM-th without ACKSEQ advancing starts a retrain, which wins (R232, R246). -/
def State.replayStart (s : State) : State :=
  if s.brg.buf.isEmpty || s.brg.resend || !(s.brg.st == .up || s.brg.st == .replay) then s
  else
    let n := s.brg.replays + 1
    let s1 := ((s.modBrg (fun (b : Bridge) => { b with st := .replay, replays := n, resend := true })).bump (brgB + 0x10) 16 16 1).raise 203 0
    if s.f brgB 4 4 ≤ n then s1.retrainStart else s1

/-- Every unacknowledged flit is sent again, in order (R231). -/
def State.resendAll (s : State) : State :=
  s.brg.buf.foldl State.flitOut (s.modBrg (fun (b : Bridge) => { b with resend := false }))

/-- R231: the replay that has started sends every unacknowledged flit again. -/
def execReplay (s : State) : Ans :=
  if s.inReset || s.brg.st != .replay || !s.brg.resend then .next s else .next s.resendAll

/-- R231: the oldest unacknowledged flit has waited 4 µs. -/
def execReplayTimeout (s : State) : Ans := if s.inReset then .next s else .next s.replayStart

/-- An acknowledgement frees the flits up to ACKSEQ; when it advances a replay is over (Table 10.3). -/
def State.ackTo (s : State) (a : Nat) : State :=
  match findIx (fun (f : SentFlit) => f.seq == a) s.brg.buf with
  | none => s
  | some i => s.modBrg (fun (b : Bridge) =>
      { b with buf := b.buf.drop (i + 1), replays := 0, resend := false, st := if b.st == .replay then .up else b.st })

/-- R232: a lane in use loses block lock. -/
def execLaneLockLoss (lane : Nat) (s : State) : Ans :=
  if s.inReset || !natBit s.brg.laneUp lane then .next s else .next s.retrainStart

/-- R232: a lane's SKP ordered sets show errors; LANE_ERR_LIM of them within 1 ms start a retrain. -/
def execSkpErrors (lane n : Nat) (s : State) : Ans :=
  if s.inReset || !natBit s.brg.laneUp lane then .next s
  else
    let l := s.brg.skp.filter (fun e => decide (s.clk < e.2.1 + 200000)) ++ [(lane, s.clk, n)]
    let total := sumN ((l.filter (fun e => e.1 == lane)).map (·.2.2))
    if s.f brgB 8 8 ≤ total then .next (s.modBrg (fun (b : Bridge) => { b with skp := l.filter (fun e => e.1 != lane) })).retrainStart
    else .next (s.modBrg (fun (b : Bridge) => { b with skp := l }))

/-- A VC1 message is in flight: some of its flits are still to be sent or acknowledged, or to arrive (R235). -/
def State.vc1Flying (s : State) : Bool :=
  (s.brg.slots ++ s.brg.buf).any (fun (f : SentFlit) => f.vc == 1 && !f.ctl) || !(s.brg.inBuf.getD 1 []).isEmpty

/-- A rejoin retrain starts (R235). -/
def State.rejoinRun (s : State) : State :=
  if s.brg.st == .up || s.brg.st == .replay then (s.retrainStart).modBrg (fun (b : Bridge) => { b with rejoining := true }) else s

/-- R235: a rejoin retrain falls due while a lane is dropped; a VC1 message in flight defers it, for at most 100 ms. -/
def execRejoinRetrainDue (s : State) : Ans :=
  if s.inReset || s.brg.dropped = 0 || s.brg.rejoin = 0 || s.brg.rejoinDue.isSome then .next s
  else if s.vc1Flying then .next (s.modBrg (fun (b : Bridge) => { b with rejoinDue := some (s.clk + 20000000) }))
  else .next s.rejoinRun

/-- A deferred rejoin retrain starts when no VC1 message is in flight any more, or its 100 ms are over (R235). -/
def State.rejoinTick (s : State) : State :=
  match s.brg.rejoinDue with
  | some d => if !s.vc1Flying || decide (d ≤ s.clk) then s.rejoinRun else s
  | none => s

/-- The lanes that form the link: the lowest-numbered LANES_MAX of those that passed and are not marked out (R234, R434). -/
def State.linkLanes (s : State) (pass : Nat) : Nat :=
  let ok := (upTo 8).filter (fun l => natBit pass l && !natBit s.brg.laneOut l)
  sumN ((ok.take (clampN 1 8 (s.f brgB 0 4))).map (fun l => 2 ^ l))

/-- A lane is dropped (R235): counted, and marked out the eighth time; the REJOIN set now governs its return (R434). -/
def State.brgDrop (s : State) (l : Nat) : State :=
  let n := Nat.min 8 (s.f (brgB + 0xC) (4 * l) 4 + 1)
  let s1 := s.setF (brgB + 0xC) (4 * l) 4 n
  (s1.modBrg (fun (b : Bridge) =>
    { b with rejoin := s.f brgB 16 8, dropped := if n = 8 then b.dropped else b.dropped + 2 ^ l, laneOut := if n = 8 then b.laneOut + 2 ^ l else b.laneOut })).raise 200 l

/-- A dropped lane rejoins (R235). -/
def State.brgRejoin (s : State) (l : Nat) : State :=
  (s.modBrg (fun (b : Bridge) => { b with dropped := b.dropped - 2 ^ l })).raise 200 l

/-- R236: bands on their way return; a band whose last part the engine die has accepted is RESIDENT (R246). -/
def State.bandsBack (s : State) : State :=
  let refs := s.jobs.flatMap (fun j => j.pages.flatMap (fun p => p.refs j.id))
  refs.foldl (fun s r =>
    match s.band? r with
    | some b =>
      if b.res != .inTransit then s
      else if s.id.isE && b.compLen != 0 && b.got.length == b.compLen then s.nowResident r
      else s.modBand r (fun (b : Band) => { b with res := .inPageStore, moved := 0, got := if s.id.isE then [] else b.got })
    | none => s) s

/-- R377: requests that wait for the engine die are answered with NAK BUSY. -/
def State.relaysBusy (s : State) : State :=
  s.host.relayed.foldl (fun s e => s.keepSend e.1 e.2 [(0x12, sBusy, nakBody 0xFFFF 0)])
    ({ s with host := { s.host with relayed := [] } } : State)

/-- A message still waiting when the link goes down is given up (R236): band data, time messages, requests and their replies. -/
def BrMsg.drops (m : BrMsg) : Bool :=
  m.vc == 1 || m.vc == 2 || (match m.body with | .host ty _ _ _ b => !(ty == 0xD && byteAt b 0 == 3) | _ => false)

/-- EVENT messages on their way when the link goes down are held again, ahead of those not sent yet (R236). -/
def State.evBack (s : State) : State :=
  { s with host := { s.host with unsent := s.host.unsent.foldl queueEv ((s.brg.buf ++ s.brg.slots).filterMap (·.ev)) } }

/-- The channels that move bands halt: the VC1 port is down (Table 12.6, R284). -/
def State.movesHalt (s : State) : State :=
  s.each (upTo 16) (fun s n =>
    match (s.dm n).st, (s.dm n).use with
    | .run, some (.send _) => s.dmaHalt n 6 (2 * 2 ^ 44) true
    | .run, some (.land _) => s.dmaHalt n 6 (2 * 2 ^ 44) false
    | _, _ => s)

/-- R236: the link enters BR_DOWN. Flits and messages on their way are gone; credits do not move until the pools are filled again (R238). -/
def State.linkDown (s : State) : State :=
  if s.brg.st == .down then s
  else
    let s1 := s.evBack.modBrg (fun (b : Bridge) =>
      { b with st := .down, laneUp := 0, buf := [], slots := [], resend := false, nakSent := false, nakDue := false, ackDue := false, replays := 0,
               inBuf := [[], [], [], []], outQ := b.outQ.filter (fun (m : BrMsg) => !m.drops), rejoinDue := none, rejoining := false,
               skp := [], t1 := none, t2 := none, t3 := none, laneChanged := false, qloss := false, wanted := [] })
    ((s1.bandsBack.movesHalt.relaysBusy).raise 202 1).plinthCheck

/-- R236: the last lane is lost or the peer die is reset. -/
def execBridgeDown (s : State) : Ans := if s.inReset || !s.id.dual then .next s else .next s.linkDown

/-- This die's credit book of channel `v` when the peer has accepted the first `k` flits of the replay buffer (R239): the credits it holds or
has in flits not accepted, its occupancy, and its returns pending, those in flits not accepted among them (R238). -/
def State.book (s : State) (k v : Nat) : Nat × Nat × Nat :=
  let rest := s.brg.buf.drop k
  let c := s.vc v
  (c.avail + sumN (((rest ++ s.brg.slots).filter (fun (f : SentFlit) => f.vc == v)).map (·.cred)), c.occ,
   c.retPend + sumN (rest.map (fun (f : SentFlit) => f.ret.getD v 0)))

/-- The peer's books agree with this die's (R239): in each direction of each channel, what the sender holds and has in its replay buffer and
what the receiver occupies and has to return make the pool, for some number of flits that the peer has accepted (DEDUCED, log entry 52). -/
def State.booksOk (s : State) (books : List (Nat × Nat × Nat)) : Bool :=
  (upTo (s.brg.buf.length + 1)).any (fun k => (upTo 4).all (fun v =>
    let m := s.book k v
    let p := books.getD v (0, 0, 0)
    (m.1 + p.2.1 + p.2.2 == (s.vc v).pool) && (p.1 + m.2.1 + m.2.2 == (s.vc v).pool)))

/-- R234, R235, R239: a retrain ends with the lanes that passed; each lane not marked out that fails is dropped, a dropped one that passes is back. The
dies exchange their books. `dur` is its length in 0.1 µs. -/
def State.retrainDone (s : State) (pass dur : Nat) (books : List (Nat × Nat × Nat)) : State :=
  let up := s.linkLanes pass
  let fails (l : Nat) : Bool := !natBit s.brg.laneOut l && !natBit s.brg.dropped l && !natBit pass l
  let s0 := if s.brg.rejoining then s.modBrg (fun (b : Bridge) => { b with rejoin := s.f brgB 16 8, rejoining := false }) else s
  let s1 := s0.each ((upTo 8).filter fails) (fun s l => s.brgDrop l)
  let s2 := if up = 0 then s1 else s1.each ((upTo 8).filter (fun l => natBit s.brg.dropped l && natBit pass l)) (fun s l => s.brgRejoin l)
  let s3 := s2.modBrg (fun (b : Bridge) =>
    { b with laneUp := up, rejoinDue := none, laneChanged := b.laneChanged || ((b.t1.isSome || b.t2.isSome) && popCount 8 b.laneUp != popCount 8 up), replays := 0, skp := [] })
  let s4 := ((s3.bump (brgB + 0x14) 0 16 1).setF (brgB + 0x18) 0 16 (Nat.max (s.f (brgB + 0x18) 0 16) (satN 16 dur))).raise 201 0
  if up = 0 then s4.linkDown
  else
    let s5 := s4.emit (.bridge 0 (.audit ((upTo 4).map (s4.book 0))))
    if s4.booksOk books then
      ((s5.modBrg (fun (b : Bridge) => { b with st := .up })).resendAll).pumpFlits 64
    else (s5.raise 206 0).linkDown

/-- R234. -/
def execRetrainEnd (pass dur : Nat) (books : List (Nat × Nat × Nat)) (s : State) : Ans :=
  if s.inReset || s.brg.st != .retrain then .next s else .next (s.retrainDone pass dur books)

/-- Settings of the engine die that govern the host die's BRG_CTRL (R434): LANES_MAX, REJOIN, TIME_DIR. -/
def State.governed (s : State) (w : Word) : State :=
  if s.id.isH then ((s.setF brgB 0 4 (fld w 0 4)).setF brgB 16 8 (fld w 16 8)).setF brgB 24 1 (fld w 24 1) else s

/-- What this die tells of itself (BR_HELLO). -/
def State.myHello (s : State) : BrBody :=
  .hello { glbId := s.id.glbId, pairId := s.boot.image.map (·.pairId), settings := s.reg brgB }
    ((s.boot.image.map (·.gen)).getD 0)

/-- R233: a training attempt starts. -/
def State.trainStart (s : State) : State :=
  ((s.modBrg (fun (b : Bridge) => { b with st := .train })).raise 202 0).emit .train

/-- R233: in BR_DOWN a training attempt starts every 100 ms. -/
def execBridgeTrainingAttempt (s : State) : Ans :=
  if s.inReset || !s.id.dual || s.brg.st != .down then .next s else .next s.trainStart

/-- TIME_DIR as it is set takes effect (R434). -/
def State.dirLatch (s : State) : State := s.modBrg (fun (b : Bridge) => { b with timeDir := s.flag brgB 24 })

/-- R69, R233, R434: training ends, with pools full and identities exchanged where a lane came up and the peer answered, else in BR_DOWN. The
FSEQ both dies start from is not stated (free values). -/
def State.trained (s : State) (lanes : Nat) (peer : Option BridgePeer) : State :=
  let up := s.linkLanes lanes
  match peer with
  | none => s.linkDown
  | some p =>
    if up = 0 then s.linkDown
    else
      let tx := s.freeVal % 4096
      let rx := s.tookFree.freeVal % 4096
      let s1 := s.tookFree.tookFree.modBrg (fun (b : Bridge) =>
        { b with st := .up, laneUp := up, dropped := sumN (((upTo 8).filter (fun l => natBit b.dropped l && !natBit up l)).map (fun l => 2 ^ l)),
                 vcs := fullPools, txSeq := tx, rxSeq := rx, nakSent := false, nakDue := false, ackDue := false, buf := [], slots := [], resend := false,
                 rejoinDue := none, rejoining := false, inBuf := [[], [], [], []], replays := 0, peer := some p, qloss := false, t1 := none, t2 := none, t3 := none, laneChanged := false })
      let s2 : State := { s1 with boot := { s1.boot with peerPair := some p.pairId } }
      let s3 := (s2.governed p.settings).dirLatch
      (s3.toBridge 0 s2.myHello).plinthCheck

/-- R233, R243: training at step 9 and in BR_DOWN. The on-die path of a single-die package needs none: its pools are full from the end of
step 9. Step 9 ends with the attempt, whether a lane came up or not. -/
def execBridgeTraining (lanes : Nat) (peer : Option BridgePeer) (s : State) : Ans :=
  if s.inReset then .next s
  else if s.boot.stage = 9 then
    let s1 := if s.id.dual then s.trainStart.trained lanes peer
      else s.modBrg (fun (b : Bridge) => { b with st := .up, vcs := fullPools })
    .next { s1 with boot := { s1.boot with stage := 10, step9 := some s.clk } }
  else if !s.id.dual || s.brg.st != .train then .next s
  else .next (s.trained lanes peer)

/-- A message that may not cross (R240). -/
def State.badMsg (s : State) : State := (s.bump (brgB + 0x1C) 0 16 1).raise 205 0

/-- R240: a message of a forbidden type or on the wrong channel. -/
def execBrBadMessage (vc type : Nat) (s : State) : Ans :=
  if s.inReset || !s.id.dual || decide (4 ≤ vc) || decide (256 ≤ type) then .next s else .next s.badMsg

/-- This die leads the time transfer (R241, R434). -/
def State.leads (s : State) : Bool := s.id.dual && !s.follower

/-- A mark of this die is still to depart. -/
def State.markWaits (s : State) : Bool :=
  s.brg.outQ.any (fun (m : BrMsg) => m.body == .timeMark) || s.brg.slots.any (·.mark)

/-- R241, R242: the leader sends its mark at a 1 ms slot and takes the follower's answer, which it stamps, within the slot; the follower
stamps a mark and answers it. Departures are stamped when the flit leaves (State.stampOut). A mark due while no flits move is not sent. A new
TIME_DIR acts where no exchange is open (R434). -/
def State.timeMark (s : State) : State :=
  if s.leads then
    let send := if s.markWaits then s else (s.modBrg (fun (b : Bridge) => { b with t1 := none })).toBridge 2 .timeMark
    match s.brg.t1 with
    | some t =>
      if s.ns < t + 1000000 then
        let s1 := s.modBrg (fun (b : Bridge) => { b with t1 := none, laneChanged := false })
        if s.brg.laneChanged then s1 else s1.toBridge 2 (.timeFollow t s.ns)
      else send
    | none => send
  else (s.modBrg (fun (b : Bridge) => { b with t2 := some s.ns, t3 := none, laneChanged := false })).toBridge 2 .timeMark

def execBrTimeMark (s : State) : Ans :=
  if s.inReset || !s.id.dual then .next s
  else if !(s.brg.st == .up || s.brg.st == .replay) then .next (s.modBrg (fun (b : Bridge) => { b with t1 := none }))
  else if s.brg.t1.isNone && s.brg.t2.isNone && !s.markWaits then .next s.dirLatch.timeMark
  else .next s.timeMark

/-- The follower has an offset and a delay (R241, R242): 4 good exchanges set TIME_OK. -/
def State.timeSample (s : State) (o d : Int) : State :=
  let good := if o.natAbs < 4 then s.brg.timeGood + 1 else 0
  let s1 := s.setReg (brgB + 0x20) (wd (wrapN 16 (satI 16 o) + wrapN 16 (satI 16 d) * 65536))
  let ok := !s.brg.timeOk && decide (4 ≤ good)
  let s2 := (s1.modBrg (fun (b : Bridge) => { b with timeGood := good, timeOk := b.timeOk || ok, t2 := none, t3 := none })).raiseIf ok 204 0
  if s2.timSrc = 2 then s2.servo o else s2

/-- R241, R242: t1 and t4 arrive; an exchange across a change in the lane count is discarded. -/
def execBrTimeFollow (t1 t4 : Nat) (s : State) : Ans :=
  if s.inReset || !s.follower then .next s
  else if s.brg.laneChanged then .next (s.modBrg (fun (b : Bridge) => { b with laneChanged := false, t2 := none, t3 := none }))
  else match s.brg.t2, s.brg.t3 with
    | some t2, some t3 =>
      let a : Int := (t2 : Int) - t1
      let b : Int := (t4 : Int) - t3
      .next (s.timeSample ((a - b) / 2) ((a + b) / 2))
    | _, _ => .next s

/-- R242: three exchanges have been missed. -/
def execTimeExchangeMissed (s : State) : Ans :=
  if s.inReset || !s.follower then .next s
  else
    let s1 := (s.modBrg (fun (b : Bridge) => { b with timeOk := false, timeGood := 0 })).raiseIf s.brg.timeOk 204 0
    .next (if s1.timSrc = 2 then s1.holdover else s1)

end Sys2Proof.Machine
end

