-- ==== Sys2Proof/Machine/Crypto.lean ====
section
/-! DEFINITION. The published algorithms the spec names: SHA-256 and HMAC-SHA-256 (R398, R410), and ECDSA over P-256 (R76). -/
namespace Sys2Proof.Machine

/-- The whole part of the `k`-th root of `n`, found bit by bit below bit `f`. -/
def rootBelow (k n : Nat) : Nat → Nat → Nat
  | 0, r => r
  | f + 1, r => rootBelow k n f (if (r + 2 ^ f) ^ k ≤ n then r + 2 ^ f else r)

/-- The first 32 bits after the point of the `k`-th root of `n`: what FIPS 180-4 takes its constants from. -/
def rootBits (k n : Nat) : Nat := rootBelow k (n * 2 ^ (32 * k)) 37 0 % 2 ^ 32

/-- The primes below 312: a number below 19² is prime where none of 2 to 18 but itself divides it. -/
def smallPrimes : List Nat := (upTo 312).filter (fun n => decide (2 ≤ n) && (upTo 19).all (fun d => decide (d < 2) || d == n || n % d != 0))

/-- One 32-bit word added modulo 2^32, and turned right by `n`. -/
def plus32 (l : List Nat) : Nat := sumN l % 2 ^ 32
def turn (x n : Nat) : Nat := (x * 2 ^ 32 + x) / 2 ^ n % 2 ^ 32

/-- The four functions Σ and σ: three turned or shifted copies of a word, combined bit by bit. -/
def mixed (x i j k : Nat) (shifted : Bool) : Nat := Nat.xor (Nat.xor (turn x i) (turn x j)) (if shifted then x / 2 ^ k else turn x k)

/-- One round of SHA-256 over the working words and the next sixteen words of the schedule, which move on together. -/
def shaStep (st : List Nat × List Nat) (k : Nat) : List Nat × List Nat :=
  let v (n : Nat) := st.1.getD n 0
  let w (n : Nat) := st.2.getD n 0
  let chosen := Nat.xor (v 6) (Nat.land (v 4) (Nat.xor (v 5) (v 6)))
  let most := Nat.lor (Nat.land (v 0) (v 1)) (Nat.land (v 2) (Nat.lor (v 0) (v 1)))
  let t := [v 7, mixed (v 4) 6 11 25 false, chosen, k, w 0]
  ([plus32 (mixed (v 0) 2 13 22 false :: most :: t), v 0, v 1, v 2, plus32 (v 3 :: t), v 4, v 5, v 6],
   st.2.tail ++ [plus32 [w 0, mixed (w 1) 7 18 3 true, w 9, mixed (w 14) 17 19 10 true]])

/-- The hash words after one more block of 64 bytes: a round for each of the cube roots of 64 primes. -/
def shaBlock (h : List Nat) (blk : List Byte) : List Nat :=
  let words := (upTo 16).map (fun n => ofBe ((blk.drop (4 * n)).take 4))
  let out := (smallPrimes.map (rootBits 3)).foldl shaStep (h, words)
  (h.zip out.1).map (fun e => plus32 [e.1, e.2])

/-- The blocks of a padded message. -/
def shaBlocks : Nat → List Nat → List Byte → List Nat
  | 0, h, _ => h
  | n + 1, h, l => shaBlocks n (shaBlock h (l.take 64)) (l.drop 64)

/-- SHA-256. -/
def sha256 (l : List Byte) : List Byte :=
  let pad := (119 - l.length % 64) % 64
  let m := l ++ [0x80] ++ List.replicate pad 0 ++ beBytes 8 (8 * l.length)
  (shaBlocks (m.length / 64) ((smallPrimes.take 8).map (rootBits 2)) m).flatMap (beBytes 4)

/-- HMAC-SHA-256 (FIPS 198-1). -/
def hmac (key msg : List Byte) : List Byte :=
  let k0 := if 64 < key.length then sha256 key else key
  let k := k0 ++ List.replicate (64 - k0.length) 0
  sha256 (k.map (· ^^^ 0x5C) ++ sha256 (k.map (· ^^^ 0x36) ++ msg))

/-- The field, order, coefficient and base point of P-256. -/
def pP : Nat := 0xffffffff00000001000000000000000000000000ffffffffffffffffffffffff
def pN : Nat := 0xffffffff00000000ffffffffffffffffbce6faada7179e84f3b9cac2fc632551
def pB : Nat := 0x5ac635d8aa3a93e7b3ebbd55769886bc651d06b0cc53b0f63bce3c3e27d2604b
def pGx : Nat := 0x6b17d1f2e12c4247f8bce6e563a440f277037d812deb33a0f4a13945d898c296
def pGy : Nat := 0x4fe342e2fe1a7f9b8ee7eb4a7c0f9e162bce33576b315ececbb6406837bf51f5

/-- `b` to the power `e` modulo `m`, over the low `f` bits of `e`. -/
def powMod (m : Nat) : Nat → Nat → Nat → Nat
  | 0, _, _ => 1 % m
  | f + 1, b, e =>
    let h := powMod m f (b * b % m) (e / 2)
    if e % 2 = 1 then h * b % m else h

/-- Inverse modulo a prime. -/
def invMod (m a : Nat) : Nat := powMod m 256 (a % m) (m - 2)

/-- Points in Jacobian coordinates; Z = 0 is the point at infinity. -/
structure Jac where
  x : Nat
  y : Nat
  z : Nat
  deriving DecidableEq, Repr

def subP (a b : Nat) : Nat := (a + pP - b) % pP

/-- Doubling. -/
def Jac.dbl (p : Jac) : Jac :=
  let y2 := p.y * p.y % pP
  let s := 4 * p.x * y2 % pP
  let z2 := p.z * p.z % pP
  let m := 3 * (subP p.x z2) * (p.x + z2) % pP
  let x := subP (m * m % pP) (2 * s % pP)
  ⟨x, subP (m * subP s x % pP) (8 * y2 * y2 % pP), 2 * p.y * p.z % pP⟩

/-- Addition. -/
def Jac.add (p q : Jac) : Jac :=
  if p.z = 0 then q
  else if q.z = 0 then p
  else
    let z1 := p.z * p.z % pP
    let z2 := q.z * q.z % pP
    let u1 := p.x * z2 % pP
    let u2 := q.x * z1 % pP
    let s1 := p.y * z2 * q.z % pP
    let s2 := q.y * z1 * p.z % pP
    if u1 = u2 then (if s1 = s2 then p.dbl else ⟨1, 1, 0⟩)
    else
      let h := subP u2 u1
      let r := subP s2 s1
      let h2 := h * h % pP
      let h3 := h2 * h % pP
      let v := u1 * h2 % pP
      let x := subP (subP (r * r % pP) h3) (2 * v % pP)
      ⟨x, subP (r * subP v x % pP) (s1 * h3 % pP), h * p.z * q.z % pP⟩

/-- Multiple by the low `f` bits of `k`. -/
def Jac.mul : Nat → Nat → Jac → Jac
  | 0, _, _ => ⟨1, 1, 0⟩
  | f + 1, k, p =>
    let h := Jac.mul f (k / 2) p.dbl
    if k % 2 = 1 then h.add p else h

/-- ECDSA verification over P-256 with SHA-256: key X‖Y, signature r‖s, all big-endian. -/
def ecdsaOk (key sig msg : List Byte) : Bool :=
  let qx := ofBe (key.take 32)
  let qy := ofBe ((key.drop 32).take 32)
  let r := ofBe (sig.take 32)
  let t := ofBe ((sig.drop 32).take 32)
  let onCurve := decide (qx < pP) && decide (qy < pP) && (qy * qy) % pP == (qx * qx * qx + (pP - 3) * qx + pB) % pP
  if !onCurve || r = 0 || pN ≤ r || t = 0 || pN ≤ t then false
  else
    let w := invMod pN t
    let u1 := ofBe (sha256 msg) * w % pN
    let u2 := r * w % pN
    let p := (Jac.mul 256 u1 ⟨pGx, pGy, 1⟩).add (Jac.mul 256 u2 ⟨qx, qy, 1⟩)
    if p.z = 0 then false
    else
      let zi := invMod pP p.z
      (p.x * (zi * zi % pP) % pP) % pN == r

end Sys2Proof.Machine
end

