-- ==== Sys2Proof/Machine/Consumables.lean ====
section
/-! DEFINITION. Consumables (R395 to R407): presence, identification, authentication, usage commits and their reports. A command frame
that is sent appears in the outputs; what the consumable answers arrives with the commands. -/
namespace Sys2Proof.Machine

/-- CSM register of port `p` at offset `o`. -/
def csmA (p o : Nat) : Nat := csmB + 0x100 + 0x40 * p + o

/-- A port is used when it is claimed and enabled (R395). -/
def State.csmOn (s : State) (p : Nat) : Bool := decide (p < s.id.csms) && (s.claim 7 p).isSome && s.flag (csmA p 0) 0

/-- CSM_CTRL.POLICY. -/
def State.policy (s : State) : Bool := s.flag csmB 0

/-- A command or reply frame: CMD, LEN, body and the CRC-16 over them, little-endian. -/
def csmFrame (cmd : Nat) (body : List Byte) : List Byte :=
  let f := [BitVec.ofNat 8 cmd, BitVec.ofNat 8 body.length] ++ body
  f ++ leBytes 2 (crc16 f)

/-- Reply body length of a command (Table 18.2). -/
def csmLen (cmd : Nat) : Nat := if cmd = 1 then 14 else 36

/-- The body of a good reply frame; `none` for a bad CRC, LEN or CMD. -/
def csmBody (cmd : Nat) (f : List Byte) : Option (List Byte) :=
  let n := csmLen cmd
  if f.length == n + 4 && byteAt f 0 == cmd && byteAt f 1 == n && half f (n + 2) == crc16 (f.take (n + 2)) then some ((f.drop 2).take n) else none

/-- The frame of the command in progress, with the NONCE and UNITS it carries. -/
def CsmPort.frame (c : CsmPort) (cmd : Nat) : List Byte :=
  csmFrame cmd (if cmd = 1 then [] else if cmd = 2 then c.nonce else leBytes 4 c.units ++ c.nonce)

/-- The command frame goes out, under bus v1 after a break (R396). -/
def State.csmSend (s : State) (p cmd : Nat) : State :=
  (s.modCsm p (fun (c : CsmPort) => { c with cmd := some cmd })).emit (.csm p ((s.cp p).frame cmd))

/-- Sixteen bytes of the random source (free values). -/
def State.newNonce (s : State) (p : Nat) : State :=
  let s1 := s.modCsm p (fun (c : CsmPort) => { c with nonce := [] })
  s1.each (upTo 16) (fun s _ => (s.modCsm p (fun (c : CsmPort) => { c with nonce := c.nonce ++ [BitVec.ofNat 8 s.freeVal] })).tookFree)

/-- An authentication of the port ends; a CONSUMABLE request that waits for it is answered when its last port has ended (R407). -/
def State.authEnded (s : State) (p : Nat) (ok : Bool) : State :=
  let upd := s.csm.asked.map (fun e => if e.2.1.contains p then (e.1, e.2.1.filter (· != p), e.2.2 && ok) else e)
  let s1 : State := { s with csm := { s.csm with asked := upd.filter (fun e => !e.2.1.isEmpty) } }
  (upd.filter (fun e => e.2.1.isEmpty)).foldl (fun s e =>
    State.finish e.1 0x10 (if e.2.2 then ack s [] else nak s sAuth)) s1

/-- What holds picks for consumables (R402). -/
def State.csmHolds (s : State) : Bool :=
  (upTo s.id.csms).any (fun p => s.csmOn p &&
    ((!s.policy && (s.cp p).st != .empty && decide (1 ≤ (s.cp p).cause) && decide ((s.cp p).cause ≤ 4)) || (s.flag (csmA p 0) 2 && (s.cp p).st == .empty)))

/-- CSM_STAT.HOLD rises with its condition. -/
def State.csmHoldSet (s : State) : State :=
  if s.csmHolds && !s.csm.hold then ({ s with csm := { s.csm with hold := true } } : State).raise 246 1 else s

/-- Pending units of a port are dropped (R405). -/
def State.dropUnits (s : State) (p : Nat) : State :=
  let u := (s.cp p).pend
  if u = 0 then s
  else ((s.modCsm p (fun (c : CsmPort) => { c with pend := 0, due := false })).bump (csmA p 0x20) 0 16 u).raise 245 p

/-- The port becomes empty (R397, R405). -/
def State.csmEmpty (s : State) (p : Nat) : State :=
  let s1 := s.modCsm p (fun (c : CsmPort) =>
    { c with st := .empty, present := false, genuine := false, cmd := none, yes := 0, no := 0, authDue := false })
  ((s1.dropUnits p).raise 241 p).csmHoldSet

/-- A failure (R401): the cause, GENUINE 0 and an event; after cause 6 the port counts as empty (R397). -/
def State.csmFail (s : State) (p cause : Nat) : State :=
  let was := (s.cp p).st
  let s1 := (s.modCsm p (fun (c : CsmPort) => { c with st := .failed, cause := cause, genuine := false, cmd := none })).raise
    (if cause = 6 then 244 else 243) p |>.csmHoldSet
  let s2 := if was == .commit then s1 else s1.authEnded p false
  if cause = 6 then (s2.csmEmpty p).authEnded p false
  else if (s2.cp p).authDue then s2.modCsm p (fun (c : CsmPort) => { c with authDue := false, st := if c.serial.isSome then CsmSt.auth else CsmSt.ident })
  else s2

/-- The port authenticates as soon as it may (R400, R411). -/
def State.csmAuth (s : State) (p : Nat) : State :=
  if !s.csmOn p || !(s.cp p).present then s
  else match (s.cp p).st with
    | .ident => s
    | .auth => s
    | .commit => s.modCsm p (fun (c : CsmPort) => { c with authDue := true })
    | _ => s.modCsm p (fun (c : CsmPort) => { c with st := if c.serial.isSome then CsmSt.auth else CsmSt.ident, cmd := none })

/-- K_C = HMAC(K_M, "AZCSM" ‖ SERIAL) (R399). -/
def csmKey (km serial : List Byte) : List Byte := hmac km ([0x41, 0x5A, 0x43, 0x53, 0x4D] ++ serial)

/-- The MAC of an AUTH or COMMIT reply verifies (Table 18.2). -/
def State.macOk (s : State) (p cmd : Nat) (body : List Byte) : Bool :=
  match s.otp.kMaster, (s.cp p).serial with
  | some km, some ser => hmac (csmKey km ser) ([BitVec.ofNat 8 cmd] ++ (s.cp p).nonce ++ ser ++ body.take 4) == body.drop 4
  | _, _ => false

/-- The last counter seen for a serial (R400). -/
def State.seenCount (s : State) (ser : List Byte) : Option Nat := (s.csm.seen.find? (fun e => e.1 == ser)).map (·.2)

/-- A counter is seen for the port's serial. -/
def State.see (s : State) (p n : Nat) : State :=
  match (s.cp p).serial with
  | some ser => { s with csm := { s.csm with seen := s.csm.seen.filter (fun e => e.1 != ser) ++ [(ser, n)] } }
  | none => s

/-- An IDENT reply: another serial drops the pending units (R405); authentication follows (R400). -/
def State.identDone (s : State) (p : Nat) (body : List Byte) : State :=
  let ser := body.take 8
  let s1 := if (s.cp p).serial.isSome && (s.cp p).serial != some ser then s.dropUnits p else s
  s1.modCsm p (fun (c : CsmPort) => { c with serial := some ser, prev := quad body 8, st := .auth, cmd := none })

/-- An AUTH reply (R400). -/
def State.authDone (s : State) (p : Nat) (body : List Byte) : State :=
  let n := quad body 0
  if !s.macOk p 2 body then s.csmFail p 2
  else if (match (s.cp p).serial with | some ser => (match s.seenCount ser with | some m => decide (n < m) | none => false) | none => false) then
    s.csmFail p 4
  else (((s.modCsm p (fun (c : CsmPort) => { c with st := .ready, cause := 0, genuine := true, count := n, prev := n, cmd := none })).see p n).raise
    242 p).authEnded p true

/-- A COMMIT reply (R402, R404, R406): without GENUINE under POLICY 1 only the counter is checked. -/
def State.commitDone (s : State) (p : Nat) (body : List Byte) : State :=
  let c := s.cp p
  let n := quad body 0
  if !(s.policy && !c.genuine) && s.otp.kMaster.isNone then s.csmFail p 1
  else if !(s.policy && !c.genuine) && !s.macOk p 3 body then s.csmFail p 2
  else if n ≠ satN 32 (c.prev + c.units) then s.csmFail p 3
  else
    let s1 := s.modCsm p (fun (c : CsmPort) =>
      { c with st := .ready, cause := 0, count := n, prev := n, cmd := none, pend := c.pend - c.units,
               committed := (c.committed + c.units) % 2 ^ 32, report := true })
    let s2 := (s1.see p n).raise 240 p
    if c.authDue then s2.modCsm p (fun (c : CsmPort) => { c with authDue := false, st := .auth }) else s2

/-- A poll for the reply under bus v1 (R398): a break and the poll character, or the one that asks for the last reply again. -/
def State.csmPoll (s : State) (p : Nat) : State :=
  if s.flag (csmA p 0) 1 then s else s.emit (.csm p [if (s.cp p).reReads = 0 then 0x50 else 0x52])

/-- The answer to a command in progress: nothing yet, a frame to be read again (R401), or a good frame. Under bus v1 0xAA means not ready. -/
def State.csmReply (s : State) (p : Nat) (reply : Option (List Byte)) : State :=
  match (s.cp p).cmd, reply with
  | some cmd, some f =>
    let s1 := s.csmPoll p
    if !s.flag (csmA p 0) 1 && f == [0xAA] then s1
    else match csmBody cmd f with
      | none =>
        if (s.cp p).reReads < 3 then s1.modCsm p (fun (c : CsmPort) => { c with reReads := c.reReads + 1 }) else s1.csmFail p 5
      | some body => if cmd = 1 then s1.identDone p body else if cmd = 2 then s1.authDone p body else s1.commitDone p body
  | some _, none => s.csmPoll p
  | none, _ => s

/-- A command frame is sent for the first time. -/
def State.csmBegin (s : State) (p cmd : Nat) : State :=
  (s.modCsm p (fun (c : CsmPort) => { c with reReads := 0, reSends := 0 })).csmSend p cmd

/-- R397: a probe of a port (a break alone, or an address probe), answered or not. -/
def execPresenceProbe (p : Nat) (answered : Bool) (s : State) : Ans :=
  if s.inReset || !s.csmOn p then .next s
  else .next ((s.emit (.csm p [])).modCsm p (fun (c : CsmPort) =>
    if answered then { c with yes := c.yes + 1, no := 0 } else { c with no := c.no + 1, yes := 0 }))

/-- R397, R400, R411: two answered probes in a row make the port occupied and start IDENT; three unanswered make it empty, a command in
progress failing with cause 6 first. -/
def execPresenceChange (p : Nat) (s : State) : Ans :=
  if s.inReset || !s.csmOn p then .next s
  else
    let c := s.cp p
    if !c.present && decide (2 ≤ c.yes) then
      .next ((s.modCsm p (fun (c : CsmPort) => { c with present := true, st := .ident, cmd := none, cause := 0 })).raise 241 p)
    else if c.present && decide (3 ≤ c.no) then
      if c.cmd.isSome then .next (s.csmFail p 6) else .next ((s.csmEmpty p).authEnded p false)
    else .next s

/-- R398: the IDENT exchange of a port in CSM_IDENT. -/
def execIdent (p : Nat) (reply : Option (List Byte)) (s : State) : Ans :=
  if s.inReset || !s.csmOn p || (s.cp p).st != .ident then .next s
  else .next (((if (s.cp p).cmd.isSome then s else s.csmBegin p 1)).csmReply p reply)

/-- R400, R401: the AUTH exchange of a port in CSM_AUTH; without a master key it fails with cause 1. -/
def execAuth (p : Nat) (reply : Option (List Byte)) (s : State) : Ans :=
  if s.inReset || !s.csmOn p || (s.cp p).st != .auth then .next s
  else if s.otp.kMaster.isNone then .next (s.csmFail p 1)
  else .next (((if (s.cp p).cmd.isSome then s else (s.newNonce p).csmBegin p 2)).csmReply p reply)

/-- R404, R411: the COMMIT exchange of the pending units, once no other exchange runs on the port. -/
def execCommit (p : Nat) (reply : Option (List Byte)) (s : State) : Ans :=
  let c := s.cp p
  if s.inReset || !s.csmOn p || !c.present then .next s
  else if c.st == .commit then .next (s.csmReply p reply)
  else if (c.st == .ready || c.st == .failed) && c.serial.isSome && c.due && decide (0 < c.pend) then
    .next ((((s.modCsm p (fun (c : CsmPort) => { c with st := .commit, units := c.pend, due := false })).newNonce p).csmBegin p 3).csmReply p reply)
  else .next s

/-- R398: a poll for the reply to the command in progress. -/
def execReplyPoll (p : Nat) (reply : Option (List Byte)) (s : State) : Ans :=
  if s.inReset || !s.csmOn p then .next s else .next (s.csmReply p reply)

/-- R401: no reply after 20 ms; the same frame is sent again at most 3 times, then cause 6. -/
def execReplyTimeout (p : Nat) (s : State) : Ans :=
  if s.inReset || !s.csmOn p then .next s
  else match (s.cp p).cmd with
    | none => .next s
    | some cmd =>
      if (s.cp p).reSends < 3 then
        .next ((s.modCsm p (fun (c : CsmPort) => { c with reSends := c.reSends + 1, reReads := 0 })).csmSend p cmd)
      else .next (s.csmFail p 6)

/-- CSM_CMD: every port whose bit is set authenticates. -/
def State.csmCmd (s : State) (v : Word) : State := s.each ((upTo 12).filter (bitOf v)) (fun s p => s.csmAuth p)

/-- R400: a write of CSM_CMD. -/
def execCsmCmdAuth (v : Word) (s : State) : Ans :=
  if s.inReset || !s.id.motion then .next s else .next (State.answer (csmB + 8) (s.csmCmd v, sOk))

/-- The body of a KIND 3 STATUS (R406), after its KIND. -/
def State.usageBody (s : State) (p : Nat) : List Byte :=
  let c := s.cp p
  [3, BitVec.ofNat 8 p, 0, 0, 0] ++ (c.serial.getD (leBytes 8 0)) ++ leBytes 4 c.count ++ leBytes 4 c.committed

/-- R406: the unsent usage report of a port goes to the host, and REPORTED takes its COMMITTED. -/
def execUsageReportSend (p : Nat) (s : State) : Ans :=
  if s.inReset || !(s.cp p).report then .next s
  else match s.unasked 0x0D 0 (s.usageBody p) with
    | none => .next s
    | some s1 => .next (s1.modCsm p (fun (c : CsmPort) => { c with report := false, reported := c.committed }))

/-- R407, OP 0: one KIND 3 STATUS for each enabled port. -/
def doConsReport (s : State) : Rsp :=
  { st := s, msgs := ((upTo 12).filter s.csmOn).map (fun p => (0x0D, 0, s.usageBody p)) }

/-- R407, OP 1: the named port, or every occupied port for 0xFF, authenticates; the reply waits for the last of them. -/
def doConsAuth (h : ReqHdr) (port : Nat) (s : State) : Rsp :=
  let ps := (if port = 0xFF then upTo 12 else [port]).filter (fun p => s.csmOn p && (s.cp p).present)
  if ps.isEmpty then (if port = 0xFF then ack s [] else nak s sAuth)
  else { st := (({ s with csm := { s.csm with asked := s.csm.asked ++ [(h, ps, true)] } } : State).each ps (fun s p => s.csmAuth p)), msgs := [] }

/-- CONSUMABLE with OP 0 (R407). -/
def execConsumableReport (h : ReqHdr) (s : State) : Ans := .next (s.request h 0x10 [0, 0, 0, 0] doConsReport)

/-- CONSUMABLE with OP 1 (R407). -/
def execConsumableAuthenticate (h : ReqHdr) (port : Nat) (s : State) : Ans :=
  .next (s.request h 0x10 [1, BitVec.ofNat 8 port, 0, 0] (doConsAuth h port))

/-- Authentication of every occupied port at READY (R400). -/
def State.csmAtReady (s : State) : State := s.each (upTo s.id.csms) (fun s p => s.csmAuth p)

/-- A sheet that reached DONE adds its usage to every port in use (R403, R404). -/
def State.csmUsage (s : State) (t : Token) : State :=
  if t.began = 0 then s
  else s.each ((upTo s.id.csms).filter s.csmOn) (fun s p =>
    let st := s.f (csmA p 0) 4 3
    let sheet := st == 7 || natBit t.began st
    let dots := if st = 7 then sumN t.dots else t.dots.getD st 0
    let units := if s.flag (csmA p 0) 3 then ((s.cp p).rem + dots) / 1000 else b2n sheet
    let rem := if s.flag (csmA p 0) 3 then ((s.cp p).rem + dots) % 1000 else (s.cp p).rem
    s.modCsm p (fun (c : CsmPort) =>
      { c with pend := satN 16 (c.pend + units), rem := rem, due := c.due || decide (0 < satN 16 (c.pend + units)) }))

/-- At an admission evaluation HOLD follows its condition (R402). -/
def State.csmHoldEval (s : State) : State :=
  if s.csmHolds == s.csm.hold then s else ({ s with csm := { s.csm with hold := s.csmHolds } } : State).raise 246 (b2n s.csmHolds)

end Sys2Proof.Machine
end

