-- ==== Sys2Proof/Machine/LineOut.lean ====
section
/-! DEFINITION. A package on the printing line (R359, R360): its role and ID, the frames it sends, and what it knows of the members. -/
namespace Sys2Proof.Machine

/-- LNK_CTRL.ROLE: 0 standalone, 1 manager, 2 worker. -/
def State.role (s : State) : Nat := s.f lnkB 0 2

/-- The package's ID on the line (R359). -/
def State.pkgId (s : State) : Nat := if s.role = 2 then Nat.max 1 (s.f lnkB 8 7) else 0

/-- Line-link port `p` is enabled and up. -/
def State.llUp (s : State) (p : Nat) : Bool :=
  decide (p < s.id.llPorts) && (s.line.ports.getD p (false, 0)).1 && s.flag (lnkB + 0x100 + 0x10 * p) 0

/-- Frames already seen: the last 1,024 (R360). -/
def State.sawFrame (s : State) (src seq : Nat) : State :=
  { s with line := { s.line with seen := lastN 1024 (s.line.seen ++ [(src, seq)]) } }

/-- An Ouvoth frame goes out of every line-link port that is up (R360). -/
def State.sendOuv (s : State) (dst : Nat) (body : OuvBody) : State :=
  let seq := s.line.seqOut
  let f : OuvFrame := { etype := s.f (lnkB + 4) 0 16, ver := 1, src := s.pkgId, dst := dst, seq := seq, hops := 8, body := body }
  let s1 := ({ s with line := { s.line with seqOut := (seq + 1) % 2 ^ 32 } } : State).sawFrame s.pkgId seq
  s1.each ((upTo 4).filter s.llUp) (fun s p => s.emit (.line p f))

/-- The admitted workers that are not lost. -/
def State.workers (s : State) : List Member := s.line.members.filter (fun m => m.joined && !m.lost)

/-- No member has a sheet in flight (R363). -/
def State.lineQuiet (s : State) : Bool := !s.flying && s.workers.all (fun m => m.busy == 0)

/-- The package executes orders: it is in the line (R361, R363, R364). -/
def State.inLine (s : State) : Bool := s.role == 1 || (s.role == 2 && s.line.admitted && s.line.state != 3)

/-- The entry of this package in a route. -/
def State.myEntry (s : State) (o : Order) : Option RouteEnt := o.route.find? (fun e => e.id == s.pkgId)

/-- This package picks the order's sheet: it is entry 0. -/
def State.picks (s : State) (o : Order) : Bool := match o.route with | e :: _ => e.id == s.pkgId | [] => false

/-- An order as held. -/
def State.held? (s : State) (id : Nat) : Option HeldOrder := s.line.orders.find? (fun h => h.order.id == id)

def State.modHeld (s : State) (id : Nat) (f : HeldOrder → HeldOrder) : State :=
  { s with line := { s.line with orders := s.line.orders.map (fun h => if h.order.id == id then f h else h) } }

def State.modIssued (s : State) (id : Nat) (f : IssuedOrder → IssuedOrder) : State :=
  { s with line := { s.line with issued := s.line.issued.map (fun h => if h.order.id == id then f h else h) } }

end Sys2Proof.Machine
end

