-- ==== Sys2Proof/Machine/Profile.lean ====
section
/-! DEFINITION. Jerk-limited profiles (R290, R291, R294): constant-jerk pieces in whole TIME clocks. With T = 2·10^8 TIME clocks a second,
acceleration is held as a·T, velocity as v·2T² and position as p·6T³, so that integration over whole clocks is exact. -/
namespace Sys2Proof.Machine

/-- TIME clocks a second. -/
def tHz : Nat := 200000000
/-- Units of velocity in one step/s, and of position in one step. -/
def vU : Nat := 2 * tHz ^ 2
def pU : Nat := 6 * tHz ^ 3

/-- A point of a profile: position, velocity and acceleration in the units above. -/
structure Kin where
  p : Int
  v : Int
  a : Int
  deriving DecidableEq, Repr

/-- `n` clocks at constant jerk. -/
def Kin.run (k : Kin) (j : Int) (n : Nat) : Kin :=
  { p := k.p + 3 * k.v * n + 3 * k.a * n * n + j * n * n * n, v := k.v + 2 * k.a * n + j * n * n, a := k.a + j * n }

/-- The point `n` clocks into a list of pieces; past their end the velocity stays. -/
def Kin.at (k : Kin) : List Seg → Nat → Kin
  | [], n => { k with a := 0 }.run 0 n
  | g :: t, n => if n < g.dur then k.run g.jerk n else (k.run g.jerk g.dur).at t (n - g.dur)

/-- Clocks a list of pieces lasts. -/
def segsDur (l : List Seg) : Nat := sumN (l.map (·.dur))

/-- The point at the end of a list of pieces. -/
def Kin.fin (k : Kin) (l : List Seg) : Kin := k.at l (segsDur l)

/-- Pieces that take the acceleration from `a` to `b` at jerk `j`: whole clocks, then one clock for what is left, so that it ends at `b`. -/
def ramp3 (a b : Int) (j : Nat) : List Seg :=
  let sg : Int := if a ≤ b then 1 else -1
  let d := (b - a).natAbs
  [{ dur := d / j, jerk := sg * j }, { dur := if d % j = 0 then 0 else 1, jerk := sg * (d % j : Nat) }]

/-- Pieces that bring velocity and acceleration `v`, `a` to velocity `w` with no acceleration left, with acceleration limit `lim` (steps/s²)
and jerk `j` (steps/s³): a ramp to the peak acceleration, a constant part and a ramp to 0 (R291). -/
def toVel (v a w : Int) (lim j : Nat) : List Seg :=
  let jn := Nat.max 1 j
  let rest : Int := v + a * (a.natAbs : Int) / jn
  let sg : Int := if w < rest then -1 else 1
  let a0 := sg * a
  let peak : Int := (isqrt ((jn * (sg * (w - v)) + a0 * a0) / 2).toNat : Nat)
  let top : Int := if (lim * tHz : Nat) < peak then (lim * tHz : Nat) else peak
  let up := ramp3 a (sg * top) jn
  let down := ramp3 (sg * top) 0 jn
  let flat := if top ≤ 0 then 0 else (sg * (w - ((Kin.mk 0 v a).fin (up ++ down)).v) / (2 * top)).toNat
  up ++ [{ dur := flat, jerk := 0 }] ++ down

/-- Position gained until the end of a list of pieces. -/
def gain (v a : Int) (l : List Seg) : Int := ((Kin.mk 0 v a).fin l).p

/-- The way to velocity `w` at jerk `j1` and from there to rest at jerk `j2`. -/
def viaVel (v a w : Int) (lim j1 j2 : Nat) : List Seg × List Seg :=
  let l := toVel v a w lim j1
  let k := (Kin.mk 0 v a).fin l
  (l, toVel k.v k.a 0 lim j2)

/-- Position gained on that way. -/
def viaGain (v a w : Int) (lim j1 j2 : Nat) : Int := gain v a ((viaVel v a w lim j1 j2).1 ++ (viaVel v a w lim j1 j2).2)

/-- The largest velocity from `lo` up to `hi` from which a stop still fits into distance `d`, by halving. -/
def peakVel (v a d : Int) (lim j1 j2 : Nat) : Nat → Nat → Nat → Nat
  | 0, lo, _ => lo
  | f + 1, lo, hi =>
    if hi ≤ lo + 1 then lo
    else
      let m := (lo + hi) / 2
      if viaGain v a m lim j1 j2 ≤ d then peakVel v a d lim j1 j2 f m hi else peakVel v a d lim j1 j2 f lo m

/-- Pieces of a move over distance `d` from velocity and acceleration `v`, `a` to rest, with velocity limit `vmax` in steps/s, jerk `j1` up to
the highest velocity and `j2` from it; `none` where even an immediate stop is too long (R294). -/
def toRest (v a d : Int) (vmax lim j1 j2 : Nat) : Option (List Seg) :=
  if d < viaGain v a 0 lim j1 j2 then none
  else
    let top := vmax * vU
    let w := if viaGain v a top lim j1 j2 ≤ d then top else peakVel v a d lim j1 j2 80 0 top
    let (l, l') := viaVel v a w lim j1 j2
    let cruise := if w = 0 then 0 else ((d - gain v a (l ++ l')) / (3 * w : Int)).toNat
    some (l ++ [{ dur := cruise, jerk := 0 }] ++ l')

/-- The `f`-th of 2^20 equal steps from a limit to the one in force before, where that was higher (R294). -/
def between (new old f : Nat) : Nat := new + (old - new) * f / 2 ^ 20

/-- The least such step, up to 2^20, from which on a stop ends within distance `d`, by halving; `none` where even the limits in force before are
too low. -/
def leastStop (v a d : Int) (lim lim0 j j0 : Nat) : Option Nat :=
  let fits (f : Nat) : Bool := decide (gain v a (toVel v a 0 (between lim lim0 f) (between j j0 f)) ≤ d)
  let go := (List.range 20).foldl (fun (b : Nat × Nat) _ =>
    if b.2 ≤ b.1 + 1 then b else if fits ((b.1 + b.2) / 2) then (b.1, (b.1 + b.2) / 2) else ((b.1 + b.2) / 2, b.2)) (0, 2 ^ 20)
  if fits 0 then some 0 else if fits (2 ^ 20) then some go.2 else none

/-- The first clock at which the profile's position reaches `goal`, between `lo` and `hi`, by halving. -/
def crossing (k : Kin) (l : List Seg) (goal : Int) : Nat → Nat → Nat → Nat
  | 0, _, hi => hi
  | f + 1, lo, hi =>
    if hi ≤ lo then hi
    else
      let m := (lo + hi) / 2
      if goal ≤ (k.at l m).p then crossing k l goal f lo m else crossing k l goal f (m + 1) hi

/-- Velocity in steps/s, to the nearest. -/
def Kin.steps (k : Kin) : Int := (k.v + (tHz ^ 2 : Nat)) / (vU : Int)

end Sys2Proof.Machine
end

