-- ==== Sys2Proof/Machine/Steppers.lean ====
section
/-! DEFINITION. Step channels (chapter 13): moves, stops, faults, referencing, the speed ladder, and the transport encoders. -/
namespace Sys2Proof.Machine

/-- STP register of channel `n` at offset `o`. -/
def stpA (n o : Nat) : Nat := stpB + 0x100 + 0x40 * n + o

/-- The point of its profile at which a channel stands. -/
def Stepper.now (x : Stepper) : Kin := (Kin.mk x.p0 x.v0 x.a0).at x.segs x.tau

/-- The clock of the profile at which the next step is due: where the profile crosses it, at least 400 TIME clocks after the last; the last step
of a profile that ends at rest is due at its end at the latest (R291). -/
def Stepper.nextDue (x : Stepper) : Nat :=
  let k := Kin.mk x.p0 x.v0 x.a0
  let goal : Int := ((x.made + 1) * pU : Nat)
  let total := segsDur x.segs
  let f := k.fin x.segs
  let hi := if x.goal ≠ some (x.made + 1) ∧ 0 < f.v ∧ f.p < goal then total + ((goal - f.p) / (3 * f.v)).toNat + 1 else total
  Nat.max (x.stepAt + 400).toNat (crossing k x.segs goal 96 x.tau (Nat.max x.tau hi))

/-- A new profile from the point reached; it ends after `goal` more steps. -/
def Stepper.follow (x : Stepper) (l : List Seg) (goal : Option Nat) : Stepper :=
  let k := x.now
  let y : Stepper := { x with segs := l, p0 := k.p - (x.made * pU : Nat), v0 := k.v, a0 := k.a, tau := 0, made := 0, goal := goal, stepAt := x.stepAt - x.tau }
  { y with due := y.nextDue }

/-- A channel at rest: no step holds back the next. -/
def Stepper.rest (x : Stepper) : Stepper :=
  { x with segs := [], p0 := 0, v0 := 0, a0 := 0, tau := 0, made := 0, goal := none, due := 0, stepAt := -400 }

/-- Whole steps a profile still gives. -/
def Stepper.stepsOf (x : Stepper) (l : List Seg) : Nat :=
  let k := x.now
  ((k.p - (x.made * pU : Nat) + gain k.v k.a l) / (pU : Int)).toNat

/-- The channel decelerates to rest with limits `lim` and `j`. -/
def Stepper.slow (x : Stepper) (lim j : Nat) : Stepper :=
  let k := x.now
  let l := toVel k.v k.a 0 lim j
  x.follow l (some (x.stepsOf l))

/-- Distance from the point reached to the step at which the profile ends, or to the end of the `n`-th step from here. -/
def Stepper.room (x : Stepper) (n : Nat) : Int := ((x.made + n) * pU : Nat) - x.now.p

/-- The channel decelerates to rest within `n` more steps: with limits `am` and `jm`, or, where those are too low, with the deceleration it needs up
to the limits in force before (R294). A channel that even those leave too fast keeps its profile, which ends there. -/
def Stepper.slowWithin (x : Stepper) (am jm n : Nat) : Stepper :=
  let k := x.now
  let (_, a0, j0) := x.lims
  match leastStop k.v k.a (x.room n) am a0 jm j0 with
  | some f => x.slow (between am a0 f) (between jm j0 f)
  | none => { x with goal := some (x.made + n) }

/-- REMAIN (R297). -/
def Stepper.remain (x : Stepper) : Int := wrap32 (x.target - x.actual)

/-- The channel moves: states 2, 3, 5 and 6 (Table 13.6). -/
def Stepper.moving (x : Stepper) : Bool := x.st == .moving || x.st == .stopping || x.st == .referencing || x.st == .faultStop

/-- VMAX, AMAX and JMAX of a channel's registers. -/
def State.stpLims (s : State) (n : Nat) : Nat × Nat × Nat := (s.f (stpA n 0x1C) 0 20, s.f (stpA n 0x20) 0 24, s.f (stpA n 0x24) 0 32)

/-- Velocity mode. -/
def State.stpVelMode (s : State) (n : Nat) : Bool := s.f (stpA n 0) 0 2 != 0

/-- The run velocity: VMAX, or VMAX scaled by the speed ladder (R295). -/
def State.stpV (s : State) (n vmax : Nat) : Nat :=
  if s.stpVelMode n && s.flag (stpA n 0) 2 && s.ladRate 0 != 0 then vmax * s.ladRate s.sched.stepCur / s.ladRate 0 else vmax

/-- A command or a target is refused (STAT.REFUSED, STP_REFUSED). -/
def State.stpRefuse (s : State) (n code : Nat) : State × Nat := ((s.modStp n (fun x => { x with refused := true })).raise 228 n, code)

/-- A command is accepted. -/
def State.stpAccept (s : State) (n : Nat) (f : Stepper → Stepper) : State × Nat :=
  (s.modStp n (fun x => { f x with refused := false }), sOk)

/-- The claims R287 asks for. -/
def State.stpClaimed (s : State) (n : Nat) : Bool := (s.claim 3 n).isSome && s.pinFor 1 n && s.pinFor 2 n

/-- A transport channel with sheets in flight (R299). -/
def State.stpCarries (s : State) (n : Nat) : Bool := s.owner 3 n == some 1 && s.flying

/-- A move or run begins from rest (R292): its first step comes DIR_SETUP after it at the earliest (Table 13.5). -/
def State.stpStart (s : State) (n : Nat) (dir : Bool) : State :=
  let (vm, am, jm) := s.stpLims n
  let x := s.sp n
  let first : Int := (s.f (stpA n 0) 24 8 : Nat) - 400
  if s.stpVelMode n then
    s.modStp n (fun x =>
      let y : Stepper := { x.rest with st := .moving, dirPos := dir, target := x.actual, lims := (vm, am, jm), refused := false, stepAt := first }
      y.follow (toVel 0 0 (s.stpV n vm * vU : Nat) am jm) none)
  else if x.remain = 0 then (s.modStp n (fun x => { x.rest with st := .idle, refused := false })).raise 224 n
  else
    let d := x.remain.natAbs
    s.modStp n (fun x =>
      let y : Stepper := { x.rest with st := .moving, dirPos := decide (0 < x.remain), lims := (vm, am, jm), refused := false, stepAt := first }
      y.follow ((toRest 0 0 ((d * pU : Nat) : Int) vm am jm jm).getD []) (some d))

/-- R292: MOVE. -/
def State.stpMove (s : State) (n : Nat) : State × Nat :=
  let x := s.sp n
  if !s.stpClaimed n then s.stpRefuse n sConflict
  else if x.st == .idle || x.st == .stopped then (s.stpStart n (decide (0 ≤ x.target)), sOk)
  else s.stpRefuse n sMotion

/-- R296, R302: RESUME. -/
def State.stpResume (s : State) (n : Nat) : State × Nat :=
  if !s.stpClaimed n then s.stpRefuse n sConflict
  else if (s.sp n).st == .stopped then (s.stpStart n (s.sp n).dirPos, sOk)
  else s.stpRefuse n sMotion

/-- AFAULT, JFAULT, V_REF, V_SLOW, BACKOFF and REF_MAX of the motion profile in force (Table 13.3), at least their lower limits. -/
def State.stpProf (s : State) (n i : Nat) : Nat :=
  let lo := match i with | 0 => 100 | 1 => 1000 | 4 => 0 | _ => 1
  Nat.max lo (s.tabAct 5 n (4 * i) 4)

/-- The fault deceleration begins (R296); a channel at rest is in STP_FAULT at once. -/
def State.stpFaultStop (s : State) (n : Nat) : State :=
  s.modStp n (fun x =>
    if x.moving then
      let y := x.slow (s.stpProf n 0) (s.stpProf n 1)
      if y.goal = some 0 then { x.rest with st := .fault } else { y with st := .faultStop }
    else { x.rest with st := .fault })

/-- The profile makes its step: the position changes, and the next step's instant is found (R291). From the home edge of a slow approach on the
position is latched (R300). In a velocity run TARGET tracks ACTUAL (R292). -/
def State.stpStep (s : State) (n : Nat) : State :=
  (s.modStp n (fun x =>
    let held := x.st == StpSt.referencing && x.refStage == 7
    let y : Stepper := { x with actual := if held then x.actual else wrap32 (x.actual + (if x.dirPos then 1 else -1)), made := x.made + 1, tau := x.due, stepAt := x.due, refSteps := if x.st == StpSt.referencing then x.refSteps + 1 else x.refSteps }
    let w : Stepper := { y with target := if s.stpVelMode n && x.st != StpSt.referencing then y.actual else y.target }
    { w with due := w.nextDue })).emit (.step n (s.sp n).dirPos)

/-- The step the profile has reached is the last of a move or of a stop. -/
def Stepper.lastDue (x : Stepper) : Bool :=
  (x.st == .moving || x.st == .stopping) && decide (x.due ≤ x.tau) && x.goal == some (x.made + 1)

/-- R298, R299: a fault is recorded; a transport channel with sheets in flight defers its deceleration. A last step due in the same TIME clock is
made first, so that the fault finds REMAIN 0 (R302). -/
def State.stpFault (s : State) (n c : Nat) : State :=
  let x := s.sp n
  if x.st == .fault || x.st == .faultStop || x.defer then s
  else
    let s0 := if x.lastDue then s.stpStep n else s
    let s1 := (s0.modStp n (fun x => { x with cause := c, faultPos := x.actual })).raise 226 n
    if s.stpCarries n then (s1.modStp n (fun x => { x with defer := true })).pickOff else s1.stpFaultStop n

/-- Deferred faults begin their deceleration: the last sheet in flight is DONE (R299). -/
def State.stpDeferred (s : State) : State :=
  s.each (upTo s.id.steppers) (fun s n =>
    let x := s.sp n
    if x.defer && x.st != .fault && x.st != .faultStop then s.stpFaultStop n else s)

/-- The channel has come to rest after a STOP. -/
def State.stpStopped (s : State) (n : Nat) : State :=
  (s.modStp n (fun x => { x.rest with st := .stopped, target := if s.stpVelMode n then x.actual else x.target })).raise 225 n

/-- R296: STOP. A position-mode move whose limits have fallen since it began stops within REMAIN (R294). -/
def State.stpStop (s : State) (n : Nat) : State × Nat :=
  let x := s.sp n
  if s.stpCarries n then s.stpRefuse n sBadState
  else if x.st == .moving || x.st == .referencing then
    let (_, am, jm) := s.stpLims n
    let y := if !s.stpVelMode n && x.st == .moving then x.slowWithin am jm x.remain.natAbs else x.slow am jm
    if y.goal = some y.made then ((s.modStp n (fun x => { x with refused := false })).stpStopped n, sOk)
    else s.stpAccept n (fun _ => { y with st := .stopping })
  else s.stpAccept n (fun x => x)

/-- CLEAR (R296). -/
def State.stpClear (s : State) (n : Nat) : State × Nat :=
  s.stpAccept n (fun x => if x.st == .fault then { x with st := .stopped, defer := false } else x)

/-- ENABLE (R288, Table 13.7). -/
def State.stpEnable (s : State) (n : Nat) : State × Nat :=
  s.stpAccept n (fun x =>
    let y : Stepper := { x with enabled := true }
    if x.st == .disabled then { y with st := if x.remain = 0 then .idle else .stopped } else y)

/-- DISABLE (R288, R299, Table 13.7). -/
def State.stpDisable (s : State) (n : Nat) : State × Nat :=
  if s.stpCarries n then s.stpRefuse n sBadState
  else if (s.sp n).moving then s.stpRefuse n sMotion
  else s.stpAccept n (fun x => { x with st := .disabled, enabled := false })

/-- R293: a write of TARGET. In velocity mode its sign is the direction of the next MOVE or RESUME alike. -/
def State.stpTarget (s : State) (n : Nat) (v : Word) : State × Nat :=
  let x := s.sp n
  if x.st == .idle || x.st == .stopped || x.st == .disabled then
    s.stpAccept n (fun x => { x with target := sext 32 v.toNat, dirPos := if s.stpVelMode n then decide (0 ≤ sext 32 v.toNat) else x.dirPos })
  else s.stpRefuse n sMotion

/-- Direction of a stage of referencing: back-off runs against REF_DIR. -/
def refForward (stage : Nat) : Bool := !(stage == 3 || stage == 4 || stage == 5)

/-- A stage of referencing begins, from the point of motion reached or, after a stop, from rest. -/
def State.refStage (s : State) (n stage : Nat) (fromRest : Bool) : State :=
  let (vm, am, jm) := s.stpLims n
  let dir := s.flag (stpA n 0) 5 == refForward stage
  let v := if stage = 6 then s.stpProf n 3 else s.stpProf n 2
  let first : Int := (s.f (stpA n 0) 24 8 : Nat) - 400
  s.modStp n (fun x =>
    let y : Stepper := { (if fromRest then { x.rest with stepAt := first } else x) with st := .referencing, dirPos := dir, refStage := stage, refSteps := 0, lims := (vm, am, jm) }
    if stage = 2 ∨ stage = 5 ∨ stage = 7 then y.slow am jm
    else
      let k := y.now
      y.follow (toVel k.v k.a (v * vU : Nat) am jm) none)

/-- ACTUAL and TARGET take the reference position (R300). -/
def State.refSet (s : State) (n : Nat) : State :=
  let p := sext 32 (s.f (stpA n 0x28) 0 32)
  s.modStp n (fun x => { x with actual := p, target := p })

/-- Referencing ends (R300). -/
def State.refEnd (s : State) (n : Nat) : State :=
  ((s.refSet n).modStp n (fun x => { x.rest with st := .idle, refd := true })).raise 227 n

/-- The stages of referencing that are due follow one another; each pass handles one (R300). The step of the home edge in the slow approach latches
the position: ACTUAL is REFPOS from there, and the steps of the final stop do not move it (log entry 110). -/
def State.refGo (s : State) (n : Nat) : Nat → State
  | 0 => s
  | f + 1 =>
    let x := s.sp n
    let passed := decide (s.stpProf n 5 ≤ x.refSteps)
    let done := x.goal == some x.made
    if x.st != .referencing then s
    else
      match x.refStage with
      | 0 => if x.stallIn then s.refEnd n
             else if passed then (if x.refBoth then (s.refStage n 1 false).refGo n f else s.stpFault n 5) else s
      | 1 => if x.homeIn then (s.refStage n 2 false).refGo n f else if passed then s.stpFault n 5 else s
      | 2 => if done then (s.refStage n 3 true).refGo n f else s
      | 3 => if !x.homeIn then (s.modStp n (fun x => { x with refStage := 4, refSteps := 0 })).refGo n f
             else if passed then s.stpFault n 5 else s
      | 4 => if s.stpProf n 4 ≤ x.refSteps then (s.refStage n 5 false).refGo n f else s
      | 5 => if done then (s.refStage n 6 true).refGo n f else s
      | 6 => if x.homeIn then ((s.refSet n).refStage n 7 false).refGo n f else if passed then s.stpFault n 5 else s
      | _ => if done then s.refEnd n else s

/-- R300: REFERENCE. -/
def State.stpReference (s : State) (n : Nat) : State × Nat :=
  let x := s.sp n
  let m := s.f (stpA n 0) 3 2
  if !s.stpClaimed n then s.stpRefuse n sConflict
  else if x.st == .idle || x.st == .stopped then
    let s1 := s.modStp n (fun x => { x with refused := false, refBoth := decide (2 ≤ m) })
    ((s1.refStage n (if m = 1 then 1 else 0) true).refGo n 8, sOk)
  else s.stpRefuse n sMotion

/-- The difference of R298's FOLLOW cause is above FE_LIM. -/
def State.stpLags (s : State) (n : Nat) : Bool :=
  let e := s.f (stpA n 0) 8 3
  let d := (s.sp n).actual * 65536 - s.enc.getD e 0 * (s.f (stpA n 0x34) 0 32 : Nat)
  s.flag (stpA n 0) 7 && decide (e < s.id.encs) && decide (s.f (stpA n 0x30) 0 16 * 65536 < d.natAbs)

/-- A following error ends stall referencing as a stall does, and is a fault in every other state (R298, R300). -/
def State.stpFollow (s : State) (n : Nat) : State :=
  let x := s.sp n
  if !s.stpLags n then s
  else if x.st == .referencing && x.refStage == 0 then s.refEnd n
  else s.stpFault n 2

/-- R291: the next step; it ends a move, a stop or a stage where it is the last (R292, R296, R300). -/
def State.stpPulse (s : State) (n : Nat) : State :=
  let x := s.sp n
  let s1 := s.stpStep n
  let last := match x.goal with | some g => decide (g ≤ x.made + 1) | none => false
  let s2 :=
    match x.st with
    | .moving => if last then (s1.modStp n (fun x => { x.rest with st := .idle, lastAt := some s.clk })).raise 224 n else s1
    | .stopping => if last then (s1.stpStopped n).modStp n (fun x => { x with lastAt := some s.clk }) else s1
    | .faultStop => if last then s1.modStp n (fun x => { x.rest with st := .fault }) else s1
    | .referencing => s1.refGo n 8
    | _ => s1
  s2.stpFollow n

/-- R294, R295: the profile is computed anew after a change of limits or of the velocity the ladder gives. The way to the new limits has the lower
jerk of the two; what follows it has the new one. A move that the new limits would carry past its target ends with the deceleration it needs, up to
the limits in force before. -/
def State.replanned (s : State) (n : Nat) (x : Stepper) : Stepper :=
  let (vm, am, jm) := s.stpLims n
  let (_, a0, j0) := x.lims
  let k := x.now
  let j := Nat.min j0 jm
  match x.st with
  | .moving =>
    match x.goal with
    | none => { x.follow (toVel k.v k.a (s.stpV n vm * vU : Nat) am j) none with lims := (vm, am, jm) }
    | some g =>
      let d := x.room (g - x.made)
      match toRest k.v k.a d vm am j jm with
      | some l => { x.follow l (some (g - x.made)) with lims := (vm, am, jm) }
      | none =>
        match leastStop k.v k.a d am a0 j j0 with
        | some f =>
          (match toRest k.v k.a d vm (between am a0 f) (between j j0 f) (between j j0 f) with
           | some l => x.follow l (some (g - x.made))
           | none => x)
        | none => x
  | .stopping =>
    let y := x.slow am j
    match x.goal, y.goal with
    | some g, some h => if h = 0 ∨ (!s.stpVelMode n && decide (g - x.made < h)) then x else { y with lims := (vm, am, jm) }
    | _, _ => x
  | .referencing =>
    if x.goal.isSome then x
    else { x.follow (toVel k.v k.a ((if x.refStage = 6 then s.stpProf n 3 else s.stpProf n 2) * vU : Nat) am j) none with lims := (vm, am, jm) }
  | _ => x

/-- Channel `n` goes on with its new profile. -/
def State.stpReplan (s : State) (n : Nat) : State := s.modStp n (s.replanned n)

/-- R295: the ladder enters GAP; channels that follow it go to the new velocity. -/
def State.stpGap (s : State) : State :=
  s.each (upTo s.id.steppers) (fun s n => if s.stpVelMode n && s.flag (stpA n 0) 2 && (s.sp n).st == .moving then s.stpReplan n else s)

/-- Duty of the current-reference PWM in 1/255, capped by the motor ladder step of the channel's group (R289). -/
def State.stpDuty (s : State) (n : Nat) : Nat :=
  let x := s.sp n
  let d := if !x.moving then s.f (stpA n 0x2C) 8 8 else if x.st == .referencing && x.refStage == 0 then s.f (stpA n 0x2C) 16 8 else s.f (stpA n 0x2C) 0 8
  match s.owner 3 n with
  | some k => Nat.min d (s.lad (2 + k)).limit
  | none => d

/-- The enable output of a channel is active: from ENABLE until DISABLE (R288). -/
def State.stpEnabled (s : State) (n : Nat) : Bool := (s.sp n).enabled

/-- A step channel command reaches the die. -/
def State.stpHere (s : State) (n : Nat) : Bool := !s.inReset && decide (n < s.id.steppers)

/-- R292, R287: MOVE. -/
def execStpMove (n : Nat) (s : State) : Ans := if s.stpHere n then .next (State.answer (stpA n 4) (s.stpMove n)) else .next s

/-- R296, R299: STOP. -/
def execStpStop (n : Nat) (s : State) : Ans := if s.stpHere n then .next (State.answer (stpA n 4) (s.stpStop n)) else .next s

/-- R296, R302: RESUME. -/
def execStpResume (n : Nat) (s : State) : Ans := if s.stpHere n then .next (State.answer (stpA n 4) (s.stpResume n)) else .next s

/-- R300: REFERENCE. -/
def execStpReference (n : Nat) (s : State) : Ans := if s.stpHere n then .next (State.answer (stpA n 4) (s.stpReference n)) else .next s

/-- R296: CLEAR. -/
def execStpClear (n : Nat) (s : State) : Ans := if s.stpHere n then .next (State.answer (stpA n 4) (s.stpClear n)) else .next s

/-- R288: ENABLE. -/
def execStpEnable (n : Nat) (s : State) : Ans := if s.stpHere n then .next (State.answer (stpA n 4) (s.stpEnable n)) else .next s

/-- R288, R299: DISABLE. -/
def execStpDisable (n : Nat) (s : State) : Ans := if s.stpHere n then .next (State.answer (stpA n 4) (s.stpDisable n)) else .next s

/-- R293: a write of STP_n_TARGET. -/
def execStpTargetWrite (n : Nat) (v : Word) (s : State) : Ans :=
  if s.stpHere n then .next (State.answer (stpA n 8) (s.stpTarget n v)) else .next s

/-- R291: the step interval expires. -/
def execStepPulse (n : Nat) (s : State) : Ans :=
  if s.stpHere n && (s.sp n).moving then .next (s.stpPulse n) else .next s

/-- The channel is in motion for a stall: moving, stopping or in a home method; the TIME clock of the last step counts (R298, R302). In the stall
method the stall is its end (R300). -/
def State.stpInMotion (s : State) (n : Nat) : Bool :=
  let x := s.sp n
  x.st == .moving || x.st == .stopping || (x.st == .referencing && x.refStage != 0) || x.lastAt == some s.clk

/-- The condition of a fault cause holds (Table 13.2). -/
def State.stpCause (s : State) (n c : Nat) : Bool :=
  let x := s.sp n
  match c with
  | 1 => x.stallIn && s.flag (stpA n 0) 6 && s.stpInMotion n
  | 2 => s.stpLags n && !(x.st == .referencing && x.refStage == 0)
  | 3 => match s.owner 3 n with | some k => (s.lad (2 + k)).crit | none => false
  | 4 => s.bus.ov2
  | 5 => x.st == .referencing && decide (s.stpProf n 5 ≤ x.refSteps)
  | _ => false

/-- R298, R299: a fault cause holds at a channel. -/
def execStpFault (n cause : Nat) (s : State) : Ans :=
  if s.stpHere n && s.stpCause n cause then .next (s.stpFault n cause) else .next s

/-- R300, R298: the stall input changes. -/
def execStallInput (n : Nat) (level : Bool) (s : State) : Ans :=
  if s.stpHere n && s.pinFor 5 n then
    let s1 := s.modStp n (fun x => { x with stallIn := level })
    .next (if s1.stpCause n 1 then s1.stpFault n 1 else s1.refGo n 8)
  else .next s

/-- R300: the home input changes. -/
def execHomeEdge (n : Nat) (level : Bool) (s : State) : Ans :=
  if s.stpHere n && s.pinFor 6 n then .next ((s.modStp n (fun x => { x with homeIn := level })).refGo n 8) else .next s

/-- Gray-code position of a quadrature pair. -/
def quadPos (a b : Bool) : Nat := if a then (if b then 2 else 1) else (if b then 3 else 0)

/-- An edge on a transport encoder's inputs: its count changes by one an edge (log entry 40), and the channels it supervises are
checked (R298, R177). Both inputs changing at once leave the direction open: a free value. -/
def execEncoderEdge (e : Nat) (a b : Bool) (s : State) : Ans :=
  if s.inReset || s.id.encs ≤ e || (s.claim 8 e).isNone then .next s
  else
    let old := s.encPin.getD e (0, 0)
    let d := (quadPos a b + 4 - quadPos (old.1 == 1) (old.2 == 1)) % 4
    let step : Int := match d with | 0 => 0 | 1 => 1 | 3 => -1 | _ => if s.freeVal % 2 = 0 then 2 else -2
    let s1 := { s with enc := updAt s.enc e (fun c => wrap32 (c + step)), encPin := updAt s.encPin e (fun _ => (b2n a, b2n b)) }
    let s2 := if d = 2 then s1.tookFree else s1
    .next (s2.each (upTo s.id.steppers) (fun s n => if s.f (stpA n 0) 8 3 = e then s.stpFollow n else s))

end Sys2Proof.Machine
end

