-- ==== Sys2Proof/Machine/Motors.lean ====
section
/-! DEFINITION. Commutation channels and the bus (chapter 14): starting, observer, speed control, loss of the rotor, phase lock, the chopper
and the overvoltage thresholds. -/
namespace Sys2Proof.Machine

/-- MOT register of channel `n` at offset `o`. -/
def motA (n o : Nat) : Nat := motB + 0x100 + 0x40 * n + o

def State.motSense (s : State) (n : Nat) : Nat := Nat.min 2 (s.f (motA n 0) 0 2)
def State.motPoles (s : State) (n : Nat) : Nat := Nat.max 1 (s.f (motA n 0) 2 4)
def State.motBrake (s : State) (n : Nat) : Bool := s.f (motA n 0) 11 2 != 0
def State.motPeriod (s : State) (n : Nat) : Nat := s.f (motA n 4) 0 14
def State.motLim (s : State) (n : Nat) : Nat := s.f (motA n 0xC) 0 16
def State.motRev (s : State) (n : Nat) : Nat := s.f (motA n 0x18) 16 16
def State.motHandover (s : State) (n : Nat) : Nat := s.f (motA n 0x1C) 16 16

/-- Target in force in rpm: SPEED within SPEED_LIM, scaled by the speed ladder where LADDER is 1 (R309). -/
def State.motTarget (s : State) (n : Nat) : Int :=
  let t := clampI (-(s.motLim n : Int)) (s.motLim n) (s.mt n).target
  if s.flag (motA n 0) 13 && s.ladRate 0 != 0 then t * s.ladRate s.sched.stepCur / s.ladRate 0 else t

/-- The target in force was clamped to SPEED_LIM: as written, or as SPEED_LIM now stands (R310). -/
def State.motClamped (s : State) (n : Nat) : Bool := (s.mt n).clamped || decide (s.motLim n < (s.mt n).target.natAbs)

/-- Where the speed is going: the target in force, or 0 while braking or before a reversal (R311, R312). -/
def State.motGoal (s : State) (n : Nat) : Int := if (s.mt n).st == .brake || (s.mt n).revPend then 0 else s.motTarget n

/-- A channel with gates that may switch: the running states of Table 14.1. -/
def Motor.running (m : Motor) : Bool := m.st != .off && m.st != .fault

/-- The owner kind of the channel is `k`. -/
def State.motOwned (s : State) (n k : Nat) : Bool := s.owner 2 n == some k

/-- A command is refused (STAT.REFUSED, MOT_REFUSED). -/
def State.motRefuse (s : State) (n code : Nat) : State × Nat := ((s.modMot n (fun m => { m with refused := true })).raise 236 n, code)

/-- A command is accepted. -/
def State.motAccept (s : State) (n : Nat) (f : Motor → Motor) : State × Nat := (s.modMot n (fun m => { f m with refused := false }), sOk)

/-- The channel goes to a state with its gates off. -/
def Motor.gatesOff (m : Motor) (st : MotSt) : Motor :=
  { m with st := st, duty := 0, integ := 0, cmd := 0, predicting := false, saturated := false, plocked := false, revPend := false, ilimAct := false,
           lockRun := 0, unlockRun := 0, goods := 0, heard := 0, skips := 0, sampled := 0, predSect := 0, badSect := 0, badSeen := false,
           lostL := false, atSpeed := false, tripped := false, limAll := true, satSeen := false, perSect := 0, force := false, dutyWas := none,
           crossed := false, onBemf := false }

/-- The channel ends in MOT_STOPPED_FAULT with a cause (R306, Table 14.5). -/
def State.motStopFault (s : State) (n c : Nat) : State :=
  (s.modMot n (fun m => { m.gatesOff .fault with cause := c })).raise 235 n

/-- The channel fails at its start, on a broken Hall input or with its rotor lost. Where it is a transport channel, every sheet in flight is waste,
every station blanks from its next scan, and picks stop (R113, R314). -/
def State.motFails (s : State) (n c : Nat) : State :=
  let s1 := s.motStopFault n c
  if s.motOwned n 1 then (s1.wasteAll 7).pickOff else s1

/-- R319: a thermal fault; a transport channel with sheets in flight defers it. -/
def State.motHot (s : State) (n : Nat) : State :=
  let m := s.mt n
  if m.st == .fault || m.defer then s
  else if s.motOwned n 1 && s.flying then ((s.modMot n (fun m => { m with defer := true, cause := 3 })).raise 235 n).pickOff
  else s.motStopFault n 3

/-- Deferred faults take effect: the last sheet in flight is DONE (R319). -/
def State.motDeferred (s : State) : State :=
  s.each (upTo s.id.motors) (fun s n =>
    if (s.mt n).defer && (s.mt n).st != .fault then s.modMot n (fun m => { m.gatesOff .fault with cause := m.cause, defer := true }) else s)

/-- DUTY for a speed of `rpm` after the rotor is caught (R313). -/
def State.motDutyFor (s : State) (n rpm : Nat) : Nat := Nat.min (s.motPeriod n) (s.motPeriod n * rpm / s.motLim n)

/-- The station a channel belongs to, where a station owns it. -/
def State.motStation (s : State) (n : Nat) : Option Nat :=
  match s.claim 2 n with
  | some c => if c.owner % 256 = 0 then some c.ownIx else none
  | none => none

/-- The polygon runs again: from its next edge on the station starts from SOS_ACQUIRE (R314; after a fault, log entry 111). -/
def State.motBack (s : State) (n : Nat) : State :=
  match s.motStation n with
  | some k => if (s.st k).held then s.modStn k (fun x => { x with held := false, acc := 0, running := false }) else s
  | none => s

/-- The channel enters MOT_RUN at its estimate and at the sector the observer has followed, the integral preset to the duty (R307, R313). -/
def State.motCatch (s : State) (n : Nat) : State :=
  (s.motBack n).modMot n (fun m =>
    let d := s.motDutyFor n m.est.natAbs
    { m with st := .run, duty := d, integ := ((d * 2 ^ 32 / s.motPeriod n : Nat) : Int), cmd := m.est * 1000, badSect := 0, badSeen := false, goods := 0,
             skips := 0, heard := 0, lostL := false, perSect := 0, limAll := true, satSeen := false, onBemf := s.motSense n != 1 })

/-- Sector that a Hall code gives (log entry 41). -/
def hallSector (c : Nat) : Nat := match c with | 1 => 0 | 3 => 1 | 2 => 2 | 6 => 3 | 4 => 4 | _ => 5

/-- The channel starts in its commanded direction: from MOT_ALIGN, or with Halls in MOT_RUN at the sector they give (R307). -/
def State.motStart (s : State) (n : Nat) : State :=
  if s.motSense n = 0 then
    s.modMot n (fun m => { m.gatesOff .align with sector := 0, duty := s.motPeriod n * s.f (motA n 0x1C) 8 8 / 255,
                                                  dirPos := decide (0 ≤ m.target), est := 0, sectT := 0, plocked := m.plocked })
  else
    let c := (s.mt n).hall
    if c = 0 ∨ c = 7 then s.motFails n 2
    else
      (s.motBack n).modMot n (fun m => { m.gatesOff .run with sector := hallSector c, dirPos := decide (0 ≤ m.target), est := 0, sectT := 0, plocked := m.plocked })

/-- R303: the claims a channel needs. -/
def State.motClaimed (s : State) (n : Nat) : Bool :=
  (s.claim 2 n).isSome && (s.motSense n == 0 || (upTo 3).all (fun i => s.pinFor 7 (3 * n + i)))

/-- R307, R303: RUN. The rotor's phase at that moment is not known: a free sector, from which the observer follows it. -/
def State.motRun (s : State) (n : Nat) : State × Nat :=
  if !s.motClaimed n then s.motRefuse n sConflict
  else if (s.mt n).st == .fault then s.motRefuse n sBadState
  else if (s.mt n).st == .off then
    (s.tookFree).motAccept n (fun m => { m.gatesOff .listen with dirPos := decide (0 ≤ m.target), est := 0, sectT := 0, sector := s.freeVal % 6 })
  else s.motAccept n (fun m => m)

/-- A station or transport channel with sheets in flight (R312). -/
def State.motCarries (s : State) (n : Nat) : Bool := (s.motOwned n 0 || s.motOwned n 1) && s.flying

/-- R312: STOP. -/
def State.motStop (s : State) (n : Nat) : State × Nat :=
  if s.motCarries n then s.motRefuse n sBadState
  else
    s.motAccept n (fun m =>
      if m.st == .run && s.motBrake n && decide (s.motRev n ≤ m.est.natAbs) then { m with st := .brake, saturated := false, revPend := false }
      else if m.st == .brake || !m.running then m
      else m.gatesOff .off)

/-- R312: COAST. -/
def State.motCoast (s : State) (n : Nat) : State × Nat :=
  if s.motCarries n then s.motRefuse n sBadState
  else s.motAccept n (fun m => if m.running then m.gatesOff .off else m)

/-- R306, R320: CLEAR. -/
def State.motClear (s : State) (n : Nat) : State × Nat :=
  if s.bus.ov2 then s.motRefuse n sBadState
  else s.motAccept n (fun m => if m.st == .fault then { m with st := .off, defer := false } else m)

/-- The rotor turns, as far as the channel knows, and in the positive direction (R311): by its estimate, or before there is one by the direction the
channel drives in. -/
def Motor.turns (m : Motor) : Bool := m.est != 0 || m.st == .run || m.st == .ramp || m.st == .align
def Motor.turnsPos (m : Motor) : Bool := if m.est = 0 then m.dirPos else decide (0 < m.est)

/-- R309, R311, R320: a write of MOT_n_SPEED. A channel that listens at its start looks for a rotor in the new direction (R307); one that brakes after
STOP goes to MOT_OFF whatever the target (R312). -/
def State.motSpeed (s : State) (n : Nat) (v : Word) : State × Nat :=
  let m := s.mt n
  let lim : Int := (s.motLim n : Nat)
  let t0 := sext 18 v.toNat
  let t := clampI (-lim) lim t0
  let other := m.running && m.turns && t != 0 && decide (0 < t) != m.turnsPos
  let set (m : Motor) : Motor :=
    { m with target := t, clamped := t != t0, atSpeed := false, dirPos := if m.st == .listen && !m.lostL then decide (0 ≤ t) else m.dirPos }
  if !other then s.motAccept n (fun m => { set m with revPend := false })
  else if m.est.natAbs < s.motRev n then
    let (s1, c) := s.motAccept n set
    (if m.st == .brake then s1 else s1.motStart n, c)
  else if s.flag (motA n 0) 6 then s.motRefuse n sMotion
  else s.motAccept n (fun m => { set m with revPend := true })

/-- Speed in rpm of a rotor whose sectors last `dt` TIME clocks (R308). -/
def State.motRpm (s : State) (n dt : Nat) : Nat := if dt = 0 then 0 else 2000000000 / (s.motPoles n * dt)

/-- A crossing `dt` after the last lies within INNOV_LIM of the prediction (R308); the first crossing has none. -/
def State.motGood (s : State) (n dt : Nat) : Bool :=
  let t := (s.mt n).sectT
  t != 0 && decide (256 * ((dt : Int) - t).natAbs ≤ s.f (motA n 0x14) 0 8 * t)

/-- The bus keeps braking channels' gates off (Table 14.2, R317). -/
def State.busHigh (s : State) : Bool := s.bus.ov1 || s.bus.ov2 || s.bus.chopFail

/-- A channel brakes (chapter 14): MOT_BRAKE, or decelerating regeneratively. -/
def State.motBraking (s : State) (n : Nat) : Bool :=
  let m := s.mt n
  m.st == .brake || (m.st == .run && s.motBrake n && decide (m.cmd.natAbs < 1000 * m.est.natAbs))

/-- The gates of a running channel are off: OV2 holds every bridge off until OV_ACK, it brakes against a high bus (Table 14.2, R317), or it has no
braking and turns faster than its target (R312). -/
def State.motCoasts (s : State) (n : Nat) : Bool :=
  s.bus.ov2 || (s.busHigh && s.motBraking n) || ((s.mt n).st == .run && !s.motBrake n && decide ((s.motGoal n).natAbs < (s.mt n).est.natAbs))

/-- The phase switched and the phase with its low side on in a sector (log entry 112). -/
def sectorPhases (k : Nat) : Nat × Nat :=
  match k with | 0 => (0, 1) | 1 => (0, 2) | 2 => (1, 2) | 3 => (1, 0) | 4 => (2, 0) | _ => (2, 1)

/-- R304, R305: the high and the low gate of phase `ph` at clock `t` of the PWM period, which begins with the high side turning on. A trip of the
peak-current comparator ends the high side's time. The third phase floats; outside MOT_ALIGN, MOT_RAMP, MOT_RUN and MOT_BRAKE all gates are off. -/
def State.motGates (s : State) (n ph t : Nat) : Bool × Bool :=
  let m := s.mt n
  let dead := s.f (motA n 0) 16 8
  let on := if m.tripped then Nat.min m.tripAt m.duty else m.duty
  if !(m.st == .align || m.st == .ramp || m.st == .run || m.st == .brake) || s.motCoasts n then (false, false)
  else if ph = (sectorPhases m.sector).1 then (decide (t < on), decide (on + dead ≤ t) && decide (t + dead < s.motPeriod n))
  else (false, decide (ph = (sectorPhases m.sector).2))

/-- The commanded speed moves towards the target at ACCEL over `dt` TIME clocks (R309), in 1/1,000 rpm. -/
def ramp (cmd target : Int) (accel dt : Nat) : Int :=
  let d : Int := (accel * dt / 20000 : Nat)
  if cmd + d < target then cmd + d else if target < cmd - d then cmd - d else target

/-- The phase loop's correction (R315): the spec bounds it at 0.5 % of the target and gives no law, so it is a free value within that. -/
def State.motCorr (s : State) (n : Nat) : Int × State :=
  let t := s.motTarget n
  if s.flag (motA n 0) 7 && s.motOwned n 0 && (s.mt n).cmd == 1000 * t then
    let b := 5 * t.natAbs
    ((s.freeVal % (2 * b + 1) : Nat) - (b : Int), s.tookFree)
  else (0, s)

/-- R309, R310: one turn of the speed loop after `dt` TIME clocks; the integral is held in 2^−32 of full duty and does not grow while SATURATED. -/
def State.motLoop (s : State) (n dt : Nat) : State :=
  let m := s.mt n
  let per := s.motPeriod n
  let cmd := ramp m.cmd (1000 * s.motGoal n) (s.f (motA n 0xC) 16 16) dt
  let s0 := s.modMot n (fun m => { m with cmd := cmd })
  let (corr, s1) := s0.motCorr n
  let off := s0.motCoasts n
  let lim := s.motClamped n
  let sg : Int := if m.dirPos then 1 else -1
  let err := sg * (cmd + corr - 1000 * m.est)
  let g := motA n 0x3C
  let sum := m.integ + (s.f g 16 16 : Int) * err * dt * 65536 / 200000000
  let integ := if m.saturated && decide (m.integ < sum) then m.integ else sum
  let frac := (s.f g 0 16 : Int) * err / 1000 + integ / 65536
  let duty := if off then 0 else (clampI 0 per (frac * per / 65536)).toNat
  s1.modMot n (fun m => { m with integ := integ, duty := duty, dutyWas := none, satSeen := m.satSeen || duty == per || lim })

/-- SATURATED sets as soon as one of its conditions holds (R310). -/
def State.motSat (s : State) (n : Nat) (c : Bool) : State :=
  if c && !(s.mt n).saturated then (s.modMot n (fun m => { m with saturated := true, satSeen := true })).raise 231 n
  else if c then s.modMot n (fun m => { m with satSeen := true })
  else s

/-- A sector has passed. Six are an electrical period: SATURATED sets where every PWM period of it was limited, and clears after one in which no
condition held (R310). -/
def State.motSector (s : State) (n : Nat) : State :=
  let m := s.mt n
  let full := decide (5 ≤ m.perSect)
  let all := full && m.limAll && m.ilimAct
  (s.modMot n (fun m =>
    { m with perSect := if full then 0 else m.perSect + 1, limAll := if full then true else m.limAll,
             saturated := m.saturated && !(full && !m.satSeen && !all), satSeen := if full then false else m.satSeen })).motSat n all

/-- A turn of the speed loop, and SATURATED where it leaves full duty or a clamped target (R309, R310). -/
def State.motTurn (s : State) (n dt : Nat) : State :=
  let s1 := s.motLoop n dt
  s1.motSat n ((s1.mt n).duty == s1.motPeriod n || s1.motClamped n)

/-- The rotor has slowed below REV_RPM: braking ends, and a pending reversal starts (R311, R312). -/
def State.motSlow (s : State) (n : Nat) : State :=
  let m := s.mt n
  if m.est.natAbs < s.motRev n then
    if m.st == .brake then s.modMot n (fun m => m.gatesOff .off)
    else if m.revPend then s.motStart n
    else s
  else s

/-- The first outcome of R307: 12 good crossings, the commanded direction, at least RESTART_RPM. -/
def State.motCaught (s : State) (n : Nat) : Bool :=
  let m := s.mt n
  decide (12 ≤ m.goods) && decide (s.f (motA n 0x18) 0 16 ≤ m.est.natAbs) && (decide (0 ≤ m.est) == m.dirPos)

/-- A motor command or edge reaches the die. -/
def State.motHere (s : State) (n : Nat) : Bool := !s.inReset && decide (n < s.id.motors)

/-- R307, R303: RUN. -/
def execMotRun (n : Nat) (s : State) : Ans := if s.motHere n then .next (State.answer (motA n 0x24) (s.motRun n)) else .next s

/-- R312: STOP. -/
def execMotStop (n : Nat) (s : State) : Ans := if s.motHere n then .next (State.answer (motA n 0x24) (s.motStop n)) else .next s

/-- R312: COAST. -/
def execMotCoast (n : Nat) (s : State) : Ans := if s.motHere n then .next (State.answer (motA n 0x24) (s.motCoast n)) else .next s

/-- R306, R320: CLEAR. -/
def execMotClear (n : Nat) (s : State) : Ans := if s.motHere n then .next (State.answer (motA n 0x24) (s.motClear n)) else .next s

/-- R311: a write of MOT_n_SPEED. -/
def execMotSpeedWrite (n : Nat) (v : Word) (s : State) : Ans :=
  if s.motHere n then .next (State.answer (motA n 8) (s.motSpeed n v)) else .next s

/-- R307: 50 ms without a crossing in MOT_LISTEN. -/
def execListenTimeout (n : Nat) (s : State) : Ans :=
  if s.motHere n && (s.mt n).st == .listen && !(s.mt n).lostL then .next (s.motStart n) else .next s

/-- R307: ALIGN_MS has passed; the open-loop ramp begins at START_DUTY. -/
def execAlignEnd (n : Nat) (s : State) : Ans :=
  if s.motHere n && (s.mt n).st == .align then .next (s.modMot n (fun m => { m with st := .ramp, cmd := 0, goods := 0, sectT := 0 }))
  else .next s

/-- The ramp holds at HANDOVER (R307). -/
def State.motAtHandover (s : State) (n : Nat) : Bool := decide (1000 * s.motHandover n ≤ (s.mt n).cmd.natAbs)

/-- R307: no handover 500 ms after the ramp reached HANDOVER. -/
def execHandoverTimeout (n : Nat) (s : State) : Ans :=
  if s.motHere n && (s.mt n).st == .ramp && s.motAtHandover n then .next (s.motFails n 2) else .next s

/-- R308, R307, R313: a sampled crossing, `dt` TIME clocks after the one before, of a rotor that turns in the positive direction or not. -/
def execZeroCrossing (n dt : Nat) (pos : Bool) (s : State) : Ans :=
  let m := s.mt n
  if !s.motHere n || m.st == .off || m.st == .fault || m.st == .align then .next s
  else
    let good := s.motGood n dt
    let rpm : Int := (s.motRpm n dt : Nat)
    let est := if good || m.st != .run then (if pos then rpm else -rpm) else m.est
    let ready := m.st == .ramp && s.motAtHandover n && decide (12 ≤ m.goods)
    let s1 := s.modMot n (fun m =>
      { m with est := est, sectT := dt, heard := m.heard + 1, crossed := true,
               sector := if m.st == .listen then (if pos then (m.sector + 1) % 6 else (m.sector + 5) % 6) else m.sector,
               goods := if !good then 0 else if m.st == .ramp && !s.motAtHandover n then 0 else m.goods + 1,
               badSect := if good then 0 else m.badSect, badSeen := if good then false else true })
    match m.st with
    | .listen => .next (if m.lostL then s1 else if s1.motCaught n then s1.motCatch n else s1.motSlow n)
    | .ramp => .next (if ready then s1.motCatch n else s1)
    | _ => .next (s1.motSlow n)

/-- R307: a Hall input changes; the code gives the sector, a code of 0b000 or 0b111 is a broken input. -/
def execHallEdge (n code dt : Nat) (s : State) : Ans :=
  if !s.motHere n || s.motSense n = 0 then .next s
  else
    let c := code % 8
    let m := s.mt n
    let s1 := s.modMot n (fun m => { m with hall := c })
    if c = 0 ∨ c = 7 then .next (if m.running then s1.motFails n 2 else s1)
    else if (m.st == .run || m.st == .brake) && !(s.motSense n == 2 && m.onBemf) then
      let up := (hallSector c + 6 - m.sector) % 6 < 3
      let rpm : Int := (s.motRpm n dt : Nat)
      let s2 := s1.modMot n (fun m => { m with sector := hallSector c, est := if up then rpm else -rpm, sectT := dt, badSect := 0, badSeen := false })
      let s3 := s2.modMot n (fun m => { m with onBemf := s.motSense n == 2 && decide (s.motHandover n ≤ m.est.natAbs) })
      .next ((s3.motSector n).motSlow n)
    else .next s1

/-- R306: the estimate has stayed within 0.1 % of the target in force for 64 electrical periods. -/
def execMotAtSpeed (n : Nat) (s : State) : Ans :=
  let m := s.mt n
  let t := s.motTarget n
  if s.motHere n && m.st == .run && !m.atSpeed && decide (1000 * (m.est - t).natAbs ≤ t.natAbs) then
    .next ((s.modMot n (fun m => { m with atSpeed := true })).raise 229 n)
  else .next s

/-- R313, R314: the rotor counts as lost after 3 electrical periods of sampled crossings without a good one; its station has lost SOS. -/
def execRotorLost (n : Nat) (s : State) : Ans :=
  let m := s.mt n
  if s.motHere n && m.st == .run && 18 ≤ m.badSect && m.badSeen then
    let s1 := (s.modMot n (fun m => { m.gatesOff .listen with lostL := true })).bump (motA n 0x38) 24 8 1
    let s2 := s1.raise 233 n
    .next (match s.motStation n with | some k => (s2.sosGone k).modStn k (fun x => { x with held := true }) | none => s2)
  else .next s

/-- R313, R314: listening after a loss ends; the channel resumes at the estimated phase, or faults. -/
def execListenEnd (n : Nat) (s : State) : Ans :=
  let m := s.mt n
  if s.motHere n && m.st == .listen && m.lostL then
    if s.motCaught n then .next (((s.motCatch n).bump (motA n 0x38) 16 8 1).raise 234 n) else .next (s.motFails n 1)
  else .next s

/-- R305: the comparator trips `t` TIME clocks after the high side turned on. -/
def execIlimTrip (n t : Nat) (s : State) : Ans :=
  let m := s.mt n
  let on := m.st == .align || m.st == .ramp || m.st == .run || m.st == .brake
  if s.motHere n && on && !m.tripped && s.f (motA n 0x10) 8 8 ≤ t && t < m.duty then
    .next ((s.modMot n (fun m => { m with tripped := true, tripAt := t, ilimAct := true })).bump (motA n 0x38) 0 16 1)
  else .next s

/-- R315: PLOCKED sets or clears. -/
def execPhaseLockChange (n : Nat) (s : State) : Ans :=
  let m := s.mt n
  if s.motHere n && !m.plocked && 256 ≤ m.lockRun then .next ((s.modMot n (fun m => { m with plocked := true })).raise 230 n)
  else if s.motHere n && m.plocked && 16 ≤ m.unlockRun then .next ((s.modMot n (fun m => { m with plocked := false })).raise 230 n)
  else .next s

/-- Hall inputs give the sector (R307): SENSE 1, or SENSE 2 below HANDOVER. -/
def State.motByHall (s : State) (n : Nat) : Bool := s.motSense n != 0 && !(s.motSense n == 2 && (s.mt n).onBemf)

/-- R308, R310: the next sector; sectors and electrical periods are counted, and the open-loop ramp rises. Where Halls give the sector their edges
do this. -/
def execCommutation (n : Nat) (s : State) : Ans :=
  let m := s.mt n
  if !s.motHere n || !(m.st == .ramp || m.st == .run || m.st == .brake) || (m.st != .ramp && s.motByHall n) then .next s
  else
    let sect := if m.dirPos then (m.sector + 1) % 6 else (m.sector + 5) % 6
    let top : Int := (1000 * s.motHandover n : Nat)
    let sp := Nat.min top.toNat (isqrt (m.cmd.natAbs * m.cmd.natAbs + 200000000 * s.f (motA n 0xC) 16 16 / s.motPoles n))
    let cmd : Int := if m.st == .ramp then (if m.dirPos then (sp : Int) else -(sp : Int)) else m.cmd
    let sampled := if m.crossed then m.sampled + 1 else 0
    let clears := m.predicting && decide (2 ≤ sampled)
    let pred := if m.predicting && !clears then m.predSect + 1 else 0
    let s1 := s.modMot n (fun m =>
      { m with sector := sect, cmd := cmd, crossed := false, sampled := sampled, predicting := m.predicting && !clears,
               predSect := if 64 ≤ pred then 0 else pred, force := !clears && (m.force || decide (64 ≤ pred)), badSect := m.badSect + 1 })
    .next (if m.st == .ramp then s1 else s1.motSector n)

/-- R308, R305, R309: the middle of W_off of a PWM period. The sample is taken, skipped or forced, the period closes, and the speed loop turns. In
MOT_ALIGN and MOT_RAMP the duty stays at START_DUTY. -/
def execFloatingPhaseSample (n : Nat) (level : Bool) (s : State) : Ans :=
  let m := s.mt n
  if !s.motHere n || !(m.st == .align || m.st == .ramp || m.st == .run || m.st == .brake) then .next s
  else
    let per := s.motPeriod n
    let dead := s.f (motA n 0) 16 8
    let smin := s.f (motA n 4) 16 8
    let duty := m.dutyWas.getD m.duty
    let close (m : Motor) : Motor := { m with ilimAct := m.tripped, limAll := m.limAll && m.tripped, tripped := false }
    if m.st == .align then .next (s.modMot n close)
    else if m.force && m.predicting then
      .next (s.modMot n (fun m => { close m with force := false, dutyWas := some duty, duty := Nat.min duty (per - 2 * dead - smin), bemf := level, skips := 0 }))
    else
      let skip := decide (per < duty + 2 * dead + smin)
      let s1 := s.modMot n (fun m => { close m with dutyWas := none, duty := duty, skips := if skip then m.skips + 1 else 0, bemf := if skip then m.bemf else level })
      let s2 := if skip && !m.predicting && decide (8 ≤ m.skips + 1) then
          (s1.modMot n (fun m => { m with predicting := true, predSect := 0, sampled := 0, crossed := false })).raise 232 n
        else s1
      .next (if m.st == .ramp then s2 else s2.motTurn n per)

/-- The brake chopper works: its pin is claimed, it is enabled and has not failed (Table 14.2, R317). -/
def State.chopper (s : State) : Bool := s.pinFor 14 0 && s.flag (motB + 0xC) 0 && !s.bus.chopFail

/-- Table 14.2, R316: VBUS above V_OV2. -/
def State.overvolt (s : State) : State :=
  let s1 := if s.bus.ov2 then s else ({ s with bus := { s.bus with ov2 := true } } : State).raise 239 0
  let s2 := s1.each ((upTo s.id.motors).filter (fun n => (s.mt n).running)) (fun s n => s.motStopFault n 4)
  let s3 := s2.each ((upTo s.id.steppers).filter (fun n => (s.claim 3 n).isSome)) (fun s n => s.stpFault n 4)
  (s3.setEstop false).wasteAll 4

/-- R316: VBUS is converted; the chopper, V_OV1 and V_OV2 act. -/
def execVbusSample (code : Nat) (s : State) : Ans :=
  if s.inReset || !s.id.motion then .next s
  else
    let v := code % 4096
    let chop := s.f motB 0 12
    let hys := s.vHys
    let b := s.bus
    let on := s.chopper && (decide (chop < v) || (b.chopOn && decide (chop ≤ v + hys)))
    let ov1 := decide (s.vOv1 < v) || (b.ov1 && decide (s.vOv1 ≤ v + hys))
    let s1 := { s with bus := { b with vbus := v, chopOn := on, ov1 := ov1, onV := if on && !b.chopOn then v else b.onV,
                                       onSince := if on && !b.chopOn then s.clk else b.onSince } }
    let s2 := if (s.reg (motB + 0x10)).toNat < v then s1.setReg (motB + 0x10) (wd v) else s1
    let s3 := s2.raiseIf (ov1 != b.ov1) 238 (b2n ov1)
    .next (if s.f (motB + 4) 0 12 < v then s3.overvolt else s3)

/-- R317: the chopper has failed. -/
def State.chopFails (s : State) : State := ({ s with bus := { s.bus with chopOn := false, chopFail := true } } : State).raise 237 0

/-- R317: the feedback pin has disagreed with the chopper output for more than 10 µs. -/
def execChopperFeedbackFault (s : State) : Ans :=
  if s.inReset || !s.chopper || !s.pinFor 15 0 then .next s else .next s.chopFails

/-- R317: the chopper has been on for 2 ms and VBUS is above its value at the start. -/
def execChopperOnTimeout (s : State) : Ans :=
  if s.inReset || !s.bus.chopOn || s.bus.vbus ≤ s.bus.onV then .next s else .next s.chopFails

/-- R318: OV_ACK. -/
def State.ovAck (s : State) : State × Nat :=
  if s.vOv1 ≤ s.bus.vbus + s.vHys || s.flying then (s, sBadState)
  else
    let s1 := { s with bus := { s.bus with ov2 := false } }
    ((if s.bus.ov2 && s1.estopMay then s1.setEstop true else s1), sOk)

/-- R317: CHOP_ACK. -/
def State.chopAck (s : State) : State × Nat := ({ s with bus := { s.bus with chopFail := false } }, sOk)

/-- R318: OV_ACK ends the V_OV2 state. -/
def execOvAck (s : State) : Ans := if s.inReset || !s.id.motion then .next s else .next (State.answer (motB + 0xC) s.ovAck)

/-- R317: CHOP_ACK returns the chopper to service. -/
def execChopAck (s : State) : Ans := if s.inReset || !s.id.motion then .next s else .next (State.answer (motB + 0xC) s.chopAck)

/-- ILIM_EFF (R305): ILIM, capped by the ladder step of the channel's group. -/
def State.ilimEff (s : State) (n : Nat) : Nat :=
  match s.owner 2 n with
  | some k => Nat.min (s.f (motA n 0x10) 0 8) (s.lad (2 + k)).limit
  | none => s.f (motA n 0x10) 0 8

/-- R309: the ladder enters GAP; channels that follow it have a new target. -/
def State.motGap (s : State) : State :=
  s.each (upTo s.id.motors) (fun s n => if s.flag (motA n 0) 13 then s.modMot n (fun m => { m with atSpeed := false }) else s)

end Sys2Proof.Machine
end

