-- ==== Sys2Proof/Machine/Thermal.lean ====
section
/-! DEFINITION. Thermal management, fuser and high voltage (chapter 15): sensors, domains and ladders, zero crossings, heater control, HV
channels and their profiles. -/
namespace Sys2Proof.Machine

/-- 2·atanh series: Σ y^(2i+1)/(2i+1) in 2^−40 for `y` in 2^−40. -/
def atanhSum : Nat → Nat → Nat → Nat → Nat
  | 0, _, _, _ => 0
  | f + 1, pw, y2, i => pw / (2 * i + 1) + atanhSum f (pw * y2 / 2 ^ 40) y2 (i + 1)

/-- ln(a/b) in 2^−40. -/
def lnQ (a b : Nat) : Int :=
  let e0 : Int := (a.log2 : Int) - b.log2
  let m0 := if 0 ≤ e0 then a * 2 ^ 40 / (b * 2 ^ e0.toNat) else a * 2 ^ 40 * 2 ^ (-e0).toNat / b
  let (m, e) := if m0 < 2 ^ 40 then (2 * m0, e0 - 1) else (m0, e0)
  let y := (m - 2 ^ 40) * 2 ^ 40 / (m + 2 ^ 40)
  e * 762123384785 + 2 * (atanhSum 24 y (y * y / 2 ^ 40) 0 : Nat)

/-- R322: temperature of a thermistor in 0.1 °C from its ratio code, with BETA and KR; past every range where the sum is not positive. -/
def thermistor (n beta kr : Nat) : Int :=
  let l := lnQ (n * 4096) ((4096 - n) * kr)
  let den : Int := (100 * 2 ^ 40 * beta : Nat) + 29815 * l
  if den ≤ 0 then 40000 else roundDiv (2 * (10 * 29815 * 2 ^ 40 * beta : Nat) - 5463 * den) (2 * den.toNat)

/-- What a sensor gives at a tick: raw value, temperature, and the condition of R324 that holds (0 none). -/
def State.sensRead (s : State) (k : Nat) (i : ThermIn) : Nat × Int × Nat :=
  let x := s.sens k
  let range (t : Int) : Nat := if t < -500 ∨ 3500 < t then 3 else 0
  match s.sensKind k with
  | 1 =>
    let n := match i.codes.find? (fun e => e.1 == k) with | some e => e.2 % 4096 | none => x.raw
    if 4064 ≤ n then (n, x.temp, 1)
    else if n ≤ 32 then (n, x.temp, 2)
    else
      let t := thermistor n (s.f (thmA k 4) 0 16) (Nat.max 1 (s.f (thmA k 4) 16 16))
      (n, t, range t)
  | 2 =>
    let t := roundDiv (sext 16 x.raw * 5) 8
    (x.raw, t, if s.f (thmA k 0) 24 8 ≤ x.age then 4 else range t)
  | 3 =>
    match i.dies.find? (fun e => e.1 == k) with
    | some (_, t, ok) => (x.raw, t, if ok then range t else 4)
    | none => (x.raw, x.temp, if x.broken then x.why else 0)
  | 4 =>
    let t := sext 16 (s.reg (blkA (k - 40) 0xC)).toNat
    (x.raw, t, if (s.lk (k - 40)).statusOk then range t else 4)
  | _ => (x.raw, x.temp, 0)

/-- R326: the threshold flags of sensor `k` at temperature `t`, HYS applied to those that are set; THM_HIGH_WARN and THM_LOW as flags set. -/
def State.sensLevels (s : State) (k : Nat) (t : Int) : State :=
  let x := s.sens k
  let hys : Int := (s.f (thmA k 0) 16 8 : Nat)
  let hi (thr : Int) (was : Bool) : Bool := decide (thr ≤ t) || (was && decide (thr - hys ≤ t))
  let lo (thr : Int) (was : Bool) : Bool := decide (t ≤ thr) || (was && decide (t ≤ thr + hys))
  let y : Sensor := { x with temp := t, lowCrit := lo (s.sf (thmA k 8) 0 16) x.lowCrit, lowWarn := lo (s.sf (thmA k 8) 16 16) x.lowWarn,
                             hiWarn := hi (s.sf (thmA k 0xC) 0 16) x.hiWarn, hiCrit := hi (s.sf (thmA k 0xC) 16 16) x.hiCrit }
  (((s.modSens k (fun _ => y)).raiseIf (y.hiWarn && !x.hiWarn) 16 k).raiseIf (y.lowWarn && !x.lowWarn) 18 k).raiseIf (y.lowCrit && !x.lowCrit) 18 k

/-- R324 to R326: one sensor's evaluation at a tick. -/
def State.sensTick (s : State) (i : ThermIn) (k : Nat) : State :=
  if !s.sensUsed k then s
  else
    let (raw, t, why) := s.sensRead k i
    let x := s.sens k
    let s0 := s.modSens k (fun x => { x with raw := raw, age := if s.sensKind k = 2 then Nat.min 65535 (x.age + 1) else 0 })
    if why ≠ 0 then
      let s1 := s0.modSens k (fun x => { x with broken := true, why := why, good := 0, lowCrit := false, lowWarn := false, hiWarn := true, hiCrit := true })
      s1.raiseIf (!x.broken) 19 k
    else if x.broken then s0.modSens k (fun x => { x with good := x.good + 1, temp := t })
    else s0.sensLevels k t

/-- READY and CAP of HVF_FUS_STAT as the evaluation leaves them (Table 15.11). -/
def State.fuserStat (s : State) : State :=
  let ready := sumN ((upTo 4).map (fun h => if (s.heat h).admitT ≤ (s.sens (s.sensA h)).temp then 2 ^ h else 0))
  if s.id.motion then (s.setF (hvfB + 8) 0 4 ready).setF (hvfB + 8) 12 8 (s.lad 0).limit else s

/-- A computed step changes (R329) and comes into force as Table 15.4 states. -/
def State.ladSet (s : State) (d tgt : Nat) : State :=
  if (s.lad d).tgt = tgt then s
  else
    let s1 := (s.modLad d (fun l => { l with tgt := tgt })).raise 20 d
    if 8 ≤ d ∧ d ≤ 13 then
      (s1.modLad d (fun l => { l with limit := s.ladLimit d tgt })).modLink (d - 8) (fun l => { l with laserNew := some (s.ladLimit d tgt) })
    else
      let s2 := s1.modLad d (fun l => { l with step := tgt, limit := s.ladLimit d tgt, wait := false })
      if d = 0 then s2.fuserStat else s2

/-- R330 to R332, R319: what a domain that enters CRIT does at once. -/
def State.critAction (s : State) (d : Nat) : State :=
  if d = 0 then s.wasteAll 3
  else if d = 1 then (if s.id.isH then s.sendFault else s.wasteAll 3)
  else if d ≤ 7 then
    let s1 := s.each ((upTo s.id.steppers).filter (fun n => s.owner 3 n == some (d - 2))) (fun s n => s.stpFault n 3)
    let s2 := s1.each ((upTo s.id.motors).filter (fun n => s.owner 2 n == some (d - 2))) (fun s n => s.motHot n)
    s2.wasteAll 3
  else if d ≤ 13 then s.modStn (d - 8) (fun x => { x with hot := true })
  else s

/-- DWELL of ladder `d` while in WARN, REC_DWELL out of it, in ms (Table 15.3). -/
def State.ladDwell (s : State) (d : Nat) (warn : Bool) : Nat :=
  let v := s.tabAct 6 d (if warn then 8 else 10) 2
  if v = 0 then (if warn then 500 else 5000) else v

/-- The count of ladder `d` begins anew (R329). -/
def State.ladCount (s : State) (d : Nat) : State :=
  s.modLad d (fun x => { x with ran := 0, dwell := s.ladDwell d x.warn })

/-- R327, R329, R331: one domain after its sensors have been evaluated; its count goes on by the tick's 10 ms, or begins anew where WARN is entered or
left, or a CRIT hold ends. -/
def State.domTick (s : State) (d : Nat) : State :=
  let l := s.domSens d
  let warn := l.any (fun k => (s.sens k).hiWarn)
  let crit := l.any (fun k => (s.sens k).hiCrit)
  let s0 := s.modLad d (fun x => { x with warn := warn, ran := x.ran + 10 })
  let s1 := if warn != (s.lad d).warn || ((s.lad d).crit && !warn && !crit) then s0.ladCount d else s0
  if crit && !(s.lad d).crit then (((s1.modLad d (fun x => { x with crit := true })).raise 17 d).ladSet d 7).critAction d
  else if (s.lad d).crit && !warn && !crit then
    let s2 := (s1.modLad d (fun x => { x with crit := false })).raise 21 d
    if s.id.isH then s2.sendFault else s2
  else s1

/-- FUS_READY on a change of the fuser's admission (Table 15.12). -/
def State.fuserNote (s : State) : State :=
  let r := !s.fuserLow
  if s.id.motion && r != s.thm.fusReady then ({ s with thm := { s.thm with fusReady := r } } : State).raise 24 (b2n r) else s

/-- SENS_A and SENS_B of heater `h` are in the fuser domain and not broken (R338). -/
def State.pairSound (s : State) (h : Nat) : Bool :=
  [s.sensA h, s.sensB h].all (fun k => s.sensUsed k && s.domOf k == some 0 && !(s.sens k).broken)

/-- The pair differs by at most PAIR_DIFF. -/
def State.pairAgrees (s : State) (h : Nat) : Bool :=
  s.pairSound h && decide (((s.sens (s.sensA h)).temp - (s.sens (s.sensB h)).temp).natAbs ≤ s.tabAct 8 0 (32 * h + 2) 2)

/-- A pair changes its validity (R338). -/
def State.setPair (s : State) (h : Nat) (ok : Bool) : State :=
  (s.modHeat h (fun x => { x with pairOk := ok, pairLost := !ok, on := x.on && ok })).raise 23 h

/-- Pairs that are no longer sound are invalid at once; a pair that has never been valid is so from its first sound tick (R338). -/
def State.pairTick (s : State) (h : Nat) : State :=
  let x := s.heat h
  if x.pairOk && !s.pairSound h then s.setPair h false
  else if !x.pairOk && !x.pairLost && s.pairAgrees h then s.setPair h true
  else s

/-- The die temperature that corrects the reference of the VBUS_SENSE converter: that of the lowest-numbered on-die sensor not broken (R334). -/
def State.vbusTemp (s : State) : Option Int :=
  ((upTo 8).find? (fun i => !(s.sens (32 + i)).broken)).map (fun i => (s.sens (32 + i)).temp)

/-- R321: every sensor in use is evaluated, then every domain. -/
def execThermalTick (i : ThermIn) (s : State) : Ans :=
  if s.inReset then .next s
  else
    let s1 := s.each (upTo 46) (fun s k => s.sensTick i k)
    let s2 := s1.each (upTo 15) State.domTick
    .next (s2.each (upTo s.id.heaters) State.pairTick).fuserNote.fuserStat

/-- R329, R345: the running DWELL or REC_DWELL of domain `d` expires, and the next begins; in CRIT hold no step moves. -/
def execLadderDwellStep (d : Nat) (s : State) : Ans :=
  let l := s.lad d
  if s.inReset || 15 ≤ d || l.crit || decide (l.ran < l.dwell) then .next s
  else .next ((s.ladSet d (if l.warn then Nat.min 7 (l.tgt + 1) else l.tgt - 1)).ladCount d)

/-- R323: 17 bits of a digital sensor, first bit most significant; a read with wrong parity is discarded. -/
def execDigitalSensorRead (k bits : Nat) (s : State) : Ans :=
  if s.inReset || !s.sensUsed k || s.sensKind k != 2 || popCount 17 bits % 2 = 1 then .next s
  else .next (s.modSens k (fun x => { x with raw := bits / 2 % 65536, age := 0 }))

/-- R324: 10 good ticks have passed; the sensor counts again at the temperature it last gave. -/
def execSensorRecovered (k : Nat) (s : State) : Ans :=
  if !s.inReset && (s.sens k).broken && 10 ≤ (s.sens k).good then
    .next ((s.modSens k (fun x => { x with broken := false, why := 0, good := 0 })).sensLevels k (s.sens k).temp)
  else .next s

/-- R335: zero-cross is lost. -/
def State.zcLost (s : State) : State :=
  let s1 := { s with thm := { s.thm with zcOk := false, zcHist := [], zcGood := 0, heaters := s.thm.heaters.map (fun (h : Heater) => { h with on := false }) } }
  (s1.raiseIf s.thm.zcOk 22 0).fuserNote

/-- Mains frequency in 0.01 Hz over the half-cycles held (R335). -/
def mainsFreq (l : List Nat) : Nat := if sumN l = 0 then 0 else 50000000 * l.length / sumN l

/-- Duty of a heater in 1/65,536: PID output and feed-forward, within the ladder cap (R336, R339). -/
def State.heatDuty (s : State) (h : Nat) : Nat :=
  let x := s.heat h
  Nat.min (Nat.min 65536 (x.duty + x.ff * 65536 / 255)) ((s.lad 0).limit * 65536 / 255)

/-- Sine of 2πx in 2^−30, x in 1/1,000 of a turn, by its series around the nearest quarter. -/
def sin2pi (m : Nat) : Int :=
  let q := m % 1000
  let r : Int := if q ≤ 250 then (q : Int) else if q ≤ 750 then 500 - q else (q : Int) - 1000
  let x := r * 6746518852 / 1000
  let x2 := x * x / 2 ^ 30
  let t1 := x * x2 / 2 ^ 30 / 6
  let t2 := t1 * x2 / 2 ^ 30 / 20
  let t3 := t2 * x2 / 2 ^ 30 / 42
  let t4 := t3 * x2 / 2 ^ 30 / 72
  let t5 := t4 * x2 / 2 ^ 30 / 110
  x - t1 + t2 - t3 + t4 - t5

/-- Power passed on when firing at `m` thousandths of the half-cycle, in 1/65,536 (R336). -/
def phasePower (m : Nat) : Int := 65536 - (m : Int) * 65536 / 1000 + sin2pi m * 65536 / 6746518852

/-- The firing angle in thousandths of the half-cycle for a duty (R336): the first angle whose power is not above it. -/
def phaseAngle (u : Nat) : Nat := ((upTo 1000).find? (fun m => decide (phasePower m ≤ u))).getD 1000

/-- A heater may fire (R335, R336, R338, Table 15.4), and only where its class 0x05 claim binds it (R15; DEDUCED, log entry 113). -/
def State.heatMay (s : State) (h : Nat) : Bool :=
  s.flag hvfB 0 && s.hen h && (s.heat h).pairOk && s.thm.zcOk && !(s.lad 0).crit && (s.claim 5 h).isSome

/-- R336: one heater at a half-cycle. -/
def State.heatFire (s : State) (h : Nat) : State :=
  if !s.heatMay h then s.modHeat h (fun x => { x with on := false })
  else
    let u := s.heatDuty h
    if s.flag hvfB 1 then
      let s1 := s.modHeat h (fun x => { x with on := u != 0 })
      if u = 0 then s1 else s1.emit (.heat h (phaseAngle u) (s.f hvfB 8 8))
    else
      let a := (s.heat h).accum + u
      let s1 := s.modHeat h (fun x => { x with on := decide (65536 ≤ a), accum := if 65536 ≤ a then a - 65536 else a })
      if 65536 ≤ a then s1.emit (.heat h 0 (s.f hvfB 8 8)) else s1

/-- R335, R336: a zero crossing, `us` after the last. -/
def execZeroCrossEdge (us : Nat) (s : State) : Ans :=
  if s.inReset || !s.id.motion then .next s
  else
    let hist := lastN 16 (s.thm.zcHist ++ [us])
    let ok := decide (7693 ≤ us) && decide (us ≤ 11111)
    let s1 := { s with thm := { s.thm with zcHist := hist, zcGood := if ok then s.thm.zcGood + 1 else 0 } }
    let f := mainsFreq hist
    if s.thm.zcOk && (f < 4500 || 6500 < f) then .next s1.zcLost
    else .next (s1.each (upTo s.id.heaters) State.heatFire)

/-- R335: no edge for 25 ms. -/
def execZeroCrossLoss (s : State) : Ans := if s.inReset || !s.id.motion then .next s else .next s.zcLost

/-- R335: 16 valid half-cycles have passed. -/
def execZeroCrossRegained (s : State) : Ans :=
  if !s.inReset && s.id.motion && !s.thm.zcOk && 16 ≤ s.thm.zcGood then
    .next (({ s with thm := { s.thm with zcOk := true } } : State).raise 22 1).fuserNote
  else .next s

/-- R337: the PID of one heater; errors in 0.1 °C, the integral in 1/65,536 per 0.1 s. While the output is capped or held at 1 the integral does not
rise, and while it is held at 0 it does not fall (DEDUCED, log entry 115). -/
def State.heatPid (s : State) (h : Nat) : State :=
  let w := s.act (hvfB + 0x20 + 0x10 * h)
  let setp := sfld w 0 16
  let gain (o : Nat) : Int := (s.tabAct 8 0 (32 * h + o) 2 : Nat)
  let e := setp - (s.sens (s.sensA h)).temp
  let x := s.heat h
  let out (i : Int) : Int := gain 4 * e + i / 10 + gain 8 * 10 * (e - x.lastT)
  let cap : Int := ((s.lad 0).limit * 65536 / 255 : Nat)
  let o := out x.integ
  let held := (decide (o ≤ 0) && decide (e < 0)) || ((decide (65536 ≤ o) || decide (cap < o)) && decide (0 < e))
  let integ := if held then x.integ else x.integ + gain 6 * e
  s.modHeat h (fun x => { x with setp := setp, admitT := sfld w 16 16, lastT := e, integ := integ,
                                 duty := if s.flag hvfB 0 && s.hen h then (clampI 0 65536 (out integ)).toNat else 0 })

/-- R337: every heater's PID, and SETPOINT and ADMIT as written. -/
def execFuserPidUpdate (s : State) : Ans :=
  if s.inReset || !s.id.motion then .next s else .next (s.each (upTo s.id.heaters) State.heatPid).fuserNote.fuserStat

/-- R338: the pair has differed by more than PAIR_DIFF for 1 s. -/
def execPairInvalid (h : Nat) (s : State) : Ans :=
  if !s.inReset && h < s.id.heaters && (s.heat h).pairOk && !s.pairAgrees h then .next (s.setPair h false).fuserNote else .next s

/-- R338: 10 s of agreement have passed. -/
def execPairValid (h : Nat) (s : State) : Ans :=
  if !s.inReset && h < s.id.heaters && !(s.heat h).pairOk && s.pairAgrees h then .next (s.setPair h true).fuserNote else .next s

/-- R339: a fuser-entry event; heaters with FF_MS above 0 get their feed-forward duty. -/
def State.fuserEntry (s : State) : State :=
  s.each (upTo s.id.heaters) (fun s h =>
    let ms := s.tabAct 8 0 (32 * h + 12) 2
    if ms = 0 then s else s.modHeat h (fun x => { x with ff := s.tabAct 8 0 (32 * h + 10) 1, ffEnd := s.clk + ms * 200000 }))

/-- R339: the feed-forward period that ends first is over. -/
def execFeedForwardEnd (s : State) : Ans :=
  let due := s.thm.heaters.filter (fun h => h.ff != 0)
  match minBy (·.ffEnd) due with
  | none => .next s
  | some x => .next { s with thm := { s.thm with heaters := s.thm.heaters.map (fun (h : Heater) => if h.ffEnd ≤ x.ffEnd then { h with ff := 0 } else h) } }

/-- HVF register of HV channel `c` at offset `o`. -/
def hvA (c o : Nat) : Nat := hvfB + 0x100 + 0x10 * c + o

/-- The ramped target (R343). -/
def HvCh.ramped (x : HvCh) : Nat :=
  if x.rampUs ≤ x.rampT then x.to1 else ((x.from0 : Int) + ((x.to1 : Int) - x.from0) * x.rampT / x.rampUs).toNat

/-- The channel ramps. -/
def HvCh.ramping (x : HvCh) : Bool := decide (x.rampT < x.rampUs)

/-- R342: a host write of TARGET steps the target at the next update; in the TIME clock of a profile switch it is discarded (R345). -/
def State.hvTarget (s : State) (c v : Nat) : State :=
  if (s.hvc c).swAt = some s.clk then s.setReg (hvA c 4) (wd (s.hvc c).to1)
  else s.modHv c (fun x => { x with from0 := v, to1 := v, rampUs := 0, rampT := 0 })

/-- R344: EN written 1 after 0 clears FAULT. -/
def State.hvEnable (s : State) (c : Nat) (was now : Bool) : State :=
  s.modHv c (fun x => if now && !was then { x with fault := false, integ := 0, errUs := 0 } else if now then x else { x with duty := 0, errUs := 0 })

/-- R343: every channel of group `g` ramps to its target of profile `p`. -/
def State.hvSwitch (s : State) (g p : Nat) : State :=
  let us := s.tabAct 7 g (0x50 * p) 4
  let s1 := s.each (upTo s.id.hvs) (fun s c =>
    let t := s.tabAct 7 g (0x50 * p + 16 + 2 * c) 2
    if s.f (hvA c 0) 1 4 ≠ g ∨ t = 0xFFFF then s
    else (s.modHv c (fun x => { x with from0 := x.ramped, to1 := t, rampUs := us, rampT := 0, swAt := some s.clk })).setReg (hvA c 4) (wd t))
  { s1 with thm := { s1.thm with hvProf := updAt s1.thm.hvProf g (fun _ => p) } }

/-- R342, R344: one HV channel's update, driven only where its class 0x04 claim binds it to a group (R15; log entry 113); the integral in 1/65,536 of full duty per 0.1 ms. -/
def State.hvUpdate (s : State) (fb : List Nat) (c : Nat) : State :=
  let on := s.flag (hvA c 0) 0 && (s.claim 4 c).isSome
  let kp : Int := (s.f (hvA c 0xC) 0 16 : Nat)
  let ki : Int := (s.f (hvA c 0xC) 16 16 : Nat)
  s.modHv c (fun x =>
    let y : HvCh := { x with fb := (fb.getD c x.fb) % 65536, rampT := Nat.min x.rampUs (x.rampT + 100) }
    let t : Nat := y.ramped
    let e : Int := (t : Int) - y.fb
    if !on || y.fault then { y with now := t, duty := 0, errUs := 0 }
    else
      let integ := y.integ + ki * e
      { y with now := t, integ := integ, duty := (clampI 0 4095 ((kp * e + integ / 10) * 4095 / 65536)).toNat,
               errUs := if s.f (hvA c 0) 16 16 < e.natAbs then y.errUs + 100 else 0 })

/-- R342: every channel's feedback is taken, its ramp advanced and its duty set. -/
def execHvLoopUpdate (fb : List Nat) (s : State) : Ans :=
  if s.inReset then .next s else .next (s.each (upTo s.id.hvs) (fun s c => s.hvUpdate fb c))

/-- R344: the error has exceeded ERR_LIM for ERR_MS. -/
def execHvFault (c : Nat) (s : State) : Ans :=
  let x := s.hvc c
  if !s.inReset && c < s.id.hvs && s.flag (hvA c 0) 0 && !x.fault && 1000 * s.f (hvA c 0) 8 8 ≤ x.errUs then
    .next (((s.modHv c (fun x => { x with fault := true, duty := 0, integ := 0 })).raise 25 c).wasteAllSeen 8).pickOff
  else .next s

end Sys2Proof.Machine
end

