-- ==== Sys2Proof/Machine/Sched.lean ====
section
/-! DEFINITION. The sheet scheduler (R91, R96 to R110, R113, R435): admission, the residency forecast, the speed ladder, picks, and a sheet's
way to DONE. -/
namespace Sys2Proof.Machine

/-- Stations in use: those that hold line slots. -/
def State.inUse (s : State) : List Nat := (upTo s.id.stations).filter (fun n => (s.st n).alloc != 0)

/-- SHT_CTRL.REDUCED_OK. -/
def State.reducedOk (s : State) : Bool := s.flag shtB 4

/-- The stations a sheet is printed on: those that hold line slots, and with REDUCED_OK of these the ones in service (R33, Table 4.9). -/
def State.printing (s : State) : List Nat := if s.reducedOk then s.inUse.filter s.stnServes else s.inUse

/-- STEP_FLOOR (R106, R176, R222): the first step every station in use sustains; the number of steps where there is none. -/
def State.stepFloor (s : State) : Nat :=
  let n := s.ladSteps
  let use := s.printing
  if use.isEmpty then n else ((upTo n).find? (fun j => use.all (fun k => s.sustains k (s.ladRate j)))).getD n

/-- The floor that binds: on the manager of a line the slowest announced by a member (R362). -/
def State.floorAll (s : State) : Nat :=
  if s.role = 1 then s.workers.foldl (fun a m => Nat.max a m.floor) s.stepFloor else s.stepFloor

/-- The fastest permitted step (R106, R114). -/
def State.permitted (s : State) : Nat := Nat.max (Nat.min (s.f shtB 1 3) (s.ladSteps - 1)) s.floorAll

/-- The nominal exit of a sheet in flight (Table 4.2, ACTION 0x04). -/
def State.exitNs (s : State) (t : Token) : Nat :=
  match ((upTo 64).map s.sheetEv).find? (fun e => e.act == 4) with
  | some e => (s.tokReg t + travelNs t.rate (e.dist t.medium)).toNat
  | none => (s.tokReg t).toNat

/-- The ladder enters GAP (R109, R163, R353): motors, polygons and step channels go to the target's speed. -/
def State.enterGap (s : State) : State :=
  match s.sched.target with
  | none => s
  | some j =>
    let s1 : State := { s with sched := { s.sched with stepCur := j, ladder := .gap, admitted := none } }
    let s2 := if s.role = 0 then s1.setAnchor s.ns
      else match s.line.stepMsg with | some (_, _, a) => s1.setAnchor a | none => s1.setAnchor s.ns
    ((s2.each (upTo s.id.stations) (fun s n => s.stnGap n)).stpGap).motGap

/-- On a line the GAP begins at the instant its STEP message names (R362). -/
def State.gapMay (s : State) : Bool :=
  s.role == 0 || (match s.line.stepMsg with | some (_, g, _) => decide (g ≤ s.ns) | none => true)

/-- DRAINING ends when no sheet is in flight (R109). -/
def State.gapDue (s : State) : State :=
  if s.sched.ladder == .draining && !s.flying && s.gapMay then s.enterGap else s

/-- On a line the manager tells every package the target and the instant its GAP begins, the last nominal exit (R362). -/
def State.tellStep (s : State) (j : Nat) : State :=
  let g := s.inFlight.foldl (fun a t => Nat.max a (s.exitNs (s.tok t))) s.ns
  if s.role = 1 then
    (({ s with line := { s.line with stepMsg := some (j, g, g) } } : State).sendOuv 0xFF (.step j g g)).raise 44 j
  else s

/-- Picks stop until the gap (R109). -/
def State.drain (s : State) : State := ({ s with sched := { s.sched with ladder := .draining, admitted := none } } : State).gapDue

/-- The target is recorded, and SHT_STEP is raised. -/
def State.aim (s : State) (j : Nat) : State := ({ s with sched := { s.sched with target := some j } } : State).raise 146 j

/-- A new target acts (R109): in GAP the gap starts again, while draining nothing more happens, otherwise picks stop. -/
def State.turn (s : State) : State :=
  match s.sched.ladder with
  | .gap => s.enterGap
  | .draining => s
  | .running => s.drain
  | .held => s.drain

/-- A new step target (R109). -/
def State.setTarget (s : State) (j : Nat) : State := ((s.aim j).tellStep j).turn

/-- R108, R114: a step in use, or a target, faster than the fastest permitted one is replaced at once. -/
def State.stepCheck (s : State) : State :=
  let p := s.permitted
  if s.ladSteps ≤ p then s
  else match s.sched.target with
    | some t => if t < p then s.setTarget p else s
    | none => if s.sched.stepCur < p then s.setTarget p else s

/-- The stations that will image a page's sheet (R99): those with a plane and an image start, and with REDUCED_OK only those that are READY. -/
def State.sheetStations (s : State) (p : Page) : Nat :=
  sumN ((upTo s.id.stations).map (fun k =>
    if natBit p.mask k && (s.imgDist k p.medium).isSome && (!s.reducedOk || s.stnReady k) then 2 ^ k else 0))

/-- ABSENT bands in the order the host is expected to send them (R92), with the delivered bytes owed up to and including each (R435). -/
def State.owed (s : State) : List (BandRef × Nat) :=
  let all := s.jobs.flatMap (fun j => (j.pages.filter (fun p => !p.released)).flatMap (fun p =>
    p.planes.flatMap (fun q => (q.bands.filter (fun b => b.res == .absent)).map (fun b =>
      ((⟨j.id, p.page, q.station, b.idx⟩ : BandRef), b.delivered q.pitch)))))
  (all.foldl (fun (a : List (BandRef × Nat) × Nat) e => (a.1 ++ [(e.1, a.2 + e.2)], a.2 + e.2)) ([], 0)).1

/-- The bands the forecast looks at: release time, band, whether it is the candidate's (R105). -/
def State.fcBands (s : State) (job : Nat) (p : Page) (step lead : Nat) (pitch : Nat) (reg : Int) : List (Int × BandRef × Bool) :=
  let fly := s.inFlight.flatMap (fun i =>
    let t := s.tok i
    match s.page? t.job t.page with
    | some q => ((s.pageOrder t.job q t.rate t.lead t.pick (s.tokReg t)).filter (fun e => natBit t.stations e.2.plane)).map
        (fun e => (e.1, e.2, false))
    | none => [])
  let m := s.sheetStations p
  let cand := ((s.pageOrder job p (s.ladRate step) lead pitch reg).filter (fun e => natBit m e.2.plane)).map (fun e => (e.1, e.2, true))
  sortBy (·.1) (fly ++ cand)

/-- Bytes of a band still to move over the bridge (R105). -/
def State.bytesLeft (b : Band) (pitch : Nat) : Nat :=
  if b.res == .inTransit then b.moveLen pitch - b.moved else b.moveLen pitch

/-- R105: the least slack in ns among the candidate's bands that are not RESIDENT, and its band; `none` where no band is outstanding. -/
def State.forecast (s : State) (job : Nat) (p : Page) (step lead pitch : Nat) (reg : Int) : Option (Int × BandRef) :=
  let der := (fun d => if d = 0 then 256 else d) (s.f (shtB + 4) 8 8)
  let nsFor (bytes rate : Nat) : Nat := bytes * 256000000000 / Nat.max 1 (rate * der)
  let rb := s.rateBrg
  let rh := s.rateHost
  let owed := s.owed
  let go (acc : Nat × Option (Int × BandRef)) (e : Int × BandRef × Bool) : Nat × Option (Int × BandRef) :=
    match s.plane? e.2.1.job e.2.1.page e.2.1.plane with
    | none => acc
    | some q =>
      match q.band? e.2.1.band with
      | none => acc
      | some b =>
        if b.res.held then acc
        else
          let tb0 := if b.res == .absent then
              Nat.max acc.1 (s.ns + nsFor (((owed.find? (fun o => o.1 == e.2.1)).map (·.2)).getD 0) rh)
            else acc.1
          let tb := tb0 + nsFor (State.bytesLeft b q.pitch) rb
          let slack : Int := e.1 - tb
          let best := if e.2.2 then (match acc.2 with | none => some (slack, e.2.1) | some w => if slack < w.1 then some (slack, e.2.1) else some w)
            else acc.2
          (tb, best)
  ((s.fcBands job p step lead pitch reg).foldl go (s.ns, none)).2

/-- SHT_LAST_FC (Table 4.11): the slack in 0.1 ms, saturating, with its band and station. -/
def fcWord (r : Option (Int × BandRef)) : Word :=
  match r with
  | none => wd 0x7FFF
  | some (sl, b) => wd (wrapN 16 (satI 16 (roundDiv sl 100000)) + b.band % 8192 * 65536 + b.plane % 8 * 2 ^ 29)

/-- The forecast passes (R105). -/
def fcPass (r : Option (Int × BandRef)) : Bool := match r with | none => true | some (sl, _) => decide (0 ≤ sl)

/-- The watermark test (R104). -/
def State.watermark (s : State) (p : Page) : Bool :=
  let bs := p.allBands
  decide (s.f (shtB + 4) 0 7 * bs.length ≤ 100 * bs.countP (fun b => b.res == .resident))

/-- The lowest token that is not in flight (R96). -/
def State.freeTok (s : State) : Option Nat := (upTo 16).find? (fun i => !(s.tok i).busy)

/-- The coming pitch at `pitch` is occupied under R102: by count at a package of its own, by time where orders fix the pitches. -/
def State.longAt (s : State) (pitch : Nat) : Bool := if s.role = 0 then decide (0 < s.sched.longLeft) else decide (pitch < s.sched.longTo)

/-- Reasons 1 to 7 of Table 4.4 in order; 0 where none holds. ESTOP_N still asserted after V_ov2 holds picks with reason 2 (Table 4.6). -/
def State.holdAt (s : State) (pitch : Nat) : Nat :=
  if !s.flag shtB 0 then 1
  else if s.plinthWhy != 0 || !s.boot.estopOff || (!s.reducedOk && s.inUse.any (fun k => !s.stnReady k)) || decide (s.ladSteps ≤ s.permitted) then 2
  else if s.sched.misHold then 3
  else if s.thermHeld then 4
  else if s.csm.hold then 5
  else if s.longAt pitch then 6
  else if s.freeTok.isNone then 7
  else 0

/-- The reasons for the pitch 1,000 µs ahead. -/
def State.holdWhy (s : State) : Nat := s.holdAt (s.ns + 1000000)

/-- The next page in order, if it is complete (R91). -/
def State.nextPage (s : State) : Option (Nat × Page) :=
  match s.pickOrder with
  | (j, p) :: _ => if p.complete then some (j, p) else none
  | [] => none

/-- The forecast is run (R105): SHT_LAST_FC takes its outcome, passed or not. -/
def State.runForecast (s : State) (job : Nat) (p : Page) (step pitch : Nat) (reg : Int) : State × Bool :=
  let r := s.forecast job p step s.lead pitch reg
  (s.setReg (shtB + 0x30) (fcWord r), fcPass r)

/-- Reasons 9 and 10 for a page at a step (R104, R105). -/
def State.pageWhy (s : State) (job : Nat) (p : Page) (step pitch : Nat) (reg : Int) : State × Nat :=
  if !s.watermark p then (s, 9)
  else
    let r := s.runForecast job p step pitch reg
    (r.1, if r.2 then 0 else 10)

/-- One more empty pitch for reason 9 or 10 in a row (R107). -/
def State.runOn (s : State) : State := { s with sched := { s.sched with skipRun := s.sched.skipRun + 1, okRun := 0 } }

/-- A long enough run of them leads to a slower step (R107); on a line the manager decides (R362). -/
def State.slower (s : State) : State :=
  if s.role = 0 ∧ s.f (shtB + 8) 0 4 ≤ s.sched.skipRun ∧ s.sched.target.isNone ∧ s.sched.stepCur + 1 < s.ladSteps then s.setTarget (s.sched.stepCur + 1)
  else s

/-- An empty pitch is recorded and counted (Table 4.11); 9 and 10 add to the run that leads to a slower step (R107). -/
def State.skip (s : State) (why : Nat) : State :=
  let s1 := s.setReg (shtB + 0x38) (wd why)
  if why = 9 ∨ why = 10 then ((s1.bump (shtB + 0x34) 0 16 1).raise 141 why).runOn.slower
  else if why = 1 then s1 else s1.bump (shtB + 0x34) 16 16 1

/-- LADDER_STATE after an evaluation: HELD while reason 2, 3, 4 or 5 holds. -/
def State.ladderAfter (s : State) (why : Nat) : State :=
  if s.sched.ladder == .draining || s.sched.ladder == .gap then s
  else
    let h := decide (2 ≤ why) && decide (why ≤ 5)
    let s1 : State := { s with sched := { s.sched with ladder := if h then .held else .running } }
    s1.raiseIf (h && s.sched.ladder != .held) 150 why

/-- What has been written to SHT_ADMIT and SHT_LADDER comes into force at an evaluation (R114). -/
def State.admitBoundary (s : State) : State := s.release (fun a => match rowOf a with | some r => r.cls == .admission | none => false)

/-- R108: the step is checked where the package decides it for itself or for its line (R362). -/
def State.recheck (s : State) : State := if s.ready && s.role != 2 then s.stepCheck else s

/-- What every evaluation does first: settings in force, HOLD, the plinth check unless picks are off (a reason before it holds then,
R103), the step check. -/
def State.evalStart (s : State) : State :=
  let s0 := s.admitBoundary.engineBoundary.csmHoldEval
  let s1 := if s0.flag shtB 0 then s0.plinthCheck else s0
  let n := s1.ladSteps
  let s2 : State := if n ≠ 0 ∧ n ≤ s1.sched.stepCur then { s1 with sched := { s1.sched with stepCur := n - 1 } } else s1
  s2.recheck

/-- A pitch comes: one fewer is still occupied by a long sheet (R102), and nothing is admitted for it yet. -/
def State.newPitch (s : State) : State := { s with sched := { s.sched with longLeft := s.sched.longLeft - 1, admitted := none } }

/-- A page is admitted; bands of it that an earlier sheet has printed are RESIDENT for this one (Table 4.1). -/
def State.admitPage (s : State) (a : Admitted) : State :=
  let s1 : State := { s with sched := { s.sched with admitted := some a } }
  match s1.page? a.job a.page with
  | some p => (p.refs a.job).foldl (fun s r => s.reuse r) s1
  | none => s1

/-- The coming pitch is filled or left empty (R103); the reason, 0 where a page is admitted. -/
def State.evalPitch (s : State) (hold pitch : Nat) : State × Nat :=
  if hold ≠ 0 then (s.skip hold, hold)
  else match s.nextPage with
    | none => (s.skip 8, 8)
    | some (j, p) =>
      let r := s.pageWhy j p s.sched.stepCur pitch ((pitch : Int) + s.regNs (s.ladRate s.sched.stepCur))
      if r.2 ≠ 0 then (r.1.skip r.2, r.2)
      else (r.1.admitPage { job := j, page := p.page, pitch := pitch, lead := r.1.lead, order := none }, 0)

/-- R103: the admission evaluation of the coming pitch, 1,000 µs ahead of it. On a line, packages pick on orders only (R359). -/
def execAdmissionEvaluation (s : State) : Ans :=
  if s.inReset || !s.ready || !s.id.motion then .next s
  else if s.sched.ladder == .draining || s.sched.ladder == .gap then .next s.recheck
  else
    let s1 := s.evalStart
    if s1.sched.ladder == .draining || s1.sched.ladder == .gap then .next s1
    else if s1.role ≠ 0 then .next (s1.ladderAfter (if s1.holdWhy ≤ 5 then s1.holdWhy else 0))
    else
      let r := s1.newPitch.evalPitch s1.holdWhy (s1.ns + 1000000)
      .next (r.1.ladderAfter r.2)

/-- R109: at the end of the gap picks may resume. -/
def execSpeedChangeGapEnd (s : State) : Ans :=
  if s.inReset then .next s
  else
    let s0 := s.gapDue
    if s0.sched.ladder != .gap then .next s0
    else
      let s1 : State := { s0 with sched := { s0.sched with ladder := .running, target := none, skipRun := 0, okRun := 0, longLeft := 0, longTo := 0 },
                                  line := { s0.line with stepMsg := none } }
      .next (s1.raise 147 s1.sched.stepCur)

/-- The pitches a sheet occupies (R102). -/
def State.pitches (s : State) (medium : Nat) : Nat :=
  let d := 127 * s.ladRate s.sched.stepCur * s.ladPitch s.sched.stepCur
  if d = 0 then 1 else ceilDiv ((100 * medium + 1000 * s.f (shtB + 0xC) 24 8) * 12000000) d

/-- R110: after a pick, one step up where the run is long enough and the next page's forecast passes at the faster step. -/
def State.stepUp (s : State) (pitch : Nat) : State :=
  let j := s.sched.stepCur
  if s.role = 2 ∨ s.sched.target.isSome ∨ s.sched.okRun < s.f (shtB + 8) 16 8 ∨ j ≤ s.permitted then s
  else match s.nextPage with
    | none => s
    | some (jb, p) =>
      let t := pitch + 1000 * s.ladPitch j
      let r := s.runForecast jb p (j - 1) t ((t : Int) + s.regNs (s.ladRate (j - 1)))
      if r.2 then r.1.setTarget (j - 1) else r.1

/-- A sheet is picked without a skip: the run towards a step-up grows, the run of skips ends (R107, R110). On a line the manager counts the
outcomes of the whole line (R362), at its GO decisions. -/
def State.countPick (s : State) : State := { s with sched := { s.sched with skipRun := 0, okRun := satN 8 (s.sched.okRun + 1) } }

/-- Reasons 1 to 5 of Table 4.4 at the pitch instant itself: a sheet admitted 1,000 µs before is not picked while one of them holds (R27,
R29, R101; DEDUCED, log entry 105). -/
def State.pickBar (s : State) : Nat := if s.holdAt s.ns ≤ 5 then s.holdAt s.ns else 0

/-- The admitted sheet is dropped and its pitch left empty. -/
def State.dropAdmitted (s : State) : State := { s with sched := { s.sched with admitted := none } }

/-- R96, R102, R110: the admitted sheet is picked at its pitch instant. -/
def execSheetPick (s : State) : Ans :=
  if s.inReset then .next s
  else if s.sched.admitted.isSome && s.pickBar != 0 then .next (s.dropAdmitted.skip s.pickBar)
  else match s.sched.admitted, s.freeTok with
    | some a, some i =>
      match s.page? a.job a.page with
      | none => .next { s with sched := { s.sched with admitted := none } }
      | some p =>
        let t : Token :=
          { Token.empty with st := .picked, job := a.job, page := a.page, step := s.sched.stepCur, stations := s.sheetStations p,
                             seq := s.sched.seqNext % 2 ^ 20, pick := s.ns, medium := p.medium, lines := p.lines,
                             rate := s.ladRate s.sched.stepCur, lead := a.lead, order := a.order }
        let s1 := s.moveTok i (fun _ => t)
        let s2 : State := { s1 with sched := { s1.sched with
          admitted := none, seqNext := s1.sched.seqNext + 1, longLeft := s.pitches p.medium - 1,
          longTo := a.pitch + s.pitches p.medium * (1000 * s.ladPitch s.sched.stepCur) } }
        let s3 := s2.modPage a.job a.page (fun (x : Page) => { x with picked := true })
        let s4 := (s3.emit (.pick i)).raise 140 i
        .next (if s.role = 0 then s4.countPick.stepUp a.pitch else s4)
    | _, _ => .next s

/-- Nominal registration of a sheet (Table 4.3), or the instant its order names (R361). -/
def State.nominalReg (s : State) (t : Token) : Int :=
  match t.order.bind s.held? with
  | some h => if s.picks h.order then (t.pick : Int) + s.regNs t.rate
              else match s.myEntry h.order with | some e => (e.refT : Int) | none => (t.pick : Int) + s.regNs t.rate
  | none => (t.pick : Int) + s.regNs t.rate

/-- REG_WINDOW as a time at the sheet's speed (R101). -/
def State.regWindow (s : State) (t : Token) : Int := travelNs t.rate (1000 * s.f (shtB + 0xC) 16 8)

/-- R98, R101: a lead edge at the registration sensor belongs to the sheet that waits longest and is within its window. -/
def execRegistrationCapture (sensor : Nat) (s : State) : Ans :=
  if s.inReset || s.f (shtB + 0x10) 0 6 != sensor then .next s
  else
    let wait := (upTo 16).filter (fun i => (s.tok i).st == .picked && !natBit (s.tok i).flags fMisfeed &&
      decide ((((s.ns : Int) - s.nominalReg (s.tok i)).natAbs : Int) ≤ s.regWindow (s.tok i)))
    match minBy (fun i => (s.tok i).pick) wait with
    | none => .next s
    | some i => .next (s.moveTok i (fun (t : Token) => { t with st := .registered, reg := some s.ns, encReg := s.enc }))

/-- A sheet leaves every station's list, unimaged (R101). -/
def State.unstation (s : State) (tok : Nat) : State :=
  (s.each (upTo 6) (fun s n => s.endPlane tok n)).modTok tok (fun (t : Token) => { t with stations := 0 })

/-- Picks are held until MISFEED_ACK (R101). -/
def State.holdPicks (s : State) : State := { s with sched := { s.sched with misHold := true, admitted := none } }

/-- R101: no lead edge within the window; the sheet is never imaged, and picks are held. -/
def execMisfeedDecision (tok : Nat) (s : State) : Ans :=
  let t := s.tok tok
  if s.inReset || t.st != .picked || natBit t.flags fMisfeed then .next s
  else .next (((s.flagTok tok fMisfeed (some 148)).wasteTok tok 5).unstation tok).holdPicks

/-- The words of a token record (Tables 4.8, 4.12). -/
def Token.words (t : Token) : List Word :=
  [wd (t.job % 65536 + t.page % 65536 * 65536),
   wd (tokState t.st + t.step % 8 * 8 + t.stations % 64 * 64 + t.seq % 2 ^ 20 * 4096),
   wd (t.flags % 128 + t.cause % 16 * 65536),
   wd (t.pick % secNs + t.pick / secNs % 4 * 2 ^ 30)]

/-- EXTRA of SHT_DONE (Table 17.9). -/
def Token.extra (t : Token) : List Byte := (t.words ++ t.blank.map wd).flatMap wordBytes

/-- A worker reports the sheet of an order to the manager (R359); the order is then over. -/
def State.orderOver (s : State) (t : Token) : State :=
  match t.order with
  | none => s
  | some o =>
    let s1 := if s.role = 2 then s.sendOuv 0 (.report o (tokState t.st) ((t.words.getD 2 0).toNat)) else s
    { s1 with line := { s1.line with orders := s1.line.orders.filter (fun h => h.order.id != o) } }

/-- The last sheet in flight is DONE: changes that waited for it take effect (R85, R109, R299, R312). -/
def State.lastDone (s : State) : State := if s.flying then s else s.engineBoundary.stpDeferred.motDeferred.gapDue

/-- A token reaches DONE (R96, R404, Table 4.1): usage, the copies of its page's bands, SHT_DONE, and what waited for it. -/
def State.tokDone (s : State) (tok : Nat) : State :=
  let t := s.tok tok
  let s1 := s.csmUsage t
  let s2 := s1.each (upTo 6) (fun s n => s.endPlane tok n)
  let s3 : State := { s2 with stn := s2.stn.map (fun (x : Station) =>
    match x.img with | some g => if g.tok == tok then { x with img := none } else x | none => x) }
  let s4 := s3.moveTok tok (fun (t : Token) => { t with st := .done })
  let s5 := if s4.pageUsedBy t.job t.page then s4
    else match s4.page? t.job t.page with
      | none => s4
      | some p => (p.refs t.job).foldl (fun s r =>
          match s.band? r with
          | some b => if b.res == .printed then s.setRes r .inPageStore else s
          | none => s) s4
  let s6 := (s5.raiseX 145 tok (s5.tok tok).extra).orderOver (s5.tok tok)
  s6.dueReleases.lastDone

/-- R101: the token of a misfed sheet is released at its nominal exit. -/
def execMisfeedTokenRelease (tok : Nat) (s : State) : Ans :=
  if s.inReset || !(s.tok tok).busy || !natBit (s.tok tok).flags fMisfeed then .next s else .next (s.tokDone tok)

/-- SHT_CTRL.MISFEED_ACK (R101). -/
def State.misfeedAck (s : State) : State := { s with sched := { s.sched with misHold := false } }

/-- R101: MISFEED_ACK is written. -/
def execMisfeedAck (s : State) : Ans :=
  if s.inReset || !s.id.motion then .next s else .next (State.answer shtB (s.misfeedAck, sOk))

/-- The instant of a sheet-event entry for a registered sheet (R98). -/
def State.eventNs (s : State) (t : Token) (e : SheetEv) : Nat := (s.tokReg t + travelNs t.rate (e.dist t.medium)).toNat

/-- R99: an entry of the sheet-event table takes effect for a registered sheet. -/
def execSheetEvent (tok entry : Nat) (s : State) : Ans :=
  let t := s.tok tok
  let e := s.sheetEv entry
  if s.inReset || !t.busy || t.reg.isNone || 64 ≤ entry then .next s
  else match e.act with
    | 1 =>
      if !natBit t.stations e.idx || natBit t.ended e.idx then .next s
      else if (s.st e.idx).sos != .locked && s.imgTok e.idx != some tok then .next (s.cannotImage e.idx tok)
      else .next (s.moveTok tok (fun (t : Token) => if t.st == .registered then { t with st := .imaging } else t))
    | 2 => .next (s.hvSwitch e.idx e.arg)
    | 3 => .next s.fuserEntry
    | 5 => .next (s.wcEvent e.idx (s.eventNs t e))
    | _ => .next s

/-- R96: the tail edge leaves the fuser. -/
def execTailLeavesFuser (tok : Nat) (s : State) : Ans :=
  let t := s.tok tok
  if s.inReset || !(t.st == .registered || t.st == .imaging || t.st == .fusing) then .next s
  else .next (s.moveTok tok (fun (t : Token) => { t with st := .exiting }))

/-- R96: the tail edge passes the exit sensor. -/
def execSheetDone (tok : Nat) (s : State) : Ans :=
  let t := s.tok tok
  if s.inReset || !t.busy || t.reg.isNone then .next s else .next (s.tokDone tok)

/-- SHT_CTRL is written: a change of STEP_CAP or REDUCED_OK is checked at once (R108). -/
def State.shtCtrl (s : State) : State := s.recheck

/-- At READY the step in use is the fastest permitted one. -/
def State.schedStart (s : State) : State :=
  let p := s.permitted
  { s with sched := { s.sched with stepCur := if p < s.ladSteps then p else 0 } }

/-- R409: `sched step` runs one admission evaluation without a pick and prints its reason and SHT_LAST_FC. -/
def State.schedStep (s : State) : State × Nat :=
  let s1 := s.admitBoundary.engineBoundary.csmHoldEval.plinthCheck
  let hold := if !s1.flag shtB 0 then ((s1.setF shtB 0 1 1).holdWhy) else 1
  let pitch := s1.ns + 1000000
  if hold ≠ 0 then (s1, hold)
  else match s1.nextPage with
    | none => (s1, 8)
    | some (j, p) => s1.pageWhy j p s1.sched.stepCur pitch ((pitch : Int) + s1.regNs (s1.ladRate s1.sched.stepCur))

end Sys2Proof.Machine
end

