-- ==== Sys2Proof/Machine/Line.lean ====
section
/-! DEFINITION. The printing line (R359 to R365): announcements, admission, orders, line steps, lost workers and the controlled line stop. -/
namespace Sys2Proof.Machine

/-- An order from its message fields (Table 16.2). -/
def mkOrder (id job page step pickT : Nat) (route : List (Nat × Nat × Nat)) : Order :=
  { id := id, job := job, page := page, step := step, pickT := pickT, route := route.map (fun e => { id := e.1, side := e.2.1, refT := e.2.2 }) }

/-- R360, R363: the package announces itself. -/
def execAnnounceSend (s : State) : Ans :=
  if s.inReset || s.id.llPorts == 0 then .next s
  else .next (s.sendOuv 0xFF (.announce s.role s.pkgId s.id.glbId s.stepFloor s.inFlight.length s.line.state (s.role == 2 && !s.line.admitted)))

/-- A member's announcement at the manager (R363): a duplicate ID, or one above 64, is refused. -/
def State.memberSays (s : State) (src : Nat) (glb : Word) (floor busy : Nat) (joinReq : Bool) : State :=
  match s.line.members.find? (fun m => m.id == src) with
  | some m =>
    if m.joined && !m.lost && joinReq then (s.sendOuv src (.admission false s.time.anchor)).raise 41 src
    else { s with line := { s.line with members := s.line.members.map (fun (m : Member) =>
      if m.id == src then { m with glb := glb, recv := s.ns, floor := floor, busy := busy, joinReq := joinReq } else m) } }
  | none =>
    if src = 0 ∨ 64 < src then (s.sendOuv src (.admission false s.time.anchor)).raise 41 src
    else { s with line := { s.line with members := s.line.members ++
      [{ id := src, glb := glb, recv := s.ns, floor := floor, busy := busy, joined := false, joinReq := joinReq, lost := false }] } }

/-- R363: an announcement is taken in; with JOIN_DRAIN a join request drains the line. -/
def State.doAnnounce (s : State) (src role : Nat) (glb : Word) (floor busy : Nat) (joinReq : Bool) : State :=
  if s.role = 1 then
    let s1 := s.memberSays src glb floor busy joinReq
    let wait := s1.flag lnkB 15 && s1.line.members.any (fun m => m.joinReq && !m.joined)
    { s1 with line := { s1.line with draining := wait, state := if s1.line.state = 0 ∧ wait then 1 else s1.line.state } }
  else if s.role = 2 ∧ role = 1 then { s with line := { s.line with mgrAt := s.ns } }
  else s

def execAnnounce (src role : Nat) (glbId : Word) (floor busy state : Nat) (joinReq : Bool) (s : State) : Ans :=
  if s.inReset || state > 3 then .next s else .next (s.doAnnounce src role glbId floor busy joinReq)

/-- R363, R364: the manager's answer to a join request. -/
def State.doAdmit (s : State) (accepted : Bool) (anchor : Nat) : State :=
  if s.role ≠ 2 then s
  else if accepted then
    (({ s with line := { s.line with admitted := true, state := 0, mgrAt := s.ns } } : State).setAnchor anchor).raise 41 s.pkgId
  else s.raise 41 s.pkgId

def execAdmitMsg (accepted : Bool) (anchor : Nat) (s : State) : Ans := if s.inReset then .next s else .next (s.doAdmit accepted anchor)

/-- R363: at a schedule boundary the manager admits a worker that has asked to join. -/
def execJoinAdmit (id : Nat) (s : State) : Ans :=
  if s.inReset || s.role != 1 || !s.lineQuiet then .next s
  else match s.line.members.find? (fun m => m.id == id && m.joinReq && !(m.joined && !m.lost)) with
    | none => .next s
    | some _ =>
      let ms := s.line.members.map (fun (m : Member) => if m.id == id then { m with joined := true, lost := false, joinReq := false } else m)
      let wait := s.flag lnkB 15 && ms.any (fun m => m.joinReq && !m.joined)
      let s1 : State := { s with line := { s.line with
        members := ms, draining := wait, state := if s.line.state = 1 ∧ !wait then 0 else s.line.state } }
      .next ((s1.sendOuv id (.admission true s.time.anchor)).raise 41 id)

/-- An order reaches a package of its route and is held (R361). -/
def State.doOrder (s : State) (o : Order) : State :=
  if s.role = 0 ∨ (s.myEntry o).isNone then s
  else
    let s1 := s.bump (lnkB + 0x20) 0 16 1
    { s1 with line := { s1.line with orders := s1.line.orders.filter (fun h => h.order.id != o.id) ++
      [{ order := o, recv := s.ns, answer := none, go := false }] } }

def execOrder (id job page step pickT : Nat) (route : List (Nat × Nat × Nat)) (s : State) : Ans :=
  if s.inReset then .next s else .next (s.doOrder (mkOrder id job page step pickT route))

/-- R361, R363: the manager issues an order at least 5 ms before its pick instant, while the line runs. -/
def execOrderIssue (job page step pickT : Nat) (route : List (Nat × Nat × Nat)) (s : State) : Ans :=
  if s.inReset || s.role != 1 || s.line.state != 0 || route.isEmpty || decide (pickT < s.ns + 5000000) then .next s
  else
    let id := s.line.idNext
    let o := mkOrder id job page step pickT route
    let s1 : State := { s with line := { s.line with
      idNext := (id + 1) % 2 ^ 32, issued := lastN 256 (s.line.issued ++ [{ order := o, acks := [], refused := false, go := false }]) } }
    let dests := (o.route.map (·.id)).filter (· != 0)
    let s2 := s1.each dests (fun s d => s.sendOuv d (.order id job page step pickT route))
    .next (if (s.myEntry o).isSome then s2.doOrder o else s2.bump (lnkB + 0x20) 0 16 1)

/-- Reasons 12 to 14 of R361; 0 where none holds. -/
def State.lineWhy (s : State) (h : HeldOrder) : Nat :=
  if !s.inLine then 13
  else if h.order.pickT < h.recv + 5000000 then 12
  else if h.order.step != s.sched.stepCur || (match s.line.stepMsg with | some (t, _, _) => t != h.order.step | none => false) then 14
  else 0

/-- The reasons of Table 4.4 for an order's sheet at this package (R361). A package that only handles the sheet's paper needs the units of
line service (R30, reason 2 without them), no misfeed hold and a token (DEDUCED, log entry 102). -/
def State.orderWhy (s : State) (h : HeldOrder) (e : RouteEnt) : State × Nat :=
  let w := s.lineWhy h
  if w ≠ 0 then (s, w)
  else if e.side = 0xFF then (s, if !s.lineServes then 2 else if s.sched.misHold then 3 else if s.freeTok.isNone then 7 else 0)
  else
    let k := s.holdAt h.order.pickT
    if k ≠ 0 then (s, k)
    else match s.page? h.order.job h.order.page with
      | none => (s, 8)
      | some p => if !p.complete || p.relAsked then (s, 8) else s.pageWhy h.order.job p h.order.step h.order.pickT (e.refT : Int)

/-- R107, R362: on the manager a refusal with code 9 or 10 adds to the run of skips of the line. -/
def State.lineSkip (s : State) (code : Nat) : State :=
  if s.role = 1 ∧ (code = 9 ∨ code = 10) then
    let run := s.sched.skipRun + 1
    let s1 : State := { s with sched := { s.sched with skipRun := run, okRun := 0 } }
    if s1.f (shtB + 8) 0 4 ≤ run ∧ s1.sched.target.isNone ∧ s1.sched.stepCur + 1 < s1.ladSteps then s1.setTarget (s1.sched.stepCur + 1) else s1
  else s

/-- The manager takes in an acknowledgement; one later than PICK_T − 600 µs does not count (R361). -/
def State.doAck (s : State) (src id : Nat) : State :=
  if s.role ≠ 1 then s
  else s.modIssued id (fun (o : IssuedOrder) =>
    if o.acks.contains src || decide (o.order.pickT < s.ns + 600000) then o else { o with acks := o.acks ++ [src] })

/-- The manager takes in a refusal (R361, R362). -/
def State.doRefused (s : State) (id code : Nat) : State :=
  if s.role ≠ 1 || !(s.line.issued.any (fun o => o.order.id == id)) then s
  else (s.modIssued id (fun (o : IssuedOrder) => { o with refused := true })).lineSkip code

/-- The sheet of an order is admitted for its pick instant. -/
def State.admitOrder (s : State) (o : Order) : State :=
  s.admitPage { job := o.job, page := o.page, pitch := o.pickT, lead := s.lead, order := some o.id }

/-- R361: at PICK_T − 1,000 µs a package evaluates the order and answers. A package further down the route takes its token at PICK_T. -/
def execOrderEvaluation (id : Nat) (s : State) : Ans :=
  match s.held? id with
  | none => .next s
  | some h =>
    match s.myEntry h.order with
    | none => .next s
    | some e =>
      if s.inReset || h.answer.isSome then .next s
      else
        let r := s.evalStart.orderWhy h e
        let s1 := r.1.modHeld id (fun (x : HeldOrder) => { x with answer := some r.2 })
        if r.2 = 0 then
          let s2 := if s1.role = 1 then s1.doAck 0 id else s1.sendOuv 0 (.orderAck id)
          .next (if s2.picks h.order then s2 else s2.admitOrder h.order)
        else
          let s2 := (s1.setReg (shtB + 0x38) (wd r.2)).bump (shtB + 0x34) (if r.2 = 9 ∨ r.2 = 10 then 0 else 16) 16 1
          let s3 := (s2.bump (lnkB + 0x20) 16 16 1).raise 151 r.2
          .next (if s3.role = 1 then s3.doRefused id r.2 else s3.sendOuv 0 (.orderRefused id r.2))

def execOrderAck (src id : Nat) (s : State) : Ans := if s.inReset then .next s else .next (s.doAck src id)

def execOrderRefused (src id code : Nat) (s : State) : Ans :=
  if s.inReset || 64 < src then .next s else .next (s.doRefused id code)

/-- GO reaches the picking package (R361); at PICK_T − 400 µs or later it counts as missing (R366). -/
def State.doGo (s : State) (id : Nat) : State :=
  s.modHeld id (fun (h : HeldOrder) => if h.order.pickT ≤ s.ns + 400000 then h else { h with go := true })

def execGoMsg (id : Nat) (s : State) : Ans := if s.inReset then .next s else .next (s.doGo id)

/-- R361, R362: GO is sent once every entry has acknowledged and none has refused; the line's run of picks grows, and the manager tests for a
step up (R110). -/
def execGoDecision (id : Nat) (s : State) : Ans :=
  match s.line.issued.find? (fun o => o.order.id == id) with
  | none => .next s
  | some o =>
    if s.inReset || s.role != 1 || o.refused || o.go || !(o.order.route.all (fun e => o.acks.contains e.id)) then .next s
    else
      let s1 := s.modIssued id (fun (o : IssuedOrder) => { o with go := true })
      match o.order.route with
      | e :: _ => .next ((if e.id = 0 then s1.doGo id else s1.sendOuv e.id (.go id)).countPick.stepUp o.order.pickT)
      | [] => .next s1

/-- R361: entry 0 picks only where it holds GO; else the pitch stays empty with code 11. -/
def execLinePickCheck (id : Nat) (s : State) : Ans :=
  match s.held? id with
  | none => .next s
  | some h =>
    if s.inReset || !s.picks h.order || !s.inLine then .next s
    else if h.go && h.answer == some 0 then .next (s.admitOrder h.order)
    else .next ((s.skip 11).orderOver { Token.empty with order := some id })

/-- R359: a worker's report of a sheet goes on to the host as an EVENT with the worker's package ID. -/
def State.doReport (s : State) (src id state flags : Nat) : State :=
  if s.role ≠ 1 then s
  else
    let ev := if state = 6 then 145 else 140
    let m : EvMsg := { s.evMsg ev id (leBytes 4 (flags % 2 ^ 32)) with pkg := src }
    { s with host := { s.host with unsent := queueEv s.host.unsent m } }

def execReport (src id state flags : Nat) (s : State) : Ans := if s.inReset then .next s else .next (s.doReport src id state flags)

/-- R362: a STEP message sets the target, the start of GAP and ANCHOR. -/
def State.doStep (s : State) (step gapT anchor : Nat) : State :=
  if s.role ≠ 2 || !s.line.admitted then s
  else ((({ s with line := { s.line with stepMsg := some (step % 8, gapT, anchor) } } : State).raise 44 (step % 8)).setTarget (step % 8)).gapDue

def execLineStep (step gapT anchor : Nat) (s : State) : Ans := if s.inReset then .next s else .next (s.doStep step gapT anchor)

/-- R364: the manager reports that a controlled line stop begins or ends. -/
def State.doStop (s : State) (begun : Bool) : State :=
  if s.role ≠ 2 || s.line.state == 3 then s
  else ({ s with line := { s.line with state := if begun then 2 else 0 } } : State).raise 43 (b2n begun)

def execLineStopMessage (begun : Bool) (s : State) : Ans := if s.inReset then .next s else .next (s.doStop begun)

/-- The sheets in flight whose route includes a package are flagged LOST (R364, Table 4.6). -/
def State.flagLost (s : State) (id : Nat) : State :=
  s.each s.inFlight (fun s t =>
    match (s.tok t).order.bind s.held? with
    | some h => if h.order.route.any (fun e => e.id == id) then (s.causeTok t 6).flagTok t fLost (some 149) else s
    | none => s)

/-- A worker leaves the line. -/
def State.leaveLine (s : State) : State := { s with line := { s.line with admitted := false } }

/-- R364: a worker is declared lost; a lost worker itself leaves the line. -/
def State.doLost (s : State) (id : Nat) : State :=
  if s.role ≠ 2 then s else if id = s.pkgId then ((s.flagLost id).raise 42 id).leaveLine else (s.flagLost id).raise 42 id

def execLost (id : Nat) (s : State) : Ans := if s.inReset then .next s else .next (s.doLost id)

/-- A controlled line stop begins at the manager (R364). -/
def State.stopLine (s : State) : State :=
  if s.line.state = 2 then s
  else (({ s with line := { s.line with state := 2 } } : State).sendOuv 0xFF (.stop true)).raise 43 1

/-- R364: what the manager does about a lost worker; its orders get no GO (R366). -/
def State.loseWorker (s : State) (id : Nat) : State :=
  let s1 : State := { s with line := { s.line with
    members := s.line.members.map (fun (m : Member) => if m.id == id then { m with lost := true, joined := false, busy := 0, joinReq := false } else m),
    lostSet := s.line.lostSet.filter (· != id) ++ [id],
    issued := s.line.issued.map (fun (o : IssuedOrder) =>
      if !o.go && o.order.route.any (fun e => e.id == id) then { o with refused := true } else o) } }
  (((s1.sendOuv 0xFF (.lost id)).raise 42 id).flagLost id).stopLine

/-- R364: three announcements of an admitted worker have been missed. -/
def execWorkerLost (id : Nat) (s : State) : Ans :=
  if s.inReset || s.role != 1 || !(s.workers.any (fun m => m.id == id)) then .next s else .next (s.loseWorker id)

/-- R364: a worker has missed three announcements of the manager. -/
def execIsolated (s : State) : Ans :=
  if s.inReset || s.role != 2 || s.line.state == 3 then .next s
  else
    let s1 : State := { s with line := { s.line with state := 3, admitted := false } }
    let s2 := s1.each s1.inFlight (fun s t => (s.causeTok t 6).flagTok t fLost (some 149))
    .next ((s2.raise 42 s.pkgId).holdover)

/-- LNK_CTRL.STOP (R364). -/
def State.lnkStop (s : State) : State × Nat := (if s.role = 1 then s.stopLine else s, sOk)

/-- LNK_CTRL.RESUME (R365). -/
def State.lnkResume (s : State) : State × Nat :=
  if s.role ≠ 1 || s.line.state != 2 then (s, if s.flying then sBadState else sOk)
  else if !s.lineQuiet then (s, sBadState)
  else ((({ s with line := { s.line with state := 0, lostSet := [] } } : State).sendOuv 0xFF (.stop false)).raise 43 0, sOk)

def execLineStop (s : State) : Ans := if s.inReset || !s.id.motion then .next s else .next (State.answer lnkB s.lnkStop)

def execLineResume (s : State) : Ans := if s.inReset || !s.id.motion then .next s else .next (State.answer lnkB s.lnkResume)

/-- R364, R365: a line-link port goes up or down; a manager without a port loses its workers at once. -/
def execLineLinkPortChange (p : Nat) (up : Bool) (s : State) : Ans :=
  if s.inReset || s.id.llPorts ≤ p || (s.line.ports.getD p (false, 0)).1 == up then .next s
  else
    let s1 : State := { s with line := { s.line with ports := updAt s.line.ports p (fun x => (up, if up then x.2 else satN 8 (x.2 + 1))) } }
    let s2 := s1.raise 40 p
    .next (if s2.role = 1 ∧ !((upTo 4).any s2.llUp) then s2.each (s2.workers.map (·.id)) (fun s id => s.loseWorker id) else s2)

/-- A message addressed to this package is carried out (Table 16.1). -/
def State.takeIn (s : State) (src : Nat) (b : OuvBody) : State :=
  match b with
  | .announce role _ glb floor busy _ jr => s.doAnnounce src role glb floor busy jr
  | .admission a n => s.doAdmit a n
  | .order id job page step t r => s.doOrder (mkOrder id job page step t r)
  | .orderAck id => s.doAck src id
  | .orderRefused id code => s.doRefused id code
  | .go id => s.doGo id
  | .report id st fl => s.doReport src id st fl
  | .step j g a => s.doStep j g a
  | .stop b => s.doStop b
  | .lost id => s.doLost id

/-- R360: an Ouvoth frame, by its EtherType in LNK_ETYPE, is discarded, dropped as a duplicate, forwarded, taken in, or both. -/
def execOuvothFrame (p : Nat) (f : OuvFrame) (s : State) : Ans :=
  if s.inReset || !s.llUp p || f.etype != s.f (lnkB + 4) 0 16 then .next s
  else if f.ver ≠ 1 then .next ((s.raiseIf (s.f (lnkB + 0x24) 0 16 == 0) 45 p).bump (lnkB + 0x24) 0 16 1)
  else if s.line.seen.contains (f.src, f.seq) then .next (s.bump (lnkB + 0x24) 16 16 1)
  else
    let s1 := s.sawFrame f.src f.seq
    let mine := f.dst == s.pkgId && s.role != 0
    let s2 := if mine || f.hops == 0 then s1
      else s1.each ((upTo 4).filter (fun q => q != p && s.llUp q)) (fun s q => s.emit (.line q { f with hops := f.hops - 1 }))
    .next (if mine || (f.dst == 0xFF && s.role != 0) then s2.takeIn f.src f.body else s2)

end Sys2Proof.Machine
end

