-- ==== Sys2Proof/Machine/Ptp.lean ====
section
/-! DEFINITION. Precision time protocol (R355 to R358): port roles and states, the messages a port sends and takes in, and the transparent
clock. Stamps and corrections are in 2^−16 ns. -/
namespace Sys2Proof.Machine

/-- PTP ports (Table 16.4): 0 and 1 are the host Ethernet ports, 2 to 5 the line-link ports. -/
def State.ptpOn (s : State) (p : Nat) : Bool :=
  if p < 2 then s.id.hostSide && s.ethUp p
  else decide (p - 2 < s.id.llPorts) && (s.line.ports.getD (p - 2) (false, 0)).1

/-- INGRESS, EGRESS and ASYM as they apply (R356): none in the PTP_RAWTS mode. -/
def State.ptpIn (s : State) (p : Nat) : Int := if s.flag timB 5 then 0 else (s.f (ptpA p 4) 0 16 * 4096 : Nat)
def State.ptpEg (s : State) (p : Nat) : Int := if s.flag timB 5 then 0 else (s.f (ptpA p 4) 16 16 * 4096 : Nat)
def State.ptpAsym (s : State) (p : Nat) : Int := if s.flag timB 5 then 0 else s.sf (ptpA p 8) 0 32

/-- Device time in 2^−16 ns: the raw egress stamp of what leaves now. -/
def State.rawStamp (s : State) : Int := (s.time.now / 2 ^ 32 : Nat)

/-- Transport of port `p` (R355): 0 IEEE 802.3, 1 UDP over IPv4, 2 UDP over IPv6. -/
def State.ptpVia (s : State) (p : Nat) : Nat := if s.flag (ptpA p 0) 3 then (if s.flag (ptpA p 0) 4 then 2 else 1) else 0

/-- A message port `p` sends of its own: in the port's domain, over its transport (R355). -/
def State.ptpMsg (s : State) (p kind seq : Nat) (stamp corr : Int) : Out := .ptp p kind seq stamp corr (s.f (ptpA p 0) 5 8) (s.ptpVia p)

/-- Port `p` is up and takes the message in: it is of the port's domain, over its transport (R355). -/
def State.ptpHears (s : State) (p : Nat) (m : PtpIn) : Bool := s.ptpOn p && m.dom == s.f (ptpA p 0) 5 8 && m.via == s.ptpVia p

/-- R355: a master port sends Sync with its one-step timestamp. -/
def execPtpSyncSend (p : Nat) (s : State) : Ans :=
  if s.inReset || !s.ptpOn p || s.ptpRole p != 1 then .next s
  else
    let q := (s.pt p).seqSync
    .next ((s.modPtp p (fun (x : PtpPort) => { x with seqSync := (q + 1) % 65536 })).emit (s.ptpMsg p 0 q (s.rawStamp + s.ptpEg p) 0))

/-- R355: a master port sends Announce. -/
def execPtpAnnounceSend (p : Nat) (s : State) : Ans :=
  if s.inReset || !s.ptpOn p || s.ptpRole p != 1 then .next s
  else
    let q := (s.pt p).seqAnn
    .next ((s.modPtp p (fun (x : PtpPort) => { x with seqAnn := (q + 1) % 65536 })).emit (s.ptpMsg p 0xB q 0 0))

/-- R355, R356: a slave port sends Delay_Req; its correctionField carries −ASYM. -/
def execPtpDelayReqSend (p : Nat) (s : State) : Ans :=
  if s.inReset || !s.ptpOn p || s.ptpRole p != 2 || (s.pt p).st == 6 then .next s
  else
    let q := (s.pt p).seqReq
    let t3 := s.rawStamp + s.ptpEg p
    .next ((s.modPtp p (fun (x : PtpPort) => { x with seqReq := (q + 1) % 65536, t3 := some (q, t3) })).emit (s.ptpMsg p 1 q 0 (-s.ptpAsym p)))

/-- The offset of a completed Sync feeds the servo of the slave port: t2 − t1 − delay − c_S (R349, R355). -/
def State.ptpOffset (s : State) (p : Nat) : State :=
  let x := s.pt p
  match x.t1, x.t2 with
  | some t1, some t2 =>
    let o := roundDiv (t2 - t1 - x.corr) 65536 - x.mpd
    let s1 := s.modPtp p (fun (x : PtpPort) => { x with st := if x.st = 4 then 5 else x.st })
    if s1.timSrc = 1 && s1.f timB 2 3 == p then s1.servo o else s1
  | _, _ => s

/-- R355, R356: a slave port takes a Sync in; a two-step Sync waits for its Follow_Up. -/
def execPtpSync (p : Nat) (m : PtpIn) (s : State) : Ans :=
  if s.inReset || !s.ptpHears p m || s.ptpRole p != 2 || (s.pt p).st == 6 then .next s
  else
    let t2 := m.raw - s.ptpIn p
    let c := m.corr + s.ptpAsym p
    let s1 := s.modPtp p (fun (x : PtpPort) =>
      { x with t2 := some t2, corr := c, t1 := if m.twoStep then none else some m.stamp, waitFu := if m.twoStep then some m.seq else none })
    .next (s1.ptpOffset p)

/-- R355: the Follow_Up of the two-step Sync gives its t1; its own correction adds. -/
def execPtpFollowUp (p : Nat) (m : PtpIn) (s : State) : Ans :=
  if s.inReset || !s.ptpHears p m || s.ptpRole p != 2 || (s.pt p).waitFu != some m.seq then .next s
  else
    let s1 := s.modPtp p (fun (x : PtpPort) => { x with t1 := some m.stamp, corr := x.corr + m.corr, waitFu := none })
    .next (s1.ptpOffset p)

/-- R355: a master port answers Delay_Req with its arrival stamp and the correction received. -/
def execPtpDelayReq (p : Nat) (m : PtpIn) (s : State) : Ans :=
  if s.inReset || !s.ptpHears p m || s.ptpRole p != 1 then .next s
  else .next (s.emit (s.ptpMsg p 9 m.seq (m.raw - s.ptpIn p) m.corr))

/-- R355: Delay_Resp gives the mean path delay, ((t2 − t1) + (t4 − t3) − c_S − c_R) / 2. -/
def execPtpDelayResp (p : Nat) (m : PtpIn) (s : State) : Ans :=
  if s.inReset || !s.ptpHears p m || s.ptpRole p != 2 then .next s
  else match (s.pt p).t1, (s.pt p).t2, (s.pt p).t3 with
    | some t1, some t2, some (q, t3) =>
      if q ≠ m.seq then .next s
      else
        let d := roundDiv ((t2 - t1) + (m.stamp - t3) - (s.pt p).corr - m.corr) 131072
        .next ((s.modPtp p (fun (x : PtpPort) => { x with mpd := d, t3 := none })).setReg (ptpA p 0x10) (wd (wrapN 32 d)))
    | _, _, _ => .next s

/-- R355: an Announce; a slave port leaves LISTENING or FAULTY. -/
def execPtpAnnounce (p : Nat) (m : PtpIn) (s : State) : Ans :=
  if s.inReset || !s.ptpHears p m || s.ptpRole p != 2 || ((s.pt p).st != 1 && (s.pt p).st != 6) then .next s
  else .next ((s.raiseIf ((s.pt p).st == 6) 38 p).modPtp p (fun (x : PtpPort) => { x with st := 4 }))

/-- R355: 3 announce intervals without an Announce; R349 holdover applies. -/
def execPtpAnnounceTimeout (p : Nat) (s : State) : Ans :=
  if s.inReset || !s.id.ptpPort p || s.ptpRole p != 2 || (s.pt p).st == 6 then .next s
  else
    let s1 := (s.modPtp p (fun (x : PtpPort) => { x with st := 6, waitFu := none })).raise 38 p
    .next (if s1.timSrc = 1 && s1.f timB 2 3 == p then s1.holdover else s1)

/-- R358: a PTP message that reaches a port with TC_EN goes on to the other line-link ports with TC_EN; an event message's residence time
is added to its correctionField, and more than 1 ms discards it. -/
def execTransparentClockForward (p type : Nat) (m : PtpIn) (s : State) : Ans :=
  if s.inReset || decide (p < 2) || decide (6 ≤ p) || !s.ptpOn p || !s.flag (ptpA p 0) 2 then .next s
  else .next (s.each ((upTo 6).filter (fun q => decide (2 ≤ q) && q != p && s.ptpOn q && s.flag (ptpA q 0) 2)) (fun s q =>
    let res := if type < 4 then (s.rawStamp + s.ptpEg q) - (m.raw - s.ptpIn p) else 0
    if 65536000000 < res then s else s.emit (.ptp q type m.seq m.stamp (m.corr + res) m.dom m.via)))

end Sys2Proof.Machine
end

