-- ==== Sys2Proof/Machine/RegRead.lean ====
section
/-! DEFINITION. Reading registers (R6 to R10, R384): what every register of Tables 2.1, 2.10, 2.14, 3.10, 4.8, 6.5, 6.7, 7.8, 8.5, 9.6, 10.8,
11.4, 12.7, 13.6, 14.4, 15.8, 15.10, 16.4, 16.6, 17.10, 17.12, 18.6 and 18.8 reads, and what a read does. -/
namespace Sys2Proof.Machine

/-- A word packed from fields: value, low bit, width. -/
def pack (l : List (Nat × Nat × Nat)) : Word := wd (sumN (l.map (fun e => e.1 % 2 ^ e.2.2 * 2 ^ e.2.1)))

/-- A bit map of the numbers below `n` that satisfy `p`. -/
def bitmap (n : Nat) (p : Nat → Bool) : Nat := sumN ((upTo n).map (fun i => if p i then 2 ^ i else 0))

/-- GLB_BOOT (Table 3.11). -/
def State.glbBoot (s : State) : Word :=
  pack [(s.boot.stage, 0, 4), (s.boot.copy, 4, 2), (s.boot.sig, 6, 2), (s.boot.mode, 8, 2), (b2n s.boot.fmtV1, 10, 1), (b2n s.compat5, 11, 1),
        (s.boot.reason, 12, 4), (s.boot.bootMs, 16, 16)]

/-- GLB (Tables 2.1, 3.10, 3.12, 3.13). -/
def State.glbWord (s : State) (o : Nat) : Option Word :=
  match o with
  | 0x00 => some s.id.glbId | 0x04 => some s.id.fuse0 | 0x08 => some s.id.fuse1 | 0x0C => some (Config.ballMap s.id.pkg)
  | 0x10 => some s.glbBoot | 0x14 => some (pack [(s.boot.errA, 0, 8), (s.boot.errB, 8, 8)])
  | 0x18 => some (wd (match s.boot.image with | some i => if i.v1 then 0 else i.gen | none => 0))
  | 0x1C => some (pack [(s.boot.conflicts, 0, 16), (s.boot.noRes, 16, 16)])
  | 0x20 => some (wd (s.boot.firstBad.getD 0xFFFFFFFF))
  | _ => none

/-- EVT_STAT (Table 17.10). -/
def State.evtWord (s : State) (o : Nat) : Option Word :=
  if o = 0x40 then some (pack [(b2n s.int, 0, 1), (Nat.min 256 s.host.unsent.length, 1, 9)]) else none

/-- CLK (Tables 8.5 and 8.6). -/
def State.clkWord (s : State) (o : Nat) : Option Word :=
  if o = 0 then some (pack [(b2n s.clks.rootLocked, 0, 1), (b2n s.clks.rootLost, 1, 1)])
  else if o = 0xC then some (pack [(wrapN 18 s.clks.eRef, 0, 18), (b2n s.clks.compHold, 18, 1)])
  else if o = 0x20 ∨ o = 0x24 then some (setFld (s.reg (clkB + o)) 16 1 (b2n Config.aux33))
  else if 0x100 ≤ o ∧ (o - 0x100) % 0x20 = 0xC then
    let p := s.px ((o - 0x100) / 0x20)
    some (pack [(p.mCur, 0, 28), (b2n p.locked, 28, 1), (b2n p.bypass, 29, 1), (b2n p.mClamp, 30, 1)])
  else none

/-- THM (Tables 15.8 and 15.9). -/
def State.thmWord (s : State) (o : Nat) : Option Word :=
  if o = 0 then some (wd (bitmap 15 (fun d => (s.lad d).crit)))
  else if o = 4 then some (wd (bitmap 32 (fun k => (s.sens k).broken)))
  else if o = 8 then some (wd (bitmap 14 (fun k => (s.sens (32 + k)).broken)))
  else if 0x40 ≤ o ∧ o < 0x7C then
    let l := s.lad ((o - 0x40) / 4)
    some (pack [(l.step, 0, 3), (l.tgt, 3, 3), (b2n l.warn, 6, 1), (b2n l.crit, 7, 1)])
  else if o < 0x100 then none
  else
    let x := s.sens ((o - 0x100) / 0x20)
    match (o - 0x100) % 0x20 with
    | 0x10 => some (pack [(wrapN 16 x.temp, 0, 16), (b2n x.lowCrit, 16, 1), (b2n x.lowWarn, 17, 1), (b2n x.hiWarn, 18, 1), (b2n x.hiCrit, 19, 1),
                          (b2n x.broken, 20, 1), (x.why, 21, 3)])
    | 0x14 => some (wd (x.raw % 65536))
    | _ => none

/-- TIM (Tables 16.4 and 16.5): TIM_SEC_HI shows the running time, the other three words what it latched (R346). -/
def State.timWord (s : State) (o : Nat) : Option Word :=
  match o with
  | 0x00 => some (setFld (s.reg timB) 0 2 s.timSrc)
  | 0x04 => some (wd (s.ns / secNs / 2 ^ 32 % 65536))
  | 0x08 => some (wd (s.time.latched / 2 ^ 48 / secNs))
  | 0x0C => some (wd (s.time.latched / 2 ^ 48 % secNs))
  | 0x10 => some (wd (s.time.latched / 2 ^ 32 % 65536))
  | 0x20 => some (pack [(b2n s.time.locked, 0, 1), (b2n s.time.hold, 1, 1)])
  | 0x24 => some (wd (wrapN 32 s.time.offset))
  | 0x28 => some (wd (s.time.anchor / secNs))
  | 0x2C => some (wd (s.time.anchor % secNs))
  | _ =>
    if 0x100 ≤ o ∧ o < 0x1C0 ∧ (o - 0x100) % 0x20 = 0xC then some (wd (s.pt ((o - 0x100) / 0x20)).st)
    else if 0x400 ≤ o ∧ o < 0x600 ∧ o % 0x10 = 0 then some (setFld (s.reg (timB + o)) 2 1 (b2n (s.wc ((o - 0x400) / 0x10)).late))
    else if 0x800 ≤ o ∧ o < 0x880 ∧ o % 0x10 = 0 then some (setFld (s.reg (timB + o)) 2 1 (b2n (s.fc ((o - 0x800) / 0x10)).late))
    else none

/-- LNK (Tables 16.6 and 16.7). -/
def State.lnkWord (s : State) (o : Nat) : Option Word :=
  let adm (i : Nat) : Bool := s.line.members.any (fun (m : Member) => m.id == i && m.joined && !m.lost)
  match o with
  | 0x08 => some (pack [(s.line.state, 0, 2), ((upTo 64).countP (fun i => adm (i + 1)), 2, 7), (b2n s.line.admitted, 9, 1)])
  | 0x0C => some (wd (bitmap 32 (fun i => adm (i + 1)))) | 0x10 => some (wd (bitmap 32 (fun i => adm (i + 33))))
  | 0x14 => some (wd (bitmap 32 (fun i => s.line.lostSet.contains (i + 1))))
  | 0x18 => some (wd (bitmap 32 (fun i => s.line.lostSet.contains (i + 33))))
  | _ =>
    if 0x100 ≤ o ∧ (o - 0x100) % 0x10 = 4 then
      let p := s.line.ports.getD ((o - 0x100) / 0x10) (false, 0)
      some (pack [(b2n p.1, 0, 1), (Nat.min 255 p.2, 8, 8)])
    else none

/-- ETH (Tables 17.12). -/
def State.ethWord (s : State) (o : Nat) : Option Word :=
  if o = 0x800 then some (pack [(b2n s.host.pcie.up, 0, 1), (s.host.pcie.rate, 1, 3), (s.host.pcie.width, 4, 3), (Nat.min 255 s.host.retrains, 8, 8)])
  else
    let p := o / 0x100
    let l := s.host.eth.getD p .down
    match o % 0x100 with
    | 0x24 => some (pack [(b2n (s.ethUp p), 0, 1), (l.rate, 1, 2), (b2n (match s.host.dest with | some d => d.link == .eth p | none => false), 3, 1)])
    | 0x2C => some (wd (s.otp.mac.getD p 0))
    | 0x30 => some (wd (s.otp.mac.getD p 0 / 2 ^ 32 % 65536))
    | _ => none

/-- State code of a DMA channel (Table 12.8). -/
def dmaCode : DmaSt → Nat
  | .idle => 0 | .run => 1 | .tailWait => 2 | .halted => 3

/-- DMA (Tables 12.7 and 12.8). -/
def State.dmaWord (s : State) (o : Nat) : Option Word :=
  let halted (n : Nat) : Bool := (s.dm n).st == .halted
  match o with
  | 0x00 => some (pack [((upTo 64).countP (fun n => (s.dm n).st == .run), 0, 7), ((upTo 64).countP halted, 8, 7)])
  | 0x0C => some (wd (bitmap 32 halted)) | 0x10 => some (wd (bitmap 32 (fun n => halted (n + 32))))
  | _ =>
    if o < 0x100 ∨ 0x900 ≤ o then none
    else
      let n := (o - 0x100) / 0x20
      let c := s.dm n
      match (o - 0x100) % 0x20 with
      | 0x08 => some (pack [(dmaCode c.st, 0, 2), (c.err, 2, 4), (b2n c.dirW, 6, 1), (b2n (decide (n < 48)), 7, 1)])
      | 0x0C => some (wd (c.cur / 32)) | 0x10 => some (wd (c.remain % 2 ^ 24))
      | 0x14 => some (wd (c.fail % 2 ^ 32)) | 0x18 => some (wd (c.fail / 2 ^ 32 % 65536))
      | 0x1C => some (pack [(c.fetched, 0, 16), (c.retired, 16, 16)])
      | _ => none

/-- State code of a chisel (Table 6.6). -/
def chsCode : ChsSt → Nat
  | .idle => 0 | .priming => 1 | .matching => 2 | .stalled => 3 | .out => 4

/-- CHS (Tables 6.5 and 6.6). -/
def State.chsWord (s : State) (o : Nat) : Option Word :=
  if o = 4 then
    some (pack [(bitmap 8 (fun n => (s.chs n).ref.isSome), 0, 8), (bitmap s.id.chisels (fun n => (s.chs n).st != .out), 8, 8)])
  else if o < 0x10 then none
  else
    let c := s.chs ((o - 0x10) / 0x10)
    match o % 0x10 with
    | 0x0 => some (pack [(chsCode c.st, 0, 3), (c.ctx, 8, 7)])
    | 0x4 => some (match c.ref with | some r => pack [(r.band, 0, 13), (r.plane, 13, 3), (r.page, 16, 16)] | none => 0)
    | 0x8 => some (wd (c.rate % 65536))
    | _ => none

/-- State code of a cast (Table 6.8). -/
def castCode (c : Cast) : Nat :=
  if !c.inServ then 5 else if c.stalled then 3 else if c.waiting then 4 else if c.out.isSome then 1 else if c.check.isSome then 2 else 0

/-- CST (Tables 6.7 and 6.8). -/
def State.cstWord (s : State) (o : Nat) : Option Word :=
  if o = 0 then some (wd (bitmap s.id.casts (fun n => (s.cast n).inServ)))
  else if o = 4 then some (pack [(s.ctxUsed, 0, 8), (s.codec.ctxMax, 8, 8)])
  else if o < 0x100 then none
  else
    let c := s.cast ((o - 0x100) / 0x20)
    match (o - 0x100) % 0x20 with
    | 0x00 => some (pack [(castCode c, 0, 3), ((match c.out with | some j => j.queue.length | none => 0), 3, 11), (c.lastErr, 14, 4), (c.errSrc, 18, 1)])
    | 0x04 => some (match c.out with | some j => pack [(j.band, 0, 13), (j.page, 16, 16)] | none => 0)
    | 0x08 => some (pack [(c.errBand.1, 0, 13), (c.errBand.2, 16, 16)])
    | _ => none

/-- LADDER_STATE (Table 4.11). -/
def ladderCode : LadderSt → Nat
  | .running => 0 | .draining => 1 | .gap => 2 | .held => 3

/-- SHT_STAT and SHT_AUDIT (Table 4.11). -/
def State.shtStat (s : State) : Word :=
  pack [(s.sched.stepCur, 0, 3), (Nat.min 7 s.stepFloor, 3, 3), (s.inFlight.length, 6, 5), (ladderCode s.sched.ladder, 11, 3), (Nat.min 15 s.sched.skipRun, 14, 4),
        (s.sched.okRun, 18, 8), (b2n s.sched.misHold, 26, 1)]
def State.shtAudit (s : State) : Word := pack [(s.inFlight.length, 0, 5), (16 - s.inFlight.length, 8, 5)]

/-- SHT (Tables 4.8, 4.11 and 4.12). -/
def State.shtWord (s : State) (o : Nat) : Option Word :=
  match o with
  | 0x20 => some s.shtStat
  | 0x24 => some (wd (s.rateBrg / 1000000)) | 0x28 => some (wd (s.rateHost / 1000000))
  | 0x3C => some s.shtAudit
  | _ =>
    if 0x100 ≤ o ∧ o < 0x200 then some ((s.tok ((o - 0x100) / 0x10)).words.getD (o % 0x10 / 4) 0)
    else if 0x200 ≤ o ∧ o < 0x400 ∧ o % 0x20 < 0x18 then some (wd ((s.tok ((o - 0x200) / 0x20)).blank.getD (o % 0x20 / 4) 0 % 2 ^ 17))
    else none

/-- State code of a station's SOS supervision (Table 7.1). -/
def sosCode : SosSt → Nat
  | .idle => 0 | .acquire => 1 | .facetId => 2 | .locked => 3 | .lost => 4

/-- The waiting copies of station `n` (SCN_n_PEND, Table 7.9). -/
def State.pendWord (s : State) (n : Nat) : Nat :=
  (s.st n).pend % 8 + 8 * b2n (s.held.any (fun e => ofStation n e.1)) + 16 * b2n (s.lk n).laserNew.isSome

/-- SCN (Tables 7.8 and 7.9). -/
def State.scnWord (s : State) (o : Nat) : Option Word :=
  let n := o / 0x1000
  let x := s.st n
  let num (t : SlotSt) : Nat := x.slots.countP (fun (l : LineSlot) => l.st == t)
  match o % 0x1000 with
  | 0x40 => some (pack [(sosCode x.sos, 0, 3), (if x.sos == .locked then x.facet else 0, 3, 4), (x.setIn.getD 0, 7, 3), (wrapN 6 x.d, 10, 6), (b2n (s.stnReady n), 16, 1),
                        (b2n x.slotShort, 17, 1), (b2n x.dlyClamp, 18, 1), (b2n x.learnClamp, 19, 1), (b2n (s.ready && x.setIn.isNone), 20, 1)])
  | 0x44 => some (pack [(x.spanLast, 0, 23), (b2n x.spanOk, 23, 1)])
  | 0x50 => some (pack [(x.alloc - x.slots.length, 0, 9), (num .filling, 16, 9)])
  | 0x54 => some (pack [(num .full, 0, 9), (num .printing, 16, 9)])
  | 0x58 => some (pack [(x.alloc, 0, 9), (match x.setIn with | some m => s.slotsMin n m | none => 0, 16, 9)])
  | 0x5C => some (wd (s.beamOk n))
  | 0x60 => some (wd (match x.setIn with | some m => s.setBeams n m | none => 0))
  | 0x64 => some (wd (s.pendWord n))
  | 0x68 => some (wd (Nat.min 0xFFFFFF (s.tnom n)))
  | _ => none

/-- State code of a beam link (Table 9.4). -/
def blCode : BlSt → Nat
  | .off => 0 | .status => 1 | .lanes => 2 | .deskew => 3 | .align => 4 | .up => 5 | .fail => 6

/-- BLK_n_STAT (Table 9.7). -/
def State.blkWord (s : State) (o : Nat) : Option Word :=
  let k := s.lk (o / 0x100)
  if o % 0x100 = 4 then
    some (pack [(blCode k.st, 0, 3), (k.laneUp, 3, 4), (k.retrain, 7, 4), (b2n k.statusOk, 11, 1), (b2n k.aligned, 12, 1)])
  else none

/-- State code of the bridge (Table 10.9). -/
def brCode0 : BrSt → Nat
  | .down => 0 | .train => 1 | .up => 2 | .replay => 3 | .retrain => 4

/-- BRG_STAT (Table 10.9, R243). -/
def State.brgStat (s : State) : Word :=
  pack [(brCode0 s.brg.st, 0, 3), (s.brg.laneUp, 3, 8), (popCount 8 s.brg.laneUp, 11, 4), (b2n s.brg.timeOk, 15, 1), (b2n (!s.id.dual), 16, 1)]

/-- BRG (Tables 10.8 and 10.9). -/
def State.brgWord (s : State) (o : Nat) : Option Word :=
  if o = 0 then (if s.id.dual then none else some 0)
  else if o = 4 then some s.brgStat
  else if o = 8 then some (wd s.brg.laneOut)
  else if 0x40 ≤ o ∧ o < 0x60 then
    let c := s.vc ((o - 0x40) / 8)
    some (if o % 8 = 0 then pack [(c.avail, 0, 8), (c.pool, 8, 8)] else pack [(c.occ, 0, 8), (c.retPend, 8, 8)])
  else none

/-- The words of a patina entry (Table 11.7). -/
def Patina.word (e : Patina) (w : Nat) : Word :=
  match w with
  | 0 => wd e.addr
  | 1 => pack [(e.loc, 0, 6), (b2n e.ue, 6, 1), (e.src, 7, 2), (e.rep, 16, 16)]
  | 2 => wd (e.synd % 256)
  | _ => pack [(e.ns, 0, 30), (e.sec, 30, 2)]

/-- MEM_STAT (Table 11.5). -/
def State.memStat (s : State) : Word :=
  let w := s.ways
  pack [(s.chUp, 0, 4), (sumN (w.map (fun c => 2 ^ c)), 4, 4), (Nat.lor s.mem.retired s.mem.failed, 8, 4),
        (if w.length = 4 then 2 else if w.length = 2 then 1 else 0, 12, 2)]

/-- MEM (Tables 11.4 to 11.7). -/
def State.memWord (s : State) (o : Nat) : Option Word :=
  let lap (i : Nat) : Scrub := s.mem.scrubs.getD i { pos := 0, t0 := 0, last := 0, max := 0 }
  if o = 4 then some s.memStat
  else if o = 0x14 then some (pack [(b2n (!s.mem.pend.isEmpty), 0, 1), (b2n s.retWait, 1, 1), (b2n s.mem.refused, 2, 1)])
  else if o = 0x18 then some (wd s.mem.head)
  else if o = 0x1C then some (wd s.mem.tail)
  else if 0x40 ≤ o ∧ o < 0x80 then
    let n := (o - 0x40) / 0x10
    match o % 0x10 with
    | 4 => some (wd ((s.mem.rmap.getD n []).length)) | 8 => some (wd (lap n).last) | 12 => some (wd (lap n).max) | _ => none
  else if 0x100 ≤ o ∧ o < 0x210 then
    let k := (o - 0x100) / 0x10
    match o % 0x10 with
    | 4 => some (wd (lap (4 + k)).last) | 8 => some (wd (lap (4 + k)).max) | _ => none
  else if 0x400 ≤ o ∧ o < 0x800 then some (match s.mem.log[(o - 0x400) / 0x10]? with | some e => e.word (o % 0x10 / 4) | none => 0)
  else if 0x800 ≤ o ∧ o < 0x1800 then
    some (match (s.mem.rmap.getD ((o - 0x800) / 0x400) [])[(o - 0x800) % 0x400 / 4]? with | some r => pack [(r, 0, 18), (1, 31, 1)] | none => 0)
  else none

/-- State code of a step channel (Table 13.4). -/
def stpCode : StpSt → Nat
  | .disabled => 0 | .idle => 1 | .moving => 2 | .stopping => 3 | .stopped => 4 | .referencing => 5 | .faultStop => 6 | .fault => 7

/-- STP (Tables 13.6 and 13.7). -/
def State.stpWord (s : State) (o : Nat) : Option Word :=
  if o = 0 then some (wd (bitmap 24 (fun n => (s.sp n).moving)))
  else if o = 4 then some (wd (bitmap 24 (fun n => (s.sp n).st == .fault || (s.sp n).defer)))
  else if o < 0x100 then none
  else
    let x := s.sp ((o - 0x100) / 0x40)
    match (o - 0x100) % 0x40 with
    | 0x08 => some (wd (wrapN 32 x.target)) | 0x0C => some (wd (wrapN 32 x.actual)) | 0x10 => some (wd (wrapN 32 x.remain))
    | 0x14 => some (wd (wrapN 20 (if x.moving then x.now.steps * (if x.dirPos then 1 else -1) else 0)))
    | 0x18 => some (pack [(stpCode x.st, 0, 3), (b2n x.refd, 3, 1), (b2n x.refused, 4, 1), (b2n x.defer, 5, 1), (b2n x.stallIn, 7, 1), (x.cause, 8, 3)])
    | 0x38 => some (wd (wrapN 32 x.faultPos))
    | _ => none

/-- State code of a commutation channel (Table 14.1). -/
def motCode : MotSt → Nat
  | .off => 0 | .listen => 1 | .align => 2 | .ramp => 3 | .run => 4 | .brake => 5 | .fault => 6

/-- MOT (Tables 14.4 and 14.5). -/
def State.motWord (s : State) (o : Nat) : Option Word :=
  if o = 8 then
    some (pack [(s.bus.vbus, 0, 12), (b2n s.bus.chopOn, 12, 1), (b2n s.bus.ov1, 13, 1), (b2n s.bus.ov2, 14, 1), (b2n s.bus.chopFail, 15, 1)])
  else if o = 0x14 then some (pack [(bitmap 12 (fun n => (s.mt n).st == .run), 0, 12), (bitmap 12 (fun n => (s.mt n).plocked), 16, 12)])
  else if o < 0x100 then none
  else
    let n := (o - 0x100) / 0x40
    let m := s.mt n
    match (o - 0x100) % 0x40 with
    | 0x08 => some (wd (wrapN 18 m.target))
    | 0x28 => some (pack [(motCode m.st, 0, 3), (b2n m.predicting, 3, 1), (b2n m.saturated, 4, 1), (b2n m.plocked, 5, 1), (b2n m.revPend, 6, 1),
                          (b2n m.ilimAct, 7, 1), (b2n m.refused, 8, 1), (b2n m.defer, 9, 1), (m.cause, 10, 3)])
    | 0x2C => some (wd (wrapN 18 m.est))
    | 0x30 => some (pack [(m.duty, 0, 14), (s.ilimEff n, 16, 8)])
    | 0x34 => some (wd (wrapN 16 (satI 16 m.pherr)))
    | _ => none

/-- The mains frequency in 0.01 Hz over the last 16 half-cycles (R335). -/
def State.mainsFreq (s : State) : Nat :=
  let t := sumN s.thm.zcHist
  if t = 0 then 0 else Nat.min 8191 (50000000 * s.thm.zcHist.length / t)

/-- HVF (Tables 15.10 and 15.11). -/
def State.hvfWord (s : State) (o : Nat) : Option Word :=
  match o with
  | 0x04 => some (pack [(s.mainsFreq, 0, 13), (b2n s.thm.zcOk, 13, 1)])
  | 0x08 => some (pack [(fld (s.reg (hvfB + 8)) 0 4, 0, 4), (bitmap 4 (fun h => (s.heat h).pairOk), 4, 4),
                        (bitmap 4 (fun h => (s.heat h).on), 8, 4), (fld (s.reg (hvfB + 8)) 12 8, 12, 8)])
  | 0x0C => some (wd (bitmap 32 (fun c => (s.hvc c).fault)))
  | _ =>
    if 0x20 ≤ o ∧ o < 0x60 ∧ o % 0x10 = 4 then
      let h := (o - 0x20) / 0x10
      some (pack [(wrapN 16 (s.sens (s.sensA h)).temp, 0, 16), ((s.heat h).duty * 255 / 65536, 16, 8)])
    else if 0xC0 ≤ o ∧ o < 0x100 then
      let g := (o - 0xC0) / 4
      some (pack [(s.thm.hvProf.getD g 0, 0, 4), (b2n ((upTo s.id.hvs).any (fun c => s.f (hvA c 0) 1 4 == g && (s.hvc c).ramping)), 4, 1)])
    else if 0x100 ≤ o ∧ o % 0x10 = 8 then
      let x := s.hvc ((o - 0x100) / 0x10)
      some (pack [(x.fb, 0, 16), (x.duty, 16, 12), (b2n x.fault, 28, 1), (b2n x.ramping, 29, 1)])
    else none

/-- State code of a consumable port (Table 18.3). -/
def csmCode : CsmSt → Nat
  | .empty => 0 | .ident => 1 | .auth => 2 | .ready => 3 | .commit => 4 | .failed => 5

/-- CSM (Table 18.6). -/
def State.csmWord (s : State) (o : Nat) : Option Word :=
  if o = 4 then
    some (pack [(bitmap 12 (fun p => (s.cp p).present), 0, 12), (bitmap 12 (fun p => (s.cp p).genuine), 16, 12), (b2n s.csm.hold, 28, 1)])
  else if o < 0x100 then none
  else
    let c := s.cp ((o - 0x100) / 0x40)
    match (o - 0x100) % 0x40 with
    | 0x04 => some (pack [(csmCode c.st, 0, 3), (b2n c.genuine, 3, 1), (c.cause, 4, 3)])
    | 0x08 => some (wd (match c.serial with | some l => quad l 0 | none => 0))
    | 0x0C => some (wd (match c.serial with | some l => quad l 4 | none => 0))
    | 0x10 => some (wd c.count) | 0x14 => some (wd c.committed) | 0x18 => some (wd c.reported)
    | 0x1C => some (pack [(Nat.min 65535 c.pend, 0, 16), (c.rem, 16, 10)])
    | _ => none

/-- DBG_STAT (Table 18.8). -/
def State.dbgWord (s : State) (o : Nat) : Option Word :=
  if o = 4 then some (pack [(b2n s.otp.monLock, 0, 1), (b2n s.mon.unlocked, 1, 1), (b2n s.mon.lockout, 2, 1), (Nat.min 7 s.mon.fails, 3, 3)]) else none

/-- PIN (Table 2.10). -/
def State.pinRead (s : State) (o : Nat) : Option Word :=
  let used (n : Nat) : Bool := !(s.pinClaims n).isEmpty
  match o with
  | 0x200 => some (wd (bitmap 32 used)) | 0x204 => some (wd (bitmap 32 (fun n => used (n + 32))))
  | 0x208 => some (wd (bitmap 32 (fun n => used (n + 64)))) | 0x20C => some Config.bankLvl
  | _ => none

/-- The word a register holds besides what the register file keeps: what hardware shows live. -/
def State.liveWord (s : State) (a : Nat) : Option Word :=
  let o := a % 0x10000
  match a / 0x10000 with
  | 0x0 => s.glbWord o | 0x1 => s.evtWord o | 0x2 => s.clkWord o | 0x3 => s.thmWord o | 0x4 => s.timWord o | 0x5 => s.lnkWord o
  | 0x6 => s.ethWord o | 0x7 => s.dmaWord o | 0x8 => s.chsWord o | 0x9 => s.cstWord o | 0xA => s.shtWord o | 0xB => s.scnWord o
  | 0xC => s.blkWord o | 0xD => s.brgWord o | 0xE => s.memWord o | 0xF => s.stpWord o | 0x10 => s.motWord o | 0x11 => s.hvfWord o
  | 0x12 => s.csmWord o | 0x13 => s.dbgWord o | 0x14 => s.pinRead o
  | _ => none

/-- The lanes, retry, retrain and time fields of the bridge of a single-die package read 0 (R243). -/
def State.brgZero (s : State) (a : Nat) : Bool := !s.id.dual && decide (brgB + 8 ≤ a) && decide (a < brgB + 0x24)

/-- What a block register reads (R6, R9, R10). -/
def State.peek (s : State) (a : Nat) : Word :=
  if a % 4 ≠ 0 ∨ !s.id.present a ∨ s.brgZero a ∨ 2 ^ 32 ≤ a then 0 else (s.liveWord a).getD (s.reg a)

/-- The table windows of a die (R389): bytes of the shadow and active copies. -/
def inWindow (a : Nat) : Bool := decide (0x01000000 ≤ a) && decide (a < 0x04000000)
def State.windowWord (s : State) (a : Nat) : Word :=
  let t := (a - 0x01000000) / 2 ^ 22
  let i := a % 2 ^ 22 / 2 ^ 17
  let off := a % 2 ^ 16
  if a % 4 ≠ 0 ∨ s.id.tabInsts t ≤ i ∨ tabSize t ≤ off then 0
  else if a % 2 ^ 17 < 2 ^ 16 then wd (s.tabLe a 4)
  else wd (s.tabAct t i off 4)

/-- The AZ5230 aperture (R58, R59). -/
def inAperture (a : Nat) : Bool := decide (0x08000000 ≤ a) && decide (a < 0x08010000)

/-- The registers an aperture register takes its fields from: address, low bit there, width, low bit in the aperture register (Table 2.14). Fields
with a conversion of their own are in `State.apRead` and `apWrite`. -/
def apMap (o : Nat) : List (Nat × Nat × Nat × Nat) :=
  let s := (o - 0x1000) / 0x100
  let c := (o - 0x2000) / 0x20
  let n := (o - 0x3000) / 0x10
  if o = 0x4 then [(shtB, 0, 1, 0), (shtB, 1, 3, 1), (shtB, 5, 1, 4)]
  else if o = 0x8 then [(shtB + 0x20, 0, 3, 0), (shtB + 0x20, 6, 5, 3), (shtB + 0x20, 26, 1, 8), (0x10, 8, 2, 9)]
  else if o = 0x10 then [(shtB + 0x34, 0, 32, 0)]
  else if 0x40 ≤ o ∧ o < 0x60 then [(evtB + (o - 0x40), 0, 32, 0)]
  else if 0x60 ≤ o ∧ o < 0x80 then [(evtB + 0x20 + (o - 0x60), 0, 32, 0)]
  else if 0x1000 ≤ o ∧ o < 0x1400 then
    match o % 0x100 with
    | 0x00 => [(scnA s 0, 0, 4, 0), (scnA s 0, 4, 1, 4), (scnA s 0, 5, 1, 5), (scnA s 0, 7, 3, 6)]
    | 0x04 => [(scnA s 4, 0, 15, 0), (scnA s 4, 18, 10, 18)]
    | 0x0C => [(clkB + 0x104 + 0x20 * s, 0, 32, 0)]
    | 0x10 => [(clkB + 0x100 + 0x20 * s, 0, 10, 0)]
    | 0x14 => [(scnA s 0x40, 0, 3, 0), (scnA s 0x40, 3, 4, 3), (clkB + 0x10C + 0x20 * s, 28, 1, 7), (clkB + 0x10C + 0x20 * s, 29, 1, 8),
               (blkB + 0x100 * s + 4, 0, 3, 9), (scnA s 0x40, 16, 1, 12)]
    | _ => []
  else if 0x2000 ≤ o ∧ o < 0x2100 then
    match o % 0x20 with
    | 0x00 => [(stpA c 8, 0, 32, 0)] | 0x04 => [(stpA c 4, 0, 7, 0)] | 0x08 => [(stpA c 0xC, 0, 32, 0)]
    | 0x0C => [(stpA c 0x18, 0, 4, 0), (stpA c 0x18, 8, 3, 8)] | 0x10 => [(stpA c 0x1C, 0, 32, 0)]
    | _ => []
  else if 0x3000 ≤ o ∧ o < 0x3080 then
    match o % 0x10 with
    | 0x0 => [(motA n 8, 0, 32, 0)] | 0x4 => [(motA n 0x24, 0, 32, 0)] | 0x8 => [(motA n 0x28, 0, 32, 0)] | _ => [(motA n 0x2C, 0, 32, 0)]
  else []

/-- What an aperture register reads (R59): the aliased fields, with the conversions of BPP, START_DLY and BDLY. A delay of an exact half
pixel reads away from zero (DESIGN CHOICE, log entry 97: "nearest" does not say). -/
def State.apRead (s : State) (o : Nat) : Word :=
  let st := (o - 0x1000) / 0x100
  if o % 4 ≠ 0 then 0
  else if o = 0 then wd (0x52300100 + s.id.variant)
  else if 0x1000 ≤ o ∧ o < 0x1400 ∧ st < s.id.stations ∧ o % 0x100 = 8 then wd (fld (s.peek (scnA st 0xC)) 0 22 / 64 % 65536)
  else if 0x1000 ≤ o ∧ o < 0x1400 ∧ st < s.id.stations ∧ 0x20 ≤ o % 0x100 ∧ o % 0x100 < 0x40 then
    wd (wrapN 11 (roundDiv (sfld (s.peek (scnA st (0x100 + (o % 0x100 - 0x20)))) 0 17) 64))
  else if 0x1000 ≤ o ∧ o < 0x1400 ∧ o % 0x100 = 4 then
    wd (sumN ((apMap o).map (fun e => fld (s.peek e.1) e.2.1 e.2.2.1 * 2 ^ e.2.2.2)) + Nat.min 1 (fld (s.peek (scnA st 4)) 16 2) * 2 ^ 16)
  else wd (sumN ((apMap o).map (fun e => fld (s.peek e.1) e.2.1 e.2.2.1 * 2 ^ e.2.2.2)))

/-- A clearing read (R8): every RC bit of the register goes to 0. -/
def State.clearRc (s : State) (a : Nat) : State :=
  match rowOf a with
  | some r => if r.rc = 0 then s else s.setReg a (wd (Nat.land (s.reg a).toNat (0xFFFFFFFF - r.rc)))
  | none => s

/-- The DMA descriptor window (R268): DRAM of the user region, reached at DMA offsets 0x8000 to 0xFFFF. -/
def inDmaWin (a : Nat) : Bool := decide (dmaB + 0x8000 ≤ a) && decide (a < dmaB + 0x10000)

/-- A read of a register as software makes it (R384): the word, what the read does, and whether it met an uncorrectable word. -/
def State.readReg (s : State) (a : Nat) : State × Word × Bool :=
  if inWindow a then (s, s.windowWord a, false)
  else if inAperture a then
    if !s.compat5 then (s, 0, false)
    else
      let o := a - 0x08000000
      (if o = 0x10 then s.clearRc (shtB + 0x34) else s, s.apRead o, false)
  else if inDmaWin a then
    if a % 4 ≠ 0 ∨ Nat.min s.userLen 32768 < a - dmaB - 0x8000 + 4 then (s, 0, false)
    else
      let r := s.memRead false (s.winDram (a - dmaB)) 4
      (r.1, wd (ofLe r.2.1), r.2.2.isSome)
  else if a = timB + 4 then ({ s with time := { s.time with latched := s.time.now } }, s.peek a, false)
  else if s.id.present a && a % 4 == 0 then (s.clearRc a, s.peek a, false)
  else (s, s.peek a, false)

/-- Words read upwards from an address until one is uncorrectable. -/
def State.readRegs (s : State) (a : Nat) : Nat → State × List Word × Bool
  | 0 => (s, [], false)
  | n + 1 =>
    let r := s.readReg a
    if r.2.2 then (r.1, [], true)
    else
      let q := r.1.readRegs (a + 4) n
      (q.1, r.2.1 :: q.2.1, q.2.2)

end Sys2Proof.Machine
end

