-- ==== Sys2Proof/Machine/RegWrite.lean ====
section
/-! DEFINITION. Writing registers (R6, R9, R58 to R60, R81, R84, R85, R183, R385, R387, R388): adjustability, clamping, the moment a value
takes effect, and what a write makes the unit do. The same operation serves WRITE_REG, the monitor and the records of an image. -/
namespace Sys2Proof.Machine

/-- The operational bits of a register, writable after READY under every image (Table 3.8). -/
def operational (a : Nat) : Nat :=
  let o := a % 0x10000
  match a / 0x10000 with
  | 0x1 => if o < 0x40 then 0xFFFFFFFF else if 0x400 ≤ o then 0xFF else 0
  | 0x4 => if o = 0x14 ∨ o = 0x18 then 0xFFFFFFFF else 0
  | 0x5 => if o = 0 then 0x30000 else 0
  | 0x7 => if 0x100 ≤ o ∧ o < 0x900 ∧ o % 0x20 ≤ 4 then 0xFFFFFFFF else 0
  | 0xA => if o = 0 then 0x2F else 0
  | 0xE => if o = 0x10 ∨ o = 0x1C then 0xFFFFFFFF else 0
  | 0xF => if 0x100 ≤ o ∧ ((o - 0x100) % 0x40 = 4 ∨ (o - 0x100) % 0x40 = 8) then 0xFFFFFFFF else 0
  | 0x10 => if o = 0xC then 0x6 else if 0x100 ≤ o ∧ ((o - 0x100) % 0x40 = 8 ∨ (o - 0x100) % 0x40 = 0x24) then 0xFFFFFFFF else 0
  | 0x12 => if o = 8 then 0xFFFFFFFF else 0
  | 0x13 => if o = 0 then 0x3 else 0
  | _ => 0

/-- The bits of a register an ADJUSTABLE entry covers (R84). An entry names a register at its own address: one whose address lies in the
AZ5230 aperture covers no field, as the aperture has no storage (R58, R59; DESIGN CHOICE, log entry 96). -/
def State.adjMask (s : State) (a : Nat) : Nat := (s.adjRegs.filter (fun e => e.addr == a)).foldl (fun m e => Nat.lor m e.mask.toNat) 0

/-- R84: every bit of `m` may change now. -/
def State.mayChange (s : State) (a m : Nat) : Bool := !s.ready || Nat.land m (0xFFFFFFFF - Nat.lor (operational a) (s.adjMask a)) == 0

/-- Instance `i` of table `t` may change now (R84). -/
def State.tabMayChange (s : State) (t i : Nat) : Bool := !s.ready || s.adjTabs.any (fun e => e.table == t && bitOf e.insts i)

/-- Bits of a row software can write. -/
def RegRow.bits (r : RegRow) : Nat := Nat.lor (Nat.lor r.rw r.w1c) (Nat.lor r.wo r.rws)

/-- A field overlaps the written bits. -/
def Lim.hit (l : Lim) (m : Nat) : Bool := Nat.land m ((2 ^ l.n - 1) * 2 ^ l.lo) != 0

/-- A field of a word raised to at least `v`, within its width (signed). -/
def atLeast (w : Word) (lo n : Nat) (v : Int) : Word := if sfld w lo n < v then setFld w lo n (wrapN n (satI n v)) else w

/-- Clamps that hang on other fields, the variant or the board (R40, R57, R105, R190, R195, R207, R266, R323, R348, R367, Tables 8.6, 16.5, 18.7). -/
def State.clampMore (s : State) (a : Nat) (old w : Word) : Word :=
  let o := a % 0x10000
  let f (lo n : Nat) : Nat := fld w lo n
  match a / 0x10000 with
  | 0x2 =>
    if o = 0x20 ∨ o = 0x24 then
      (if 2 ≤ f 1 2 then setFld w 1 2 (if Config.aux33 then 3 else 2) else w)
    else if 0x100 ≤ o ∧ (o - 0x100) % 0x20 = 4 then
      let post := clampN 2 16 (fld (s.reg (a - 4)) 3 5)
      wd (clampN (2 ^ 23 * post) (5 * 2 ^ 23 * post) (clampN (4 * 2 ^ 24) (10 * 2 ^ 24) (f 0 28)))
    else w
  | 0x3 =>
    if 0x100 ≤ o ∧ (o - 0x100) % 0x20 = 0 then
      (if (o - 0x100) / 0x20 < 32 then (if 2 < f 0 3 then setFld w 0 3 2 else w) else setFld w 0 3 (fld old 0 3))
    else w
  | 0x4 =>
    if o = 0 then (if s.follower then setFld w 0 2 (fld old 0 2) else if 2 ≤ f 0 2 then setFld w 0 2 0 else w)
    else if 0x100 ≤ o ∧ o < 0x1C0 ∧ o % 0x20 = 0 then
      let p := (o - 0x100) / 0x20
      let w1 := if f 0 2 = 2 ∧ s.f timB 2 3 ≠ p then setFld w 0 2 3 else w
      if p < 2 then setFld w1 2 1 0 else setFld w1 3 1 0
    else w
  | 0x6 => if o % 0x100 = 0 ∧ s.id.ethMax + 1 < f 1 2 then setFld w 1 2 (s.id.ethMax + 1) else w
  | 0x7 =>
    if o = 8 then wd (if s.boot.stage < 9 then f 0 16 else Nat.min (f 0 16) (s.dramBytes / 65536))
    else if 0x100 ≤ o ∧ (o - 0x100) % 0x20 = 0 ∧ f 6 2 = 0 then setFld w 6 2 1 else w
  | 0xA => if o = 4 ∧ 0 < f 8 8 ∧ f 8 8 < 64 then setFld w 8 8 64 else w
  | 0xB => if o % 0x1000 = 4 ∧ s.linkV1 (o / 0x1000) ∧ 1 < f 16 2 then setFld w 16 2 1 else w
  | 0xC =>
    if o % 0x100 = 0 then
      let w1 := if s.id.p then setFld w 1 1 1 else w
      if bitOf w1 1 ∧ 2 < fld w1 2 3 then setFld w1 2 3 2 else w1
    else w
  | 0xD =>
    if s.id.isH then setFld (setFld (setFld w 0 4 (fld old 0 4)) 16 8 (fld old 16 8)) 24 1 (fld old 24 1) else w
  | 0xE => if o = 0 ∧ s.id.p then setFld w 0 1 0 else w
  | 0x12 => if 0x100 ≤ o ∧ (o - 0x100) % 0x40 = 0 ∧ f 4 3 = 6 then setFld w 4 3 7 else w
  | _ => w

/-- The word a write leaves in a register that reads `old`: written bits merged, touched fields in range. -/
def State.mergeOn (s : State) (r : RegRow) (a : Nat) (old v : Word) (m : Nat) : Word :=
  let rw := Nat.land m r.rw
  let w := wd (Nat.land old.toNat (0xFFFFFFFF - rw) + Nat.land v.toNat rw)
  let w1 := wd ((r.lims.filter (fun l => l.hit rw)).foldl clampLim w.toNat)
  if rw = 0 then old else s.clampMore a old w1

/-- The word a write leaves in a register. -/
def State.merged (s : State) (r : RegRow) (a : Nat) (v : Word) (m : Nat) : Word := s.mergeOn r a (s.reg a) v m

/-- Fields that act at once in a register whose other fields wait for the engine's sheet boundary (R85): BLK_n_CTRL.EN (Table 9.4, chapter 9's
collisions), HVc_CTRL.EN (R344), and BRG_CTRL's LANES_MAX, REJOIN and TIME_DIR, whose moments the bridge itself keeps (R434). -/
def nowBits (a : Nat) : Nat :=
  match a / 0x10000 with
  | 0xC => if a % 0x100 = 0 then 1 else 0
  | 0xD => if a % 0x10000 = 0 then 0x01FF000F else 0
  | 0x11 => if 0x100 ≤ a % 0x10000 ∧ a % 0x10 = 0 then 1 else 0
  | _ => 0

/-- A word stored of which only the fields of `nowBits` act before the engine's sheet boundary. -/
def State.setEngine (s : State) (a : Nat) (w : Word) : State :=
  let s1 := s.setLater a w
  if nowBits a = 0 then s1
  else { s1 with held := ins s1.held a (wd (Nat.land (s1.act a).toNat (0xFFFFFFFF - nowBits a) + Nat.land w.toNat (nowBits a))) }

/-- A word is stored and takes effect when its class says (R85, R183); before READY at once. -/
def State.storeReg (s : State) (r : RegRow) (a : Nat) (w : Word) : State :=
  if !s.ready then s.setReg a w
  else match r.cls with
    | .now => s.setReg a w
    | .station => s.setLater a w
    | .admission => s.setLater a w
    | .engine => if s.flying then s.setEngine a w else s.setReg a w

/-- The row's word merged and stored. -/
def State.put (s : State) (r : RegRow) (a : Nat) (v : Word) (m : Nat) : State := s.storeReg r a (s.merged r a v m)

/-- Actions in order until one is refused. -/
def runOps : List (State → State × Nat) → State → State × Nat
  | [], s => (s, sOk)
  | f :: l, s => let r := f s; if r.2 = sOk then runOps l r.1 else r

/-- The actions of the command bits that are 1. -/
def cmdOps (v : Nat) (l : List (Nat × (State → State × Nat))) : List (State → State × Nat) := (l.filter (fun e => natBit v e.1)).map (·.2)

/-- STP_n_CMD (Table 13.7): CLEAR, ENABLE, then STOP or else a motion, then DISABLE. -/
def State.stpCmd (s : State) (n v : Nat) : State × Nat :=
  runOps (cmdOps v ([(4, fun s => s.stpClear n), (5, fun s => s.stpEnable n)] ++
    (if natBit v 1 then [(1, fun s => s.stpStop n)] else [(0, fun s => s.stpMove n), (2, fun s => s.stpResume n), (3, fun s => s.stpReference n)]) ++
    [(6, fun s => s.stpDisable n)])) s

/-- MOT_n_CMD (Table 14.4): CLEAR, then COAST, else STOP, else RUN. -/
def State.motCmd (s : State) (n v : Nat) : State × Nat :=
  runOps (cmdOps v ([(3, fun s => s.motClear n)] ++
    (if natBit v 2 then [(2, fun s => s.motCoast n)] else if natBit v 1 then [(1, fun s => s.motStop n)] else [(0, fun s => s.motRun n)]))) s

/-- A flag word is cleared by 1s (R391). -/
def State.clearFlags (s : State) (k : Nat) (v : Nat) : State :=
  s.setReg (evtB + 4 * k) (wd (Nat.land (s.reg (evtB + 4 * k)).toNat (0xFFFFFFFF - v)))

/-- The latest occurrence of a source is sent (R392): one message. -/
def State.sendLatest (s : State) (n : Nat) : State :=
  s.sendEv n ((s.host.latest.find? (fun m => m.src == n && m.pkg == 0)).getD (s.evMsg n 0 []))

/-- EVT_ENk is written (R392): an enable set while the flag is 1 and the route allows sends one message. -/
def State.setEnables (s : State) (k : Nat) (w : Word) : State :=
  let old := s.reg (evtB + 0x20 + 4 * k)
  let s1 := s.setReg (evtB + 0x20 + 4 * k) w
  s1.each (upTo 32) (fun s i => if bitOf w i && !bitOf old i && s.evFlag (32 * k + i) then s.sendLatest (32 * k + i) else s)

/-- ROUTE and VEC of EVT_SRCn are written (R392, R394): a new ROUTE of 1 drops the unsent message, one from 1 sends the flagged source's. -/
def State.setRoute (s : State) (n : Nat) (w : Word) : State :=
  let old := s.evRoute n
  let s1 := s.setReg (evSrcA n) w
  if fld w 0 2 = 1 then
    ({ s1 with host := { s1.host with unsent := s1.host.unsent.filter (fun m => !(m.src == n && m.pkg == 0 && m.die == b2n s.id.isE)) } } : State)
  else if old = 1 && s1.evFlag n then s1.sendLatest n else s1

/-- THRL and THRH of sensor `k` in order (R326). -/
def State.orderThr (s : State) (r : RegRow) (k : Nat) : State :=
  let al := thmB + 0x108 + 0x20 * k
  let ah := al + 4
  let l := atLeast (s.reg al) 16 16 (sfld (s.reg al) 0 16 + 1)
  let h := atLeast (s.reg ah) 0 16 (sfld l 16 16 + 1)
  let h2 := atLeast h 16 16 (sfld h 0 16 + 1)
  let s1 := if l = s.reg al then s else s.storeReg r al l
  if h2 = s.reg ah then s1 else s1.storeReg r ah h2

/-- V_CHOP < V_OV1 < V_OV2 (R316). -/
def State.orderBus (s : State) (r : RegRow) : State :=
  let a := s.reg motB
  let a1 := setFld a 16 12 (Nat.min 4095 (Nat.max (fld a 16 12) (fld a 0 12 + 1)))
  let b := s.reg (motB + 4)
  let b1 := setFld b 0 12 (Nat.min 4095 (Nat.max (fld b 0 12) (fld a1 16 12 + 1)))
  let s1 := if a1 = a then s else s.storeReg r motB a1
  if b1 = b then s1 else s1.storeReg r (motB + 4) b1

/-- The monitor locks again (R410, DBG_CTRL.LOCK). -/
def State.lockMon (s : State) : State :=
  if s.otp.monLock && s.mon.unlocked then ({ s with mon := { s.mon with unlocked := false } } : State).raise 252 0 else s

/-- BLK_n_CTRL is written: EN starts or ends the link (R224, R227), and v1 holds BPP at 2 bits (R207). -/
def State.blkCtrl (s : State) (r : RegRow) (n : Nat) (v : Word) (m : Nat) : State :=
  let was := s.flag (blkA n 0) 0
  let s1 := s.put r (blkA n 0) v m
  let s2 := if s1.linkV1 n && decide (1 < fld (s1.reg (scnA n 4)) 16 2) then s1.setF (scnA n 4) 16 2 1 else s1
  let now := s2.flag (blkA n 0) 0
  if now && !was then s2.linkOn n else if was && !now then s2.linkOff n else s2

/-- The unit's part of a write to a present register with the written bits `m` (R84 allows them): the new state and the status. -/
def State.unitWrite (s : State) (r : RegRow) (a : Nat) (v : Word) (m : Nat) : State × Nat :=
  let o := a % 0x10000
  let u := s.put r a v m
  match a / 0x10000 with
  | 0x1 =>
    if o < 0x20 then (s.clearFlags (o / 4) (Nat.land v.toNat m), sOk)
    else if o < 0x40 then (s.setEnables ((o - 0x20) / 4) (s.merged r a v m), sOk)
    else if 0x400 ≤ o then (s.setRoute ((o - 0x400) / 4) (s.merged r a v m), sOk)
    else (u, sOk)
  | 0x2 => if o = 4 then (s.setReg a (wd (Nat.lor (s.reg a).toNat (Nat.land v.toNat m))), sOk) else (u, sOk)
  | 0x3 => if 0x108 ≤ o ∧ ((o - 0x100) % 0x20 = 8 ∨ (o - 0x100) % 0x20 = 0xC) then (u.orderThr r ((o - 0x100) / 0x20), sOk) else (u, sOk)
  | 0x4 =>
    if o = 0 then (if s.follower && Nat.land m 3 != 0 then (s.refuseClaim 0 0 sConflict, sConflict) else (u, sOk))
    else if o = 0x14 then s.timFreq (s.merged r a v m)
    else if o = 0x18 then s.timStep (sext 32 (Nat.land v.toNat m))
    else if 0x100 ≤ o ∧ o < 0x1C0 ∧ o % 0x20 = 0 then (u.ptpRoleSet ((o - 0x100) / 0x20) (s.ptpRole ((o - 0x100) / 0x20)), sOk)
    else if 0x400 ≤ o ∧ o < 0x600 then
      let w := (o - 0x400) / 0x10
      let was := s.flag (wcA w 0) 0
      (if u.flag (wcA w 0) 0 && (!was || u.wcTarget w != s.wcTarget w || o % 0x10 == 4 || o % 0x10 == 8) then u.wcArm w else u, sOk)
    else if 0x800 ≤ o ∧ o < 0x880 then
      let c := (o - 0x800) / 0x10
      if o % 0x10 = 0 then (if u.f (fcA c 0) 0 2 != s.f (fcA c 0) 0 2 || u.f (fcA c 0) 3 3 != s.f (fcA c 0) 3 3 then u.fcEnable c else u, sOk)
      else if o % 0x10 = 4 ∧ (u.f (fcA c 0) 0 2 = 1 ∨ u.f (fcA c 0) 0 2 = 2) then (((s.fcRetarget c).put r a v m).fcArm c, sOk)
      else (u, sOk)
    else (u, sOk)
  | 0x5 =>
    if o = 0 then
      let c := Nat.land v.toNat m
      let q := runOps (cmdOps c [(16, fun s => s.lnkStop), (17, fun s => s.lnkResume)]) s
      if q.2 = sOk then (q.1.put r a v m, sOk) else q
    else (u, sOk)
  | 0x7 =>
    if 0x100 ≤ o then
      let n := (o - 0x100) / 0x20
      if (o - 0x100) % 0x20 = 0 then ((u.dmaCut n).dmaActs n (Nat.land v.toNat m), sOk)
      else (u, sOk)
    else (u, sOk)
  | 0xA =>
    if o = 0 then
      let s1 := if natBit (Nat.land v.toNat m) 5 then u.misfeedAck else u
      (s1.shtCtrl, sOk)
    else (u, sOk)
  | 0xC => if o % 0x100 = 0 then (s.blkCtrl r (o / 0x100) v m, sOk) else (u, sOk)
  | 0xD =>
    if o = 0 ∧ s.id.dual then (if s.id.isE && Nat.land m 0x01FF000F != 0 then u.toBridge 0 u.myHello else u, sOk)
    else (s, sOk)
  | 0xE => if o = 0x10 then s.retire (wd (Nat.land v.toNat m)) else if o = 0x1C then (s.patTail (s.merged r a v m), sOk) else (u, sOk)
  | 0xF =>
    if 0x100 ≤ o then
      let n := (o - 0x100) / 0x40
      match (o - 0x100) % 0x40 with
      | 0x04 => s.stpCmd n (Nat.land v.toNat m)
      | 0x08 => s.stpTarget n (s.mergeOn r a (wd (wrapN 32 (s.sp n).target)) v m)
      | 0x1C => (u.stpReplan n, sOk) | 0x20 => (u.stpReplan n, sOk) | 0x24 => (u.stpReplan n, sOk)
      | _ => (u, sOk)
    else (u, sOk)
  | 0x10 =>
    if o < 8 then (u.orderBus r, sOk)
    else if o = 0xC then
      let q := runOps (cmdOps (Nat.land v.toNat m) [(1, fun s => s.ovAck), (2, fun s => s.chopAck)]) s
      if q.2 = sOk then (q.1.put r a v m, sOk) else q
    else if 0x100 ≤ o then
      let n := (o - 0x100) / 0x40
      match (o - 0x100) % 0x40 with
      | 0x08 => s.motSpeed n (s.mergeOn r a (wd (wrapN 18 (s.mt n).target)) v m)
      | 0x24 => s.motCmd n (Nat.land v.toNat m)
      | _ => (u, sOk)
    else (u, sOk)
  | 0x11 =>
    if 0x100 ≤ o then
      let c := (o - 0x100) / 0x10
      match o % 0x10 with
      | 0 => (u.hvEnable c (s.flag (hvA c 0) 0) (u.flag (hvA c 0) 0), sOk)
      | 4 => (u.hvTarget c (fld (u.reg (hvA c 4)) 0 16), sOk)
      | _ => (u, sOk)
    else (u, sOk)
  | 0x12 => if o = 8 then (s.csmCmd (wd (Nat.land v.toNat m)), sOk) else (u, sOk)
  | 0x13 => if o = 0 then (if natBit (Nat.land v.toNat m) 1 then u.lockMon else u, sOk) else (u, sOk)
  | 0x14 => if o < 0x180 then s.pinClaim (o / 4) (wd (Nat.land (s.reg a).toNat (0xFFFFFFFF - m) + Nat.land v.toNat m)) else (u, sOk)
  | _ => (u, sOk)

/-- A write to a block register (R9, R10, R84). PIN_SEL_n of a pool pin the AZ7476 lacks is a register of an absent unit: the write is
ignored and no claim is counted (R10, R41; DESIGN CHOICE, log entry 95, as R49 would also let it be a refused claim). -/
def State.blockWrite (s : State) (a : Nat) (v mask : Word) : State × Nat :=
  if a = clkB then
    (if s.mayChange a (Nat.land mask.toNat 2) || !bitOf mask 1 then
      (if bitOf mask 1 && bitOf v 1 then ({ s with clks := { s.clks with rootLost := true } }, sOk) else (s, sOk))
    else (s, sNotAdj))
  else match rowOf a with
    | none => (s, sOk)
    | some r =>
      let m := Nat.land mask.toNat r.bits
      if !s.id.present a ∨ m = 0 ∨ 2 ^ 32 ≤ a then (s, sOk)
      else if a / 0x10000 = 7 ∧ 0x100 ≤ a % 0x10000 ∧ a % 0x10000 < 0x700 then (s.refuseClaim 0 0 sConflict, sConflict)
      else if !s.mayChange a m then (s, sNotAdj)
      else s.unitWrite r a v m

/-- A write to a table window (chapter 7): the shadow copy of an instance that exists. -/
def State.windowWrite (s : State) (a : Nat) (v mask : Word) : State × Nat :=
  let t := (a - 0x01000000) / 2 ^ 22
  let i := a % 2 ^ 22 / 2 ^ 17
  let off := a % 2 ^ 16
  if a % 4 ≠ 0 ∨ s.id.tabInsts t ≤ i ∨ tabSize t ≤ off ∨ 2 ^ 16 ≤ a % 2 ^ 17 ∨ mask = 0 then (s, sOk)
  else if !s.tabMayChange t i then (s, sNotAdj)
  else
    let old := s.tabLe a 4
    let w := Nat.land old (0xFFFFFFFF - mask.toNat) + Nat.land v.toNat mask.toNat
    (if s.ready then s.setTabRun t i off (leBytes 4 w) else s.loadTab t i off (leBytes 4 w), sOk)

/-- A write to the descriptor window (R268): bytes of the user region. -/
def State.dmaWinWrite (s : State) (a : Nat) (l : List Byte) : State × Nat :=
  if a % l.length ≠ 0 ∨ Nat.min s.userLen 32768 < a - dmaB - 0x8000 + l.length then (s, sOk)
  else (s.memWrite false 2 (s.winDram (a - dmaB)) l, sOk)

/-- The writes an aperture write makes (R59): address, value, mask. A start or beam delay is one converted field: bits outside the mask
keep what the aperture register reads. -/
def apWrites (s : State) (o : Nat) (v mask : Word) : List RegEntry :=
  let st := (o - 0x1000) / 0x100
  let w : Word := wd (Nat.land (s.apRead o).toNat (0xFFFFFFFF - mask.toNat) + Nat.land v.toNat mask.toNat)
  if 0x1000 ≤ o ∧ o < 0x1400 ∧ o % 0x100 = 8 then
    (if fld mask 0 16 = 0 then [] else [{ addr := scnA st 0xC, val := wd (fld w 0 16 * 64), mask := wd 0x3FFFFF }])
  else if 0x1000 ≤ o ∧ o < 0x1400 ∧ 0x20 ≤ o % 0x100 ∧ o % 0x100 < 0x40 then
    (if fld mask 0 11 = 0 then []
     else [{ addr := scnA st (0x100 + (o % 0x100 - 0x20)), val := wd (wrapN 17 (clampI (-65536) 65535 (sfld w 0 11 * 64))), mask := wd 0x1FFFF }])
  else
    let bpp : List RegEntry := if 0x1000 ≤ o ∧ o < 0x1400 ∧ o % 0x100 = 4 ∧ bitOf mask 16 then
      [{ addr := scnA st 4, val := wd (fld v 16 1 * 65536), mask := wd 0x30000 }] else []
    let es := (apMap o).filterMap (fun e =>
      let m := fld mask e.2.2.2 e.2.2.1
      if m = 0 then none else some { addr := e.1, val := wd (fld v e.2.2.2 e.2.2.1 * 2 ^ e.2.1), mask := wd (m * 2 ^ e.2.1) : RegEntry })
    -- fields of one register are one write of it
    let regs := (es ++ bpp).foldl (fun (l : List RegEntry) e =>
      match l.find? (fun x => x.addr == e.addr) with
      | some _ => l.map (fun x => if x.addr == e.addr then { x with val := wd (Nat.lor x.val.toNat e.val.toNat), mask := wd (Nat.lor x.mask.toNat e.mask.toNat) } else x)
      | none => l ++ [e]) []
    if s.compat5 then regs else []

/-- The block writes of one aperture write, in order; the first refusal stands for the whole (R59, R84). -/
def State.writeList (s : State) (ws : List RegEntry) : State × Nat :=
  let r := runOps (ws.map (fun w => fun s => State.blockWrite s w.addr w.val w.mask)) s
  if r.2 = sOk then r
  else match ws.find? (fun w => (s.blockWrite w.addr w.val w.mask).2 != sOk) with
    | some w => s.blockWrite w.addr w.val w.mask
    | none => (s, r.2)

/-- One write of a register as software makes it (R84, R385, R387): the state and the status code. -/
def State.writeEntry (s : State) (e : RegEntry) : State × Nat :=
  if inWindow e.addr then s.windowWrite e.addr e.val e.mask
  else if inAperture e.addr then
    if !s.compat5 ∨ e.addr % 4 ≠ 0 then (s, sOk) else s.writeList (apWrites s (e.addr - 0x08000000) e.val e.mask)
  else if inDmaWin e.addr then
    if e.addr % 4 ≠ 0 ∨ e.mask = 0 then (s, sOk)
    else
      let old := s.readReg e.addr
      s.dmaWinWrite e.addr (leBytes 4 (Nat.land old.2.1.toNat (0xFFFFFFFF - e.mask.toNat) + Nat.land e.val.toNat e.mask.toNat))
  else s.blockWrite e.addr e.val e.mask

/-- A whole-word entry. -/
def allBits : Word := 0xFFFFFFFF

/-- R294: VMAX, AMAX or JMAX of a step channel is written. -/
def execStpLimitWrite (n which : Nat) (v : Word) (s : State) : Ans :=
  if s.inReset || decide (s.id.steppers ≤ n) || decide (3 ≤ which) then .next s
  else .next (State.answer (stpA n (0x1C + 4 * which)) (s.writeEntry { addr := stpA n (0x1C + 4 * which), val := v, mask := allBits }))

/-- R59: a write to an aperture register. -/
def execApertureWrite (off : Nat) (v mask : Word) (s : State) : Ans :=
  if s.inReset || decide (0x10000 ≤ off) then .next s
  else .next (State.answer (0x08000000 + off) (s.writeEntry { addr := 0x08000000 + off, val := v, mask := mask }))

/-- R49: a write of PIN_SEL_n. -/
def execPinSelWrite (n : Nat) (v mask : Word) (s : State) : Ans :=
  if s.inReset || decide (s.id.pins ≤ n) then .next s
  else .next (State.answer (pinB + 4 * n) (s.writeEntry { addr := pinB + 4 * n, val := v, mask := mask }))

/-- R51: FUNC 0 releases pool pin `n`. -/
def execPinRelease (n : Nat) (s : State) : Ans :=
  if s.inReset || decide (s.id.pins ≤ n) then .next s
  else .next (State.answer (pinB + 4 * n) (s.writeEntry { addr := pinB + 4 * n, val := 0, mask := 0xFF }))

/-- R391: a write of EVT_FLAGk. -/
def execEventFlagClear (k : Nat) (v : Word) (s : State) : Ans :=
  if s.inReset || decide (8 ≤ k) then .next s
  else .next (State.answer (evtB + 4 * k) (s.writeEntry { addr := evtB + 4 * k, val := v, mask := allBits }))

/-- R392: a write of EVT_ENk. -/
def execEventEnableWrite (k : Nat) (v mask : Word) (s : State) : Ans :=
  if s.inReset || decide (8 ≤ k) then .next s
  else .next (State.answer (evtB + 0x20 + 4 * k) (s.writeEntry { addr := evtB + 0x20 + 4 * k, val := v, mask := mask }))

/-- R394: a write of EVT_SRCn. -/
def execEventRouteWrite (n : Nat) (v mask : Word) (s : State) : Ans :=
  if s.inReset || decide (256 ≤ n) then .next s
  else .next (State.answer (evSrcA n) (s.writeEntry { addr := evSrcA n, val := v, mask := mask }))

end Sys2Proof.Machine
end

