-- ==== Sys2Proof/Machine/Host.lean ====
section
/-! DEFINITION. The host's requests (R91, R94, R95, R379 to R388, R392): each is carried out by one operation on its fields, whether it
comes as a command, in a datagram, through the rings or over the bridge; then EVENT messages. -/
namespace Sys2Proof.Machine

/-- R392: the sender of a HELLO becomes the event destination. Of two in one clock the Ethernet one stands, and HST_DEST is raised once (R394). -/
def State.helloFrom (s : State) (d : Dest) : State :=
  let same := s.host.helloAt.any (fun e => e.1 == s.clk)
  let told := s.host.helloAt.any (fun e => e.1 == s.clk && e.2)
  if same && d.link == .pcie && s.host.dest.any (fun x => x.link != .pcie) then s
  else
    let s1 : State := { s with host := { s.host with dest := some d, helloAt := some (s.clk, told || s.host.dest != some d) } }
    s1.raiseIf (s.host.dest != some d && !told) 250 0

/-- HELLO is answered with the identity of the die; one relayed to the engine die changes no destination (R392). -/
def doHello (h : ReqHdr) (s : State) : Rsp :=
  let s1 := if s.id.isE then s else s.helloFrom { link := h.link, addr := h.src, port := h.port }
  ack s1 (wordBytes s1.id.glbId ++ wordBytes s1.glbBoot ++ leBytes 2 (s.maxMsg h - 16) ++ leBytes 2 1)

/-- R379: a job slot is taken. -/
def doJobOpen (job : Nat) (s : State) : Rsp :=
  if (s.job? job).isSome then nak s sBadState
  else if 16 ≤ s.jobs.length then nak s sNoRes
  else ack { s with jobs := s.jobs ++ [{ id := job, closed := false, pages := [] }] } []

/-- R379: a job is closed; it ends when its last page has been released. -/
def doJobClose (job : Nat) (s : State) : Rsp :=
  match s.job? job with
  | none => nak s sBadState
  | some j => if j.closed then nak s sBadState else ack ((s.modJob job (fun (x : Job) => { x with closed := true })).endJobs) []

/-- The values of a fragment that its layout allows (Table 17.5). -/
def fragOk (f : PageFrag) : Bool :=
  decide (16 ≤ f.lines) && decide (f.lines ≤ 122880) && decide (f.medium ≤ 13000) && decide (f.plane < 6) && natBit f.planes f.plane &&
  decide (1 ≤ f.entries.length) && decide (f.entries.length ≤ 82) && decide (8 ≤ f.pitch) && decide (f.pitch ≤ 16384) &&
  f.entries.all (fun (e : BandEntry) => decide (16 ≤ e.lines) && decide (e.lines ≤ 1024) && e.lines % 16 == 0)

/-- A band as described. -/
def bandOf (ix : Nat) (e : BandEntry) : Band :=
  { idx := ix, first := e.firstLine, lines := e.lines, compLen := e.compLen, res := .absent, got := [], stream := [], raw := [],
    handed := false, moved := 0, t0 := 0, ahead := 0, hist := none }

/-- The bands of a plane with entries added; `none` where an entry is described differently than before (R380). -/
def addBands : List Band → Nat → List BandEntry → Option (List Band)
  | l, _, [] => some l
  | l, ix, e :: es =>
    match l.find? (fun (b : Band) => b.idx == ix) with
    | none => addBands (insertBy (fun (b : Band) => (b.idx : Int)) (bandOf ix e) l) (ix + 1) es
    | some b => if b.first = e.firstLine ∧ b.lines = e.lines ∧ b.compLen = e.compLen then addBands l (ix + 1) es else none

/-- The bands have the indices 0, 1, 2 … and cover the lines from `line` to `lines` − 1 without gap or overlap (R380). -/
def covers (lines : Nat) : Nat → Nat → List Band → Bool
  | _, line, [] => line == lines
  | ix, line, b :: bs => b.idx == ix && b.first == line && covers lines (ix + 1) (line + b.lines) bs

/-- Every plane of the page is described whole (R380). -/
def Page.whole (p : Page) : Bool :=
  (upTo 6).all (fun k => !natBit p.mask k || (match p.plane? k with | some q => covers p.lines 0 0 q.bands | none => false))

/-- The page a fragment makes of `p`; `none` where it breaks R380. -/
def Page.take (p : Page) (f : PageFrag) : Option Page :=
  if p.lines ≠ f.lines ∨ p.medium ≠ f.medium ∨ p.mask ≠ f.planes % 64 ∨ p.carry ≠ natBit f.flags 0 then none
  else
    let q := (p.plane? f.plane).getD { station := f.plane, pitch := f.pitch, bands := [] }
    if q.pitch ≠ f.pitch then none
    else match addBands q.bands f.firstBand f.entries with
      | none => none
      | some bs =>
        let rest := p.planes.filter (fun (x : Plane) => x.station != f.plane)
        let p1 := { p with planes := insertBy (fun (x : Plane) => (x.station : Int)) { q with bands := bs } rest,
                           complete := p.complete || natBit f.flags 1 }
        if p1.complete && !p1.whole then none else some p1

/-- The page a first fragment begins: its source is the page before it in pick order, fixed now (R134). -/
def Job.newPage (j : Job) (f : PageFrag) : Page :=
  { page := f.page, lines := f.lines, medium := f.medium, mask := f.planes % 64, carry := natBit f.flags 0,
    source := j.nextSource,
    complete := false, relAsked := false, released := false, picked := false, planes := [] }

/-- R380: a fragment is added to its page. -/
def doPageDesc (f : PageFrag) (s : State) : Rsp :=
  match s.job? f.job with
  | none => nak s sBadState
  | some j =>
    if j.closed then nak s sBadState
    else match j.page? f.page with
      | none =>
        if !fragOk f then nak s sCheck
        else match (j.newPage f).take f with
          | none => nak s sCheck
          | some p => ack (s.modJob f.job (fun (x : Job) => { x with pages := x.pages ++ [p] })) []
      | some p0 =>
        if p0.relAsked then nak s sBadState
        else if !fragOk f then nak s sCheck
        else match p0.take f with
          | none => nak s sCheck
          | some p => ack (s.modPage f.job f.page (fun _ => p)) []

/-- Received bytes with a part laid over them, in ascending offset. -/
def layPart (got : List (Nat × Byte)) (off : Nat) (data : List Byte) : List (Nat × Byte) :=
  got.filter (fun e => decide (e.1 < off)) ++ ((upTo data.length).map (· + off)).zip data ++
    got.filter (fun e => decide (off + data.length ≤ e.1))

/-- R94, R139, R148, R381: a part of a band. `raw`: it came as BAND_RAW. -/
def doBandPart (raw : Bool) (p : BandPart) (s : State) : Rsp :=
  let r : BandRef := { job := p.job, page := p.page, plane := p.plane, band := p.band }
  let gone := match s.page? p.job p.page with | some x => x.relAsked | none => false
  if raw && !(upTo 8).any s.chsServ then nak s sNoRes
  else if gone then nak s sBadState
  else match s.band? r, s.plane? p.job p.page p.plane with
    | some b, some q =>
      let size := if raw then b.rawLen q.pitch else b.compLen
      if raw != (b.compLen == 0) || decide (size < p.off + p.data.length) then nak s sCheck
      else if b.res != .absent || b.handed then ack s []
      else
        let got := layPart b.got p.off p.data
        if s.pageCap < s.pageUsed + (got.length - b.got.length) then nak s sNoRes
        else if got.length < size then ack (s.modBand r (fun (x : Band) => { x with got := got })) []
        else if raw then
          let s1 := s.modBand r (fun (x : Band) => { x with got := [], raw := got.map (·.2), handed := true })
          ack { s1 with codec := { s1.codec with rawQ := s1.codec.rawQ ++ [r] } } []
        else
          ack (((s.modBand r (fun (x : Band) => { x with got := [], stream := got.map (·.2) })).setRes r .inPageStore).hostDone b.compLen) []
    | _, _ => nak s sCheck

/-- R95, R379: pages are asked to be released; the release takes effect when no admitted sheet uses them. -/
def doPageRelease (job page : Nat) (s : State) : Rsp :=
  match s.job? job with
  | none => nak s sBadState
  | some j =>
    if page = 0xFFFF then
      ack ((s.modJob job (fun (x : Job) => { x with pages := x.pages.map (fun (y : Page) => { y with relAsked := true }) })).dueReleases) []
    else match j.page? page with
      | none => nak s sBadState
      | some _ => ack ((s.modPage job page (fun (y : Page) => { y with relAsked := true })).dueReleases) []

/-- QUERY, KIND 0 (R382): the global status registers. -/
def State.kind0 (s : State) : List Byte :=
  ([0x0, 0x10, shtB + 0x20, shtB + 0x3C, thmB, memB + 4, brgB + 4, timB + 0x20, lnkB + 8].map s.peek).flatMap wordBytes

def doQueryGlobal (s : State) : Rsp := status s (0 :: s.kind0)

/-- QUERY, KIND 1 (R382): the 16 token records. -/
def doQueryTokens (s : State) : Rsp := status s (1 :: s.sched.toks.flatMap (fun (t : Token) => t.words.flatMap wordBytes))

/-- Bands of plane `k` in each residency state. -/
def Page.resCounts (p : Page) (k : Nat) : List Nat :=
  let bs := match p.plane? k with | some q => q.bands | none => []
  (upTo 6).map (fun c => bs.countP (fun (b : Band) => b.res.code == c))

/-- QUERY, KIND 2 (R382): the residency counts of a page, plane by plane. -/
def doQueryResidency (job page : Nat) (s : State) : Rsp :=
  match s.page? job page with
  | none => nak s sBadState
  | some p => status s (2 :: ((upTo 6).flatMap p.resCounts).flatMap (leBytes 2))

/-- Claim entries one at a time; the first refusal ends the message (R386, R388). -/
def claimAll (n : Nat) : List (Nat × Nat) → State → Rsp
  | [], s => ack s []
  | (w0, owner) :: l, s =>
    let r := s.claimEntry (w0 % 256) (w0 / 256 % 65536) owner
    if r.2 = sOk then claimAll (n + 1) l r.1 else nakAt r.1 r.2 n w0

/-- The 8-byte claim entries of a body. -/
def claimList (fuel : Nat) (l : List Byte) : List (Nat × Nat) :=
  match fuel with
  | 0 => []
  | n + 1 => if l.length < 8 then [] else (quad l 0, quad l 4) :: claimList n (l.drop 8)

/-- R386: SET. -/
def doSet (table inst off : Nat) (data : List Byte) (s : State) : Rsp :=
  if table = 0 then (if data.length % 8 ≠ 0 then nak s sCheck else claimAll 0 (claimList data.length data) s)
  else if 10 < table then nak s sCheck
  else if s.id.tabInsts table ≤ inst then nak s sNoRes
  else if !s.tabMayChange table inst then nak s sNotAdj
  else if s.ready then ack (s.setTabRun table inst off data) []
  else ack (s.loadTab table inst off data) []

/-- R384: READ_REG. An uncorrectable word ends it, with the words read before it. -/
def doReadReg (addr count : Nat) (s : State) : Rsp :=
  if count = 0 ∨ 64 < count then nak s sCheck
  else
    let r := s.readRegs addr count
    let ws := r.2.1.flatMap wordBytes
    if r.2.2 then { st := r.1, msgs := [(0x12, sCheck, nakBody r.2.1.length (addr + 4 * r.2.1.length) ++ ws)] } else ack r.1 ws

/-- Register entries in order; the first refusal ends the message (R385). -/
def writeAll (n : Nat) : List RegEntry → State → Rsp
  | [], s => ack s []
  | e :: l, s =>
    let r := s.writeEntry e
    if r.2 = sOk then writeAll (n + 1) l r.1 else nakAt r.1 r.2 n e.addr

/-- R385, FORM 0. -/
def doWriteReg (l : List RegEntry) (s : State) : Rsp := if 64 < l.length then nak s sCheck else writeAll 0 l s

/-- R385, R268, FORM 1: every value is written in one access. -/
def doWriteWindow (l : List WinEntry) (s : State) : Rsp :=
  if 64 < l.length || l.any (fun (e : WinEntry) => !inDmaWin e.addr || e.addr % 8 != 0) then nak s sCheck
  else ack (l.foldl (fun s (e : WinEntry) => (s.dmaWinWrite e.addr (leBytes 8 e.val)).1) s) []

/-- R383, OP 0: the device time, seconds and ns. -/
def doTimeRead (s : State) : Rsp := ack s (leBytes 8 (s.ns / secNs) ++ leBytes 4 (s.ns % secNs))

/-- R383, OP 1: device time is set; NS above 999,999,999 counts as that. -/
def doTimeSet (sec ns : Nat) (s : State) : Rsp :=
  if s.timSrc ≠ 0 then nak s sConflict
  else if s.flying then nak s sBadState
  else ack (s.stepTo ((sec % 2 ^ 48 * secNs + Nat.min ns 999999999) * 2 ^ 48)) []

/-- R383, OP 2: device time is stepped. -/
def doTimeStep (d : Int) (s : State) : Rsp :=
  if s.timSrc ≠ 0 then nak s sConflict
  else
    let r := s.timStep d
    if r.2 = sOk then ack r.1 [] else nak r.1 r.2

/-- Bodies as bytes (Table 17.5, R379 to R386). -/
def jobBody (job : Nat) : List Byte := leBytes 2 job ++ [0, 0]
def fragBody (f : PageFrag) : List Byte :=
  leBytes 2 f.job ++ leBytes 2 f.page ++ leBytes 4 f.lines ++ leBytes 2 f.medium ++ [BitVec.ofNat 8 f.planes, BitVec.ofNat 8 f.flags,
    BitVec.ofNat 8 f.plane, BitVec.ofNat 8 f.entries.length] ++ leBytes 2 f.pitch ++ leBytes 2 f.firstBand ++ [0, 0] ++
  f.entries.flatMap (fun (e : BandEntry) => leBytes 4 e.firstLine ++ leBytes 2 e.lines ++ [0, 0] ++ leBytes 4 e.compLen)
def partBody (p : BandPart) : List Byte :=
  leBytes 2 p.job ++ leBytes 2 p.page ++ [BitVec.ofNat 8 p.plane, 0] ++ leBytes 2 p.band ++ leBytes 4 p.off ++ p.data
def entriesBody (l : List RegEntry) : List Byte :=
  [0, 0, 0, 0] ++ l.flatMap (fun (e : RegEntry) => leBytes 4 e.addr ++ wordBytes e.val ++ wordBytes e.mask)
def winBody (l : List WinEntry) : List Byte := [1, 0, 0, 0] ++ l.flatMap (fun (e : WinEntry) => leBytes 4 e.addr ++ leBytes 8 e.val)

/-- The rows: each request with its type code (Table 17.3). -/
def execHello (h : ReqHdr) (s : State) : Ans := .next (s.request h 1 [] (doHello h))
def execJobOpen (h : ReqHdr) (job : Nat) (s : State) : Ans := .next (s.request h 2 (jobBody job) (doJobOpen job))
def execJobClose (h : ReqHdr) (job : Nat) (s : State) : Ans := .next (s.request h 3 (jobBody job) (doJobClose job))
def execPageDesc (h : ReqHdr) (f : PageFrag) (s : State) : Ans := .next (s.request h 4 (fragBody f) (doPageDesc f))
/-- BAND_DATA and BAND_RAW are carried out by the die with the page store, whatever DIE they carry (R377). -/
def execBandData (h : ReqHdr) (p : BandPart) (s : State) : Ans :=
  if s.id.hostSide then .next (s.requestX true h 5 (partBody p) (doBandPart false p)) else .next s
def execBandRaw (h : ReqHdr) (p : BandPart) (s : State) : Ans :=
  if s.id.hostSide then .next (s.requestX true h 6 (partBody p) (doBandPart true p)) else .next s
def execPageRelease (h : ReqHdr) (job page : Nat) (s : State) : Ans :=
  .next (s.request h 7 (leBytes 2 job ++ leBytes 2 page) (doPageRelease job page))
def execQueryGlobalStatus (h : ReqHdr) (s : State) : Ans := .next (s.request h 8 [0] doQueryGlobal)
def execQueryTokens (h : ReqHdr) (s : State) : Ans := .next (s.request h 8 [1] doQueryTokens)
def execQueryResidency (h : ReqHdr) (job page : Nat) (s : State) : Ans :=
  .next (s.request h 8 ([2, 0] ++ leBytes 2 job ++ leBytes 2 page) (doQueryResidency job page))
def execSetTable (h : ReqHdr) (table inst off : Nat) (data : List Byte) (s : State) : Ans :=
  .next (s.request h 9 (leBytes 2 table ++ leBytes 2 inst ++ leBytes 4 off ++ data) (doSet table inst off data))
def execReadReg (h : ReqHdr) (addr count : Nat) (s : State) : Ans :=
  .next (s.request h 0xA (leBytes 4 addr ++ leBytes 2 count ++ [0, 0]) (doReadReg addr count))
def execWriteReg (h : ReqHdr) (l : List RegEntry) (s : State) : Ans := .next (s.request h 0xB (entriesBody l) (doWriteReg l))
def execWriteRegWindow (h : ReqHdr) (l : List WinEntry) (s : State) : Ans := .next (s.request h 0xB (winBody l) (doWriteWindow l))
def execTimeRead (h : ReqHdr) (s : State) : Ans := .next (s.request h 0xE [0, 0, 0, 0] doTimeRead)
def execTimeSet (h : ReqHdr) (sec ns : Nat) (s : State) : Ans :=
  .next (s.request h 0xE ([1, 0, 0, 0] ++ leBytes 8 sec ++ leBytes 4 ns) (doTimeSet sec ns))
def execTimeStep (h : ReqHdr) (d : Int) (s : State) : Ans :=
  .next (s.request h 0xE ([2, 0, 0, 0] ++ leBytes 8 (wrapN 64 d)) (doTimeStep d))

/-- Entries of a WRITE_REG body. -/
def entryList (fuel : Nat) (l : List Byte) : List RegEntry :=
  match fuel with
  | 0 => []
  | n + 1 => if l.length < 12 then [] else { addr := quad l 0, val := wd (quad l 4), mask := wd (quad l 8) } :: entryList n (l.drop 12)
def winList (fuel : Nat) (l : List Byte) : List WinEntry :=
  match fuel with
  | 0 => []
  | n + 1 => if l.length < 12 then [] else { addr := quad l 0, val := oct l 4 } :: winList n (l.drop 12)
def bandList (fuel : Nat) (l : List Byte) : List BandEntry :=
  match fuel with
  | 0 => []
  | n + 1 => if l.length < 12 then [] else { firstLine := quad l 0, lines := half l 4, compLen := quad l 8 } :: bandList n (l.drop 12)

/-- What a request of a type does for its body; `none` where the body breaks the layout of the type (R374). -/
def runOf (h : ReqHdr) (type : Nat) (b : List Byte) : Option (State → Rsp) :=
  let n := b.length
  match type with
  | 1 => if n = 0 then some (doHello h) else none
  | 2 => if n = 4 then some (doJobOpen (half b 0)) else none
  | 3 => if n = 4 then some (doJobClose (half b 0)) else none
  | 4 =>
    if n < 20 ∨ n ≠ 20 + 12 * byteAt b 13 then none
    else some (doPageDesc { job := half b 0, page := half b 2, lines := quad b 4, medium := half b 8, planes := byteAt b 10, flags := byteAt b 11,
                            plane := byteAt b 12, pitch := half b 14, firstBand := half b 16, entries := bandList n (b.drop 20) })
  | 5 | 6 =>
    if n < 12 then none
    else some (doBandPart (type == 6) { job := half b 0, page := half b 2, plane := byteAt b 4, band := half b 6, off := quad b 8, data := b.drop 12 })
  | 7 => if n = 4 then some (doPageRelease (half b 0) (half b 2)) else none
  | 8 =>
    if n = 0 then none
    else if byteAt b 0 = 0 then some doQueryGlobal
    else if byteAt b 0 = 1 then some doQueryTokens
    else if byteAt b 0 = 2 ∧ n = 6 then some (doQueryResidency (half b 2) (half b 4))
    else none
  | 9 => if n < 8 then none else some (doSet (half b 0) (half b 2) (quad b 4) (b.drop 8))
  | 0xA => if n = 8 then some (doReadReg (quad b 0) (half b 4)) else none
  | 0xB =>
    if n < 4 ∨ (n - 4) % 12 ≠ 0 then none
    else if byteAt b 0 = 0 then some (doWriteReg (entryList n (b.drop 4)))
    else if byteAt b 0 = 1 then some (doWriteWindow (winList n (b.drop 4)))
    else none
  | 0xE =>
    if byteAt b 0 = 0 ∧ n = 4 then some doTimeRead
    else if byteAt b 0 = 1 ∧ n = 16 then some (doTimeSet (oct b 4) (quad b 12))
    else if byteAt b 0 = 2 ∧ n = 12 then some (doTimeStep (sext 64 (oct b 4)))
    else none
  | 0xF => if n = 4 then some (doRetire (wd (quad b 0))) else none
  | 0x10 =>
    if n ≠ 4 then none
    else if byteAt b 0 = 0 then some doConsReport
    else if byteAt b 0 = 1 then some (doConsAuth h (byteAt b 1))
    else none
  | _ => none

/-- A type only the AZ746 sends, a bridge code or no type at all (R373). -/
def badType (type : Nat) : Bool := type == 0 || type == 0xC || type == 0xD || decide (0x11 ≤ type)

/-- A message as it reaches this die over a link, from an address and port (R372 to R376). What is too short for a header names no request and
is ignored. -/
def State.takeMsg (s : State) (link : Link) (src port : Nat) (m : List Byte) : State :=
  if m.length < 16 then s
  else
    let type := byteAt m 0
    let b := m.drop 16
    let h : ReqHdr := { link := link, src := src, port := port, seq := quad m 4, die := byteAt m 1 % 2, crc := quad m 12 }
    if badType type then s.requestX true h type [] (fun s => nak s sBadType)
    else if half m 8 ≠ b.length ∨ bodyCrc b ≠ h.crc then s.requestX true h type [] (fun s => nak s sCheck)
    else match runOf h type b with
      | some run => s.requestX (type == 5 || type == 6) h type b run
      | none => s.request h type b (fun s => nak s sCheck)

/-- R236, R392: the oldest unsent EVENT goes to the event destination, where there is one with room; an engine die's starts over the bridge to the
host die once it is next there (R237). -/
def execEventSend (s : State) : Ans :=
  if s.inReset then .next s
  else if s.id.isE then (match s.nextMsg with | some (_, some _) => .next s.startMsg | _ => .next s)
  else match s.host.unsent with
    | [] => .next s
    | m :: rest =>
      let s0 : State := { s with host := { s.host with unsent := rest } }
      let body := s.evBody m
      let vec := fld (s.reg (evSrcA m.src)) 2 6
      if m.die = 0 then .next ((s0.unasked 0xC vec body).getD s)
      else match s.host.dest with
        | none => .next s
        | some d => .next ((s0.toHost d 0xC 0 m.seq m.die vec body).getD s)

end Sys2Proof.Machine
end

