-- ==== Sys2Proof/Machine/Links.lean ====
section
/-! DEFINITION. The host links (R367 to R371): the PCIe endpoint with its rings and BAR0, and the host Ethernet ports. -/
namespace Sys2Proof.Machine

/-- One message or pad record is read from the H2D ring and carried out (R369); the head moves past it. -/
def State.readRing (s : State) : State :=
  let m := s.host.h2d
  let head := s.h2dHead
  let toEnd := s.h2dSize - head
  let n := if byteAt m 0 = 0 && decide (16 + half m 8 = toEnd) then toEnd else ringLen (16 + half m 8)
  let n := Nat.min n m.length
  let s1 := ({ s with host := { s.host with h2d := m.drop n } } : State).setReg (ringB + 0x24) (wd ((head + n) % s.h2dSize))
  if byteAt m 0 = 0 && decide (16 + half m 8 = toEnd) then s1 else s1.takeMsg .pcie 0 0 (m.take (16 + half m 8))

/-- The AZ746 reads its H2D ring until it is empty or the D2H ring has no room (R369). -/
def State.readH2d (s : State) : Nat → State
  | 0 => s
  | n + 1 => if s.host.h2d.length < 16 || !s.ringOn || !s.d2hRoom 1024 then s else State.readH2d s.readRing n

/-- RING_ERR (Table 17.1): a tail or head outside its ring or not aligned. -/
def State.ringErr (s : State) : State := s.setF (ringB + 0x30) 2 1 1

/-- R369, R394: the doorbell. `bytes` is what the host has put into the ring since the last tail. -/
def execRingH2dTail (tail : Nat) (bytes : List Byte) (s : State) : Ans :=
  if s.inReset || !s.id.pcie || !s.host.pcie.up then .next s
  else if tail % 64 ≠ 0 ∨ s.h2dSize ≤ tail then .next s.ringErr
  else
    let n := (tail + s.h2dSize - s.h2dTail) % s.h2dSize
    let new := bytes.take n ++ List.replicate (n - bytes.length) 0
    let s1 := ({ s with host := { s.host with h2d := s.host.h2d ++ new } } : State).setReg (ringB + 0x20) (wd tail)
    .next (s1.readH2d (s1.host.h2d.length / 64 + 1))

/-- R369: the host has consumed messages; reading of the H2D ring resumes. -/
def execRingD2hHead (head : Nat) (s : State) : Ans :=
  if s.inReset || !s.id.pcie || !s.host.pcie.up then .next s
  else if head % 64 ≠ 0 ∨ s.d2hSize ≤ head then .next s.ringErr
  else
    let s1 := s.setReg (ringB + 0x2C) (wd head)
    .next (s1.readH2d (s1.host.h2d.length / 64 + 1))

/-- Both rings are empty. -/
def State.ringsEmpty (s : State) : State :=
  ({ s with host := { s.host with h2d := [] } } : State).each [0x20, 0x24, 0x28, 0x2C] (fun s o => s.setReg (ringB + o) 0)

/-- RING_CTRL is written (Table 17.1); RESET empties both rings. -/
def State.ringCtrl (s : State) (v : Word) (m : Nat) : State :=
  match rowOf (ringB + 8) with
  | none => s
  | some r =>
    let s1 := s.setReg (ringB + 8) (s.merged r (ringB + 8) v m)
    let s2 := if natBit (Nat.land v.toNat m) 1 then s1.ringsEmpty else s1
    s2.readH2d (s2.host.h2d.length / 64 + 1)

/-- R369: a write of RING_CTRL. -/
def execRingReset (v : Word) (s : State) : Ans :=
  if s.inReset || !s.id.pcie || !s.host.pcie.up then .next s else .next (s.ringCtrl v 0xFFFFFFFF)

/-- A write to a BAR0 register without a command of its own (Table 17.1): RING_CTRL and the ring bases. -/
def State.barWrite (s : State) (a : Nat) (v mask : Word) : State :=
  if !s.id.pcie || !s.host.pcie.up then s
  else if a = ringB + 8 then s.ringCtrl v mask.toNat
  else if a = ringB + 0x20 ∨ a = ringB + 0x2C then s
  else match rowOf a with
    | none => s
    | some r => s.setReg a (s.merged r a v mask.toNat)

/-- What a BAR0 register reads (Table 17.1). -/
def State.barRead (s : State) (o : Nat) : Word :=
  if o = 0 then s.id.glbId
  else if o = 4 then s.glbBoot
  else if o = 0x30 then
    pack [(b2n s.ringOn, 0, 1), (b2n (!s.d2hRoom 1024), 1, 1), (fld (s.reg (ringB + 0x30)) 2 1, 2, 1), (s.host.pcie.rate, 4, 3), (s.host.pcie.width, 8, 3)]
  else s.reg (ringB + o)

/-- R84: a write of any register that has no command of its own. -/
def execRegisterWrite (e : RegEntry) (s : State) : Ans :=
  if s.inReset then .next s
  else if 2 ^ 32 ≤ e.addr then .next (s.barWrite e.addr e.val e.mask)
  else .next (State.answer e.addr (s.writeEntry e))

/-- R370: the endpoint and the ring registers are reset; what is still in the H2D ring is lost. -/
def execPerstN (s : State) : Ans :=
  if s.inReset || !s.id.pcie then .next s
  else
    let s1 : State := { s with regs := s.regs.filter (fun e => decide (e.1 < ringB)), host := { s.host with pcie := LinkState.down, h2d := [] } }
    .next ((s1.raiseIf s.host.pcie.up 248 2).raise 251 0)

/-- The PCIe Device ID (R368): the last four digits of the variant code, in hex. -/
def Die.deviceId (d : Die) : Nat := 0x7400 + d.variant

/-- BAR0 (R368): its size, the places of the MSI-X table and the pending-bit array, and the number of vectors. -/
def bar0Size : Nat := 4096
def msixTable : Nat := 0x800
def msixPba : Nat := 0xC00
def msixVectors : Nat := 64

/-- R367, R368, R435: a host link goes up or down, or changes rate or width; an Ethernet port runs at its configured rate. The links come up at the end of step 7; on the built-in default PCIe trains
at Gen3 at most (R66). The engine die hears of the new payload rate. -/
def execHostLinkChange (link : Link) (up : Bool) (rate width : Nat) (s : State) : Ans :=
  if s.inReset || (up && decide (s.boot.stage < 8)) then .next s
  else match link with
    | .pcie =>
      let l : LinkState := if up then { up := true, rate := clampN 3 (if s.boot.image.isSome then 5 else 3) rate, width := if width < 2 then 1 else if width < 4 then 2 else 4 } else .down
      if !s.id.pcie || l == s.host.pcie then .next s
      else .next ((({ s with host := { s.host with pcie := l, retrains := if s.host.pcie.up && up then s.host.retrains + 1 else s.host.retrains } } :
        State).raise 248 2).tellRate)
    | .eth p =>
      let l : LinkState := if up then { up := true, rate := s.f (ethB + 0x100 * p) 1 2, width := 1 } else .down
      if s.id.ethPorts ≤ p ∨ l = s.host.eth.getD p .down ∨ (up = true ∧ s.flag (ethB + 0x100 * p) 0 = false) then .next s
      else .next ((({ s with host := { s.host with eth := updAt s.host.eth p (fun _ => l) } } : State).raise 248 p).tellRate)

/-- Ethernet port `p` takes part: it exists, is enabled and up. -/
def State.portOn (s : State) (p : Nat) : Bool :=
  decide (p < s.id.ethPorts) && s.ethUp p

/-- R371: a datagram is a message, or is discarded and counted. -/
def execUdpDatagram (d : Datagram) (s : State) : Ans :=
  if s.inReset || !s.portOn d.port then .next s
  else
    let a := ethB + 0x100 * d.port
    if d.frag || !d.sumOk || d.dport != s.f a 16 16 || !s.flag a (if d.v6 then 3 else 4) || decide (d.payload.length < 16) then
      .next (s.bump (a + 0x28) 16 16 1)
    else .next (s.takeMsg (.eth d.port) d.src d.sport d.payload)

/-- The addresses of port `p` (R371, Table 17.12): the registers, or link-local ones where they are 0 and LL is set. -/
def State.ip4 (s : State) (p : Nat) : Nat :=
  let a := (s.act (ethB + 0x100 * p + 4)).toNat
  if a ≠ 0 then a
  else if s.flag (ethB + 0x100 * p) 5 then 0xA9FE0100 + Config.linkLocal4 (s.otp.mac.getD p 0) % 0xFE00 else 0
def State.ip6 (s : State) (p : Nat) : Nat :=
  let a := sumN ((upTo 4).map (fun i => (s.act (ethB + 0x100 * p + 0x10 + 4 * i)).toNat * 2 ^ (32 * i)))
  if a ≠ 0 then a
  else if s.flag (ethB + 0x100 * p) 5 then 0xFE80 * 2 ^ 112 + Config.linkLocal6 (s.otp.mac.getD p 0) % 2 ^ 64 else 0

/-- An address of this port is asked for. -/
def State.mine (s : State) (p : Nat) (v6 : Bool) (ip : Nat) : Bool :=
  s.portOn p && s.flag (ethB + 0x100 * p) (if v6 then 3 else 4) && ip != 0 && ip == (if v6 then s.ip6 p else s.ip4 p)

/-- R371: ARP. The answer gives this port's MAC and IP addresses to the asker. -/
def execArpRequest (p ip mac : Nat) (s : State) : Ans :=
  if s.inReset || !s.mine p false ip then .next s
  else .next (s.emit (.net p 1 (beBytes 6 (s.otp.mac.getD p 0) ++ beBytes 4 ip ++ beBytes 6 mac)))

/-- R371: IPv6 neighbour discovery. -/
def execNeighbourDiscovery (p ip mac : Nat) (s : State) : Ans :=
  if s.inReset || !s.mine p true ip then .next s
  else .next (s.emit (.net p 2 (beBytes 6 (s.otp.mac.getD p 0) ++ beBytes 16 ip ++ beBytes 6 mac)))

/-- R371: an echo request is answered with its data. -/
def execEchoRequest (p : Nat) (v6 : Bool) (ip : Nat) (data : List Byte) (s : State) : Ans :=
  if s.inReset || !s.mine p v6 ip then .next s else .next (s.emit (.net p (if v6 then 4 else 3) data))

end Sys2Proof.Machine
end

