-- ==== Sys2Proof/Machine/BridgeRx.lean ====
section
/-! DEFINITION. What arrives over the isolation bridge (R229 to R246, R434): flits, the messages they carry, and the contents of the bridge
messages. The spec gives the contents of types 0x80 to 0x8B and no byte layout, so what they say arrives with commands of its own. -/
namespace Sys2Proof.Machine

/-- A message type may come to this die on a virtual channel (Table 10.5). -/
def State.mayCross (s : State) (vc type : Nat) : Bool :=
  match vc with
  | 0 =>
    if type < 0x80 then (if s.id.isE then !badType type && type != 5 && type != 6 else type == 0x11 || type == 0x12)
    else [0x80, 0x84, 0x88, 0x89, 0x8A, 0x8B].contains type || (if s.id.isE then type == 0x85 else type == 0x81 || type == 0x82)
  | 1 => s.id.isE && type == 0x83
  | 2 => type == 0x86 || (type == 0x87 && s.follower)
  | _ => s.id.isH && (type == 0xC || type == 0xD)

/-- An EVENT of the engine die waits for the host with DIE 1 (R392). -/
def State.takeEvent (s : State) (seq : Nat) (b : List Byte) : State :=
  let m : EvMsg := { src := half b 0, detail := quad b 4, ns := quad b 8, sec := ofLe ((b.drop 12).take 6), pkg := byteAt b 18, extra := b.drop 20,
                     count := some (half b 2), die := 1, seq := seq }
  { s with host := { s.host with unsent := queueEv s.host.unsent m } }

/-- R240: a whole message has arrived on a virtual channel. -/
def State.bridgeMsg (s : State) (vc : Nat) (m : List Byte) : State :=
  let type := byteAt m 0
  let b := m.drop 16
  if m.length < 16 || !s.mayCross vc type then s.badMsg
  else if 0x80 ≤ type then s
  else if s.id.isE then s.takeMsg .pcie 0 0 m
  else if type = 0xC then s.takeEvent (quad m 4) b
  else match s.relayBack type (half m 2) (quad m 4) b with
    | some s1 => s1
    | none =>
      match s.host.dest with
      | some d => if type = 0xD then (s.toHost d 0xD 0 (quad m 4) 1 0 b).getD s else s
      | none => s

/-- Credits come back (R237). -/
def State.credit (s : State) (v n : Nat) : State := s.modVc v (fun (c : VcState) => { c with avail := Nat.min c.pool (c.avail + n) })

/-- A receiver that misses a flit requests a replay once (R231), in a control flit or, where none may go, in the next flit it sends. -/
def State.nakOnce (s : State) : State :=
  if s.brg.nakSent then s else (s.modBrg (fun (b : Bridge) => { b with nakSent := true, nakDue := true })).ctlFlit

/-- ACKSEQ and NAK of a flit (Table 10.2). -/
def State.flitAck (s : State) (w0 w1 : Nat) : State :=
  let s1 := if natBit w0 17 then s.ackTo (w1 % 4096) else s
  if natBit w0 18 then s1.replayStart else s1

/-- Message bytes of an accepted flit: they take up credits, which are free again once the message has been consumed (R237). -/
def State.flitBytes (s : State) (v : Nat) (som eom : Bool) (data : List Byte) : State :=
  let m := (if som then [] else s.brg.inBuf.getD v []) ++ data
  let n := ceilDiv data.length (vcSize v)
  let s1 := (s.modBrg (fun (b : Bridge) => { b with inBuf := updAt b.inBuf v (fun _ => if eom then [] else m) })).modVc v
    (fun (c : VcState) => { c with occ := c.occ + n })
  if eom then
    let k := ceilDiv m.length (vcSize v)
    (s1.modVc v (fun (c : VcState) => { c with occ := c.occ - k, retPend := c.retPend + k })).bridgeMsg v m
  else s1

/-- An accepted flit (R231, R237): its returns count, its message bytes are taken, and it is acknowledged by the next flit or a control flit. -/
def State.flitTake (s : State) (f : List Byte) (w0 w1 : Nat) : State :=
  let pay := (f.drop 12).take 256
  let s1 := s.modBrg (fun (b : Bridge) => { b with rxSeq := w0 % 4096, nakSent := false, nakDue := false, ackDue := true })
  let s2 := if natBit w0 16 then (s1.each (upTo 4) (fun s v => s.credit v (half pay (2 * v)))).flitAck w0 w1
    else ((s1.credit (w1 / 4096 % 4) (w1 / 65536 % 256)).flitAck w0 w1).flitBytes (w0 / 4096 % 4) (natBit w0 14) (natBit w0 15)
      (pay.take (quad f 8 % 512))
  s2.startMsg.ctlFlit

/-- R229 to R231: a flit arrives. One that repeats an accepted flit is discarded and acknowledged again. -/
def execFlitReceive (f : List Byte) (s : State) : Ans :=
  if s.inReset || !s.id.dual || !(s.brg.st == .up || s.brg.st == .replay) then .next s
  else if f.length ≠ 272 ∨ crc32 (f.take 268) ≠ quad f 268 then .next ((s.bump (brgB + 0x10) 0 16 1).nakOnce)
  else
    let w0 := quad f 0
    let w1 := quad f 4
    let d := (w0 % 4096 + 4096 - s.brg.rxSeq) % 4096
    if d = 1 then .next (s.flitTake f w0 w1)
    else if d = 0 ∨ 4096 - 64 ≤ d then .next (((s.flitAck w0 w1).modBrg (fun (b : Bridge) => { b with ackDue := true })).ctlFlit)
    else .next s.nakOnce

/-- Messages of the bridge reach this die. -/
def State.brgRx (s : State) : Bool := !s.inReset && s.id.dual && s.bridgeUp

/-- R69, R434: BR_HELLO. -/
def execBrHello (peer : BridgePeer) (_gen : Nat) (s : State) : Ans :=
  if !s.brgRx then .next s
  else
    let s1 := s.modBrg (fun (b : Bridge) => { b with peer := some peer })
    let s2 : State := { s1 with boot := { s1.boot with peerPair := some peer.pairId } }
    .next ((s2.governed peer.settings).plinthCheck)

/-- R243, R431: the engine die names the bands it wants, in release order. -/
def execBrBandReq (bands : List BandRef) (s : State) : Ans :=
  if !s.brgRx then .next s
  else if !s.id.isH then .next s.badMsg
  else .next (s.modBrg (fun (b : Bridge) => { b with wanted := bands }))

/-- R21: part of a band arrives in the band store. -/
def execBrBand (r : BandRef) (off : Nat) (data : List Byte) (s : State) : Ans :=
  if !s.brgRx then .next s
  else if !s.id.isE then .next s.badMsg
  else .next ((s.modBand r (fun (b : Band) =>
    if b.res == .inTransit || b.res == .inPageStore then
      let got := layPart b.got off data
      { b with got := got, moved := got.length }
    else b)).seqMoved (.land r) data.length)

/-- R93: the other die reports a residency transition. -/
def execBrResidency (r : BandRef) (res : Nat) (s : State) : Ans :=
  if !s.brgRx then .next s
  else
    let x := Res.ofCode res
    let s1 := s.modBand r (fun (b : Band) =>
      { b with res := x, t0 := if x == Res.inTransit && s.id.isE then s.fab else b.t0,
               got := if s.id.isE && decide (x.code < 2) then [] else b.got })
    .next (if x == .inTransit then (if s.id.isE then s1.seqTake 0 (.land r) (s1.needOf r) else s1)
      else if x == .inPageStore then ((s1.dropParts r).seqDrop (.send r)).seqDrop (.land r)
      else s1)

/-- R435: the host delivery window. -/
def execBrRate (bytes clocks : Nat) (s : State) (links : Nat := 0) : Ans :=
  if !s.brgRx then .next s
  else if !s.id.isE then .next s.badMsg
  else .next (s.modBrg (fun (b : Bridge) => { b with hostRate := some (bytes, clocks), hostLinks := links }))

/-- R29, R330: plinth set and fault state of the other die. A host die in CRIT makes the sheets in flight waste on the engine die (Table
15.4). -/
def execBrFault (plinth thermal : Bool) (s : State) : Ans :=
  if !s.brgRx then .next s
  else
    let s1 := s.modBrg (fun (b : Bridge) => { b with peerFault := b2n (!plinth) + 2 * b2n thermal })
    let s2 := if s.id.isE && thermal && !natBit s.brg.peerFault 1 then s1.wasteAll 3 else s1
    let w := s2.plinthWhy
    let m := if s2.boot.mode = 0 then 0 else if w = 0 then 1 else 2
    .next (({ s2 with boot := { s2.boot with mode := m, reason := if m = 0 then s2.boot.reason else w } } : State).raiseIf (m != s2.boot.mode) 12 m)

/-- R263: the engine die has retired a channel that held band copies. Of a host-die channel the engine die learns here; its requests wait at the host
die, which serves them (execBandMoveStart). -/
def execBrRetire (_ch _region : Nat) (whole : Bool) (s : State) : Ans :=
  if !s.brgRx || !s.id.isH || !whole then .next s
  else .next ((s.jobs.flatMap (fun j => j.pages.flatMap (fun p => p.refs j.id))).foldl (fun s r =>
    s.modBand r (fun (b : Band) => if b.res == .resident then { b with res := Res.inPageStore } else b)) s)

end Sys2Proof.Machine
end

