-- ==== Sys2Proof/Machine/Boot.lean ====
section
/-! DEFINITION. Reset, brownout and the start sequence (R61 to R70, R415, R427), the flash and the maquette image (R71 to R83, R87 to R90,
R429), and READY. -/
namespace Sys2Proof.Machine

/-- The die is reset (R63): everything but its identity, its OTP and what waits or has left is as State.cold has it. -/
def State.resetDie (s : State) (rst brown : Bool) : State :=
  { State.cold s.id s.otp with free := s.free, rstLow := rst, brown := brown, out := s.out, pending := s.pending }

/-- Reset ends when neither RST_N nor brownout holds the die (R427); the start sequence begins at step 3 (R64). -/
def State.leaveReset (s : State) : State :=
  if s.rstLow || s.brown then s else { s with inReset := false, boot := { s.boot with stage := 3 } }

/-- R63. -/
def execRstNAssert (s : State) : Ans := if s.inReset then .next { s with rstLow := true } else .next (s.resetDie true false)

/-- R64. -/
def execRstNRelease (s : State) : Ans := if s.inReset then .next ({ s with rstLow := false } : State).leaveReset else .next s

/-- R415, R427: a supply below its threshold for 1 µs acts as RST_N. -/
def execBrownout (ns : Nat) (s : State) : Ans :=
  if ns < 1000 then .next s else if s.inReset then .next { s with brown := true } else .next (s.resetDie false true)

/-- R415. -/
def execBrownoutRecovery (s : State) : Ans := if s.inReset then .next ({ s with brown := false } : State).leaveReset else .next s

/-- R71: the flash answers at step 4, or none does. -/
def execFlashDiscovery (dev : Option FlashDev) (s : State) : Ans :=
  if s.inReset || s.boot.stage != 4 then .next s else .next { s with boot := { s.boot with flash := dev, stage := 5 } }

/-- Bytes laid over a list that begins at offset `base`. -/
def overlayAt (base : Nat) (acc : List Byte) (off : Nat) (data : List Byte) : List Byte :=
  if off + data.length ≤ base ∨ base + acc.length ≤ off then acc
  else
    let d := data.drop (base - off)
    let at0 := off - base
    let d1 := d.take (acc.length - at0)
    acc.take at0 ++ d1 ++ acc.drop (at0 + d1.length)

/-- `n` bytes of the flash from `off`: erased bytes read 0xFF. -/
def flashBytes (d : FlashDev) (off n : Nat) : List Byte :=
  d.segs.foldl (fun acc (g : FlashSeg) => overlayAt off acc g.off g.data) (List.replicate n 0xFF)

/-- The bytes 3-byte addressing reaches (R72). -/
def flashReach : Nat := 0x1000000

/-- `n` bytes as the die reads them from `off`: with a 3-byte address nothing above 16 MiB is reachable (R72), and what such a read gives is
not stated (free bytes, log entry 99). -/
def flashRead (d : FlashDev) (off n : Nat) : List Byte :=
  if (d.sfdp && d.quad) || off + n ≤ flashReach then flashBytes d off n
  else flashBytes d off (flashReach - off) ++ (upTo (off + n - Nat.max off flashReach)).map (fun i => Config.farFlash (Nat.max off flashReach + i))

/-- Where copy B starts, if there is one within reach (R72, R73). -/
def flashB (d : FlashDev) : Option Nat :=
  if d.sfdp && decide (0x200000 ≤ d.size) && (d.quad || decide (d.size / 2 < 0x1000000)) then some (d.size / 2) else none

/-- Where copy `c` starts. -/
def flashBase (d : FlashDev) (c : Nat) : Nat := if c = 1 then d.size / 2 else 0

/-- The two formats by their first 12 bytes (R89). -/
def isV1 (h : List Byte) : Bool := byteAt h 0 == 1 && quad h 4 == 0x3154514D
def isV2 (h : List Byte) : Bool := half h 0 == 1 && quad h 8 == 0x3254514D

/-- A readable HEADER record of format v2 (R74). -/
def headerOk (h : List Byte) : Bool := isV2 h && quad h 4 == 32 && crc32c (h.take 40) == quad h 40

/-- The bit of a variant and of a role in VARIANT_MASK (Table 3.5). -/
def Die.maskBit (d : Die) : Nat := if d.variant < 0x70 then d.variant - 0x61 else d.variant - 0x71 + 6

/-- Record types a v2 image may hold (Table 3.5). -/
def knownRec (t : Nat) : Bool := [0x1, 0x2, 0x10, 0x20, 0x30, 0x40, 0xF0, 0xFFFF].contains t

/-- The records of a v2 image from `pos` on (R74, R77, R79, R83): the first failure in stream order, or the records. `ix` counts them,
`sig`: a SIGNATURE record has come. -/
def walkV2 (d : Die) (l : List Byte) (len : Nat) : Nat → Nat → Nat → Bool → List ImgRec → Nat × List ImgRec
  | 0, _, _, _, acc => (3, acc)
  | fuel + 1, pos, ix, sig, acc =>
    let r := l.drop pos
    let type := half r 0
    let n := quad r 4
    let body := (r.drop 8).take n
    if pos = len then (3, acc)
    else if len < pos + 12 ∨ n % 4 ≠ 0 ∨ len < pos + 12 + n then (2, acc)
    else if crc32c (r.take (8 + n)) ≠ quad r (8 + n) then (2, acc)
    else if (ix == 0) != (type == 1) || (ix == 1) != (type == 2) || (sig && type != 0xFFFF) then (10, acc)
    else if type = 2 ∧ !(natBit (quad body 0) d.maskBit && natBit (quad body 4) d.role && decide (8 ≤ n)) then (4, acc)
    else if !knownRec type && !natBit (half r 2) 0 then (6, acc)
    else if type = 0xFFFF then
      (if n = 4 ∧ pos + 16 = len ∧ crc32c (l.take (pos + 8)) = quad body 0 then (0, acc) else (3, acc))
    else walkV2 d l len fuel (pos + 12 + n) (ix + 1) (sig || type == 0xF0) (acc ++ [{ type := type, off := pos, body := body }])

/-- The records of a v1 image from `pos` on (R88). A second record of type 0x01 is judged as an unknown one, code 6 (DESIGN CHOICE, log
entry 98: the spec names no code for it). -/
def walkV1 (l : List Byte) (len : Nat) : Nat → Nat → List ImgRec → Nat × List ImgRec
  | 0, _, acc => (3, acc)
  | fuel + 1, pos, acc =>
    let r := l.drop pos
    let type := byteAt r 0
    let n := 4 * (quad r 0 / 256)
    let body := (r.drop 4).take n
    if pos = len then (3, acc)
    else if len < pos + 8 ∨ len < pos + 8 + n then (2, acc)
    else if crc32c (r.take (4 + n)) ≠ quad r (4 + n) then (2, acc)
    else if type = 0xFF then
      (if n = 4 ∧ pos + 12 = len ∧ crc32c (l.take (pos + 4)) = quad body 0 then (0, acc) else (3, acc))
    else if !(type = 0x10 ∨ type = 0x20 ∨ (type = 1 ∧ pos = 0)) then (6, acc)
    else walkV1 l len fuel (pos + 8 + n) (acc ++ [{ type := type, off := pos, body := body }])

/-- Copy `c` is judged (R74, R88, R89) but for its signature: the code of Table 3.12 and the image. -/
def State.judgeCopy (s : State) (d : FlashDev) (c : Nat) : Nat × Option Image :=
  let base := flashBase d c
  let h := flashRead d base 44
  if c = 0 ∧ isV1 h then
    if !(s.id.p || s.otp.allowV1) then (8, none)
    else if quad h 0 / 256 ≠ 3 ∨ crc32c (h.take 16) ≠ quad h 16 then (1, none)
    else if 0x1000000 < quad h 8 then (7, none)
    else
      let len := quad h 8
      let l := flashRead d base len
      let w := walkV1 l len (len / 8 + 1) 0 []
      (w.1, if w.1 = 0 then some { v1 := true, gen := 0, pairId := 0, flags := 1, recs := w.2, bytes := l } else none)
  else if isV1 h then (8, none)
  else if !headerOk h then (1, none)
  else if quad h 12 ≠ 2 ∨ s.id.p = true then (8, none)
  else if 0x1000000 < quad h 24 then (7, none)
  else
    let len := quad h 24
    let l := flashRead d base len
    let w := walkV2 s.id l len (len / 12 + 2) 0 0 false []
    (w.1, if w.1 = 0 then some { v1 := false, gen := quad h 20, pairId := quad h 28, flags := quad h 16, recs := w.2, bytes := l } else none)

/-- The error code of copy `c` is recorded (Table 3.12). -/
def State.copyErr (s : State) (c code : Nat) : State :=
  { s with boot := if c = 0 then { s.boot with errA := code } else { s.boot with errB := code } }

/-- The copies still to be tried, until one is valid apart from its signature (R75). -/
def State.tryCopies (s : State) (d : FlashDev) : Nat → State
  | 0 => s
  | n + 1 =>
    match s.boot.toTry with
    | [] => { s with boot := { s.boot with cand := none } }
    | c :: rest =>
      let j := s.judgeCopy d c
      let s1 := ({ s with boot := { s.boot with toTry := rest } } : State).copyErr c j.1
      match j.2 with
      | some i => { s1 with boot := { s1.boot with cand := some (c, i) } }
      | none => State.tryCopies s1 d n

/-- R71 to R75, R89: step 5 reads the headers and finds the image to use. -/
def execCopySelection (s : State) : Ans :=
  if s.inReset || s.boot.stage != 5 then .next s
  else
    let t : State := { s with boot := { s.boot with stage := 6, cand := none, toTry := [], firstTried := none } }
    match s.boot.flash with
    | none => .next ((t.copyErr 0 9).copyErr 1 9)
    | some d =>
      let a := flashRead d 0 44
      if isV1 a then .next (({ t with boot := { t.boot with toTry := [0], firstTried := some 0 } } : State).tryCopies d 2)
      else
        let okA := headerOk a
        let t1 := if okA then t else t.copyErr 0 1
        let b := match flashB d with | some o => flashRead d o 44 | none => []
        let okB := (flashB d).isSome && headerOk b
        let t2 := if (flashB d).isSome && !okB then t1.copyErr 1 (if isV1 b then 8 else 1) else t1
        let order := if okA && okB then (if quad a 20 < quad b 20 then [1, 0] else [0, 1]) else if okA then [0] else if okB then [1] else []
        .next (({ t2 with boot := { t2.boot with toTry := order, firstTried := order.head? } } : State).tryCopies d 3)

/-- An image satisfies the signature requirement (R76, R88). -/
def State.sigOk (s : State) (i : Image) : Bool :=
  match s.otp.sigHash with
  | none => true
  | some h =>
    !i.v1 && (match i.recs.getLast? with
      | some r => r.type == 0xF0 && decide (128 ≤ r.body.length) && sha256 (r.body.take 64) == h &&
          ecdsaOk (r.body.take 64) ((r.body.drop 64).take 64) (i.bytes.take r.off)
      | none => false)

/-- R76: the image whose signature is as required is used; otherwise the other copy is tried, and with none left the built-in default. -/
def State.signed (s : State) : Nat → State
  | 0 => s
  | n + 1 =>
    match s.boot.cand with
    | none => ({ s with boot := { s.boot with stage := 7, copy := 2, reason := 1 } } : State).raise 2 0
    | some (c, i) =>
      if s.sigOk i then
        (({ s with boot := { s.boot with stage := 7, copy := if i.v1 then 3 else c, sig := b2n s.otp.sigHash.isSome, fmtV1 := i.v1,
                                         compat5 := i.v1 || natBit i.flags 0, image := some i, cand := none } } : State).raiseIf
          (s.boot.firstTried != some c) 1 0)
      else match s.boot.flash with
        | none => s
        | some d => State.signed ((s.copyErr c 5).tryCopies d 3) n

/-- R76. -/
def execSignatureCheck (s : State) : Ans := if s.inReset || s.boot.stage != 6 then .next s else .next (s.signed 3)

/-- Words of a record body, `k` bytes an entry. -/
def entriesOf (k : Nat) (body : List Byte) : List (List Byte) :=
  (upTo (body.length / k)).map (fun i => (body.drop (k * i)).take k)

/-- One claim of an image (R82): the image offset of the first refused entry is kept. -/
def State.imgClaim (s : State) (off w0 owner : Nat) : State :=
  let r := s.claimEntry (w0 % 256) (w0 / 256 % 65536) owner
  if r.2 = sOk then r.1
  else { r.1 with boot := { r.1.boot with firstBad := some (r.1.boot.firstBad.getD off) } }

/-- One record is applied (R80 to R84, R88, R430). -/
def State.applyRec (s : State) (v1 : Bool) (r : ImgRec) : State :=
  let b := r.body
  match r.type with
  | 0x10 =>
    if v1 then (entriesOf 8 b).foldl (fun s e =>
      if quad e 0 < 0x10000 then (s.writeEntry { addr := 0x08000000 + quad e 0, val := wd (quad e 4), mask := allBits }).1 else s) s
    else (entriesOf 12 b).foldl (fun s e => (s.writeEntry { addr := quad e 0, val := wd (quad e 4), mask := wd (quad e 8) }).1) s
  | 0x20 => if b.length < 8 then s else s.loadTab (half b 0) (half b 2) (quad b 4) (b.drop 8)
  | 0x30 => ((upTo (b.length / 8)).zip (entriesOf 8 b)).foldl (fun s e => s.imgClaim (r.off + 8 + 8 * e.1) (quad e.2 0) (quad e.2 4)) s
  | 0x40 => (entriesOf 8 b).foldl (fun s e =>
      if natBit (quad e 0) 31 then { s with adjTabs := s.adjTabs ++ [{ table := half e 0, insts := wd (quad e 4) }] }
      else { s with adjRegs := s.adjRegs ++ [{ addr := quad e 0, mask := wd (quad e 4) }] }) s
  | _ => s

/-- The fixed claims of a v1 image (Table 3.9): pool pin, FUNC, INDEX. -/
def v1Pins : List (Nat × Nat × Nat) :=
  (upTo 8).flatMap (fun c => [(4 * c, 1, c), (4 * c + 1, 2, c), (4 * c + 2, 3, c), (4 * c + 3, 4, c)]) ++
    (upTo 8).map (fun c => (32 + c, 6, c)) ++ (upTo 8).map (fun k => (40 + k, 13, k))

/-- What a v1 image fixes before its first record (R90). -/
def State.v1Start (s : State) : State :=
  let s1 := v1Pins.foldl (fun s e => (s.pinClaim e.1 (wd (0x30000 + e.2.2 * 256 + e.2.1))).1) s
  { s1 with adjTabs := [{ table := 4, insts := 1 }],
            adjRegs := [{ addr := shtB + 4, mask := 0x7F }] ++ (upTo 32).map (fun c => { addr := hvA c 4, mask := 0xFFFF }) ++
              (upTo 4).map (fun h => { addr := hvfB + 0x20 + 0x10 * h, mask := allBits }) }

/-- Everything loaded comes into force: the station copies, the ladders' limits, the laser limits. -/
def State.imageInForce (s : State) : State :=
  let s1 := s.each (upTo 15) (fun s d => s.modLad d (fun (l : Ladder) => { l with limit := s.ladLimit d l.step }))
  s1.each (upTo s1.id.stations) (fun s n =>
    ((s.modStn n (fun (x : Station) => { x with pend := 7 })).modLink n (fun (l : BeamLink) => { l with laserLim := (s.lad (8 + n)).limit })).stnBoundary n)

/-- R80, R155, R66: the self-test takes failing casts out of service, then the records are applied in image order. -/
def execImageApply (castFail : Nat) (s : State) : Ans :=
  if s.inReset || s.boot.stage != 7 then .next s
  else
    let s1 := s.each ((upTo s.id.casts).filter (natBit castFail)) (fun s n => s.castOut n)
    let s2 := match s.boot.image with
      | none => s1
      | some i => i.recs.foldl (fun s r => s.applyRec i.v1 r) (if i.v1 then s1.v1Start else s1)
    let s3 := s2.imageInForce
    .next { s3 with boot := { s3.boot with stage := 8 } }

/-- R249: the enabled DRAM channels train; `pass` names those that do. -/
def execDramTraining (pass : Nat) (s : State) : Ans :=
  if s.inReset || s.boot.stage != 8 then .next s
  else
    let all := ones s.id.drams
    let ok := Nat.land pass all
    let s1 : State := { s with boot := { s.boot with stage := 9 },
                               mem := { s.mem with trained := ok, failed := all - ok,
                                                   scrubs := s.mem.scrubs.map (fun (x : Scrub) => { x with t0 := s.clk }) } }
    let s2 : State := { s1 with pageCap := s1.pageCap * s1.ways.length / Nat.max 1 (interleave all).length,
                                bandCap := s1.bandCap * s1.ways.length / Nat.max 1 (interleave all).length }
    let s3 := s2.setReg (dmaB + 8) (wd (Nat.min (fld (s2.reg (dmaB + 8)) 0 16) (s2.dramBytes / 65536)))
    .next (s3.each ((upTo s.id.drams).filter (fun n => !natBit pass n)) (fun s n => s.raise 215 n))

/-- ESTOP_N is released where the conditions of R67 hold; a worker die follows the rule too (DEDUCED, log entry 22). -/
def State.estopCheck (s : State) : State :=
  if s.id.motion && !s.boot.estopOff && !s.bus.ov2 && s.estopMay then s.setEstop true else s

/-- READY is raised (R66 to R70): MODE and REASON are set, the scheduler and the consumables start, and an engine die tells the host die. -/
def State.raiseReady (s : State) : State :=
  let s1 := s.estopCheck
  let w := s1.plinthWhy
  let s2 : State := { s1 with boot := { s1.boot with stage := 10, mode := s1.modeFor w, reason := w, bootMs := satN 16 (s1.clk / 200000) } }
  let s3 := if s2.id.motion then s2.schedStart.csmAtReady else s2
  let s4 := (s3.raise 0 0).sendFault
  if s4.id.isE then s4.toBridge 0 (.ready s4.glbBoot) else s4

/-- R28, R67, R68: step 10 ends, with the root locked; the host die of a D package waits for its engine die. -/
def execReady (s : State) : Ans :=
  if s.inReset || s.boot.stage != 10 || s.ready || !s.clks.rootLocked || (s.id.isH && !s.boot.peerReady) then .next s
  else .next s.raiseReady

/-- R67: the check is repeated every 10 ms. -/
def execEstopReleaseCheck (s : State) : Ans :=
  if s.inReset || s.boot.stage != 10 then .next s else .next s.estopCheck

/-- R68: 2.0 s have passed without the engine die. -/
def execEngineReadyTimeout (s : State) : Ans :=
  if s.inReset || !s.id.isH || s.boot.stage != 10 || s.ready || s.boot.peerReady || !s.clks.rootLocked then .next s
  else .next s.raiseReady

/-- R68, R236, R93: the engine die is READY. It holds no band, so what the host die has recorded there returns; a host die that waits
raises READY. -/
def execBrReady (_boot : Word) (s : State) : Ans :=
  if !s.brgRx then .next s
  else if !s.id.isH then .next s.badMsg
  else
    let s1 := (s.jobs.flatMap (fun j => j.pages.flatMap (fun p => p.refs j.id))).foldl (fun s r =>
      s.modBand r (fun (b : Band) => if b.res.held then { b with res := Res.inPageStore } else b))
      ({ s with boot := { s.boot with peerReady := true } } : State)
    if s1.boot.stage = 10 && !s1.ready && s1.clks.rootLocked then .next s1.raiseReady else .next s1.plinthCheck

end Sys2Proof.Machine
end

