-- ==== Sys2Proof/Machine/Degrade.lean ====
section
/-! DEFINITION. Units that leave service or come back while sheets are printed (R31 to R35, R108): the commands after which the fastest permitted
step is checked at once. -/
namespace Sys2Proof.Machine

/-- R161, R163, R184, R210: an edge on SCN_SOS. A mask set chosen at a sheet boundary can change STEP_FLOOR (R108, R175). -/
def execSosEdge (n : Nat) (e : SosEdge) (s : State) : Ans :=
  if s.inReset || s.id.stations ≤ n then .next s
  else if ((s.sosEdge n e).st n).setIn = (s.st n).setIn then .next (s.sosEdge n e)
  else .next ((s.sosEdge n e).recheck)

/-- R183, R433: a station that images nothing applies its waiting copies one CORE clock after the write. -/
def execShadowApplyIdle (n : Nat) (s : State) : Ans :=
  if s.inReset || s.id.stations ≤ n || (s.st n).img.isSome then .next s else .next ((s.stnBoundary n).recheck)

/-- R155, Table 1.7: a cast leaves service; with its last cast a station is lost, and its sheet is carried out as waste with cause VIDEO_LOST
(DEDUCED, log entry 107). -/
def execCastOutOfService (n : Nat) (s : State) : Ans :=
  if s.inReset || s.id.casts ≤ n || !(s.cast n).inServ then .next s
  else
    let s1 := s.unitMemBad.castOut n
    let s2 := if s1.castsUp (n / 2) = 0 then s1.stopImaging (n / 2) else s1
    .next s2.recheck

/-- R218 to R225, Table 9.4: a status frame from the laser driver of station `n`; lanes that drop may lower the permitted step (R108, R222). -/
def execStatusFrame (n : Nat) (bytes : List Byte) (s : State) : Ans := 
  if ((s.statusFrame n bytes).lk n).laneUp = (s.lk n).laneUp then .next (s.statusFrame n bytes) else .next ((s.statusFrame n bytes).recheck)

/-- R227: BLK_n_CTRL.EN is cleared. -/
def execLinkDisable (n : Nat) (s : State) : Ans := 
  if ((s.linkDisable n).lk n).laneUp = (s.lk n).laneUp then .next (s.linkDisable n) else .next ((s.linkDisable n).recheck)

end Sys2Proof.Machine
end

