-- ==== Sys2Proof/Machine/Monitor.lean ====
section
/-! DEFINITION. The debug monitor (R408 to R411). A command gives its status (Table 17.4) and data lines; what the spec does not say of
their text is log entry 23. -/
namespace Sys2Proof.Machine

/-- What a monitor command gives: state, status and data lines. -/
abbrev MonAns := State × Nat × List String

def monOk (s : State) (l : List String) : MonAns := (s, sOk, l)
def monErr (s : State) (code : Nat) : MonAns := (s, code, [])

/-- One hexadecimal digit, capital. -/
def hexDigit (n : Nat) : String := ["0", "1", "2", "3", "4", "5", "6", "7", "8", "9", "A", "B", "C", "D", "E", "F"].getD n ""

/-- The last `n` hexadecimal digits of a number. -/
def hexN : Nat → Nat → String
  | 0, _ => ""
  | n + 1, v => hexN n (v / 16) ++ hexDigit (v % 16)

/-- A word as the monitor prints it. -/
def hexW (w : Word) : String := "0x" ++ hexN 8 w.toNat

/-- Bytes in groups of four hexadecimal digits joined by a hyphen (R410). -/
def hexGroups : List Byte → String
  | a :: b :: c :: l => hexN 2 a.toNat ++ hexN 2 b.toNat ++ "-" ++ hexGroups (c :: l)
  | l => l.foldl (fun t b => t ++ hexN 2 b.toNat) ""

/-- Names of Table 17.4. -/
def statusName (c : Nat) : String :=
  ["OK", "BAD_TYPE", "NOT_ADJUSTABLE", "CONFLICT", "NO_RESOURCE", "BUSY", "BAD_STATE", "CHECK_FAIL", "AUTH_FAIL", "REFUSED_MOTION"].getD c ""

/-- The lines of an answer (R408). -/
def monLines (code : Nat) (l : List String) : List String :=
  (if code = sOk then "OK" else "E" ++ Nat.repr code ++ " " ++ statusName code) :: l

/-- The monitor is locked (R410). -/
def State.monLocked (s : State) : Bool := s.otp.monLock && !s.mon.unlocked

/-- A command is carried out under the lock: one that is not open while locked is answered with BUSY, and every E is counted (Tables 18.5, 18.8). -/
def State.monRun (s : State) (isOpen : Bool) (run : State → MonAns) : MonAns :=
  let r := if s.monLocked && !isOpen then monErr s sBusy else run s
  if r.2.1 = sOk then r else (r.1.bump (dbgB + 8) 16 16 1, r.2.1, r.2.2)

/-- Lines leave on the UART, and the prompt after them (R408). -/
def State.monPrint (s : State) (l : List String) : State := (l ++ ["az> "]).foldl (fun s t => s.emit (.text t)) s

/-- The die gives service: out of reset, its root synthesizer has locked at step 3 (R28, R65). -/
def State.serves (s : State) : Bool := !s.inReset && decide (4 ≤ s.boot.stage)

/-- A monitor command arrives on the UART and is answered. -/
def State.monitor (s : State) (isOpen : Bool) (run : State → MonAns) : Ans :=
  if !s.serves then .next s
  else
    let r := s.monRun isOpen run
    .next (r.1.monPrint (monLines r.2.1 r.2.2))

def doMonId (s : State) : MonAns :=
  monOk s ["GLB_ID " ++ hexW (s.peek 0), "GLB_BOOT " ++ hexW (s.peek 0x10), "DBG_STAT " ++ hexW (s.peek (dbgB + 4))]

def doMonHelp (s : State) : MonAns :=
  monOk s ["id help unlock lock baud rr wr rm wm ev pat maq trace sched e:"]

/-- R410: after three failures `unlock` is answered with E5; otherwise a fresh challenge of 8 random bytes takes the place of an older one. -/
def doMonUnlock (s : State) : MonAns :=
  if s.mon.lockout then monErr s sBusy
  else
    let ch := (upTo 8).map (fun i => BitVec.ofNat 8 (Config.freeValue (s.free + i)))
    monOk { s with free := s.free + 8, mon := { s.mon with challenge := some ch } } ["CH " ++ hexGroups ch]

/-- An attempt has failed (R410). -/
def State.unlockFail (s : State) : State :=
  ({ s with mon := { s.mon with challenge := none, fails := Nat.min 7 (s.mon.fails + 1), run := s.mon.run + 1,
                                lockout := decide (3 ≤ s.mon.run + 1) } } : State).raise 253 0

/-- The response that a challenge asks for (R410). -/
def State.monResponse (s : State) (ch : List Byte) : Option (List Byte) :=
  s.otp.kDbg.map (fun k => (hmac k (ch ++ wordBytes (s.peek 0))).take 16)

/-- R410: a typed response. -/
def doMonUnlockResponse (r : List Byte) (s : State) : MonAns :=
  if s.mon.lockout then monErr s sBusy
  else match s.mon.challenge with
    | none => monErr s sBadState
    | some ch =>
      if s.monResponse ch == some r then
        monOk (({ s with mon := { s.mon with challenge := none, unlocked := true, run := 0 } } : State).raise 252 1) []
      else monErr s.unlockFail sAuth

def doMonLock (s : State) : MonAns := monOk s.lockMon []

/-- The rates of R408. -/
def baudRates : List Nat := [115200, 230400, 460800, 921600, 1000000, 2000000, 3000000]

def doMonBaud (rate : Nat) (s : State) : MonAns :=
  let b := (minBy (fun (x : Nat) => (x - rate) + (rate - x)) baudRates).getD 115200
  monOk { s with mon := { s.mon with baud := b } } []

def doMonRr (addr count : Nat) (s : State) : MonAns :=
  if count = 0 ∨ 64 < count then monErr s sCheck
  else
    let r := s.readRegs addr count
    (r.1, if r.2.2 then sCheck else sOk, r.2.1.map hexW)

def doMonWr (addr : Nat) (v mask : Word) (s : State) : MonAns :=
  let r := s.writeEntry { addr := addr, val := v, mask := mask }
  if r.2 = sOk then monOk (r.1.raise 254 addr) [] else monErr r.1 r.2

/-- The memory a monitor address means (Table 12.2): band SRAM or DRAM, its offset, and whether `n` words lie inside it. -/
def State.monMem (s : State) (addr n : Nat) : Bool × Nat × Bool :=
  let o := addr % 2 ^ 44
  match addr / 2 ^ 44 with
  | 0 => (false, o, decide (o + 4 * n ≤ s.dramBytes))
  | 1 => (true, o, decide (o + 4 * n ≤ 2 ^ 25))
  | _ => (false, o, false)

def doMonRm (addr count : Nat) (s : State) : MonAns :=
  let m := s.monMem addr count
  if addr % 4 ≠ 0 then monErr s sCheck
  else if !m.2.2 then monErr s sNoRes
  else
    let r := s.memRead m.1 m.2.1 (4 * count)
    (r.1, if r.2.2.isSome then sCheck else sOk, (upTo count).map (fun i => hexW (wd (quad r.2.1 (4 * i)))))

def doMonWm (addr : Nat) (v : Word) (s : State) : MonAns :=
  let m := s.monMem addr 1
  if s.flag shtB 0 || s.flying then monErr s sBadState
  else if addr % 4 ≠ 0 then monErr s sCheck
  else if !m.2.2 then monErr s sNoRes
  else monOk ((s.memWrite m.1 4 m.2.1 (wordBytes v)).raise 254 addr) []

/-- One event: its flag, enable, ROUTE and COUNT. -/
def State.evLine (s : State) (n : Nat) : String :=
  Nat.repr n ++ " " ++ Nat.repr (b2n (s.evFlag n)) ++ " " ++ Nat.repr (b2n (s.evEn n)) ++ " " ++ Nat.repr (s.evRoute n) ++ " " ++
    Nat.repr (fld (s.reg (evSrcA n)) 16 16)

def doMonEv (n : Option Nat) (s : State) : MonAns :=
  match n with
  | none => monOk s ((upTo 256).map s.evLine)
  | some n => if n < 256 then monOk s [s.evLine n] else monErr s sNoRes

def doMonPat (s : State) : MonAns :=
  monOk s ((upTo ((s.mem.head + 64 - s.mem.tail) % 64)).map (fun i =>
    match s.mem.log[(s.mem.tail + i) % 64]? with
    | some e => hexW (e.word 0) ++ " " ++ hexW (e.word 1) ++ " " ++ hexW (e.word 2) ++ " " ++ hexW (e.word 3)
    | none => ""))

/-- Bytes of the image in use, read again from the flash; what lies past its end is not printed. -/
def doMonMaq (off count : Nat) (s : State) : MonAns :=
  match s.boot.image, s.boot.flash with
  | some i, some d =>
    monOk s ((flashRead d (flashBase d s.boot.copy + off) (Nat.min count (i.bytes.length - off))).map (fun b => hexN 2 b.toNat))
  | _, _ => monErr s sBadState

def doMonTrace (on : Bool) (s : State) : MonAns := monOk (s.setF dbgB 0 1 (b2n on)) []

def doSchedStep (s : State) : MonAns :=
  if !s.id.motion then monErr s sNoRes
  else if !s.ready || s.flag shtB 0 || s.flying then monErr s sBadState
  else
    let r := s.schedStep
    monOk r.1 [Nat.repr r.2 ++ " " ++ hexW (r.1.peek (shtB + 0x30))]

/-- R409: a command for the engine die goes out as BR_MON; what it answers comes back as BR_MON. -/
def doEngineRelay (cmd : List Byte) (s : State) : MonAns :=
  if !s.id.isH then monErr s sBadState
  else if s.brg.st == .down then monErr s sBusy
  else monOk (s.toBridge 0 (.mon cmd)) []

def execMonId (s : State) : Ans := s.monitor true doMonId
def execMonHelp (s : State) : Ans := s.monitor true doMonHelp
def execMonUnlock (s : State) : Ans := s.monitor true doMonUnlock
def execMonUnlockResponse (r : List Byte) (s : State) : Ans := s.monitor true (doMonUnlockResponse r)

/-- R410: no response within 60 s. -/
def execMonUnlockTimeout (s : State) : Ans := if s.inReset || s.mon.challenge.isNone then .next s else .next s.unlockFail

/-- R410: the 60 s after three failures end. -/
def execLockoutEnd (s : State) : Ans :=
  if s.inReset || !s.mon.lockout then .next s else .next { s with mon := { s.mon with lockout := false, run := 0 } }

def execMonLock (s : State) : Ans := s.monitor false doMonLock
def execMonBaud (rate : Nat) (s : State) : Ans := s.monitor false (doMonBaud rate)
def execMonitorRr (addr count : Nat) (s : State) : Ans := s.monitor false (doMonRr addr count)
def execMonitorWr (addr : Nat) (v mask : Word) (s : State) : Ans := s.monitor false (doMonWr addr v mask)
def execMonitorRm (addr count : Nat) (s : State) : Ans := s.monitor false (doMonRm addr count)
def execMonitorWm (addr : Nat) (v : Word) (s : State) : Ans := s.monitor false (doMonWm addr v)
def execMonEv (n : Option Nat) (s : State) : Ans := s.monitor false (doMonEv n)
def execMonPat (s : State) : Ans := s.monitor false doMonPat
def execMonMaq (off count : Nat) (s : State) : Ans := s.monitor false (doMonMaq off count)
def execMonTrace (on : Bool) (s : State) : Ans := s.monitor false (doMonTrace on)
def execSchedStep (s : State) : Ans := s.monitor false doSchedStep

/-- Characters of a command line. -/
def lineOf (l : List Byte) : List Char := l.map (fun b => Char.ofNat b.toNat)

/-- The words of a line. -/
def wordsOf : List Char → List Char → List (List Char)
  | [], w => if w.isEmpty then [] else [w.reverse]
  | c :: l, w => if c = ' ' ∨ c = '\r' ∨ c = '\n' then (if w.isEmpty then wordsOf l [] else w.reverse :: wordsOf l []) else wordsOf l (c :: w)

/-- The value of a digit. -/
def digitOf (c : Char) : Option Nat :=
  if '0' ≤ c ∧ c ≤ '9' then some (c.toNat - 48)
  else if 'a' ≤ c ∧ c ≤ 'f' then some (c.toNat - 87)
  else if 'A' ≤ c ∧ c ≤ 'F' then some (c.toNat - 55)
  else none

/-- Digits in a base. -/
def digitsIn (base : Nat) : List Char → Nat → Option Nat
  | [], v => some v
  | c :: l, v => match digitOf c with
    | some d => if d < base then digitsIn base l (v * base + d) else none
    | none => none

/-- A number: hexadecimal with the 0x prefix, or decimal (R408). -/
def numOf (w : List Char) : Option Nat :=
  match w with
  | '0' :: 'x' :: l => if l.isEmpty then none else digitsIn 16 l 0
  | [] => none
  | l => digitsIn 10 l 0

/-- A response in groups of four hexadecimal digits. -/
def respOf (w : List Char) : Option (List Byte) :=
  (digitsIn 16 (w.filter (fun c => c != '-')) 0).map (fun v => beBytes ((w.filter (fun c => c != '-')).length / 2) v)

/-- A command without operands, with one word `w` (a number `n` or not), and with two or three numbers. -/
def monVerb0 (v : String) : Option (Bool × (State → MonAns)) :=
  if v = "id" then some (true, doMonId)
  else if v = "help" then some (true, doMonHelp)
  else if v = "unlock" then some (true, doMonUnlock)
  else if v = "lock" then some (false, doMonLock)
  else if v = "ev" then some (false, doMonEv none)
  else if v = "pat" then some (false, doMonPat)
  else none
def monVerb1 (v : String) (w : List Char) : Option (Bool × (State → MonAns)) :=
  if v = "unlock" then (respOf w).map (fun r => (true, doMonUnlockResponse r))
  else match numOf w with
    | some n =>
      if v = "baud" then some (false, doMonBaud n)
      else if v = "rr" then some (false, doMonRr n 1)
      else if v = "ev" then some (false, doMonEv (some n))
      else none
    | none =>
      if v = "trace" then
        (if w == ['o', 'n'] then some (false, doMonTrace true) else if w == ['o', 'f', 'f'] then some (false, doMonTrace false) else none)
      else if v = "sched" ∧ w = ['s', 't', 'e', 'p'] then some (false, doSchedStep)
      else none
def monVerb2 (v : String) (a b : Nat) : Option (Bool × (State → MonAns)) :=
  if v = "rr" then some (false, doMonRr a b)
  else if v = "wr" then some (false, doMonWr a (wd b) allBits)
  else if v = "rm" then some (false, doMonRm a b)
  else if v = "wm" then some (false, doMonWm a (wd b))
  else if v = "maq" then some (false, doMonMaq a b)
  else none

/-- The command a relayed line spells (Table 18.5): whether it is open while locked, and what it does. -/
def monCommand (l : List Byte) : Option (Bool × (State → MonAns)) :=
  match wordsOf (lineOf l) [] with
  | [] => none
  | [c] => monVerb0 (String.ofList c)
  | [c, w] => monVerb1 (String.ofList c) w
  | [c, w1, w2] => match numOf w1, numOf w2 with
    | some a, some b => monVerb2 (String.ofList c) a b
    | _, _ => none
  | [c, w1, w2, w3] => match numOf w1, numOf w2, numOf w3 with
    | some a, some b, some m => if String.ofList c = "wr" then some (false, doMonWr a (wd b) (wd m)) else none
    | _, _, _ => none
  | _ => none

/-- R409: under the lock of this monitor a relayed command is open as the command itself is; its answer is the engine die's. -/
def execEngineRelay (cmd : List Byte) (s : State) : Ans :=
  if !s.serves then .next s
  else
    let r := s.monRun (match monCommand cmd with | some c => c.1 | none => false) (doEngineRelay cmd)
    .next (if r.2.1 = sOk then r.1 else r.1.monPrint (monLines r.2.1 r.2.2))

/-- Text as bytes. -/
def textBytes (t : String) : List Byte := t.toList.map (fun c => BitVec.ofNat 8 c.toNat)

/-- R240: a relayed command is carried out by the engine die, which sends the answer back; the host die prints an answer. -/
def execBrMon (text : List Byte) (s : State) : Ans :=
  if !s.brgRx then .next s
  else if s.id.isE then
    let r := match monCommand text with
      | some c => s.monRun c.1 c.2
      | none => s.monRun true (fun s => monErr s sBadType)
    .next ((monLines r.2.1 r.2.2).foldl (fun s t => s.toBridge 0 (.mon (textBytes t))) r.1)
  else .next (s.emit (.text (String.ofList (lineOf text))))

end Sys2Proof.Machine
end

