-- ==== Sys2Proof/Machine/Dispatch.lean ====
section
/-! DEFINITION. What each command does: one arm per row of the opcode table, each calling the meaning of its own. -/
namespace Sys2Proof.Machine

/-- The effect of a command on everything but the queue. -/
def exec (i : Instr) (s : State) : Host.Outcome State Fault Refusal :=
  match i with
  | .rstNAssert => Sys2Proof.Machine.execRstNAssert s
  | .rstNRelease => Sys2Proof.Machine.execRstNRelease s
  | .brownout ns => Sys2Proof.Machine.execBrownout ns s
  | .brownoutRecovery => Sys2Proof.Machine.execBrownoutRecovery s
  | .rootLock => Sys2Proof.Machine.execRootLock s
  | .rootLockRetry => Sys2Proof.Machine.execRootLockRetry s
  | .rootLossOfLock => Sys2Proof.Machine.execRootLossOfLock s
  | .flashDiscovery dev => Sys2Proof.Machine.execFlashDiscovery dev s
  | .copySelection => Sys2Proof.Machine.execCopySelection s
  | .signatureCheck => Sys2Proof.Machine.execSignatureCheck s
  | .imageApply castFail => Sys2Proof.Machine.execImageApply castFail s
  | .dramTraining pass => Sys2Proof.Machine.execDramTraining pass s
  | .bridgeTraining lanes peer => Sys2Proof.Machine.execBridgeTraining lanes peer s
  | .ready => Sys2Proof.Machine.execReady s
  | .estopReleaseCheck => Sys2Proof.Machine.execEstopReleaseCheck s
  | .engineReadyTimeout => Sys2Proof.Machine.execEngineReadyTimeout s
  | .hello h => Sys2Proof.Machine.execHello h s
  | .jobOpen h job => Sys2Proof.Machine.execJobOpen h job s
  | .jobClose h job => Sys2Proof.Machine.execJobClose h job s
  | .pageDesc h f => Sys2Proof.Machine.execPageDesc h f s
  | .bandData h p => Sys2Proof.Machine.execBandData h p s
  | .bandRaw h p => Sys2Proof.Machine.execBandRaw h p s
  | .pageRelease h job page => Sys2Proof.Machine.execPageRelease h job page s
  | .queryGlobalStatus h => Sys2Proof.Machine.execQueryGlobalStatus h s
  | .queryTokens h => Sys2Proof.Machine.execQueryTokens h s
  | .queryResidency h job page => Sys2Proof.Machine.execQueryResidency h job page s
  | .setTable h table inst off data => Sys2Proof.Machine.execSetTable h table inst off data s
  | .readReg h addr count => Sys2Proof.Machine.execReadReg h addr count s
  | .writeReg h entries => Sys2Proof.Machine.execWriteReg h entries s
  | .writeRegWindow h entries => Sys2Proof.Machine.execWriteRegWindow h entries s
  | .registerWrite e => Sys2Proof.Machine.execRegisterWrite e s
  | .timeRead h => Sys2Proof.Machine.execTimeRead h s
  | .timeSet h sec ns => Sys2Proof.Machine.execTimeSet h sec ns s
  | .timeStep h ns => Sys2Proof.Machine.execTimeStep h ns s
  | .consumableReport h => Sys2Proof.Machine.execConsumableReport h s
  | .consumableAuthenticate h port => Sys2Proof.Machine.execConsumableAuthenticate h port s
  | .retireRegion h ch region => Sys2Proof.Machine.execRetireRegion h ch region s
  | .retireChannel h ch => Sys2Proof.Machine.execRetireChannel h ch s
  | .retirementCopyDone whole ch region => Sys2Proof.Machine.execRetirementCopyDone whole ch region s
  | .retirementCopyRetry => Sys2Proof.Machine.execRetirementCopyRetry s
  | .eventSend => Sys2Proof.Machine.execEventSend s
  | .eventFlagClear k v => Sys2Proof.Machine.execEventFlagClear k v s
  | .eventEnableWrite k v mask => Sys2Proof.Machine.execEventEnableWrite k v mask s
  | .eventRouteWrite n v mask => Sys2Proof.Machine.execEventRouteWrite n v mask s
  | .ringH2dTail tail bytes => Sys2Proof.Machine.execRingH2dTail tail bytes s
  | .ringD2hHead head => Sys2Proof.Machine.execRingD2hHead head s
  | .ringReset v => Sys2Proof.Machine.execRingReset v s
  | .perstN => Sys2Proof.Machine.execPerstN s
  | .hostLinkChange link up rate width => Sys2Proof.Machine.execHostLinkChange link up rate width s
  | .udpDatagram d => Sys2Proof.Machine.execUdpDatagram d s
  | .arpRequest port ip mac => Sys2Proof.Machine.execArpRequest port ip mac s
  | .neighbourDiscovery port ip mac => Sys2Proof.Machine.execNeighbourDiscovery port ip mac s
  | .echoRequest port v6 ip data => Sys2Proof.Machine.execEchoRequest port v6 ip data s
  | .pinSelWrite n v mask => Sys2Proof.Machine.execPinSelWrite n v mask s
  | .pinRelease n => Sys2Proof.Machine.execPinRelease n s
  | .apertureWrite off v mask => Sys2Proof.Machine.execApertureWrite off v mask s
  | .admissionEvaluation => Sys2Proof.Machine.execAdmissionEvaluation s
  | .sheetPick => Sys2Proof.Machine.execSheetPick s
  | .registrationCapture sensor => Sys2Proof.Machine.execRegistrationCapture sensor s
  | .misfeedDecision tok => Sys2Proof.Machine.execMisfeedDecision tok s
  | .misfeedTokenRelease tok => Sys2Proof.Machine.execMisfeedTokenRelease tok s
  | .misfeedAck => Sys2Proof.Machine.execMisfeedAck s
  | .sheetEvent tok entry => Sys2Proof.Machine.execSheetEvent tok entry s
  | .feedForwardEnd => Sys2Proof.Machine.execFeedForwardEnd s
  | .tailLeavesFuser tok => Sys2Proof.Machine.execTailLeavesFuser tok s
  | .sheetDone tok => Sys2Proof.Machine.execSheetDone tok s
  | .speedChangeGapEnd => Sys2Proof.Machine.execSpeedChangeGapEnd s
  | .bandRelease tok station band => Sys2Proof.Machine.execBandRelease tok station band s
  | .bandMoveStart hits => Sys2Proof.Machine.execBandMoveStart s hits
  | .bandResident r => Sys2Proof.Machine.execBandResident r s
  | .bandDecoded cast hits => Sys2Proof.Machine.execBandDecoded cast s hits
  | .checkAheadStart r => Sys2Proof.Machine.execCheckAheadStart r s
  | .checkAheadEnd cast hits => Sys2Proof.Machine.execCheckAheadEnd cast s hits
  | .castStallResume cast => Sys2Proof.Machine.execCastStallResume cast s
  | .castOutOfService cast => Sys2Proof.Machine.execCastOutOfService cast s
  | .chiselAssign => Sys2Proof.Machine.execChiselAssign s
  | .chiselBandDone n => Sys2Proof.Machine.execChiselBandDone n s
  | .chiselResume n => Sys2Proof.Machine.execChiselResume n s
  | .chiselContextSave n => Sys2Proof.Machine.execChiselContextSave n s
  | .chiselOutOfService n => Sys2Proof.Machine.execChiselOutOfService n s
  | .contextRestore ctx => Sys2Proof.Machine.execContextRestore ctx s
  | .sosEdge st e => Sys2Proof.Machine.execSosEdge st e s
  | .sosEarly st => Sys2Proof.Machine.execSosEarly st s
  | .sosLost st => Sys2Proof.Machine.execSosLost st s
  | .sosAcquired st => Sys2Proof.Machine.execSosAcquired st s
  | .eosEdge st span => Sys2Proof.Machine.execEosEdge st span s
  | .facetLearn st => Sys2Proof.Machine.execFacetLearn st s
  | .indexFacetId st => Sys2Proof.Machine.execIndexFacetId st s
  | .autoLearnPeriod st => Sys2Proof.Machine.execAutoLearnPeriod st s
  | .shadowApplyIdle st => Sys2Proof.Machine.execShadowApplyIdle st s
  | .pixLossOfLock n => Sys2Proof.Machine.execPixLossOfLock n s
  | .pixRelock n => Sys2Proof.Machine.execPixRelock n s
  | .bypassSwitch n => Sys2Proof.Machine.execBypassSwitch n s
  | .auxClockSwitch a => Sys2Proof.Machine.execAuxClockSwitch a s
  | .refCompUpdate => Sys2Proof.Machine.execRefCompUpdate s
  | .gainRecalibration => Sys2Proof.Machine.execGainRecalibration s
  | .statusFrame n bytes => Sys2Proof.Machine.execStatusFrame n bytes s
  | .statusLost n => Sys2Proof.Machine.execStatusLost n s
  | .linkEnable n => Sys2Proof.Machine.execLinkEnable n s
  | .linkDisable n => Sys2Proof.Machine.execLinkDisable n s
  | .lanesHalfTimeout n => Sys2Proof.Machine.execLanesHalfTimeout n s
  | .trainingTimeout n => Sys2Proof.Machine.execTrainingTimeout n s
  | .trainingRetry n => Sys2Proof.Machine.execTrainingRetry n s
  | .alignPixclkRestart n => Sys2Proof.Machine.execAlignPixclkRestart n s
  | .laneRetrainStart n lane => Sys2Proof.Machine.execLaneRetrainStart n lane s
  | .flitReceive bytes => Sys2Proof.Machine.execFlitReceive bytes s
  | .replay => Sys2Proof.Machine.execReplay s
  | .replayTimeout => Sys2Proof.Machine.execReplayTimeout s
  | .bridgeMessageSend => Sys2Proof.Machine.execBridgeMessageSend s
  | .laneLockLoss lane => Sys2Proof.Machine.execLaneLockLoss lane s
  | .retrainEnd pass dur books => Sys2Proof.Machine.execRetrainEnd pass dur books s
  | .rejoinRetrainDue => Sys2Proof.Machine.execRejoinRetrainDue s
  | .bridgeTrainingAttempt => Sys2Proof.Machine.execBridgeTrainingAttempt s
  | .bridgeDown => Sys2Proof.Machine.execBridgeDown s
  | .brHello peer gen => Sys2Proof.Machine.execBrHello peer gen s
  | .brReady boot => Sys2Proof.Machine.execBrReady boot s
  | .brBandReq bands => Sys2Proof.Machine.execBrBandReq bands s
  | .brBand r off data => Sys2Proof.Machine.execBrBand r off data s
  | .brResidency r res => Sys2Proof.Machine.execBrResidency r res s
  | .brRate bytes clocks links => Sys2Proof.Machine.execBrRate bytes clocks s links
  | .brFault plinth thermal => Sys2Proof.Machine.execBrFault plinth thermal s
  | .brMon text => Sys2Proof.Machine.execBrMon text s
  | .brRetire ch region whole => Sys2Proof.Machine.execBrRetire ch region whole s
  | .brBadMessage vc type => Sys2Proof.Machine.execBrBadMessage vc type s
  | .brTimeMark => Sys2Proof.Machine.execBrTimeMark s
  | .brTimeFollow t1 t4 => Sys2Proof.Machine.execBrTimeFollow t1 t4 s
  | .timeExchangeMissed => Sys2Proof.Machine.execTimeExchangeMissed s
  | .mergeFlush ch ups => Sys2Proof.Machine.execMergeFlush ch ups s
  | .sramMergeFlush bank ups => Sys2Proof.Machine.execSramMergeFlush bank ups s
  | .scrubRead unit ups => Sys2Proof.Machine.execScrubRead unit ups s
  | .patinaTailWrite v => Sys2Proof.Machine.execPatinaTailWrite v s
  | .dmaStart n => Sys2Proof.Machine.execDmaStart n s
  | .dmaTailRecheck n => Sys2Proof.Machine.execDmaTailRecheck n s
  | .dmaRestart n => Sys2Proof.Machine.execDmaRestart n s
  | .dmaSkip n => Sys2Proof.Machine.execDmaSkip n s
  | .dmaAbort n => Sys2Proof.Machine.execDmaAbort n s
  | .dmaStop n => Sys2Proof.Machine.execDmaStop n s
  | .dmaBurst input ups => Sys2Proof.Machine.execDmaBurst input ups s
  | .stpMove n => Sys2Proof.Machine.execStpMove n s
  | .stpStop n => Sys2Proof.Machine.execStpStop n s
  | .stpResume n => Sys2Proof.Machine.execStpResume n s
  | .stpReference n => Sys2Proof.Machine.execStpReference n s
  | .stpClear n => Sys2Proof.Machine.execStpClear n s
  | .stpEnable n => Sys2Proof.Machine.execStpEnable n s
  | .stpDisable n => Sys2Proof.Machine.execStpDisable n s
  | .stpTargetWrite n v => Sys2Proof.Machine.execStpTargetWrite n v s
  | .stpLimitWrite n which v => Sys2Proof.Machine.execStpLimitWrite n which v s
  | .stepPulse n => Sys2Proof.Machine.execStepPulse n s
  | .stpFault n cause => Sys2Proof.Machine.execStpFault n cause s
  | .stallInput n level => Sys2Proof.Machine.execStallInput n level s
  | .homeEdge n level => Sys2Proof.Machine.execHomeEdge n level s
  | .motRun n => Sys2Proof.Machine.execMotRun n s
  | .motStop n => Sys2Proof.Machine.execMotStop n s
  | .motCoast n => Sys2Proof.Machine.execMotCoast n s
  | .motClear n => Sys2Proof.Machine.execMotClear n s
  | .motSpeedWrite n v => Sys2Proof.Machine.execMotSpeedWrite n v s
  | .listenTimeout n => Sys2Proof.Machine.execListenTimeout n s
  | .alignEnd n => Sys2Proof.Machine.execAlignEnd n s
  | .handoverTimeout n => Sys2Proof.Machine.execHandoverTimeout n s
  | .zeroCrossing n dt pos => Sys2Proof.Machine.execZeroCrossing n dt pos s
  | .hallEdge n code dt => Sys2Proof.Machine.execHallEdge n code dt s
  | .motAtSpeed n => Sys2Proof.Machine.execMotAtSpeed n s
  | .rotorLost n => Sys2Proof.Machine.execRotorLost n s
  | .listenEnd n => Sys2Proof.Machine.execListenEnd n s
  | .ilimTrip n t => Sys2Proof.Machine.execIlimTrip n t s
  | .phaseLockChange n => Sys2Proof.Machine.execPhaseLockChange n s
  | .vbusSample code => Sys2Proof.Machine.execVbusSample code s
  | .chopperFeedbackFault => Sys2Proof.Machine.execChopperFeedbackFault s
  | .chopperOnTimeout => Sys2Proof.Machine.execChopperOnTimeout s
  | .ovAck => Sys2Proof.Machine.execOvAck s
  | .chopAck => Sys2Proof.Machine.execChopAck s
  | .thermalTick inp => Sys2Proof.Machine.execThermalTick inp s
  | .ladderDwellStep d => Sys2Proof.Machine.execLadderDwellStep d s
  | .digitalSensorRead k bits => Sys2Proof.Machine.execDigitalSensorRead k bits s
  | .sensorRecovered k => Sys2Proof.Machine.execSensorRecovered k s
  | .zeroCrossEdge us => Sys2Proof.Machine.execZeroCrossEdge us s
  | .zeroCrossLoss => Sys2Proof.Machine.execZeroCrossLoss s
  | .zeroCrossRegained => Sys2Proof.Machine.execZeroCrossRegained s
  | .fuserPidUpdate => Sys2Proof.Machine.execFuserPidUpdate s
  | .pairInvalid h => Sys2Proof.Machine.execPairInvalid h s
  | .pairValid h => Sys2Proof.Machine.execPairValid h s
  | .hvLoopUpdate fb => Sys2Proof.Machine.execHvLoopUpdate fb s
  | .hvFault c => Sys2Proof.Machine.execHvFault c s
  | .timStepWrite v => Sys2Proof.Machine.execTimStepWrite v s
  | .timFreqWrite v => Sys2Proof.Machine.execTimFreqWrite v s
  | .servoSample o => Sys2Proof.Machine.execServoSample o s
  | .servoLocked => Sys2Proof.Machine.execServoLocked s
  | .servoHoldover => Sys2Proof.Machine.execServoHoldover s
  | .wideCompareFire w => Sys2Proof.Machine.execWideCompareFire w s
  | .fastCompareFire c => Sys2Proof.Machine.execFastCompareFire c s
  | .capture k => Sys2Proof.Machine.execCapture k s
  | .ptpSyncSend p => Sys2Proof.Machine.execPtpSyncSend p s
  | .ptpAnnounceSend p => Sys2Proof.Machine.execPtpAnnounceSend p s
  | .ptpDelayReqSend p => Sys2Proof.Machine.execPtpDelayReqSend p s
  | .ptpSync p m => Sys2Proof.Machine.execPtpSync p m s
  | .ptpFollowUp p m => Sys2Proof.Machine.execPtpFollowUp p m s
  | .ptpDelayReq p m => Sys2Proof.Machine.execPtpDelayReq p m s
  | .ptpDelayResp p m => Sys2Proof.Machine.execPtpDelayResp p m s
  | .ptpAnnounce p m => Sys2Proof.Machine.execPtpAnnounce p m s
  | .ptpAnnounceTimeout p => Sys2Proof.Machine.execPtpAnnounceTimeout p s
  | .transparentClockForward p type m => Sys2Proof.Machine.execTransparentClockForward p type m s
  | .ouvothFrame p f => Sys2Proof.Machine.execOuvothFrame p f s
  | .announceSend => Sys2Proof.Machine.execAnnounceSend s
  | .announce src role glbId floor busy state joinReq => Sys2Proof.Machine.execAnnounce src role glbId floor busy state joinReq s
  | .admitMsg accepted anchor => Sys2Proof.Machine.execAdmitMsg accepted anchor s
  | .joinAdmit id => Sys2Proof.Machine.execJoinAdmit id s
  | .order id job page step pickT route => Sys2Proof.Machine.execOrder id job page step pickT route s
  | .orderEvaluation id => Sys2Proof.Machine.execOrderEvaluation id s
  | .orderAck src id => Sys2Proof.Machine.execOrderAck src id s
  | .orderRefused src id code => Sys2Proof.Machine.execOrderRefused src id code s
  | .goDecision id => Sys2Proof.Machine.execGoDecision id s
  | .goMsg id => Sys2Proof.Machine.execGoMsg id s
  | .linePickCheck id => Sys2Proof.Machine.execLinePickCheck id s
  | .report src id state flags => Sys2Proof.Machine.execReport src id state flags s
  | .lineStep step gapT anchor => Sys2Proof.Machine.execLineStep step gapT anchor s
  | .lineStopMessage begun => Sys2Proof.Machine.execLineStopMessage begun s
  | .lost id => Sys2Proof.Machine.execLost id s
  | .workerLost id => Sys2Proof.Machine.execWorkerLost id s
  | .isolated => Sys2Proof.Machine.execIsolated s
  | .lineStop => Sys2Proof.Machine.execLineStop s
  | .lineResume => Sys2Proof.Machine.execLineResume s
  | .lineLinkPortChange p up => Sys2Proof.Machine.execLineLinkPortChange p up s
  | .presenceProbe p answered => Sys2Proof.Machine.execPresenceProbe p answered s
  | .presenceChange p => Sys2Proof.Machine.execPresenceChange p s
  | .ident p reply => Sys2Proof.Machine.execIdent p reply s
  | .auth p reply => Sys2Proof.Machine.execAuth p reply s
  | .commit p reply => Sys2Proof.Machine.execCommit p reply s
  | .replyPoll p reply => Sys2Proof.Machine.execReplyPoll p reply s
  | .replyTimeout p => Sys2Proof.Machine.execReplyTimeout p s
  | .csmCmdAuth v => Sys2Proof.Machine.execCsmCmdAuth v s
  | .usageReportSend p => Sys2Proof.Machine.execUsageReportSend p s
  | .monId => Sys2Proof.Machine.execMonId s
  | .monHelp => Sys2Proof.Machine.execMonHelp s
  | .monUnlock => Sys2Proof.Machine.execMonUnlock s
  | .monUnlockResponse r => Sys2Proof.Machine.execMonUnlockResponse r s
  | .monUnlockTimeout => Sys2Proof.Machine.execMonUnlockTimeout s
  | .lockoutEnd => Sys2Proof.Machine.execLockoutEnd s
  | .monLock => Sys2Proof.Machine.execMonLock s
  | .monBaud rate => Sys2Proof.Machine.execMonBaud rate s
  | .monitorRr addr count => Sys2Proof.Machine.execMonitorRr addr count s
  | .monitorWr addr v mask => Sys2Proof.Machine.execMonitorWr addr v mask s
  | .monitorRm addr count => Sys2Proof.Machine.execMonitorRm addr count s
  | .monitorWm addr v => Sys2Proof.Machine.execMonitorWm addr v s
  | .monEv n => Sys2Proof.Machine.execMonEv n s
  | .monPat => Sys2Proof.Machine.execMonPat s
  | .monMaq off count => Sys2Proof.Machine.execMonMaq off count s
  | .monTrace on => Sys2Proof.Machine.execMonTrace on s
  | .schedStep => Sys2Proof.Machine.execSchedStep s
  | .engineRelay cmd => Sys2Proof.Machine.execEngineRelay cmd s
  | .skpErrors lane n => Sys2Proof.Machine.execSkpErrors lane n s
  | .encoderEdge e a b => Sys2Proof.Machine.execEncoderEdge e a b s
  | .orderIssue job page step pickT route => Sys2Proof.Machine.execOrderIssue job page step pickT route s
  | .commutation n => Sys2Proof.Machine.execCommutation n s
  | .floatingPhaseSample n level => Sys2Proof.Machine.execFloatingPhaseSample n level s
  | .recalibrationComplete => Sys2Proof.Machine.execRecalibrationComplete s

end Sys2Proof.Machine
end

