-- ==== Sys2Proof/Machine/Tick.lean ====
section
/-! DEFINITION. What one TIME clock does of itself (log entry 4): device time, the DMA buckets, the dither registers, the progress of casts and
chisels, and the profile clocks of moving step channels. -/
namespace Sys2Proof.Machine

/-- The dither register shifts (R194): the feedback of x^16 + x^14 + x^13 + x^11 + 1 enters at the top (log entry 24). -/
def lfsrNext (v : Nat) : Nat := v / 2 % 32768 + ((v + v / 4 + v / 8 + v / 32) % 2) * 32768

/-- The dither d in LSB of PIX_FRAC: +A or −A by bit 0 of the LFSR, with A 1, 2 or 4 for DITH_AMP 1, 2 and 3 (R194). -/
def ditherOf (amp lfsr : Nat) : Int := if amp = 0 then 0 else if lfsr % 2 = 1 then (2 ^ (amp - 1) : Nat) else -((2 ^ (amp - 1) : Nat) : Int)

/-- Once per PERI period, which is two TIME clocks, the modulator takes PIX_FRAC with the dither, and the LFSR shifts (R194). -/
def State.ditherTick (s : State) : State :=
  if s.clk % 2 = 0 then
    s.each (upTo s.id.stations) (fun s n => s.modPix n (fun (p : PixSynth) =>
      { p with dith := p.mCur + ditherOf (s.f (clkB + 0x100 + 0x20 * n) 8 2) p.lfsr, lfsr := lfsrNext p.lfsr }))
  else s

/-- A cast in output decoding parses between 0 and 64 bytes a TIME clock (Table 6.2); how many is free. What its partner has written counts as it
stood in `old`, at the end of the clock before (R157). -/
def State.castTick (old s : State) (n : Nat) : State :=
  if (s.cast n).out.isNone || (s.cast n).stalled then s else old.castStep s.tookFree n (s.freeVal % 65)

/-- A chisel primes 16 bytes a TIME clock (Table 6.1), then emits up to 32 scaled by the die-power limit (R330); in die-power CRIT it stops. A full
output buffer stalls it (R146); how much it emits and when the buffer is full is free. -/
def State.chsTick (s : State) (n : Nat) : State :=
  let c := s.chs n
  let lad := s.lad 1
  if lad.crit then s
  else match c.st with
    | .priming =>
      let s1 := s.modChs n (fun (c : Chisel) => { c with prime := c.prime - 16, st := if c.prime ≤ 16 then ChsSt.matching else c.st })
      (match c.ref with | some r => if c.prime ≤ 16 then s1.primed r else s1 | none => s1)
    | .matching =>
      let k := s.freeVal % (32 * lad.limit / 255 + 1)
      let full := s.tookFree.freeVal % 2 == 1
      s.tookFree.tookFree.modChs n (fun (c : Chisel) =>
        { c with emitted := Nat.min c.stream.length (c.emitted + k), st := if full then ChsSt.stalled else c.st })
    | _ => s

/-- The profile clock of a moving step channel, up to the step that is due (R291). -/
def Stepper.clock (x : Stepper) : Stepper := if x.segs.isEmpty then x else { x with tau := Nat.min (x.tau + 1) x.due }

/-- A fast compare in scan mode follows a changed period (R353). -/
def State.fcFollow (s : State) (c : Nat) : State := if (s.claim 10 c).isSome && s.fcStale c then s.fcScan c else s

/-- One TIME clock (R346, R347). -/
def State.tick (s : State) : State :=
  if s.inReset then s
  else
    let s1 : State := { s with clk := s.clk + 1, time := { s.time with now := s.time.now + s.time.addend },
                               stp := s.stp.map Stepper.clock }
    let s2 := s1.dmaTick.ditherTick
    let s3 := (s2.each (upTo s2.id.casts) s2.castTick).each (upTo 8) State.chsTick
    (s3.each (upTo 8) State.fcFollow).gapDue.onDieTick.rejoinTick

end Sys2Proof.Machine
end

