-- ==== Sys2Proof/Safety.lean ====
section
/-! DEFINITION. What holds of every state a run may reach, in the terms the statements use. -/
namespace Sys2Proof.Machine

/-- The memories and the table windows are in canonical form: addresses strictly rising, and no byte listed at the value it reads unlisted. -/
def State.memOk (s : State) : Prop := s.mem.dram.wf = true ∧ s.mem.sram.wf = true ∧ canonFrom (fun a b => b == tabDef a) none s.tab = true

/-- The register file is in canonical form: addresses strictly rising, and no register listed at its reset value. -/
def State.regsOk (s : State) : Prop := canonFrom (fun a w => w == resetOf s.id a) none s.regs = true

/-- What no command may change: the variant fuses, the bonding and the OTP (R36, R409). -/
def State.sameDie (s t : State) : Prop := t.id = s.id ∧ t.otp = s.otp

/-- The registers an occurrence of the events `ns` may write: their flags and COUNTs, and those of BRG_QLOSS, which the first message
updated on a down bridge raises (R236, R391). -/
def evRegs (ns : List Nat) : List Nat := ns.flatMap (fun n => [evFlagA n, evSrcA n, evFlagA 207, evSrcA 207, brgB + 0x1C])

/-- `t` is `u` but for the register file, the EVENT messages and the bridge's record of a lost one. -/
def EventsOnly (u t : State) : Prop :=
  ∃ regs latest unsent qloss, t = { u with regs := regs, host := { u.host with latest := latest, unsent := unsent }, brg := { u.brg with qloss := qloss } }

/-- `t` is `u` once the events `ns` have occurred: each is flagged, and nothing but their registers and messages has changed (R391, R392). -/
def Occurs (ns : List Nat) (u t : State) : Prop :=
  (∀ n ∈ ns, t.evFlag n = true) ∧ (∀ a, a ∉ evRegs ns → t.reg a = u.reg a) ∧ EventsOnly u t

/-- The command completes in a state of which `P` holds. -/
def Gives (i : Instr) (s : State) (P : State → Prop) : Prop := ∃ t, exec i s = .next t ∧ P t

/-- The order in which the copies of a maquette are tried (R75, R89): copy A alone where it is format v1; otherwise those with a readable
header, the higher GEN first and copy A on a tie. -/
def tryOrder (d : FlashDev) : List Nat :=
  let a := flashRead d 0 44
  let b := match flashB d with | some o => flashRead d o 44 | none => []
  let okB := (flashB d).isSome && headerOk b
  if isV1 a then [0]
  else match headerOk a, okB with
    | true, true => if quad a 20 < quad b 20 then [1, 0] else [0, 1]
    | true, false => [0]
    | false, true => [1]
    | false, false => []

/-- A request of code `type` with `n` body bytes reaches this die over its link and is carried out by it (R66, R374 to R377): it repeats no kept
request and none whose reply is outstanding. With `here` the die answers it whatever its DIE. -/
def State.takes (s : State) (here : Bool) (h : ReqHdr) (type n : Nat) : Prop :=
  s.inReset = false ∧ s.linkOk h.link = true ∧ (s.ready = true ∨ type = 1) ∧ n + 16 ≤ s.maxMsg h ∧ (here = true ∨ s.id.isH = false ∨ h.die ≠ 1) ∧
  (∀ k ∈ s.host.kept, ¬(k.link = h.link ∧ k.seq = h.seq ∧ k.type = type ∧ k.crc = h.crc)) ∧
  (∀ e ∈ s.host.relayed, ¬(e.1.link = h.link ∧ e.1.seq = h.seq ∧ e.2 = type ∧ e.1.crc = h.crc)) ∧
  (∀ e ∈ s.csm.asked, ¬(e.1.link = h.link ∧ e.1.seq = h.seq ∧ e.1.crc = h.crc))

/-- `t` is `u` once the request has been answered with these messages (type, STATUS, body): the reply is kept and sent (R375). -/
def Answered (h : ReqHdr) (type : Nat) (msgs : List (Nat × Nat × List Byte)) (u t : State) : Prop := t = State.finish h type { st := u, msgs := msgs }

/-- The messages of an ACK and of a NAK of a request as a whole (R378). -/
def okMsg (body : List Byte) : List (Nat × Nat × List Byte) := [(0x11, 0, body)]
def nakMsg (code : Nat) : List (Nat × Nat × List Byte) := [(0x12, code, nakBody 0xFFFF 0)]

/-- The parts of State, as the frames name them. -/
inductive Part where
  | reset | clk | free | regs | held | tab | heldTab | adj | claims | boot | msgs | hostIf | jobs | toks | sched | casts | chisels | codec | stn | clks
  | links | qloss | brg | dram | sram | mem | dma | rr | stp | enc | mot | bus | sensors | ladders | heaters | hv | thm | time | wcmp | fcmp | ptp | line
  | csm | mon | caps | out
  deriving DecidableEq, Repr

/-- A part is as it was: the named field of State, or what the field holds beside the parts that are named apart. -/
def Part.same : Part → State → State → Prop
  | .reset, s, t => (t.inReset, t.rstLow, t.brown) = (s.inReset, s.rstLow, s.brown)
  | .clk, s, t => t.clk = s.clk
  | .free, s, t => t.free = s.free
  | .regs, s, t => t.regs = s.regs
  | .held, s, t => t.held = s.held
  | .tab, s, t => t.tab = s.tab
  | .heldTab, s, t => t.heldTab = s.heldTab
  | .adj, s, t => (t.adjRegs, t.adjTabs) = (s.adjRegs, s.adjTabs)
  | .claims, s, t => t.claims = s.claims
  | .boot, s, t => t.boot = s.boot
  | .msgs, s, t => (t.host.latest, t.host.unsent) = (s.host.latest, s.host.unsent)
  | .hostIf, s, t => (t.host.pcie, t.host.eth, t.host.retrains, t.host.h2d, t.host.dest, t.host.helloAt, t.host.kept, t.host.relayed) =
      (s.host.pcie, s.host.eth, s.host.retrains, s.host.h2d, s.host.dest, s.host.helloAt, s.host.kept, s.host.relayed)
  | .jobs, s, t => t.jobs = s.jobs
  | .toks, s, t => t.sched.toks = s.sched.toks
  | .sched, s, t => { t.sched with toks := [] } = { s.sched with toks := [] }
  | .casts, s, t => t.codec.casts = s.codec.casts
  | .chisels, s, t => t.codec.chisels = s.codec.chisels
  | .codec, s, t => { t.codec with casts := [], chisels := [] } = { s.codec with casts := [], chisels := [] }
  | .stn, s, t => t.stn = s.stn
  | .clks, s, t => t.clks = s.clks
  | .links, s, t => t.links = s.links
  | .qloss, s, t => t.brg.qloss = s.brg.qloss
  | .brg, s, t => { t.brg with qloss := false } = { s.brg with qloss := false }
  | .dram, s, t => t.mem.dram = s.mem.dram
  | .sram, s, t => t.mem.sram = s.mem.sram
  | .mem, s, t => { t.mem with dram := [], sram := [] } = { s.mem with dram := [], sram := [] }
  | .dma, s, t => t.dma = s.dma
  | .rr, s, t => t.rr = s.rr
  | .stp, s, t => t.stp = s.stp
  | .enc, s, t => (t.enc, t.encPin) = (s.enc, s.encPin)
  | .mot, s, t => t.mot = s.mot
  | .bus, s, t => t.bus = s.bus
  | .sensors, s, t => t.thm.sensors = s.thm.sensors
  | .ladders, s, t => t.thm.ladders = s.thm.ladders
  | .heaters, s, t => t.thm.heaters = s.thm.heaters
  | .hv, s, t => t.thm.hv = s.thm.hv
  | .thm, s, t => { t.thm with sensors := [], ladders := [], heaters := [], hv := [] } = { s.thm with sensors := [], ladders := [], heaters := [], hv := [] }
  | .time, s, t => t.time = s.time
  | .wcmp, s, t => t.wcmp = s.wcmp
  | .fcmp, s, t => t.fcmp = s.fcmp
  | .ptp, s, t => t.ptp = s.ptp
  | .line, s, t => t.line = s.line
  | .csm, s, t => t.csm = s.csm
  | .mon, s, t => t.mon = s.mon
  | .caps, s, t => (t.pageCap, t.bandCap) = (s.pageCap, s.bandCap)
  | .out, s, t => t.out = s.out

/-- Every part. -/
def Part.all : List Part :=
  [.reset, .clk, .free, .regs, .held, .tab, .heldTab, .adj, .claims, .boot, .msgs, .hostIf, .jobs, .toks, .sched, .casts, .chisels, .codec, .stn,
   .clks, .links, .qloss, .brg, .dram, .sram, .mem, .dma, .rr, .stp, .enc, .mot, .bus, .sensors, .ladders, .heaters, .hv, .thm, .time, .wcmp,
   .fcmp, .ptp, .line, .csm, .mon, .caps, .out]

/-- Every part but some. -/
def Part.allBut (l : List Part) : List Part := Part.all.filter (fun p => !l.contains p)

/-- The parts of State a command may change. What it leaves alone is its frame. -/
def touches (i : Instr) : List Part :=
  match i with
  | .rstNAssert | .brownout _ => Part.all
  | .rstNRelease | .brownoutRecovery => [.reset, .boot]
  | .rootLock => [.boot, .clks]
  | .rootLockRetry => []
  | .rootLossOfLock => [.regs, .msgs, .toks, .clks, .qloss]
  | .flashDiscovery _ | .copySelection => [.boot]
  | .signatureCheck | .estopReleaseCheck => [.regs, .boot, .msgs, .qloss]
  | .imageApply _ => Part.allBut [.reset, .clk, .hostIf, .chisels, .rr, .enc, .sensors, .heaters, .thm]
  | .dramTraining _ => [.regs, .boot, .msgs, .qloss, .mem, .caps]
  | .bridgeTraining _ _ => [.free, .regs, .boot, .msgs, .hostIf, .jobs, .sched, .qloss, .brg, .mem, .dma, .out]
  | .ready | .engineReadyTimeout => [.regs, .boot, .msgs, .sched, .qloss, .brg, .csm]
  | .hello _ | .queryGlobalStatus _ | .queryTokens _ | .queryResidency _ _ _ | .timeRead _ | .consumableReport _ =>
    [.regs, .msgs, .hostIf, .qloss, .brg, .out]
  | .jobOpen _ _ | .jobClose _ _ | .pageDesc _ _ => [.regs, .msgs, .hostIf, .jobs, .qloss, .brg, .out]
  | .bandData _ _ | .bandRaw _ _ => [.regs, .msgs, .hostIf, .jobs, .sched, .codec, .qloss, .brg, .out]
  | .pageRelease _ _ _ => [.regs, .msgs, .hostIf, .jobs, .chisels, .codec, .qloss, .brg, .out]
  | .setTable _ _ _ _ _ => [.regs, .tab, .heldTab, .claims, .boot, .msgs, .hostIf, .stn, .links, .qloss, .brg, .ladders, .out]
  | .readReg _ _ _ => [.regs, .msgs, .hostIf, .qloss, .brg, .dram, .sram, .mem, .time, .out]
  | .writeReg _ _ => Part.allBut [.reset, .clk, .adj, .casts, .chisels, .codec, .rr, .enc, .sensors, .heaters, .thm]
  | .writeRegWindow _ _ => [.regs, .msgs, .hostIf, .qloss, .brg, .dram, .sram, .mem, .out]
  | .registerWrite _ | .ringH2dTail _ _ | .ringD2hHead _ | .ringReset _ | .udpDatagram _ | .flitReceive _ =>
    Part.allBut [.reset, .clk, .adj, .casts, .rr, .enc, .sensors, .heaters, .thm]
  | .timeSet _ _ _ | .timeStep _ _ => [.regs, .msgs, .hostIf, .qloss, .brg, .time, .wcmp, .fcmp, .out]
  | .consumableAuthenticate _ _ | .presenceChange _ | .ident _ _ | .replyPoll _ _ | .replyTimeout _ => [.regs, .msgs, .hostIf, .qloss, .brg, .csm, .out]
  | .retireRegion _ _ _ | .retireChannel _ _ => [.free, .regs, .msgs, .hostIf, .jobs, .qloss, .brg, .dram, .sram, .mem, .dma, .caps, .out]
  | .retirementCopyDone _ _ _ => [.regs, .msgs, .qloss, .dram, .sram, .mem, .dma, .caps]
  | .retirementCopyRetry => [.free, .regs, .mem, .dma]
  | .eventSend => [.regs, .msgs, .qloss, .brg, .dma, .out]
  | .eventFlagClear _ _ | .eventEnableWrite _ _ _ | .eventRouteWrite _ _ _ | .pinSelWrite _ _ _ | .pinRelease _ | .apertureWrite _ _ _
  | .brMon _ | .stpLimitWrite _ _ _ | .monitorWr _ _ _ | .engineRelay _ =>
    Part.allBut [.reset, .clk, .adj, .hostIf, .casts, .chisels, .codec, .rr, .enc, .sensors, .heaters, .thm]
  | .perstN => [.regs, .msgs, .hostIf, .qloss]
  | .hostLinkChange _ _ _ _ => [.regs, .msgs, .hostIf, .qloss, .brg]
  | .arpRequest _ _ _ | .neighbourDiscovery _ _ _ | .echoRequest _ _ _ _ | .ptpDelayReq _ _ | .transparentClockForward _ _ _ => [.out]
  | .admissionEvaluation | .orderEvaluation _ =>
    [.regs, .held, .heldTab, .boot, .msgs, .jobs, .sched, .codec, .stn, .links, .qloss, .brg, .stp, .mot, .ladders, .time, .fcmp, .ptp, .line, .csm,
     .out]
  | .sheetPick => [.regs, .msgs, .jobs, .toks, .sched, .stn, .qloss, .stp, .mot, .time, .fcmp, .line, .out]
  | .registrationCapture _ | .tailLeavesFuser _ => [.toks, .out]
  | .misfeedDecision _ => [.regs, .msgs, .toks, .sched, .casts, .codec, .stn, .qloss, .out]
  | .misfeedTokenRelease _ | .sheetDone _ =>
    [.regs, .held, .heldTab, .msgs, .jobs, .toks, .sched, .casts, .chisels, .codec, .stn, .links, .qloss, .brg, .stp, .mot, .ladders, .time, .fcmp,
     .ptp, .line, .csm, .out]
  | .misfeedAck => [.sched, .out]
  | .sheetEvent _ _ => [.regs, .msgs, .toks, .casts, .codec, .stn, .qloss, .heaters, .hv, .thm, .wcmp, .out]
  | .feedForwardEnd => [.heaters]
  | .speedChangeGapEnd => [.regs, .msgs, .sched, .stn, .qloss, .stp, .mot, .time, .fcmp, .line]
  | .bandRelease _ _ _ => [.regs, .casts, .codec, .out]
  | .bandMoveStart _ => [.free, .regs, .msgs, .jobs, .qloss, .brg, .mem, .dma]
  | .bandResident _ => [.jobs, .sched, .casts, .codec, .brg, .dma, .out]
  | .bandDecoded _ _ => [.regs, .msgs, .jobs, .toks, .sched, .casts, .codec, .stn, .qloss, .brg, .mem, .stp, .mot, .time, .fcmp, .out]
  | .checkAheadStart _ => [.casts, .codec]
  | .checkAheadEnd _ _ => [.regs, .msgs, .jobs, .casts, .codec, .qloss, .mem]
  | .castStallResume _ => [.regs, .sched, .casts, .stn, .stp, .mot, .time, .fcmp, .out]
  | .castOutOfService _ => [.free, .regs, .msgs, .toks, .sched, .casts, .codec, .stn, .qloss, .mem, .stp, .mot, .time, .fcmp, .line, .out]
  | .chiselAssign => [.free, .regs, .jobs, .chisels, .codec, .dma]
  | .chiselBandDone _ => [.regs, .jobs, .sched, .chisels, .codec, .brg, .dma]
  | .chiselResume _ => [.chisels]
  | .chiselContextSave _ => [.free, .chisels, .codec]
  | .chiselOutOfService _ => [.free, .regs, .msgs, .chisels, .codec, .qloss, .mem, .dma]
  | .contextRestore _ => [.chisels, .codec]
  | .sosEdge _ _ =>
    [.regs, .held, .tab, .msgs, .jobs, .toks, .sched, .casts, .codec, .stn, .clks, .links, .qloss, .brg, .mem, .stp, .mot, .ladders, .time, .fcmp,
     .line, .out]
  | .sosEarly _ => [.regs]
  | .sosLost _ => [.regs, .msgs, .toks, .casts, .codec, .stn, .qloss, .out]
  | .sosAcquired _ => [.stn]
  | .eosEdge _ _ => [.regs, .stn]
  | .facetLearn _ => [.regs, .msgs, .stn, .qloss]
  | .indexFacetId _ => [.regs, .msgs, .stn, .qloss, .time]
  | .autoLearnPeriod _ => [.tab, .stn]
  | .shadowApplyIdle _ => [.regs, .held, .tab, .msgs, .sched, .stn, .clks, .links, .qloss, .stp, .mot, .ladders, .time, .fcmp, .line, .out]
  | .pixLossOfLock _ => [.regs, .msgs, .toks, .stn, .clks, .links, .qloss]
  | .pixRelock _ => [.clks, .links]
  | .bypassSwitch _ | .auxClockSwitch _ | .gainRecalibration => [.clks]
  | .refCompUpdate => [.regs, .msgs, .clks, .qloss, .time]
  | .statusFrame _ _ | .linkDisable _ => [.regs, .msgs, .toks, .sched, .stn, .links, .qloss, .stp, .mot, .time, .fcmp, .line, .out]
  | .statusLost _ | .trainingTimeout _ => [.regs, .msgs, .links, .qloss]
  | .linkEnable _ | .alignPixclkRestart _ => [.regs, .links]
  | .lanesHalfTimeout _ | .trainingRetry _ | .laneRetrainStart _ _ => [.links]
  | .replay | .laneLockLoss _ | .rejoinRetrainDue | .skpErrors _ _ => [.qloss, .brg, .out]
  | .replayTimeout | .bridgeTrainingAttempt => [.regs, .msgs, .qloss, .brg, .out]
  | .bridgeMessageSend => [.regs, .msgs, .jobs, .qloss, .brg, .dma, .out]
  | .retrainEnd _ _ _ | .bridgeDown => [.regs, .boot, .msgs, .hostIf, .jobs, .sched, .qloss, .brg, .mem, .dma, .out]
  | .brHello _ _ => [.regs, .boot, .msgs, .qloss, .brg]
  | .brReady _ => [.regs, .boot, .msgs, .jobs, .sched, .qloss, .brg, .csm]
  | .brBandReq _ | .brRate _ _ _ => [.regs, .msgs, .qloss, .brg]
  | .brBand _ _ _ => [.regs, .msgs, .jobs, .qloss, .dma]
  | .brResidency _ _ => [.free, .regs, .jobs, .brg, .dma]
  | .brFault _ _ => [.regs, .boot, .msgs, .toks, .qloss, .brg]
  | .brRetire _ _ _ => [.jobs]
  | .brBadMessage _ _ => [.regs, .msgs, .qloss]
  | .brTimeMark => [.qloss, .brg]
  | .brTimeFollow _ _ => [.regs, .msgs, .qloss, .brg, .time, .wcmp, .fcmp]
  | .timeExchangeMissed => [.regs, .msgs, .qloss, .brg, .time]
  | .mergeFlush _ _ | .sramMergeFlush _ _ | .scrubRead _ _ => [.regs, .msgs, .qloss, .dram, .sram, .mem]
  | .patinaTailWrite _ => [.mem, .out]
  | .dmaStart _ | .dmaTailRecheck _ | .dmaRestart _ | .dmaSkip _ => [.regs, .msgs, .jobs, .qloss, .brg, .dram, .sram, .mem, .dma, .out]
  | .dmaAbort _ => [.regs, .msgs, .jobs, .qloss, .brg, .mem, .dma, .out]
  | .dmaStop _ => [.dma, .out]
  | .dmaBurst _ _ => [.regs, .msgs, .jobs, .qloss, .brg, .dram, .sram, .mem, .dma, .rr, .out]
  | .stpMove _ | .stpStop _ | .stpResume _ | .stpReference _ | .stpDisable _ | .stpTargetWrite _ _ | .stepPulse _ | .stpFault _ _
  | .stallInput _ _ | .homeEdge _ _ => [.regs, .msgs, .qloss, .stp, .out]
  | .stpClear _ | .stpEnable _ => [.stp, .out]
  | .motRun _ => [.free, .regs, .msgs, .qloss, .mot, .out]
  | .motStop _ | .motCoast _ | .motClear _ => [.regs, .msgs, .qloss, .mot, .out]
  | .motSpeedWrite _ _ => [.regs, .held, .msgs, .toks, .stn, .qloss, .mot, .out]
  | .listenTimeout _ | .zeroCrossing _ _ _ | .hallEdge _ _ _ | .listenEnd _ => [.regs, .held, .msgs, .toks, .stn, .qloss, .mot]
  | .alignEnd _ => [.mot]
  | .handoverTimeout _ => [.regs, .msgs, .toks, .qloss, .mot]
  | .motAtSpeed _ | .phaseLockChange _ | .commutation _ => [.regs, .msgs, .qloss, .mot]
  | .rotorLost _ => [.regs, .held, .msgs, .toks, .casts, .codec, .stn, .qloss, .mot, .out]
  | .ilimTrip _ _ => [.regs, .mot]
  | .vbusSample _ => [.regs, .boot, .msgs, .toks, .qloss, .stp, .mot, .bus, .out]
  | .chopperFeedbackFault | .chopperOnTimeout => [.regs, .msgs, .qloss, .bus]
  | .ovAck => [.regs, .boot, .msgs, .qloss, .bus, .out]
  | .chopAck => [.bus, .out]
  | .thermalTick _ => [.regs, .msgs, .toks, .stn, .links, .qloss, .brg, .stp, .mot, .sensors, .ladders, .heaters, .thm, .out]
  | .ladderDwellStep _ => [.regs, .msgs, .links, .qloss, .ladders]
  | .digitalSensorRead _ _ => [.sensors]
  | .sensorRecovered _ => [.regs, .msgs, .qloss, .sensors]
  | .zeroCrossEdge _ => [.regs, .msgs, .qloss, .heaters, .thm, .out]
  | .zeroCrossLoss | .fuserPidUpdate | .pairInvalid _ | .pairValid _ => [.regs, .msgs, .qloss, .heaters, .thm]
  | .zeroCrossRegained => [.regs, .msgs, .qloss, .thm]
  | .hvLoopUpdate _ => [.hv]
  | .hvFault _ => [.regs, .msgs, .toks, .qloss, .hv]
  | .timStepWrite _ => [.regs, .msgs, .qloss, .time, .wcmp, .fcmp, .out]
  | .timFreqWrite _ => [.regs, .boot, .msgs, .qloss, .time, .out]
  | .servoSample _ => [.regs, .msgs, .qloss, .time, .wcmp, .fcmp]
  | .servoLocked | .servoHoldover | .capture _ => [.regs, .msgs, .qloss, .time]
  | .wideCompareFire _ => [.regs, .msgs, .qloss, .wcmp, .out]
  | .fastCompareFire _ => [.regs, .msgs, .qloss, .fcmp, .out]
  | .ptpSyncSend _ | .ptpAnnounceSend _ | .ptpDelayReqSend _ => [.ptp, .out]
  | .ptpSync _ _ | .ptpFollowUp _ _ => [.regs, .msgs, .qloss, .time, .wcmp, .fcmp, .ptp]
  | .ptpDelayResp _ _ => [.regs, .ptp]
  | .ptpAnnounce _ _ => [.regs, .msgs, .qloss, .ptp]
  | .ptpAnnounceTimeout _ => [.regs, .msgs, .qloss, .time, .ptp]
  | .ouvothFrame _ _ => [.regs, .msgs, .toks, .sched, .stn, .qloss, .stp, .mot, .time, .fcmp, .line, .out]
  | .announceSend => [.line, .out]
  | .announce _ _ _ _ _ _ _ | .joinAdmit _ | .lineStop | .lineResume => [.regs, .msgs, .qloss, .line, .out]
  | .admitMsg _ _ => [.regs, .msgs, .qloss, .time, .fcmp, .line]
  | .order _ _ _ _ _ _ => [.regs, .line]
  | .orderAck _ _ | .goMsg _ => [.line]
  | .orderRefused _ _ _ | .goDecision _ | .lineStep _ _ _ => [.regs, .msgs, .sched, .stn, .qloss, .stp, .mot, .time, .fcmp, .line, .out]
  | .linePickCheck _ => [.regs, .msgs, .jobs, .sched, .codec, .stn, .qloss, .brg, .stp, .mot, .time, .fcmp, .line, .out]
  | .report _ _ _ _ => [.msgs]
  | .lineStopMessage _ => [.regs, .msgs, .qloss, .line]
  | .lost _ => [.regs, .msgs, .toks, .qloss, .line]
  | .workerLost _ | .lineLinkPortChange _ _ => [.regs, .msgs, .toks, .qloss, .line, .out]
  | .isolated => [.regs, .msgs, .toks, .qloss, .time, .line]
  | .presenceProbe _ _ | .csmCmdAuth _ => [.csm, .out]
  | .auth _ _ | .commit _ _ => [.free, .regs, .msgs, .hostIf, .qloss, .brg, .csm, .out]
  | .usageReportSend _ => [.regs, .brg, .csm, .out]
  | .monId | .monHelp | .monEv _ | .monPat | .monMaq _ _ | .monTrace _ => [.regs, .out]
  | .monUnlock => [.free, .regs, .mon, .out]
  | .monUnlockResponse _ | .monLock => [.regs, .msgs, .qloss, .mon, .out]
  | .monUnlockTimeout => [.regs, .msgs, .qloss, .mon]
  | .lockoutEnd => [.mon]
  | .monBaud _ => [.regs, .mon, .out]
  | .monitorRr _ _ => [.regs, .msgs, .qloss, .dram, .sram, .mem, .time, .out]
  | .monitorRm _ _ | .monitorWm _ _ => [.regs, .msgs, .qloss, .dram, .sram, .mem, .out]
  | .schedStep => [.regs, .held, .heldTab, .boot, .msgs, .links, .qloss, .brg, .ladders, .ptp, .csm, .out]
  | .encoderEdge _ _ _ => [.free, .regs, .msgs, .qloss, .stp, .enc, .out]
  | .orderIssue _ _ _ _ _ => [.regs, .line, .out]
  | .floatingPhaseSample _ _ => [.free, .regs, .msgs, .qloss, .mot]
  | .recalibrationComplete => [.regs, .clks]

end Sys2Proof.Machine
end

