-- ==== Sys2Proof/WellFormed.lean ====
section
/-! DEFINITION. Which commands are well formed: every operand lies in the field that carries it and every unit number names a
unit the largest variant has (Tables 0.1, 2.13, 17.2, 17.5, 17.6). What a smaller variant lacks is judged when the command runs
(R10, R41). -/
namespace Sys2Proof

/-- A link of the host interface: PCIe or one of two Ethernet ports (R367). -/
def okLink : Link → Bool
  | .pcie => true
  | .eth p => p.blt 2

/-- Header fields (Table 17.2). -/
def okHdr (h : ReqHdr) : Bool :=
  okLink h.link && h.port.blt (2 ^ 16) && h.seq.blt (2 ^ 32) && h.die.blt 2 && h.crc.blt (2 ^ 32)

/-- A band of a page of a job (R381). -/
def okRef (r : BandRef) : Bool := r.job.blt (2 ^ 16) && r.page.blt (2 ^ 16) && r.plane.blt 6 && r.band.blt (2 ^ 16)

/-- The fields of a PAGE_DESC fragment fit their bytes (Table 17.5). -/
def okFrag (f : PageFrag) : Bool :=
  f.job.blt (2 ^ 16) && f.page.blt (2 ^ 16) && f.lines.blt (2 ^ 32) && f.medium.blt (2 ^ 16) && f.planes.blt 256 &&
    f.flags.blt 256 && f.plane.blt 256 && f.pitch.blt (2 ^ 16) && f.firstBand.blt (2 ^ 16) &&
    f.entries.all (fun e => e.firstLine.blt (2 ^ 32) && e.lines.blt (2 ^ 16) && e.compLen.blt (2 ^ 32))

/-- The fields of a band header fit their bytes (R381). -/
def okPart (p : BandPart) : Bool :=
  p.job.blt (2 ^ 16) && p.page.blt (2 ^ 16) && p.plane.blt 256 && p.band.blt (2 ^ 16) && p.off.blt (2 ^ 32)

/-- A register entry names an address of 32 bits (R385). -/
def okEntry (e : RegEntry) : Bool := e.addr.blt (2 ^ 32)

/-- A BAR0 register, which software writes over PCIe (Table 17.1): the model numbers BAR0 from 2^32. -/
def okBar (e : RegEntry) : Bool := (2 ^ 32).ble e.addr && e.addr.blt (2 ^ 32 + 0x40)

/-- A descriptor-window entry: an address of 32 bits and a value of 8 bytes (R385). -/
def okWin (e : WinEntry) : Bool := e.addr.blt (2 ^ 32) && e.val.blt (2 ^ 64)

/-- A flash part whose contents lie in it (R71). -/
def okFlash (d : FlashDev) : Bool := d.segs.all (fun g => (g.off + g.data.length).ble d.size)

/-- A datagram's ports (R371). -/
def okDgram (d : Datagram) : Bool := d.port.blt 2 && d.sport.blt (2 ^ 16) && d.dport.blt (2 ^ 16)

/-- An Ouvoth frame's header (Table 16.1). -/
def okOuv (f : OuvFrame) : Bool := f.etype.blt 65536 && f.ver.blt 256 && f.src.blt 256 && f.dst.blt 256 && f.seq.blt (2 ^ 32) && f.hops.blt 256

/-- A memory unit of scrubs and upsets: DRAM channels 0 to 3, band-SRAM banks 16 to 31 and the context store 32 (R257, R258). -/
def okUnit (k : Nat) : Bool := k.blt 4 || ((16).ble k && k.blt 33)

/-- A cell upset names a memory unit (R257). -/
def okUpset (u : Upset) : Bool := okUnit u.unit

/-- A memory error names a unit of the patina log, an address word and an 8-bit syndrome (Table 11.7). -/
def okHit (h : MemHit) : Bool := okUnit h.unit && h.addr.blt (2 ^ 32) && h.synd.blt 256

/-- Converter codes of 12 bits for sensors that exist (R321). -/
def okTherm (i : ThermIn) : Bool := i.codes.all (fun e => e.1.blt 46 && e.2.blt (2 ^ 12)) && i.dies.all (fun e => e.1.blt 46)

/-- A peer's PAIR_ID is a word (Table 3.6). -/
def okPeer (p : BridgePeer) : Bool := p.pairId.all (fun x => x.blt (2 ^ 32))

/-- A PTP message: its sequence number, domain and transport fit (R355). -/
def okPtp (m : PtpIn) : Bool := m.seq.blt (2 ^ 16) && m.dom.blt 256 && m.via.blt 3

/-- A command is well formed. -/
def Instr.wf : Instr → Bool
  | .flashDiscovery dev => dev.all okFlash
  | .imageApply castFail => castFail.blt (2 ^ 12)
  | .dramTraining pass => pass.blt 16
  | .bridgeTraining lanes peer => (lanes.blt 256) && (peer.all okPeer)
  | .hello h | .queryGlobalStatus h | .queryTokens h | .timeRead h | .consumableReport h => okHdr h
  | .jobOpen h job | .jobClose h job => (okHdr h) && (job.blt (2 ^ 16))
  | .pageDesc h f => (okHdr h) && (okFrag f)
  | .bandData h p | .bandRaw h p => (okHdr h) && (okPart p)
  | .pageRelease h job page | .queryResidency h job page => (okHdr h) && (job.blt (2 ^ 16)) && (page.blt (2 ^ 16))
  | .setTable h table inst off _ => (okHdr h) && (table.blt (2 ^ 16)) && (inst.blt (2 ^ 16)) && (off.blt (2 ^ 32))
  | .readReg h addr count => (okHdr h) && (addr.blt (2 ^ 32)) && (count.blt (2 ^ 16))
  | .writeReg h entries => (okHdr h) && (entries.all okEntry)
  | .writeRegWindow h entries => (okHdr h) && (entries.all okWin)
  | .registerWrite e => okEntry e || okBar e
  | .timeSet h sec ns => (okHdr h) && (sec.blt (2 ^ 48)) && (ns.blt (2 ^ 32))
  | .timeStep h _ => okHdr h
  | .consumableAuthenticate h port => (okHdr h) && (port.blt 12 || port == 255)
  | .retireRegion h ch region => (h.all okHdr) && (ch.blt 4) && (region.blt (2 ^ 18))
  | .retireChannel h ch => (h.all okHdr) && (ch.blt 4)
  | .retirementCopyDone _ ch region => (ch.blt 4) && (region.blt (2 ^ 18))
  | .eventFlagClear k _ => k.blt 8
  | .eventEnableWrite k _ _ => k.blt 8
  | .eventRouteWrite n _ _ => n.blt 256
  | .ringH2dTail tail _ => tail.blt (2 ^ 32)
  | .ringD2hHead head => head.blt (2 ^ 32)
  | .hostLinkChange link _ _ _ => okLink link
  | .udpDatagram d => okDgram d
  | .arpRequest port _ mac | .neighbourDiscovery port _ mac => (port.blt 2) && (mac.blt (2 ^ 48))
  | .echoRequest port _ _ _ => port.blt 2
  | .pinSelWrite n _ _ => n.blt 96
  | .pinRelease n => n.blt 96
  | .apertureWrite off _ _ => off.blt (2 ^ 32)
  | .registrationCapture sensor => sensor.blt 8
  | .misfeedDecision tok | .misfeedTokenRelease tok | .tailLeavesFuser tok | .sheetDone tok => tok.blt 16
  | .sheetEvent tok entry => (tok.blt 16) && (entry.blt 64)
  | .bandRelease tok station band => (tok.blt 16) && (station.blt 6) && (band.blt (2 ^ 16))
  | .bandResident r | .checkAheadStart r => okRef r
  | .bandMoveStart hits => hits.all okHit
  | .bandDecoded cast hits | .checkAheadEnd cast hits => (cast.blt 12) && (hits.all okHit)
  | .castStallResume cast | .castOutOfService cast => cast.blt 12
  | .chiselBandDone n | .chiselResume n | .chiselContextSave n | .chiselOutOfService n => n.blt 8
  | .contextRestore ctx => ctx.blt 128
  | .sosEdge st e => (st.blt 6) && (e.phase.blt (2 ^ 16)) && (e.hits.all (fun x => x.1.blt 32 && okHit x.2))
  | .sosEarly st | .sosLost st | .sosAcquired st | .facetLearn st | .indexFacetId st | .autoLearnPeriod st
    | .shadowApplyIdle st => st.blt 6
  | .eosEdge st _ => st.blt 6
  | .pixLossOfLock n | .pixRelock n | .bypassSwitch n | .statusLost n | .linkEnable n | .linkDisable n
    | .lanesHalfTimeout n | .trainingTimeout n | .trainingRetry n | .alignPixclkRestart n => n.blt 6
  | .auxClockSwitch a => a.blt 2
  | .statusFrame n _ => n.blt 6
  | .laneRetrainStart n lane => (n.blt 6) && (lane.blt 4)
  | .laneLockLoss lane => lane.blt 8
  | .retrainEnd pass _ _ => pass.blt 256
  | .brHello peer _ => okPeer peer
  | .brBandReq bands => bands.all okRef
  | .brBand r off _ => (okRef r) && (off.blt (2 ^ 32))
  | .brResidency r res => (okRef r) && (res.blt 6)
  | .brRetire ch region _ => (ch.blt 4) && (region.blt (2 ^ 18))
  | .brBadMessage vc type => (vc.blt 4) && (type.blt 256)
  | .mergeFlush ch ups => (ch.blt 4) && (ups.all okUpset)
  | .sramMergeFlush bank ups => (bank.blt 17) && (ups.all okUpset)
  | .scrubRead unit ups => (okUnit unit) && (ups.all okUpset)
  | .dmaStart n | .dmaTailRecheck n | .dmaRestart n | .dmaSkip n | .dmaAbort n | .dmaStop n => n.blt 64
  | .dmaBurst _ ups => ups.all okUpset
  | .stpMove n | .stpStop n | .stpResume n | .stpReference n | .stpClear n | .stpEnable n | .stpDisable n | .stepPulse n =>
    n.blt 24
  | .stpTargetWrite n _ | .stallInput n _ | .homeEdge n _ => n.blt 24
  | .stpLimitWrite n which _ => (n.blt 24) && (which.blt 3)
  | .stpFault n cause => (n.blt 24) && (cause.blt 8)
  | .motRun n | .motStop n | .motCoast n | .motClear n | .listenTimeout n | .alignEnd n | .handoverTimeout n
    | .motAtSpeed n | .rotorLost n | .listenEnd n | .phaseLockChange n | .commutation n => n.blt 12
  | .motSpeedWrite n _ | .ilimTrip n _ | .floatingPhaseSample n _ => n.blt 12
  | .zeroCrossing n _ _ => n.blt 12
  | .hallEdge n code _ => (n.blt 12) && (code.blt 8)
  | .vbusSample code => code.blt (2 ^ 12)
  | .thermalTick i => okTherm i
  | .ladderDwellStep d => d.blt 15
  | .digitalSensorRead k bits => (k.blt 46) && (bits.blt (2 ^ 17))
  | .sensorRecovered k => k.blt 46
  | .pairInvalid h | .pairValid h => h.blt 4
  | .hvFault c => c.blt 32
  | .wideCompareFire w => w.blt 32
  | .fastCompareFire c => c.blt 8
  | .capture k => k.blt 32
  | .ptpSyncSend p | .ptpAnnounceSend p | .ptpDelayReqSend p | .ptpAnnounceTimeout p => p.blt 6
  | .ptpSync p m | .ptpFollowUp p m | .ptpDelayReq p m | .ptpDelayResp p m | .ptpAnnounce p m =>
    (p.blt 6) && (okPtp m)
  | .transparentClockForward p type m => (p.blt 6) && (type.blt 256) && (okPtp m)
  | .ouvothFrame p f => (p.blt 4) && (okOuv f)
  | .announce src _ _ _ _ _ _ => src.blt 256
  | .joinAdmit id | .lost id | .workerLost id => id.blt 256
  | .order id job page step _ _ => (id.blt (2 ^ 32)) && (job.blt (2 ^ 16)) && (page.blt (2 ^ 16)) && (step.blt 8)
  | .orderEvaluation id | .goDecision id | .goMsg id | .linePickCheck id => id.blt (2 ^ 32)
  | .orderAck src id => (src.blt 256) && (id.blt (2 ^ 32))
  | .orderRefused src id code => (src.blt 256) && (id.blt (2 ^ 32)) && (code.blt 8)
  | .report src id _ _ => (src.blt 256) && (id.blt (2 ^ 32))
  | .lineStep step _ _ => step.blt 8
  | .lineLinkPortChange p _ => p.blt 4
  | .presenceProbe p _ | .ident p _ | .auth p _ | .commit p _ | .replyPoll p _ => p.blt 12
  | .presenceChange p | .replyTimeout p | .usageReportSend p => p.blt 12
  | .monitorRr addr count => (addr.blt (2 ^ 32)) && (count.blt (2 ^ 16))
  | .monitorRm addr count => (addr.blt (2 ^ 48)) && (count.blt (2 ^ 16))
  | .monitorWr addr _ _ => addr.blt (2 ^ 32)
  | .monitorWm addr _ => addr.blt (2 ^ 48)
  | .monMaq off count => (off.blt (2 ^ 32)) && (count.blt (2 ^ 16))
  | .skpErrors lane _ => lane.blt 8
  | .encoderEdge e _ _ => e.blt 8
  | .orderIssue job page step _ _ => (job.blt (2 ^ 16)) && (page.blt (2 ^ 16)) && (step.blt 8)
  | .rstNAssert | .rstNRelease | .brownout _ | .brownoutRecovery | .rootLock | .rootLockRetry | .rootLossOfLock
    | .copySelection | .signatureCheck | .ready | .estopReleaseCheck | .engineReadyTimeout | .retirementCopyRetry
    | .eventSend | .ringReset _ | .perstN | .admissionEvaluation | .sheetPick | .misfeedAck | .feedForwardEnd
    | .speedChangeGapEnd | .chiselAssign | .refCompUpdate | .gainRecalibration | .flitReceive _ | .replay
    | .replayTimeout | .bridgeMessageSend | .rejoinRetrainDue | .bridgeTrainingAttempt | .bridgeDown | .brReady _
    | .brRate _ _ _ | .brFault _ _ | .brMon _ | .brTimeMark | .brTimeFollow _ _ | .timeExchangeMissed | .patinaTailWrite _
    | .chopperFeedbackFault | .chopperOnTimeout | .ovAck | .chopAck | .zeroCrossEdge _ | .zeroCrossLoss
    | .zeroCrossRegained | .fuserPidUpdate | .hvLoopUpdate _ | .timStepWrite _ | .timFreqWrite _ | .servoSample _
    | .servoLocked | .servoHoldover | .announceSend | .admitMsg _ _ | .lineStopMessage _ | .isolated | .lineStop
    | .lineResume | .csmCmdAuth _ | .monId | .monHelp | .monUnlock | .monUnlockResponse _ | .monUnlockTimeout
    | .lockoutEnd | .monLock | .monBaud _ | .monEv _ | .monPat | .monTrace _ | .schedStep | .engineRelay _
    | .recalibrationComplete => true

end Sys2Proof
end

