-- ==== Sys2Proof/Certificates/Slice0/Obligations.lean ====
section
/-! DEFINITION. The statements for the provers. -/
open Sys2Proof Sys2Proof.Machine

/-- A step carries out the command at the front of the queue, first in first out; with nothing waiting it is one TIME clock (the model's choice, log entry
4). For every command c, every rest of the queue and every state s, one step of s with c in front of rest is exec of c on s with rest as its queue. On
an empty queue a step answers the next state of one TIME clock; outside reset it advances the TIME clock count by one, and it changes no memory byte,
no claim, no start state and nothing of the die. That the idle step is a tick is the model's choice (log entry 4). -/
def Obligations.StepTakesTheFront : Prop :=
  (∀ (c : Instr) (rest : List Instr) (s : State), step { s with pending := c :: rest } = exec c { s with pending := rest }) ∧
  (∀ s : State, s.pending = [] → ∃ t, step s = .next t ∧ t.pending = [] ∧
    (s.inReset = true → t = s) ∧ (s.inReset = false → t.clk = s.clk + 1) ∧ t.mem = s.mem ∧ t.claims = s.claims ∧ t.otp = s.otp ∧ t.id = s.id ∧ t.boot = s.boot)

/-- The machine starts with RST_N asserted, every register at its reset value, no token in flight, no claim, no page, no EVENT and no command waiting. In
State.reset the die is in reset with READY not raised, every register reads its reset value, no event is flagged, all 16 tokens are FREE, there is no
job, no claim and no command waiting. The memories, the table windows and the register file are in canonical form. -/
def Obligations.ResetState : Prop :=
  State.reset.inReset = true ∧ State.reset.ready = false ∧ (∀ a, State.reset.reg a = resetOf State.reset.id a) ∧
    (∀ n, n < 256 → State.reset.evFlag n = false) ∧ (∀ k, (State.reset.tok k).st = .free) ∧ State.reset.jobs = [] ∧ State.reset.claims = [] ∧
    State.reset.pending = [] ∧ State.reset.memOk ∧ State.reset.regsOk ∧ State.reset.sched.toks.length = 16

/-- Assertion of RST_N and a brownout reset the die; their ends start the start sequence at step 3 once neither holds it. RST_N asserted, or a supply
below its threshold for 1 us, outside reset gives a die in reset in which every register reads its reset value, READY is not raised and no sheet is in
flight, with its variant, its OTP and the commands still waiting as they were. While the die is held, each adds its own hold. Release of RST_N, or the
end of a brownout, ends reset exactly where the other does not hold the die, and the start sequence is then at step 3; nothing else changes. -/
def Obligations.ResetCommands : Prop :=
  (∀ s : State, s.inReset = false → Gives .rstNAssert s fun t =>
      t.inReset = true ∧ t.rstLow = true ∧ t.brown = false ∧ (∀ a, t.reg a = resetOf s.id a) ∧ t.ready = false ∧ t.flying = false ∧
      t.id = s.id ∧ t.otp = s.otp ∧ t.pending = s.pending) ∧
  (∀ s : State, s.inReset = true → Gives .rstNAssert s fun t => t = { s with rstLow := true }) ∧
  (∀ (s : State) (ns : Nat), 1000 ≤ ns → s.inReset = false → Gives (.brownout ns) s fun t =>
      t.inReset = true ∧ t.rstLow = false ∧ t.brown = true ∧ (∀ a, t.reg a = resetOf s.id a) ∧ t.ready = false ∧ t.flying = false ∧
      t.id = s.id ∧ t.otp = s.otp ∧ t.pending = s.pending) ∧
  (∀ (s : State) (ns : Nat), 1000 ≤ ns → s.inReset = true → Gives (.brownout ns) s fun t => t = { s with brown := true }) ∧
  (∀ (s : State) (ns : Nat), ns < 1000 → Gives (.brownout ns) s fun t => t = s) ∧
  (∀ s : State, s.inReset = true → Gives .rstNRelease s fun t =>
      t = if s.brown then { s with rstLow := false } else { s with rstLow := false, inReset := false, boot := { s.boot with stage := 3 } }) ∧
  (∀ s : State, s.inReset = true → Gives .brownoutRecovery s fun t =>
      t = if s.rstLow then { s with brown := false } else { s with brown := false, inReset := false, boot := { s.boot with stage := 3 } })

/-- Steps 3 to 5 of the start sequence: root lock, the retry of the lock, the flash, and a loss of root lock with sheets in flight. Root lock is recorded
and takes the start sequence from step 3 to step 4, and only from there. A retry without lock leaves the die as it is. The flash found at step 4 is
recorded and the sequence goes to step 5. A loss of root lock clears the lock, sets LOST, raises CLK_ROOT_LOL and makes every sheet in flight waste
that blanks from its next scan; no other token changes. In reset, at another step or without a lock to lose, these change nothing. -/
def Obligations.StartClockAndFlash : Prop :=
  (∀ s : State, s.inReset = false → Gives .rootLock s fun t =>
      t = { s with clks := { s.clks with rootLocked := true }, boot := if s.boot.stage = 3 then { s.boot with stage := 4 } else s.boot }) ∧
  (∀ s : State, s.inReset = true → Gives .rootLock s fun t => t = s) ∧
  (∀ s : State, Gives .rootLockRetry s fun t => t = s) ∧
  (∀ (s : State) (dev : Option FlashDev), (s.inReset = true ∨ s.boot.stage ≠ 4) → Gives (.flashDiscovery dev) s fun t => t = s) ∧
  (∀ s : State, s.clks.rootLocked = false → Gives .rootLossOfLock s fun t => t = s) ∧
  (∀ (s : State) (dev : Option FlashDev), s.inReset = false → s.boot.stage = 4 → Gives (.flashDiscovery dev) s fun t =>
      t = { s with boot := { s.boot with flash := dev, stage := 5 } }) ∧
  (∀ s : State, s.clks.rootLocked = true → Gives .rootLossOfLock s fun t =>
      t.clks = { s.clks with rootLocked := false, rootLost := true } ∧ t.evFlag 3 = true ∧
      (s.sched.toks.length = 16 → ∀ k, k < 16 → (s.tok k).busy = true → natBit (t.tok k).flags fWaste = true ∧ (t.tok k).dark = true) ∧
      (∀ k, (s.tok k).busy = false → t.tok k = s.tok k) ∧
      t.jobs = s.jobs ∧ t.mem = s.mem ∧ t.boot = s.boot ∧ t.out = s.out)

/-- Steps 5, 6 and 8: copy selection, the signature check and DRAM training. Copy selection goes to step 6. With no flash both copies have code 9 and
there is no candidate. With a flash the copies are tried in the order of R75 and R89 (copy A alone where it is format v1; the higher GEN first, A on a
tie), the candidate is the first whose judgement finds no error, every copy tried up to it has its code, and a copy without a readable header has code
1. At step 6 without a candidate the built-in default is used and BOOT_DEFAULT raised. A candidate whose signature is as required is used, with
BOOT_FALLBACK where it is not the copy tried first; one whose signature is not has code 5, and the other copy is used where it is good, the built-in
default where it is not. At step 8 the enabled channels that pass are trained, the others have failed and are reported, and the sequence goes to step
9. At another step, and in reset, nothing changes. -/
def Obligations.ImageSelectionAndTraining : Prop :=
  (∀ s : State, s.inReset = false → s.boot.stage = 5 → s.boot.flash = none → Gives .copySelection s fun t =>
      t = { s with boot := { s.boot with stage := 6, cand := none, toTry := [], firstTried := none, errA := 9, errB := 9 } }) ∧
  (∀ (s : State) (d : FlashDev), s.inReset = false → s.boot.stage = 5 → s.boot.flash = some d → Gives .copySelection s fun t =>
      t = { s with boot := t.boot } ∧ t.boot.stage = 6 ∧ t.boot.firstTried = (tryOrder d).head? ∧
      t.boot.cand = (tryOrder d).findSome? (fun c => (s.judgeCopy d c).2.map (fun i => (c, i))) ∧
      (∀ c, c ∈ tryOrder d → (∀ e, e ∈ (tryOrder d).takeWhile (· != c) → (s.judgeCopy d e).2 = none) →
        (if c = 0 then t.boot.errA else t.boot.errB) = (s.judgeCopy d c).1) ∧
      (isV1 (flashRead d 0 44) = false → headerOk (flashRead d 0 44) = false → t.boot.errA = 1)) ∧
  (∀ s : State, s.inReset = false → s.boot.stage = 6 → s.boot.cand = none → Gives .signatureCheck s fun t =>
      Occurs [2] { s with boot := { s.boot with stage := 7, copy := 2, reason := 1 } } t) ∧
  (∀ (s : State) (c : Nat) (i : Image), s.inReset = false → s.boot.stage = 6 → s.boot.cand = some (c, i) → s.sigOk i = true →
      Gives .signatureCheck s fun t =>
        Occurs (if s.boot.firstTried = some c then [] else [1])
          { s with boot := { s.boot with stage := 7, copy := if i.v1 then 3 else c, sig := b2n s.otp.sigHash.isSome, fmtV1 := i.v1, compat5 := i.v1 || natBit i.flags 0, image := some i, cand := none } } t) ∧
  (∀ (s : State) (c e : Nat) (d : FlashDev) (i j : Image), s.inReset = false → s.boot.stage = 6 → s.boot.cand = some (c, i) → s.sigOk i = false →
      s.boot.flash = some d → s.boot.toTry = [e] → e ≠ c → c < 2 → e < 2 → s.boot.firstTried = some c → (s.judgeCopy d e).2 = some j →
      Gives .signatureCheck s fun t =>
        t.boot.stage = 7 ∧ (if c = 0 then t.boot.errA else t.boot.errB) = 5 ∧ t.boot.cand = none ∧ t.jobs = s.jobs ∧ t.claims = s.claims ∧
        (s.sigOk j = true → t.boot.image = some j ∧ t.boot.copy = (if j.v1 then 3 else e) ∧ t.evFlag 1 = true) ∧
        (s.sigOk j = false → t.boot.image = s.boot.image ∧ t.boot.copy = 2 ∧ t.boot.reason = 1 ∧ (if e = 0 then t.boot.errA else t.boot.errB) = 5 ∧
          t.evFlag 2 = true)) ∧
  (∀ (s : State) (c : Nat) (d : FlashDev) (i : Image), s.inReset = false → s.boot.stage = 6 → s.boot.cand = some (c, i) → s.sigOk i = false →
      s.boot.flash = some d → (s.boot.toTry = [] ∨ ∃ e, s.boot.toTry = [e] ∧ (s.judgeCopy d e).2 = none) → Gives .signatureCheck s fun t =>
        t.boot.stage = 7 ∧ t.boot.image = s.boot.image ∧ t.boot.copy = 2 ∧ t.boot.reason = 1 ∧ t.boot.cand = none ∧ t.evFlag 2 = true ∧
        t.jobs = s.jobs ∧ t.claims = s.claims) ∧
  (∀ (s : State) (pass : Nat), s.inReset = false → s.boot.stage = 8 → s.id.drams ≤ 4 → Gives (.dramTraining pass) s fun t =>
      t.boot = { s.boot with stage := 9 } ∧ t.mem.trained = Nat.land pass (ones s.id.drams) ∧
      t.mem.failed = ones s.id.drams - Nat.land pass (ones s.id.drams) ∧ t.mem.dram = s.mem.dram ∧ t.mem.sram = s.mem.sram ∧
      ((upTo s.id.drams).any (fun n => !natBit pass n) = true → t.evFlag 215 = true) ∧ t.jobs = s.jobs ∧ t.sched = s.sched ∧ t.claims = s.claims) ∧
  (∀ (s : State) (pass : Nat), (s.inReset = true ∨ s.boot.stage ≠ 5 ∧ s.boot.stage ≠ 6 ∧ s.boot.stage ≠ 8) →
      Gives .copySelection s (fun t => t = s) ∧ Gives .signatureCheck s (fun t => t = s) ∧ Gives (.dramTraining pass) s (fun t => t = s))

/-- Steps 7, 9 and 10: the image is applied in image order, and READY is raised in the mode the plinth set allows. At step 7 the casts that fail their
self-test leave service, the records of the image are applied in order, the tables and boundary registers come into force, and the sequence goes to
step 8. At step 10 with the root locked READY is raised once with GLB_READY, the time taken, and the mode and reason of the plinth check: mode 1 with
reason 0, and mode 2 otherwise (a worker die is always in mode 2, the model's choice, log entry 101). The host die of a D package raises it only after
the engine die has reported READY, or after its timeout; without the root locked, and before that, nothing changes. ESTOP_N is released at the check
where R67 allows it, with GLB_ESTOP, and stays as it is otherwise. -/
def Obligations.ImageAndReady : Prop :=
  (∀ (s : State) (castFail : Nat), s.inReset = false → s.boot.stage = 7 → Gives (.imageApply castFail) s fun t =>
      t.boot.stage = 8 ∧
      (s.boot.image = none → Nat.land castFail (ones s.id.casts) = 0 → t.claims = s.claims ∧ t.boot = { s.boot with stage := 8 } ∧ t.jobs = s.jobs) ∧
      ∀ i, s.boot.image = some i → ∃ u : State, u = (i.recs.foldl (fun s r => s.applyRec i.v1 r)
          ((fun x : State => if i.v1 then x.v1Start else x) (s.each ((upTo s.id.casts).filter (natBit castFail)) (fun s n => s.castOut n)))).imageInForce ∧
        t = { u with boot := { u.boot with stage := 8 } }) ∧
  (∀ (s : State) (castFail : Nat), (s.inReset = true ∨ s.boot.stage ≠ 7) → Gives (.imageApply castFail) s fun t => t = s) ∧
  (∀ s : State, s.inReset = false → s.boot.stage = 10 → s.ready = false → s.clks.rootLocked = true → (s.id.isH = false ∨ s.boot.peerReady = true) →
      Gives .ready s fun t =>
        t.ready = true ∧ t.boot.stage = 10 ∧ t.boot.reason = s.plinthWhy ∧ t.boot.mode = (if s.plinthWhy = 0 ∧ s.id.isW = false then 1 else 2) ∧
        t.boot.bootMs = satN 16 (s.clk / 200000) ∧ t.evFlag 0 = true ∧ t.mem = s.mem ∧ t.jobs = s.jobs) ∧
  (∀ s : State, (s.clks.rootLocked = false ∨ s.ready = true ∨ s.boot.stage ≠ 10 ∨ s.id.isH = true ∧ s.boot.peerReady = false) →
      Gives .ready s fun t => t = s) ∧
  (∀ s : State, s.inReset = false → s.id.isH = true → s.boot.stage = 10 → s.ready = false → s.boot.peerReady = false → s.clks.rootLocked = true →
      Gives .engineReadyTimeout s fun t =>
        t.ready = true ∧ t.boot.reason = s.plinthWhy ∧ t.boot.bootMs = satN 16 (s.clk / 200000) ∧ t.evFlag 0 = true ∧ t.mem = s.mem ∧ t.jobs = s.jobs) ∧
  (∀ s : State, s.inReset = false → s.boot.stage = 10 → s.id.motion = true → s.boot.estopOff = false → s.bus.ov2 = false → s.estopMay = true →
      Gives .estopReleaseCheck s fun t => Occurs [13] { s with boot := { s.boot with estopOff := true } } t) ∧
  (∀ s : State, (s.inReset = true ∨ s.boot.stage ≠ 10 ∨ s.id.motion = false ∨ s.boot.estopOff = true ∨ s.bus.ov2 = true ∨ s.estopMay = false) →
      Gives .estopReleaseCheck s fun t => t = s)

/-- A pixel synthesizer loses lock, locks again, and under COMPAT5 goes to the bypass clock and back. A loss of lock of station n's synthesizer is
recorded, counted and raised as event 4 + n; its link's alignment is lost while it aligns; a sheet the station images becomes waste and is dead there;
no other station changes. A relock restarts its LFSR from the seed in force and sends a link that is up back to alignment. Under COMPAT5 the output
goes to the bypass clock while unlocked, and back once a sheet boundary has followed the relock. Nothing else changes. -/
def Obligations.PixelSynthesizer : Prop :=
  (∀ (s : State) (n : Nat), s.inReset = false → n < s.id.stations → s.id.stations ≤ 6 → s.clks.pix.length = 6 → Gives (.pixLossOfLock n) s fun t =>
      (t.px n).locked = false ∧ (t.px n).back = false ∧ t.evFlag (4 + n) = true ∧ (∀ k, k ≠ n → t.px k = s.px k) ∧
      ((s.st n).img = none → t.stn = s.stn ∧ t.sched = s.sched) ∧
      (∀ g, (s.st n).img = some g → s.stn.length = 6 → s.sched.toks.length = 16 → g.tok < 16 → (s.tok g.tok).busy = true →
        (t.st n).img = some { g with dead := true } ∧ natBit (t.tok g.tok).flags fWaste = true ∧ (∀ k, k ≠ n → t.st k = s.st k) ∧
        (∀ k, k ≠ g.tok → t.tok k = s.tok k)) ∧
      (∀ k, t.lk k = if k = n ∧ (s.lk n).st = .align then { s.lk n with aligned := false } else s.lk k) ∧
      t.jobs = s.jobs ∧ t.mem = s.mem ∧ t.codec = s.codec ∧ t.mot = s.mot) ∧
  (∀ (s : State) (n : Nat), s.inReset = false → n < s.id.stations → (s.px n).locked = false → Gives (.pixRelock n) s fun t =>
      t = (s.modPix n (fun p => { p with locked := true, lfsr := s.f (clkB + 0x108 + 0x20 * n) 0 16 })).modLink n
            (fun l => if l.st == .up then { l with st := .align, aligned := false } else l)) ∧
  (∀ (s : State) (n : Nat), (s.px n).locked = true → Gives (.pixRelock n) s fun t => t = s) ∧
  (∀ (s : State) (n : Nat), s.compat5 = false → Gives (.bypassSwitch n) s fun t => t = s) ∧
  (∀ (s : State) (n : Nat), s.inReset = false → n < s.id.stations → s.compat5 = true → Gives (.bypassSwitch n) s fun t =>
      t = if (s.px n).bypass && (s.px n).back then s.modPix n (fun p => { p with bypass := false, back := false })
          else if !(s.px n).bypass && !(s.px n).locked then s.modPix n (fun p => { p with bypass := true }) else s)

/-- The auxiliary outputs, the reference compensation and the delay-line recalibration. A pending change of an auxiliary output puts the source and
divider written last in force. Compensation off gives E_REF 0 and the addend of the trim alone; on, with a good sensor, E_REF is interpolated from the
table and the addend follows R347; with a broken sensor E_REF is held and event 10 is raised the first time. A recalibration starts with its time
noted, and its completion is counted and applied at the next accepted edge of every station that scans, and at once elsewhere. -/
def Obligations.ClockTrim : Prop :=
  (∀ (s : State) (a : Nat), Gives (.auxClockSwitch a) s fun t =>
      t = { s with clks := { s.clks with aux := updAt s.clks.aux a (fun _ => (s.f (clkB + 0x20 + 4 * a) 3 4, s.f (clkB + 0x20 + 4 * a) 8 8)) } }) ∧
  (∀ s : State, s.inReset = false → s.flag (clkB + 8) 0 = false → Gives .refCompUpdate s fun t =>
      t = { s with clks := { s.clks with eRef := 0, compHold := false }, time := { s.time with addend := addendOf s.time.freq 0 } }) ∧
  (∀ s : State, s.inReset = false → s.flag (clkB + 8) 0 = true → (s.sens (s.f (clkB + 8) 1 6)).broken = false → s.id.sensor (s.f (clkB + 8) 1 6) = true →
      Gives .refCompUpdate s fun t =>
        t = { s with clks := { s.clks with eRef := interpolate (s.sens (s.f (clkB + 8) 1 6)).temp s.compTable, compHold := false }, time := { s.time with addend := addendOf s.time.freq (interpolate (s.sens (s.f (clkB + 8) 1 6)).temp s.compTable) } }) ∧
  (∀ s : State, s.inReset = false → s.flag (clkB + 8) 0 = true → ((s.sens (s.f (clkB + 8) 1 6)).broken = true ∨ s.id.sensor (s.f (clkB + 8) 1 6) = false) →
      Gives .refCompUpdate s fun t =>
      Occurs (if s.clks.compHold then [] else [10]) { s with clks := { s.clks with compHold := true } } t) ∧
  (∀ s : State, s.inReset = false → Gives .gainRecalibration s fun t => t = { s with clks := { s.clks with calRun := true, calAt := s.clk } }) ∧
  (∀ s : State, s.inReset = false → s.clks.calRun = true → s.id.stations ≤ 6 → s.clks.pix.length = 6 → Gives .recalibrationComplete s fun t =>
      t.clks.calRun = false ∧ fld (t.reg (clkB + 0x10)) 0 16 = (fld (s.reg (clkB + 0x10)) 0 16 + 1) % 65536 ∧
      (∀ n, n < s.id.stations → (t.px n).calPend = (s.st n).running) ∧ (∀ a, a ≠ clkB + 0x10 → t.reg a = s.reg a) ∧
      t = { s with regs := t.regs, clks := t.clks }) ∧
  (∀ s : State, s.clks.calRun = false → Gives .recalibrationComplete s fun t => t = s)

/-- Beam-link training: EN, the half timeout, the timeout, the retry and the restart of PIXCLK. Setting EN takes a link in BL_OFF to BL_STATUS, and leaves
a link in another state as it is. Clearing EN takes it to BL_OFF at once with no lane, no lock and no alignment, and a sheet being imaged there
becomes waste. At half of TRAIN_TO the link goes to BL_DESKEW with the lanes that are locked and permitted. A timeout in training takes it to BL_FAIL
and raises BLK_TRAIN; 100 ms later an attempt starts. The restart of PIXCLK after alignment puts the link up with its chosen lanes, PEC 0, scan
sequence 0 and its beams healthy. Nothing else changes, and in another state of the link each of these changes nothing. -/
def Obligations.LinkTraining : Prop :=
  (∀ (s : State) (n : Nat), s.stOk n = true → Gives (.linkEnable n) s fun t =>
      t = (s.setF (blkA n 0) 0 1 1).modLink n (fun k => if k.st == .off then { k with st := .status, frames := 0 } else k)) ∧
  (∀ (s : State) (n : Nat), s.stOk n = true → s.flag (blkA n 0) 0 = true → (s.st n).img = none → (s.lk n).laneUp = 0 → Gives (.linkDisable n) s fun t =>
      t = (s.setF (blkA n 0) 0 1 0).modLink n (fun k => { k with st := .off, laneUp := 0, chosen := 0, retrain := 0, training := [], statusOk := false, lostOnce := false, aligned := false, frames := 0, lock := 0 })) ∧
  (∀ (s : State) (n : Nat), s.stOk n = true → s.flag (blkA n 0) 0 = true → s.links.length = 6 → n < 6 → Gives (.linkDisable n) s fun t =>
      (t.lk n).st = .off ∧ (t.lk n).laneUp = 0 ∧ (t.lk n).lock = 0 ∧ (t.lk n).training = [] ∧ (t.lk n).statusOk = false ∧ (t.lk n).aligned = false ∧
      (∀ k, k ≠ n → t.lk k = s.lk k) ∧
      (∀ g, (s.st n).img = some g → s.sched.toks.length = 16 → g.tok < 16 → (s.tok g.tok).busy = true → natBit (t.tok g.tok).flags fWaste = true) ∧
      t.jobs = s.jobs ∧ t.mem = s.mem ∧ t.codec = s.codec ∧ t.clks = s.clks) ∧
  (∀ (s : State) (n : Nat), s.flag (blkA n 0) 0 = false → Gives (.linkDisable n) s fun t => t = s) ∧
  (∀ (s : State) (n : Nat), s.stOk n = true → (s.lk n).st = .lanes → Nat.land (s.lk n).lock (s.laneMax n) ≠ 0 → Gives (.lanesHalfTimeout n) s fun t =>
      t = s.modLink n (fun k => { k with st := .deskew, frames := 0, chosen := Nat.land (s.lk n).lock (s.laneMax n) })) ∧
  (∀ (s : State) (n : Nat), s.stOk n = true → n < 6 →
      ((s.lk n).st = .status ∨ (s.lk n).st = .lanes ∨ (s.lk n).st = .deskew ∨ (s.lk n).st = .align) → Gives (.trainingTimeout n) s fun t =>
      Occurs [198] (s.modLink n (fun k => { k with st := .fail, laneUp := 0, chosen := 0, aligned := false, frames := 0 })) t) ∧
  (∀ (s : State) (n : Nat), s.stOk n = true → (s.lk n).st = .fail → Gives (.trainingRetry n) s fun t =>
      t = s.modLink n (fun k => { k with st := .status, frames := 0 })) ∧
  (∀ (s : State) (n : Nat), s.stOk n = true → (s.lk n).st = .align → (s.px n).locked = true → n < s.links.length → Gives (.alignPixclkRestart n) s fun t =>
      (t.lk n).st = .up ∧ (t.lk n).aligned = true ∧ (t.lk n).scanSeq = 0 ∧ t.reg (blkA n 0x20) = 0 ∧
      (t.lk n).laneUp = (if (s.lk n).chosen = 0 then (s.lk n).laneUp else (s.lk n).chosen) ∧ (∀ k, k ≠ n → t.lk k = s.lk k) ∧
      (∀ a, a ≠ blkA n 0x20 → t.reg a = s.reg a) ∧ t = { s with regs := t.regs, links := t.links }) ∧
  (∀ (s : State) (n : Nat), ((s.lk n).st = .off ∨ (s.lk n).st = .up) → Gives (.lanesHalfTimeout n) s (fun t => t = s) ∧
      Gives (.trainingTimeout n) s (fun t => t = s) ∧ Gives (.trainingRetry n) s (fun t => t = s) ∧ Gives (.alignPixclkRestart n) s (fun t => t = s)) ∧
  (∀ (s : State) (n : Nat), Nat.land (s.lk n).lock (s.laneMax n) = 0 → Gives (.lanesHalfTimeout n) s fun t => t = s) ∧
  (∀ (s : State) (n : Nat), (s.px n).locked = false → Gives (.alignPixclkRestart n) s fun t => t = s)

/-- The status channel of a beam link, its loss, and the retraining of a lane. A valid status frame of an enabled link sets STATUS_OK, copies the beam
faults, the temperature and the status byte into their registers, and is the link's lock report from then on; beams that change their health raise
their event, and a beam newly faulty flags the sheet being imaged BEAM_DROP. An invalid one, or one of a link that is off, changes nothing. A loss
clears STATUS_OK and raises BLK_STATUS. A dropped lane that may train begins to train at this clock, beside those that train already; one that is up,
is not permitted, has dropped eight times or trains already does not. -/
def Obligations.LinkStatus : Prop :=
  (∀ (s : State) (n : Nat) (b : List Byte), s.stOk n = true → n < 6 → s.links.length = 6 → s.flag (blkA n 0) 0 = true → statusValid b = true →
      Gives (.statusFrame n b) s fun t =>
        (t.lk n).statusOk = true ∧ (t.lk n).lock = byteAt b 1 % 16 ∧ t.reg (blkA n 8) = wd (quad b 8) ∧ t.reg (blkA n 0xC) = wd (half b 12) ∧
        t.reg (blkA n 0x10) = wd (byteAt b 15) ∧ (∀ k, k ≠ n → t.lk k = s.lk k) ∧
        (Nat.land (quad b 8) s.beamMap ≠ Nat.land (s.reg (blkA n 8)).toNat s.beamMap → t.evFlag (190 + n) = true) ∧
        ((s.lk n).statusOk = false → (s.lk n).lostOnce = true → t.evFlag 196 = true) ∧
        (∀ g, (s.st n).img = some g → s.sched.toks.length = 16 → g.tok < 16 →
          Nat.land (Nat.land (quad b 8) (0xFFFFFFFF - (s.reg (blkA n 8)).toNat)) s.beamMap ≠ 0 → natBit (t.tok g.tok).flags fBeam = true) ∧
        t.jobs = s.jobs ∧ t.mem = s.mem ∧ t.codec = s.codec ∧ t.clks = s.clks) ∧
  (∀ (s : State) (n : Nat) (b : List Byte), (statusValid b = false ∨ s.flag (blkA n 0) 0 = false) → Gives (.statusFrame n b) s fun t => t = s) ∧
  (∀ (s : State) (n : Nat), (s.lk n).statusOk = false → Gives (.statusLost n) s fun t => t = s) ∧
  (∀ (s : State) (n : Nat), s.stOk n = true → n < 6 → (s.lk n).statusOk = true → Gives (.statusLost n) s fun t =>
      Occurs [196] (s.modLink n (fun k => { k with statusOk := false, lostOnce := true })) t) ∧
  (∀ (s : State) (n lane : Nat), s.stOk n = true → (s.lk n).st = .up → lane < 4 → natBit (s.lk n).laneUp lane = false →
      natBit (s.laneMax n) lane = true → natBit (s.lk n).retrain lane = false → (s.lk n).training.any (fun e => e.1 == lane) = false →
      0 < fld (s.reg (blkA n 0x1C)) (8 * lane) 8 → fld (s.reg (blkA n 0x1C)) (8 * lane) 8 < 8 → Gives (.laneRetrainStart n lane) s fun t =>
      t = s.modLink n (fun k => { k with training := k.training ++ [(lane, s.clk)] })) ∧
  (∀ (s : State) (n lane : Nat), ((s.lk n).st ≠ .up ∨ natBit (s.lk n).laneUp lane = true ∨ natBit (s.laneMax n) lane = false ∨
      8 ≤ fld (s.reg (blkA n 0x1C)) (8 * lane) 8 ∨ (s.lk n).training.any (fun e => e.1 == lane) = true) → Gives (.laneRetrainStart n lane) s fun t => t = s)

/-- SOS edges accepted, early, late and lost, the acquisition, and the EOS edge. The first edge of a supervised station, and one within T_NOM plus or
minus SOS_WIN, limits included, is accepted: its EOS is still to come, its edges count while facet 0 is identified or AUTO_LEARN is on, and the
station scans, unless its new mask set or a speed change sends it back to SOS_IDLE or SOS_ACQUIRE. An edge before the window, and an early edge, is
counted in SOS_EARLY and changes nothing else. One after it finds SOS lost. An edge changes nothing while the polygon is lost, and leaves a station
without T_NOM in SOS_IDLE. A lost edge is counted, raises its event and stops the station, which images nothing afterwards and whose sheet is waste.
After 64 accepted edges in SOS_ACQUIRE the station goes to FACET_ID with its learning empty. An EOS edge of a running scan is recorded, with its span
saturating, valid where it lies within the tolerance and an error otherwise; before the tolerance it is not the scan's own, and with no scan running
it is only counted. -/
def Obligations.ScanEdges : Prop :=
  (∀ (s : State) (n : Nat) (e : SosEdge), s.inReset = false → n < s.id.stations → s.id.stations ≤ 6 → s.stn.length = 6 → s.tnom n ≠ 0 →
      (s.st n).held = false → ((s.st n).running = false ∨ s.sosSide n e.dt = .within) → Gives (.sosEdge n e) s fun t =>
        ((t.st n).running = true ∨ (t.st n).sos = .idle ∨ (t.st n).sos = .acquire) ∧ (t.st n).eosSeen = false ∧
        (t.st n).edges = (if s.gathers n then (s.st n).edges + 1 else 0) ∧ t.mem.dram = s.mem.dram ∧ t.mem.sram = s.mem.sram ∧ t.csm = s.csm ∧
        t.boot = s.boot) ∧
  (∀ (s : State) (n : Nat) (e : SosEdge), s.inReset = false → n < s.id.stations → s.tnom n ≠ 0 → (s.st n).held = false → (s.st n).running = true →
      s.sosSide n e.dt = .early → Gives (.sosEdge n e) s fun t => t = s.bump (scnA n 0x48) 8 8 1) ∧
  (∀ (s : State) (n : Nat) (e : SosEdge), s.inReset = false → n < s.id.stations → s.id.stations ≤ 6 → s.stn.length = 6 → s.tnom n ≠ 0 →
      (s.st n).held = false → (s.st n).running = true → s.sosSide n e.dt = .late → Gives (.sosEdge n e) s fun t =>
        t.evFlag (160 + 4 * n) = true ∧ (t.st n).eosSeen = false ∧ t.csm = s.csm ∧ t.boot = s.boot) ∧
  (∀ (s : State) (n : Nat) (e : SosEdge), (s.st n).held = true → Gives (.sosEdge n e) s fun t => t = s) ∧
  (∀ (s : State) (n : Nat) (e : SosEdge), s.inReset = false → n < s.id.stations → (s.st n).held = false → s.tnom n = 0 → Gives (.sosEdge n e) s fun t =>
      t = s.modStn n (fun x => { x with sos := .idle, running := false })) ∧
  (∀ (s : State) (n : Nat), s.supervised n = true → Gives (.sosEarly n) s fun t => t = s.bump (scnA n 0x48) 8 8 1) ∧
  (∀ (s : State) (n : Nat), s.supervised n = false → Gives (.sosEarly n) s (fun t => t = s) ∧ Gives (.sosLost n) s (fun t => t = s)) ∧
  (∀ (s : State) (n : Nat), s.supervised n = true → s.id.stations ≤ 6 → s.stn.length = 6 → Gives (.sosLost n) s fun t =>
        (t.st n).running = false ∧ (t.st n).img = none ∧ (t.st n).acc = 0 ∧ ((s.st n).sos = .locked → (t.st n).sos = .lost) ∧
        t.evFlag (160 + 4 * n) = true ∧
        (∀ g, (s.st n).img = some g → s.sched.toks.length = 16 → g.tok < 16 → (s.tok g.tok).busy = true → natBit (t.tok g.tok).flags fWaste = true) ∧
        t.mem = s.mem ∧ t.stp = s.stp ∧ t.mot = s.mot ∧ t.links = s.links) ∧
  (∀ (s : State) (n : Nat), s.inReset = false → (s.st n).sos = .acquire → 64 ≤ (s.st n).acc → Gives (.sosAcquired n) s fun t =>
      t = s.modStn n (fun x => { x with sos := .facetId, spans := List.replicate 12 (0, 0), edges := 0, facet := 0, idxEdge := false })) ∧
  (∀ (s : State) (n : Nat), ((s.st n).sos ≠ .acquire ∨ (s.st n).acc < 64) → Gives (.sosAcquired n) s fun t => t = s) ∧
  (∀ (s : State) (n span : Nat), s.inReset = false → n < s.id.stations → (s.st n).running = false → Gives (.eosEdge n span) s fun t =>
      t = s.bump (scnA n 0x48) 16 8 1) ∧
  (∀ (s : State) (n span : Nat), s.inReset = false → n < s.id.stations → (s.st n).running = true → n < s.stn.length →
      Gives (.eosEdge n span) s fun t =>
        (t.st n).spanLast = Nat.min span 0x7FFFFF ∧
        ((t.st n).eosSeen = true ↔ (s.st n).eosSeen = true ∨ s.f (scnA n 0x10) 0 23 ≤ span + 64 * s.f (scnA n 0x10) 23 8) ∧
        ((t.st n).spanOk = true ↔ s.f (scnA n 0x10) 0 23 ≤ span + 64 * s.f (scnA n 0x10) 23 8 ∧ span ≤ s.f (scnA n 0x10) 0 23 + 64 * s.f (scnA n 0x10) 23 8) ∧
        ((t.st n).spanOk = true → t.regs = s.regs) ∧
        ((t.st n).spanOk = false → t.regs = (s.bump (scnA n 0x48) 16 8 1).regs ∧ (t.st n).spans = (s.st n).spans) ∧
        (∀ k, k ≠ n → t.st k = s.st k) ∧ t = { s with regs := t.regs, stn := t.stn })

/-- Facet identification by learning and by index, the auto-learn period, and the sheet boundary of an idle station. Learning ends in SCN_LOCKED with
event 161 + 4n, or starts again with event 161 + 4n raised, and with empty sums either way. An edge on the claimed index input is captured as any
other, is remembered for the next accepted edge, and locks a station in FACET_ID. The auto-learn period ends with empty sums; new scales go to the
shadow facet table of that station alone. A station that images nothing applies its waiting copies: nothing is left pending, and no register of it
waits; one that images applies nothing now. Too few edges, or another state, change nothing. -/
def Obligations.FacetsAndTables : Prop :=
  (∀ (s : State) (n : Nat), s.inReset = false → n < 6 → n < s.stn.length → (s.st n).sos = .facetId → s.flag (scnA n 0) 4 = false →
      64 * s.facets n ≤ (s.st n).edges → Gives (.facetLearn n) s fun t =>
        ((t.st n).sos = .locked ∨ (t.st n).sos = .facetId) ∧ (t.st n).edges = 0 ∧ (t.st n).spans = List.replicate 12 (0, 0) ∧
        t.evFlag (161 + 4 * n) = true ∧ (∀ k, k ≠ n → t.st k = s.st k) ∧ Occurs [161 + 4 * n] { s with stn := t.stn } t) ∧
  (∀ (s : State) (n : Nat), s.inReset = false → n < s.id.stations → n < 6 → n < s.stn.length → s.flag (scnA n 0) 4 = true →
      s.pinFor 0xC (s.f (scnA n 0) 10 5) = true → Gives (.indexFacetId n) s fun t =>
        (t.st n).idxEdge = true ∧ (t.st n).sos = (if (s.st n).sos = .facetId then .locked else (s.st n).sos) ∧ (∀ k, k ≠ n → t.st k = s.st k) ∧
        ((s.st n).sos = .facetId → t.evFlag (161 + 4 * n) = true) ∧
        (s.time.capAt.getD (s.f (scnA n 0) 10 5) none ≠ some s.clk → t.evFlag 36 = true ∧ t.reg (capA (s.f (scnA n 0) 10 5) 8) = wd (s.ns % secNs)) ∧
        t.sched = s.sched ∧ t.jobs = s.jobs ∧ t.mem = s.mem) ∧
  (∀ (s : State) (n : Nat), (s.flag (scnA n 0) 4 = false ∨ s.pinFor 0xC (s.f (scnA n 0) 10 5) = false) → Gives (.indexFacetId n) s fun t => t = s) ∧
  (∀ (s : State) (n : Nat), ((s.st n).sos ≠ .facetId ∨ s.flag (scnA n 0) 4 = true ∨ (s.st n).edges < 64 * s.facets n) →
      Gives (.facetLearn n) s fun t => t = s) ∧
  (∀ (s : State) (n : Nat), ((s.st n).sos ≠ .locked ∨ s.flag (scnA n 0) 5 = false ∨ (s.st n).edges < 256 * s.facets n) →
      Gives (.autoLearnPeriod n) s fun t => t = s) ∧
  (∀ (s : State) (n : Nat), s.inReset = false → n < s.stn.length → (s.st n).sos = .locked → s.flag (scnA n 0) 5 = true →
      256 * s.facets n ≤ (s.st n).edges → Gives (.autoLearnPeriod n) s fun t =>
        (t.st n).edges = 0 ∧ (t.st n).spans = List.replicate 12 (0, 0) ∧ (t.st n).sos = .locked ∧ (∀ k, k ≠ n → t.st k = s.st k) ∧
        t = { s with tab := t.tab, stn := t.stn }) ∧
  (∀ (s : State) (n : Nat), s.inReset = false → n < s.id.stations → s.id.stations ≤ 6 → s.stn.length = 6 → (s.st n).img = none →
      Gives (.shadowApplyIdle n) s fun t =>
        (t.st n).pend = 0 ∧ (t.st n).allocNew = none ∧ (t.st n).img = none ∧ (∀ a, ofStation n a = true → look t.held a = none) ∧
        t.jobs = s.jobs ∧ t.sched.toks = s.sched.toks ∧ t.codec = s.codec ∧ t.mem = s.mem) ∧
  (∀ (s : State) (n : Nat), (s.st n).img.isSome = true → Gives (.shadowApplyIdle n) s fun t => t = s)

/-- The admission evaluation admits the next page for the coming pitch, or leaves the pitch empty with the first reason that holds (R103). On a package
that stands alone and is running, an evaluation (its start: settings in force, HOLD, the plinth check, the step check) with no hold reason and a next
page that passes the watermark and whose forecast passes admits that page for the pitch 1,000 us ahead. With a hold reason of 1 to 7 the pitch stays
empty and SHT_SKIP_WHY holds that reason, with no eligible page 8, with the watermark not reached 9, with a failing forecast 10; 9 and 10 are counted
in the run and raise SHT_SKIP, and a run of SKIP_LIMIT sets the next slower step as the target. SHT_LAST_FC holds the forecast's outcome, passed or
not. On a line nothing is admitted here. While draining or in GAP only the step is checked. No evaluation changes a token. -/
def Obligations.Admission : Prop :=
  (∀ (s u v : State) (j : Nat) (p : Page) (r : Option (Int × BandRef)), s.inReset = false → s.ready = true → s.id.motion = true →
      s.sched.ladder ≠ .draining → s.sched.ladder ≠ .gap → s.evalStart = u → u.newPitch = v → u.sched.ladder ≠ .draining → u.sched.ladder ≠ .gap →
      u.role = 0 → u.holdWhy = 0 → v.nextPage = some (j, p) → v.watermark p = true →
      v.forecast j p v.sched.stepCur v.lead (u.ns + 1000000) (((u.ns + 1000000 : Nat) : Int) + v.regNs (v.ladRate v.sched.stepCur)) = r →
      Gives .admissionEvaluation s fun t =>
        t.reg (shtB + 0x30) = fcWord r ∧ t.sched.toks = s.sched.toks ∧
        (fcPass r = true → (∃ a, t.sched.admitted = some a ∧ a.job = j ∧ a.page = p.page ∧ a.pitch = u.ns + 1000000 ∧ a.order = none) ∧
          t.sched.ladder = .running) ∧
        (fcPass r = false → t.reg (shtB + 0x38) = wd 10 ∧ t.sched.admitted = none ∧ t.sched.skipRun = u.sched.skipRun + 1 ∧ t.evFlag 141 = true ∧
          t.jobs = s.jobs)) ∧
  (∀ (s u : State) (w : Nat), s.inReset = false → s.ready = true → s.id.motion = true → s.sched.ladder ≠ .draining → s.sched.ladder ≠ .gap →
      s.evalStart = u → u.sched.ladder ≠ .draining → u.sched.ladder ≠ .gap → u.role = 0 →
      (if u.holdWhy ≠ 0 then w = u.holdWhy else u.newPitch.nextPage = none ∧ w = 8) → Gives .admissionEvaluation s fun t =>
        t.reg (shtB + 0x38) = wd w ∧ t.sched.admitted = none ∧ t.sched.toks = s.sched.toks ∧ t.jobs = s.jobs ∧
        t.sched.ladder = (if 2 ≤ w ∧ w ≤ 5 then .held else .running)) ∧
  (∀ (s u v : State) (j : Nat) (p : Page), s.inReset = false → s.ready = true → s.id.motion = true → s.sched.ladder ≠ .draining → s.sched.ladder ≠ .gap →
      s.evalStart = u → u.newPitch = v → u.sched.ladder ≠ .draining → u.sched.ladder ≠ .gap → u.role = 0 → u.holdWhy = 0 → v.nextPage = some (j, p) →
      v.watermark p = false → Gives .admissionEvaluation s fun t =>
        t.reg (shtB + 0x38) = wd 9 ∧ t.sched.skipRun = u.sched.skipRun + 1 ∧ t.sched.admitted = none ∧ t.evFlag 141 = true ∧ t.jobs = s.jobs ∧
        t.sched.toks = s.sched.toks ∧
        (u.sched.target = none → u.f (shtB + 8) 0 4 ≤ u.sched.skipRun + 1 → u.sched.stepCur + 1 < u.ladSteps →
          t.sched.target = some (u.sched.stepCur + 1) ∧ t.evFlag 146 = true)) ∧
  (∀ (s u : State), s.inReset = false → s.ready = true → s.id.motion = true → s.sched.ladder ≠ .draining → s.sched.ladder ≠ .gap →
      s.evalStart = u → u.sched.ladder ≠ .draining → u.sched.ladder ≠ .gap → u.role ≠ 0 → Gives .admissionEvaluation s fun t =>
        t.sched.admitted = u.sched.admitted ∧ t.sched.toks = s.sched.toks ∧ t.jobs = s.jobs ∧
        t.sched.ladder = (if 2 ≤ u.holdWhy ∧ u.holdWhy ≤ 5 then .held else .running)) ∧
  (∀ s : State, s.inReset = false → s.ready = true → s.id.motion = true → (s.sched.ladder = .draining ∨ s.sched.ladder = .gap) →
      Gives .admissionEvaluation s fun t => t = s.recheck) ∧
  (∀ s : State, s.inReset = false → s.ready = true → s.id.motion = true → s.sched.ladder ≠ .draining → s.sched.ladder ≠ .gap →
      (s.evalStart.sched.ladder = .draining ∨ s.evalStart.sched.ladder = .gap) → Gives .admissionEvaluation s fun t => t = s.evalStart) ∧
  (∀ s : State, (s.inReset = true ∨ s.ready = false ∨ s.id.motion = false) → Gives .admissionEvaluation s fun t => t = s)

/-- A pick takes the lowest free token for the admitted page, and the registration capture stamps the sheet that waits longest within its window (R96,
R98, R101). At a pick with none of the reasons 1 to 5 holding, the lowest token not in flight becomes PICKED with the page, the instant, the next SEQ,
the step in use and the stations that will image the page, and no flag; every other token is as it was, nothing is admitted any more, the pick goes to
the engine and SHT_PICK is raised. With one of them holding the sheet is not picked and SHT_SKIP_WHY holds the reason (the model's choice, log entry
105). With nothing admitted nothing changes. At the registration sensor the sheet in PICKED, without MISFEED and within its window, that was picked
first becomes REGISTERED with the capture; no other token changes. Any other sensor, and an edge within no window, changes nothing. -/
def Obligations.PickAndRegistration : Prop :=
  (∀ (s : State) (a : Admitted) (i : Nat) (p : Page), s.inReset = false → s.sched.toks.length = 16 → s.sched.admitted = some a → s.pickBar = 0 →
      s.freeTok = some i → s.page? a.job a.page = some p → Gives .sheetPick s fun t =>
        (t.tok i).st = .picked ∧ (t.tok i).job = a.job ∧ (t.tok i).page = a.page ∧ (t.tok i).pick = s.ns ∧ (t.tok i).seq = s.sched.seqNext % 2 ^ 20 ∧
        (t.tok i).stations = s.sheetStations p ∧ (t.tok i).step = s.sched.stepCur ∧ (t.tok i).flags = 0 ∧ (t.tok i).order = a.order ∧
        (∀ k, k ≠ i → t.tok k = s.tok k) ∧ Out.pick i ∈ t.out ∧ t.evFlag 140 = true ∧ t.sched.admitted = none ∧
        t.sched.seqNext = s.sched.seqNext + 1 ∧ t.sched.longLeft = s.pitches p.medium - 1 ∧ (s.role = 0 → t.sched.skipRun = 0)) ∧
  (∀ (s : State) (a : Admitted), s.inReset = false → s.sched.admitted = some a → s.pickBar ≠ 0 → Gives .sheetPick s fun t =>
        t.sched.toks = s.sched.toks ∧ t.sched.admitted = none ∧ t.reg (shtB + 0x38) = wd s.pickBar ∧ t.out = s.out ∧ t.jobs = s.jobs) ∧
  (∀ s : State, s.sched.admitted = none → Gives .sheetPick s fun t => t = s) ∧
  (∀ (s : State) (sensor i : Nat), s.inReset = false → s.f (shtB + 0x10) 0 6 = sensor → s.sched.toks.length = 16 → i < 16 → (s.tok i).st = .picked →
      natBit (s.tok i).flags fMisfeed = false → (((s.ns : Int) - s.nominalReg (s.tok i)).natAbs : Int) ≤ s.regWindow (s.tok i) →
      (∀ k, k < 16 → k ≠ i → (s.tok k).st = .picked → natBit (s.tok k).flags fMisfeed = false → (s.tok i).pick < (s.tok k).pick) →
      Gives (.registrationCapture sensor) s fun t =>
        t.tok i = { s.tok i with st := .registered, reg := some s.ns, encReg := s.enc } ∧ (∀ k, k ≠ i → t.tok k = s.tok k) ∧ t.regs = s.regs ∧
        t.jobs = s.jobs) ∧
  (∀ (s : State) (sensor : Nat), (s.f (shtB + 0x10) 0 6 ≠ sensor ∨ ∀ k, k < 16 → (s.tok k).st = .picked → natBit (s.tok k).flags fMisfeed = false →
      s.regWindow (s.tok k) < (((s.ns : Int) - s.nominalReg (s.tok k)).natAbs : Int)) → Gives (.registrationCapture sensor) s fun t => t = s)

/-- A sheet not captured within its window is a misfeed: waste, never imaged, its token held until its nominal exit, and picks held until MISFEED_ACK
(R101). The decision flags the sheet MISFEED and WASTE with its cause, takes it from every station, raises SHT_MISFEED and SHT_WASTE and holds picks,
with nothing admitted any more; the other tokens stay as they are. Its token is DONE at its nominal exit, with SHT_DONE. The acknowledgement ends the
hold and is answered OK; nothing else changes. A sheet that is not waiting, or is no misfeed, is left as it is. -/
def Obligations.Misfeeds : Prop :=
  (∀ (s : State) (k : Nat), s.inReset = false → s.sched.toks.length = 16 → k < 16 → (s.tok k).st = .picked → natBit (s.tok k).flags fMisfeed = false →
      Gives (.misfeedDecision k) s fun t =>
        natBit (t.tok k).flags fMisfeed = true ∧ natBit (t.tok k).flags fWaste = true ∧ (t.tok k).stations = 0 ∧ (t.tok k).st = .picked ∧
        ((s.tok k).cause = 0 → (t.tok k).cause = 5) ∧ t.sched.misHold = true ∧ t.sched.admitted = none ∧ t.evFlag 148 = true ∧
        (natBit (s.tok k).flags fWaste = false → t.evFlag 144 = true) ∧ (∀ j, j ≠ k → t.tok j = s.tok j) ∧ t.jobs = s.jobs) ∧
  (∀ (s : State) (k : Nat), ((s.tok k).st ≠ .picked ∨ natBit (s.tok k).flags fMisfeed = true) → Gives (.misfeedDecision k) s fun t => t = s) ∧
  (∀ (s : State) (k : Nat), s.inReset = false → s.sched.toks.length = 16 → k < 16 → (s.tok k).busy = true → natBit (s.tok k).flags fMisfeed = true →
      Gives (.misfeedTokenRelease k) s fun t => (t.tok k).st = .done ∧ (∀ j, j ≠ k → t.tok j = s.tok j) ∧ t.evFlag 145 = true ∧ t.boot = s.boot) ∧
  (∀ (s : State) (k : Nat), ((s.tok k).busy = false ∨ natBit (s.tok k).flags fMisfeed = false) → Gives (.misfeedTokenRelease k) s fun t => t = s) ∧
  (∀ s : State, s.inReset = false → s.id.motion = true → Gives .misfeedAck s fun t =>
      t = ({ s with sched := { s.sched with misHold := false } } : State).emit (.reg sOk shtB))

/-- A registered sheet's way: its table entries, the tail past the fuser, DONE, and the end of the gap of a speed change (R96, R99, R109). An image-start
entry makes a registered sheet IMAGING where its station is in SCN_LOCKED and on its list, and leaves it where the station is not on its list; a
station that is not in SCN_LOCKED and does not image it ends it there as waste. An HV entry switches its group to its profile, a fuser entry adds the
feed-forward, a compare entry arms its compare; entries with no action change nothing. The tail leaving the fuser makes the sheet EXITING, and the
exit sensor DONE with SHT_DONE, in its own token only. At the end of the gap the ladder runs at the step in use, with no target and its runs at 0, and
SHT_STEP_DONE is raised; a ladder that is neither in GAP nor draining is left as it is. -/
def Obligations.SheetPath : Prop :=
  (∀ (s : State) (k e : Nat), s.inReset = false → s.sched.toks.length = 16 → k < 16 → e < 64 → (s.tok k).st = .registered → (s.tok k).reg ≠ none →
      (s.sheetEv e).act = 1 → natBit (s.tok k).stations (s.sheetEv e).idx = true → natBit (s.tok k).ended (s.sheetEv e).idx = false →
      (s.st (s.sheetEv e).idx).sos = .locked → Gives (.sheetEvent k e) s fun t =>
        t.tok k = { s.tok k with st := .imaging } ∧ (∀ j, j ≠ k → t.tok j = s.tok j) ∧ t.regs = s.regs ∧ t.jobs = s.jobs) ∧
  (∀ (s : State) (k e : Nat), (s.sheetEv e).act = 1 → (natBit (s.tok k).stations (s.sheetEv e).idx = false ∨ natBit (s.tok k).ended (s.sheetEv e).idx = true) →
      Gives (.sheetEvent k e) s fun t => t = s) ∧
  (∀ (s : State) (k e : Nat), s.inReset = false → s.sched.toks.length = 16 → k < 16 → e < 64 → (s.tok k).busy = true → (s.tok k).reg ≠ none →
      (s.sheetEv e).act = 1 → natBit (s.tok k).stations (s.sheetEv e).idx = true → natBit (s.tok k).ended (s.sheetEv e).idx = false →
      (s.st (s.sheetEv e).idx).sos ≠ .locked → s.imgTok (s.sheetEv e).idx ≠ some k → Gives (.sheetEvent k e) s fun t =>
        natBit (t.tok k).flags fWaste = true ∧ natBit (t.tok k).ended (s.sheetEv e).idx = true ∧ (∀ j, j ≠ k → t.tok j = s.tok j) ∧ t.jobs = s.jobs) ∧
  (∀ (s : State) (k e : Nat), s.inReset = false → e < 64 → (s.tok k).busy = true → (s.tok k).reg ≠ none → (s.sheetEv e).act = 2 →
      Gives (.sheetEvent k e) s fun t => t = s.hvSwitch (s.sheetEv e).idx (s.sheetEv e).arg) ∧
  (∀ (s : State) (k e : Nat), s.inReset = false → e < 64 → (s.tok k).busy = true → (s.tok k).reg ≠ none → (s.sheetEv e).act = 3 →
      Gives (.sheetEvent k e) s fun t => t = s.fuserEntry) ∧
  (∀ (s : State) (k e : Nat), s.inReset = false → e < 64 → (s.tok k).busy = true → (s.tok k).reg ≠ none → (s.sheetEv e).act = 5 →
      Gives (.sheetEvent k e) s fun t => t = s.wcEvent (s.sheetEv e).idx (s.eventNs (s.tok k) (s.sheetEv e))) ∧
  (∀ (s : State) (k e : Nat), ((s.sheetEv e).act = 0 ∨ (s.sheetEv e).act = 4 ∨ 6 ≤ (s.sheetEv e).act ∨ (s.tok k).busy = false ∨ (s.tok k).reg = none) →
      Gives (.sheetEvent k e) s fun t => t = s) ∧
  (∀ (s : State) (k : Nat), s.inReset = false → s.sched.toks.length = 16 → k < 16 →
      ((s.tok k).st = .registered ∨ (s.tok k).st = .imaging ∨ (s.tok k).st = .fusing) → Gives (.tailLeavesFuser k) s fun t =>
        t.tok k = { s.tok k with st := .exiting } ∧ (∀ j, j ≠ k → t.tok j = s.tok j) ∧ t.regs = s.regs ∧ t.jobs = s.jobs) ∧
  (∀ (s : State) (k : Nat), s.inReset = false → s.sched.toks.length = 16 → k < 16 → (s.tok k).busy = true → (s.tok k).reg ≠ none →
      Gives (.sheetDone k) s fun t => (t.tok k).st = .done ∧ (∀ j, j ≠ k → t.tok j = s.tok j) ∧ t.evFlag 145 = true ∧ t.boot = s.boot) ∧
  (∀ (s : State) (k : Nat), ((s.tok k).busy = false ∨ (s.tok k).reg = none) → Gives (.sheetDone k) s fun t => t = s) ∧
  (∀ s : State, s.inReset = false → s.sched.ladder = .gap → Gives .speedChangeGapEnd s fun t =>
      Occurs [147] { s with sched := { s.sched with ladder := .running, target := none, skipRun := 0, okRun := 0, longLeft := 0, longTo := 0 }, line := { s.line with stepMsg := none } } t) ∧
  (∀ s : State, (s.sched.ladder = .running ∨ s.sched.ladder = .held) → Gives .speedChangeGapEnd s fun t => t = s)

/-- A band is released to its casts in order, moves into the band store, and becomes RESIDENT (R93, R100, R265, R282, R431). The release of the next band
of a plane counts that band as released; out of order, or for a sheet or a band that is not there, it changes nothing. The engine die names the bands
it wants, in move order and as far as they fit. Elsewhere the first band in order that is IN_PAGE_STORE becomes IN_TRANSIT with the bytes read, and
goes as BR_BAND parts, unless no DMA channel is free, a page copy bars it, or the band store (on a host die: the bridge) cannot take it. At its last
byte a band that was IN_TRANSIT is RESIDENT and its move is in the rate window. No other band changes. -/
def Obligations.BandMoves : Prop :=
  (∀ (s : State) (k n b : Nat) (p : Page) (x : Band), s.inReset = false → (s.tok k).busy = true → n < s.id.stations → natBit (s.tok k).stations n = true →
      s.page? (s.tok k).job (s.tok k).page = some p → (p.plane? n).bind (fun q => q.band? b) = some x → Gives (.bandRelease k n b) s fun t =>
        match s.codec.runs.find? (fun y => y.job == (s.tok k).job && y.page == (s.tok k).page && y.station == n && y.tok == k) with
        | some r => if r.released = b then
              (∃ y ∈ t.codec.runs, y.job = (s.tok k).job ∧ y.page = (s.tok k).page ∧ y.station = n ∧ y.tok = k ∧ y.released = b + 1) ∧ t.jobs = s.jobs ∧
              t.sched = s.sched ∧ t.stn = s.stn ∧ t.mem = s.mem
            else t = s
        | none => if b = 0 then
              (∃ y ∈ t.codec.runs, y.job = (s.tok k).job ∧ y.page = (s.tok k).page ∧ y.station = n ∧ y.tok = k ∧ y.released = 1 ∧ y.casts = s.castMap n) ∧
              t.jobs = s.jobs ∧ t.sched = s.sched ∧ t.stn = s.stn ∧ t.mem = s.mem
            else t = s) ∧
  (∀ (s : State) (k n b : Nat), ((s.tok k).busy = false ∨ s.id.stations ≤ n ∨ natBit (s.tok k).stations n = false ∨
      s.band? ⟨(s.tok k).job, (s.tok k).page, n, b⟩ = none) → Gives (.bandRelease k n b) s fun t => t = s) ∧
  (∀ (s : State) (hits : List MemHit), s.inReset = false → s.id.isE = true → s.id.isW = false → Gives (.bandMoveStart hits) s fun t =>
      t = match s.fitting (s.bandCap - s.bandUsed) (s.moveOrder.filter (fun r => match s.band? r with | some b => b.res == .inPageStore | none => false)) with
        | [] => s
        | l => s.toBridge 0 (.bandReq l)) ∧
  (∀ (s : State) (hits : List MemHit) (r : BandRef) (x : Band), s.inReset = false → s.id.isW = false → s.id.isE = false →
      (if s.id.isH then s.brg.wanted else s.moveOrder).find? (fun r => match s.band? r with | some b => b.res == .inPageStore | none => false) = some r →
      s.band? r = some x → Gives (.bandMoveStart hits) s fun t =>
        if s.seqFree 0 = none ∨ s.copyBars = true ∨ (s.id.isH = true ∧ s.brg.st = .down) ∨
            (s.id.isH = false ∧ s.bandCap < s.bandUsed + (readThrough x.stream hits).length) then
          t = if s.mem.pend.isEmpty then s else s.tookFree
        else t.band? r = some { x with stream := (if s.id.isH then x.stream else readThrough x.stream hits), moved := 0, t0 := s.fab, res := .inTransit } ∧
          (∀ y, y ≠ r → t.band? y = s.band? y) ∧ t.brg.wanted = s.brg.wanted.filter (· != r) ∧
          (∃ l, t.brg.outQ = l ++ bandParts r ((readThrough x.stream hits).length + 1) 0 (readThrough x.stream hits)) ∧
          t.codec = s.codec ∧ t.sched = s.sched ∧ t.stn = s.stn ∧ (hits = [] → t.mem = s.mem)) ∧
  (∀ (s : State) (hits : List MemHit), (s.id.isW = true ∨ (s.id.isE = false ∧
      (if s.id.isH then s.brg.wanted else s.moveOrder).find? (fun r => match s.band? r with | some b => b.res == .inPageStore | none => false) = none)) →
      Gives (.bandMoveStart hits) s fun t => t = s) ∧
  (∀ (s : State) (r : BandRef) (x : Band), s.inReset = false → s.band? r = some x → x.res = .inTransit → s.partsLeft r = false →
      Gives (.bandResident r) s fun t =>
        (∃ y, t.band? r = some y ∧ y.res = .resident ∧ y.stream = if s.id.isE then x.got.map (·.2) else x.stream) ∧
        (∀ y, y ≠ r → t.band? y = s.band? y) ∧
        t.sched = { s.sched with brgWin := pushRate s.sched.brgWin { bytes := (if s.id.isE then x.got.map (·.2) else x.stream).length, t0 := x.t0, t1 := s.fab } } ∧
        t.regs = s.regs ∧ t.stn = s.stn ∧ t.mem = s.mem) ∧
  (∀ (s : State) (r : BandRef), (∀ x, s.band? r = some x → x.res ≠ .inTransit ∨ s.partsLeft r = true) → Gives (.bandResident r) s fun t => t = s)

/-- Output decoding ends, stalls and resumes, and a cast leaves service (R93, R135, R150, R153, R155, R253). Where every byte left has a slot and every
match its source, the end of output decoding makes the band DECODED, PRINTED once all its lines are judged, or RESIDENT again for another sheet of the
page; a stream error, or an uncorrectable word read, raises the cast's event and flags the sheet CHECK. Otherwise only what can be written is, and the
band keeps its residency. A stalled cast goes on at the byte at which it stopped. A cast that leaves service holds no band, its station's planes get
no further lines, its event is raised, and with the station's last cast the sheet it images is carried out as waste. Without a band, a stall or a cast
in service nothing changes. -/
def Obligations.CastsDecode : Prop :=
  (∀ (s : State) (n : Nat) (hits : List MemHit) (j k : CastJob) (x : Band), (s.cast n).out = some j → s.band? ⟨j.job, j.page, j.station, j.band⟩ = some x →
      (hits.any (·.ue) = true ∨ ((((s.memHits hits).castWrite n j.out.length).cast n).out = some k ∧ k.written = k.out.length ∧ k.queue = [])) →
      Gives (.bandDecoded n hits) s fun t =>
        (∃ y, t.band? ⟨j.job, j.page, j.station, j.band⟩ = some y ∧ y.res =
          if (s.st j.station).allJudged j.tok j.first x.lines then (if s.wantedAfter j.tok j.job j.page then .resident else .printed) else .decoded) ∧
        ((j.err ≠ 0 ∨ hits.any (·.ue) = true) → n < 12 → t.evFlag (128 + n) = true) ∧
        ((j.err ≠ 0 ∨ hits.any (·.ue) = true) → j.tok < 16 → s.sched.toks.length = 16 → natBit (t.tok j.tok).flags fCheck = true) ∧
        (hits = [] → t.mem = s.mem) ∧ t.stp = s.stp) ∧
  (∀ (s : State) (n : Nat) (hits : List MemHit) (j k : CastJob), (s.cast n).out = some j → hits.any (·.ue) = false →
      (((s.memHits hits).castWrite n j.out.length).cast n).out = some k → (k.written ≠ k.out.length ∨ k.queue ≠ []) →
      Gives (.bandDecoded n hits) s fun t => (t.cast n).out = some k ∧ k.out = j.out ∧ k.band = j.band ∧ j.written ≤ k.written ∧
        (∀ m, m ≠ n → t.cast m = s.cast m) ∧ t.jobs = s.jobs ∧ t.sched = s.sched) ∧
  (∀ (s : State) (n : Nat) (hits : List MemHit), (s.cast n).out = none → Gives (.bandDecoded n hits) s fun t => t = s) ∧
  (∀ (s : State) (n : Nat) (j : CastJob), (s.cast n).stalled = true → (s.cast n).out = some j → n < s.codec.casts.length →
      Gives (.castStallResume n) s fun t =>
        (∃ k, (t.cast n).out = some k ∧ k.out = j.out ∧ k.band = j.band ∧ k.err = j.err ∧ j.written ≤ k.written ∧ k.written ≤ j.written + 1) ∧
        (0 < (s.st j.station).freeSlots → (t.cast n).stalled = false) ∧ (∀ m, m ≠ n → t.cast m = s.cast m) ∧ t.jobs = s.jobs ∧ t.sched = s.sched) ∧
  (∀ (s : State) (n : Nat), (s.cast n).stalled = false → Gives (.castStallResume n) s fun t => t = s) ∧
  (∀ (s : State) (n : Nat), s.inReset = false → n < s.id.casts → s.id.casts ≤ 12 → s.codec.casts.length = 12 → (s.cast n).inServ = true →
      Gives (.castOutOfService n) s fun t =>
        (t.cast n).inServ = false ∧ (t.cast n).out = none ∧ (t.cast n).check = none ∧
        (∀ r ∈ t.codec.runs, r.station = n / 2 → r.lost = true) ∧ t.evFlag (128 + n) = true ∧ t.jobs = s.jobs ∧
        ((∃ m, m / 2 = n / 2 ∧ m ≠ n ∧ m < s.id.casts ∧ (s.cast m).inServ = true) → (∀ m, m / 2 ≠ n / 2 → t.cast m = s.cast m) ∧
          ∀ k, t.imgTok k = s.imgTok k) ∧
        (∀ g, (s.st (n / 2)).img = some g → s.sched.toks.length = 16 → g.tok < 16 → (s.tok g.tok).busy = true →
          (∀ m, m / 2 = n / 2 → m < s.id.casts → (s.cast m).inServ = true → m = n) →
          natBit (t.tok g.tok).flags fWaste = true ∧ t.imgTok (n / 2) = none ∧ ((s.tok g.tok).cause = 0 → (t.tok g.tok).cause = 1))) ∧
  (∀ (s : State) (n : Nat), (s.id.casts ≤ n ∨ (s.cast n).inServ = false) → Gives (.castOutOfService n) s fun t => t = s)

/-- A check-ahead pass starts on the partner cast with the plane's window, and its end gives the band its verdict (R137, R154, R253). A pass of a RESIDENT
band that comes next in its plane and is not yet released starts on its cast where that has none, and its verdict is that of decoding the band from
the window its predecessor left; no other pass starts. At its end the cast has no pass, the band is verified or failed ahead, the plane's next pass is
that of the next band with the window left, and a stream error or an uncorrectable word raises the cast's event. -/
def Obligations.CheckAhead : Prop :=
  (∀ (s : State) (r : BandRef) (p : Page) (q : Plane) (b : Band) (w : List Byte), s.inReset = false → s.page? r.job r.page = some p →
      s.band? r = some b → p.plane? r.plane = some q → b.res = .resident → s.aheadOf p r.job r.plane = some (r.band, w) →
      s.codec.runs.any (fun x => x.job == r.job && x.page == r.page && x.station == r.plane && decide (r.band < x.released) && decide (x.next ≤ r.band)) = false →
      s.castMap r.plane ≠ 0 → checkCast (s.castMap r.plane) r.plane r.band < s.codec.casts.length →
      (s.cast (checkCast (s.castMap r.plane) r.plane r.band)).check = none → Gives (.checkAheadStart r) s fun t =>
        (t.cast (checkCast (s.castMap r.plane) r.plane r.band)).check =
          some { job := r.job, page := r.page, station := r.plane, band := r.band, err := (decodeBand r.plane q.pitch b.lines b.stream w).err, win := (decodeBand r.plane q.pitch b.lines b.stream w).win } ∧
        s.aheadOf p r.job r.plane = t.aheadOf p r.job r.plane ∧
        (∀ m, m ≠ checkCast (s.castMap r.plane) r.plane r.band → t.cast m = s.cast m) ∧ t.jobs = s.jobs ∧ t.regs = s.regs ∧ t.sched = s.sched) ∧
  (∀ (s : State) (r : BandRef), ((∀ b, s.band? r = some b → b.res ≠ .resident) ∨
      (∀ p w, s.page? r.job r.page = some p → s.aheadOf p r.job r.plane ≠ some (r.band, w)) ∨ s.castMap r.plane = 0 ∨
      (s.cast (checkCast (s.castMap r.plane) r.plane r.band)).check ≠ none) → Gives (.checkAheadStart r) s fun t => t = s) ∧
  (∀ (s : State) (n : Nat) (hits : List MemHit) (k : CheckJob) (q : Plane) (b : Band), (s.cast n).check = some k → s.plane? k.job k.page k.station = some q →
      s.band? ⟨k.job, k.page, k.station, k.band⟩ = some b → Gives (.checkAheadEnd n hits) s fun t =>
        (t.cast n).check = none ∧ (∀ m, m ≠ n → t.cast m = s.cast m) ∧
        t.band? ⟨k.job, k.page, k.station, k.band⟩ = some { b with ahead := if k.err = 0 ∧ hits.any (·.ue) = false then 1 else 2 } ∧
        (∀ a ∈ t.codec.aheads, a.job = k.job → a.page = k.page → a.station = k.station →
          a.next = k.band + 1 ∧ a.win = k.win ∧ (a.on = true ↔ k.band + 1 < q.bands.length)) ∧
        ((k.err ≠ 0 ∨ hits.any (·.ue) = true) → n < 12 → t.evFlag (128 + n) = true) ∧ (k.err = 0 → hits = [] → t.regs = s.regs) ∧ t.sched = s.sched) ∧
  (∀ (s : State) (n : Nat) (hits : List MemHit), (s.cast n).check = none → Gives (.checkAheadEnd n hits) s fun t => t = s)

/-- A chisel takes the next raw band, and finishes it as a band IN_PAGE_STORE with its stream (R139, R140, R435). The lowest-numbered idle chisel in
service takes the first waiting raw band whose predecessor is complete, primed by the raw bytes before it, with the stream the codec makes of it under
CHS_CTRL, and that band waits no longer; with no idle chisel or no such band nothing changes. A chisel that finishes is idle with its rate measured;
its band is IN_PAGE_STORE with the chisel's stream and counts in the host rate. A chisel that works on no band is left as it is. -/
def Obligations.ChiselsCompress : Prop :=
  (∀ (s : State) (n : Nat) (r : BandRef) (b : Band) (q : Plane) (h : List Byte), s.inReset = false → n < s.codec.chisels.length →
      (upTo 8).find? (fun n => s.chsServ n && (s.chs n).st == .idle) = some n → s.codec.rawQ.find? s.canPrime = some r →
      s.band? r = some b → s.plane? r.job r.page r.plane = some q →
      b.hist.getD (match s.primeBand r with | some x => lastN winMax x.raw | none => []) = h → Gives .chiselAssign s fun t =>
        (t.chs n).ref = some r ∧ (t.chs n).st = (if h = [] then .matching else .priming) ∧ (t.chs n).prime = h.length ∧
        (t.chs n).stream = chiselStream s.chsCfg r.plane q.pitch h b.raw ∧ t.codec.rawQ = s.codec.rawQ.filter (· != r) ∧
        (∀ m, m ≠ n → t.chs m = s.chs m) ∧ (∀ y z, s.band? y = some z → ∃ w, t.band? y = some w ∧ w.res = z.res ∧ w.stream = z.stream) ∧
        t.codec.casts = s.codec.casts ∧ t.sched = s.sched ∧ t.mem = s.mem) ∧
  (∀ s : State, ((upTo 8).find? (fun n => s.chsServ n && (s.chs n).st == .idle) = none ∨ s.codec.rawQ.find? s.canPrime = none) →
      Gives .chiselAssign s fun t => t = s) ∧
  (∀ (s : State) (n : Nat) (r : BandRef) (b : Band), s.inReset = false → n < s.codec.chisels.length → (s.chs n).ref = some r →
      ((s.chs n).st = .priming ∨ (s.chs n).st = .matching) → s.band? r = some b → Gives (.chiselBandDone n) s fun t =>
        (t.chs n).st = .idle ∧ (t.chs n).ref = none ∧ (t.chs n).rate = satN 16 ((s.chs n).raw * 200 / Nat.max 1 (s.clk - (s.chs n).t0)) ∧
        (∃ y, t.band? r = some y ∧ y.res = .inPageStore ∧ y.stream = (s.chs n).stream) ∧
        (∀ y z, y ≠ r → s.band? y = some z → ∃ w, t.band? y = some w ∧ w.res = z.res ∧ w.stream = z.stream) ∧
        t.sched.hostWin = pushRate s.sched.hostWin { bytes := (s.chs n).raw, t0 := s.fab, t1 := s.fab } ∧
        (∀ m, m ≠ n → t.chs m = s.chs m) ∧ t.sched.toks = s.sched.toks ∧ t.codec.casts = s.codec.casts ∧ t.mem = s.mem) ∧
  (∀ (s : State) (n : Nat), ((s.chs n).ref = none ∨ ((s.chs n).st ≠ .priming ∧ (s.chs n).st ≠ .matching)) → Gives (.chiselBandDone n) s fun t => t = s)

/-- A stalled chisel resumes or has its context saved, a saved context is restored, and a chisel leaves service (R146, R148, R156). A stalled chisel
resumes at the same bit. After the save it is free, and the record of 64 words in the lowest free place holds KIND 3, its band, its stream and the
bytes it has emitted, with at most 63 bits pending. A restore puts the band on the lowest-numbered idle chisel at that byte and frees the context. A
chisel that leaves service gives its band back to the front of the queue, and its event is raised. Where there is no stall, no free place, no such
context, no idle chisel or no chisel in service, nothing changes. -/
def Obligations.ChiselContexts : Prop :=
  (∀ (s : State) (n : Nat), (s.chs n).st = .stalled → Gives (.chiselResume n) s fun t =>
      t = s.modChs n (fun c => { c with st := .matching })) ∧
  (∀ (s : State) (n : Nat), (s.chs n).st ≠ .stalled → Gives (.chiselResume n) s fun t => t = s) ∧
  (∀ (s : State) (n ix : Nat) (r : BandRef) (b : Band) (q : Plane), s.inReset = false → n < s.codec.chisels.length → (s.chs n).ref = some r →
      (s.chs n).st = .stalled → (upTo 128).find? (fun i => !s.codec.saved.any (fun x => x.ix == i)) = some ix → s.band? r = some b →
      s.plane? r.job r.page r.plane = some q → Gives (.chiselContextSave n) s fun t =>
        (t.chs n).st = .idle ∧ (t.chs n).ref = none ∧ (t.chs n).ctx = ix ∧ (∀ m, m ≠ n → t.chs m = s.chs m) ∧ t.free = s.free + 1 ∧
        (∃ c, t.codec.saved = s.codec.saved ++ [c] ∧ c.ix = ix ∧ c.kind = 3 ∧ c.ref = r ∧ c.stream = (s.chs n).stream ∧ c.words.length = 64 ∧
          c.words.getD 9 0 = wd (s.chs n).emitted ∧ c.words.getD 13 0 = wd r.job ∧ (c.words.getD 7 0).toNat ≤ 63) ∧
        t.jobs = s.jobs ∧ t.regs = s.regs ∧ t.sched = s.sched) ∧
  (∀ (s : State) (n : Nat), ((s.chs n).ref = none ∨ (s.chs n).st ≠ .stalled ∨ (upTo 128).find? (fun i => !s.codec.saved.any (fun x => x.ix == i)) = none) →
      Gives (.chiselContextSave n) s fun t => t = s) ∧
  (∀ (s : State) (n ix : Nat) (c : SavedCtx), n < s.codec.chisels.length → s.codec.saved.find? (fun x => x.ix == ix) = some c →
      (upTo 8).find? (fun n => s.chsServ n && (s.chs n).st == .idle) = some n → Gives (.contextRestore ix) s fun t =>
        (t.chs n).st = .matching ∧ (t.chs n).ref = some c.ref ∧ (t.chs n).stream = c.stream ∧ (t.chs n).emitted = (c.words.getD 9 0).toNat ∧
        (∀ m, m ≠ n → t.chs m = s.chs m) ∧ t.codec.saved = s.codec.saved.filter (fun y => y.ix != ix) ∧ t.jobs = s.jobs ∧ t.regs = s.regs ∧
        t.sched = s.sched) ∧
  (∀ (s : State) (ix : Nat), (s.codec.saved.find? (fun x => x.ix == ix) = none ∨ (upTo 8).find? (fun n => s.chsServ n && (s.chs n).st == .idle) = none) →
      Gives (.contextRestore ix) s fun t => t = s) ∧
  (∀ (s : State) (n : Nat), s.inReset = false → n < 8 → n < s.codec.chisels.length → s.chsServ n = true → Gives (.chiselOutOfService n) s fun t =>
      (t.chs n).st = .out ∧ (t.chs n).ref = none ∧ (∀ m, m ≠ n → t.chs m = s.chs m) ∧ t.codec.casts = s.codec.casts ∧
      t.codec.rawQ = (match (s.chs n).ref with | some r => [r] | none => []) ++ s.codec.rawQ ∧ t.evFlag (120 + n) = true ∧ t.jobs = s.jobs ∧
      t.sched = s.sched) ∧
  (∀ (s : State) (n : Nat), s.chsServ n = false → Gives (.chiselOutOfService n) s fun t => t = s)

/-- Sensors and domains at a thermal tick, digital sensors, recovery, and the steps of a ladder (R321 to R329). At a tick a sensor in use with a condition
of R324 is broken and counts as hot; one without, not broken, takes the temperature it gives and its flags by threshold and hysteresis; a broken one
counts the tick as good. A thermistor is open at code 4,064, shorted at 32, else at R322's temperature. A domain is in WARN where a sensor of it is,
and enters or leaves its CRIT hold with the event. A digital read of right parity is taken. A broken sensor with 10 good ticks counts again. When a
dwell has run, the computed step of a domain in WARN rises by one to at most 7, that of a domain below falls by one, and a new count begins. -/
def Obligations.SensorsAndLadders : Prop :=
  (∀ (s : State) (i : ThermIn) (k : Nat), s.inReset = false → k < 46 → s.thm.sensors.length = 46 → s.sensUsed k = true → (s.sensRead k i).2.2 ≠ 0 →
      Gives (.thermalTick i) s fun t =>
        (t.sens k).broken = true ∧ (t.sens k).why = (s.sensRead k i).2.2 ∧ (t.sens k).good = 0 ∧ (t.sens k).hiWarn = true ∧ (t.sens k).hiCrit = true ∧
        (t.sens k).lowWarn = false ∧ (t.sens k).lowCrit = false ∧ (t.sens k).raw = (s.sensRead k i).1 ∧
        ((s.sens k).broken = false → t.evFlag 19 = true)) ∧
  (∀ (s : State) (i : ThermIn) (k : Nat), s.inReset = false → k < 46 → s.thm.sensors.length = 46 → s.sensUsed k = true → (s.sensRead k i).2.2 = 0 →
      (s.sens k).broken = false → Gives (.thermalTick i) s fun t =>
        (t.sens k).broken = false ∧ (t.sens k).raw = (s.sensRead k i).1 ∧ (t.sens k).temp = (s.sensRead k i).2.1 ∧
        ((t.sens k).hiWarn = true ↔ s.sf (thmA k 0xC) 0 16 ≤ (s.sensRead k i).2.1 ∨
          ((s.sens k).hiWarn = true ∧ s.sf (thmA k 0xC) 0 16 - (s.f (thmA k 0) 16 8 : Nat) ≤ (s.sensRead k i).2.1)) ∧
        ((t.sens k).hiCrit = true ↔ s.sf (thmA k 0xC) 16 16 ≤ (s.sensRead k i).2.1 ∨
          ((s.sens k).hiCrit = true ∧ s.sf (thmA k 0xC) 16 16 - (s.f (thmA k 0) 16 8 : Nat) ≤ (s.sensRead k i).2.1)) ∧
        ((t.sens k).lowCrit = true ↔ (s.sensRead k i).2.1 ≤ s.sf (thmA k 8) 0 16 ∨
          ((s.sens k).lowCrit = true ∧ (s.sensRead k i).2.1 ≤ s.sf (thmA k 8) 0 16 + (s.f (thmA k 0) 16 8 : Nat)))) ∧
  (∀ (s : State) (i : ThermIn) (k : Nat), s.inReset = false → k < 46 → s.thm.sensors.length = 46 → s.sensUsed k = true → (s.sensRead k i).2.2 = 0 →
      (s.sens k).broken = true → Gives (.thermalTick i) s fun t =>
        (t.sens k).broken = true ∧ (t.sens k).good = (s.sens k).good + 1 ∧ (t.sens k).temp = (s.sensRead k i).2.1) ∧
  (∀ (s : State) (i : ThermIn) (k : Nat), s.sensUsed k = false → Gives (.thermalTick i) s fun t => t.sens k = s.sens k) ∧
  (∀ (s : State) (i : ThermIn) (k c : Nat), s.sensKind k = 1 → i.codes.find? (fun e => e.1 == k) = some (k, c) → c < 4096 →
      s.sensRead k i = (c, if 4064 ≤ c ∨ c ≤ 32 then (s.sens k).temp else thermistor c (s.f (thmA k 4) 0 16) (Nat.max 1 (s.f (thmA k 4) 16 16)),
        if 4064 ≤ c then 1 else if c ≤ 32 then 2
        else if thermistor c (s.f (thmA k 4) 0 16) (Nat.max 1 (s.f (thmA k 4) 16 16)) < -500 ∨
            3500 < thermistor c (s.f (thmA k 4) 0 16) (Nat.max 1 (s.f (thmA k 4) 16 16)) then 3 else 0)) ∧
  (∀ (s : State) (i : ThermIn) (d : Nat), s.inReset = false → d < 15 → s.thm.ladders.length = 15 → Gives (.thermalTick i) s fun t =>
        (t.lad d).warn = (t.domSens d).any (fun k => (t.sens k).hiWarn) ∧
        ((t.domSens d).any (fun k => (t.sens k).hiCrit) = true → (t.lad d).crit = true ∧
          ((s.lad d).crit = false → (t.lad d).tgt = 7 ∧ t.evFlag 17 = true)) ∧
        ((s.lad d).crit = true → (t.lad d).warn = false → (t.domSens d).any (fun k => (t.sens k).hiCrit) = false →
          (t.lad d).crit = false ∧ t.evFlag 21 = true ∧ (t.lad d).ran = 0)) ∧
  (∀ (s : State) (k bits : Nat), s.inReset = false → Gives (.digitalSensorRead k bits) s fun t =>
      t = if s.sensUsed k = false ∨ s.sensKind k ≠ 2 ∨ popCount 17 bits % 2 = 1 then s else s.modSens k (fun x => { x with raw := bits / 2 % 65536, age := 0 })) ∧
  (∀ (s : State) (k : Nat), s.inReset = false → k < s.thm.sensors.length → (s.sens k).broken = true → 10 ≤ (s.sens k).good →
      Gives (.sensorRecovered k) s fun t =>
        (t.sens k).broken = false ∧ (t.sens k).why = 0 ∧ (t.sens k).good = 0 ∧ (t.sens k).temp = (s.sens k).temp ∧ (∀ j, j ≠ k → t.sens j = s.sens j) ∧
        t.thm.ladders = s.thm.ladders) ∧
  (∀ (s : State) (k : Nat), ((s.sens k).broken = false ∨ (s.sens k).good < 10) → Gives (.sensorRecovered k) s fun t => t = s) ∧
  (∀ (s : State) (d : Nat), s.inReset = false → d < 15 → s.thm.ladders.length = 15 → (s.lad d).crit = false → (s.lad d).dwell ≤ (s.lad d).ran →
      Gives (.ladderDwellStep d) s fun t =>
        (t.lad d).tgt = (if (s.lad d).warn then Nat.min 7 ((s.lad d).tgt + 1) else (s.lad d).tgt - 1) ∧ (t.lad d).ran = 0 ∧
        (t.lad d).dwell = s.ladDwell d (s.lad d).warn ∧ ((t.lad d).tgt ≠ (s.lad d).tgt → t.evFlag 20 = true ∧ (t.lad d).limit = s.ladLimit d (t.lad d).tgt) ∧
        (∀ e, e ≠ d → t.lad e = s.lad e) ∧ t.thm.heaters = s.thm.heaters ∧ t.sched = s.sched) ∧
  (∀ (s : State) (d : Nat), (15 ≤ d ∨ (s.lad d).crit = true ∨ (s.lad d).ran < (s.lad d).dwell) → Gives (.ladderDwellStep d) s fun t => t = s)

/-- Zero crossings, heater firing, the fuser's PID, the sensor pairs and the feed-forward (R335 to R339). A zero crossing is kept as one of the last 16
half-cycles; while zero-cross is not valid no heater fires, and a frequency out of 45 to 65 Hz loses it. A heater that may fire adds its duty to its
accumulator in burst mode and fires when that reaches 65,536, or fires at the angle of its duty; another is off. Loss turns every heater off and
raises FUS_ZC_LOST; 16 good half-cycles make it valid again. The PID takes setpoint and admission, and sets the duty from error, integral and change;
a heater that is not enabled has duty 0. A pair that disagrees turns invalid and its heater off, one that agrees valid, with the event. The
feed-forward that ends first is over. Elsewhere nothing changes. -/
def Obligations.FuserControl : Prop :=
  (∀ (s : State) (us : Nat), s.inReset = false → s.id.motion = true → s.thm.zcOk = false → s.id.heaters ≤ 4 → s.thm.heaters.length = 4 →
      Gives (.zeroCrossEdge us) s fun t =>
        t.thm.zcHist = lastN 16 (s.thm.zcHist ++ [us]) ∧ t.thm.zcGood = (if 7693 ≤ us ∧ us ≤ 11111 then s.thm.zcGood + 1 else 0) ∧
        (∀ h, h < s.id.heaters → (t.heat h).on = false) ∧ t.out = s.out ∧ t.regs = s.regs) ∧
  (∀ (s : State) (us : Nat), s.inReset = false → s.id.motion = true → s.thm.zcOk = true →
      (mainsFreq (lastN 16 (s.thm.zcHist ++ [us])) < 4500 ∨ 6500 < mainsFreq (lastN 16 (s.thm.zcHist ++ [us]))) → Gives (.zeroCrossEdge us) s fun t =>
        t.thm.zcOk = false ∧ t.thm.zcHist = [] ∧ t.thm.zcGood = 0 ∧ (∀ h ∈ t.thm.heaters, h.on = false) ∧ t.evFlag 22 = true) ∧
  (∀ (s : State) (us h : Nat), s.inReset = false → s.id.motion = true → h < s.id.heaters → s.id.heaters ≤ 4 → s.thm.heaters.length = 4 →
      4500 ≤ mainsFreq (lastN 16 (s.thm.zcHist ++ [us])) → mainsFreq (lastN 16 (s.thm.zcHist ++ [us])) ≤ 6500 → Gives (.zeroCrossEdge us) s fun t =>
        (s.heatMay h = false → (t.heat h).on = false ∧ (t.heat h).accum = (s.heat h).accum) ∧
        (s.heatMay h = true → s.flag hvfB 1 = true → ((t.heat h).on = true ↔ s.heatDuty h ≠ 0) ∧
          (s.heatDuty h ≠ 0 → Out.heat h (phaseAngle (s.heatDuty h)) (s.f hvfB 8 8) ∈ t.out)) ∧
        (s.heatMay h = true → s.flag hvfB 1 = false →
          (t.heat h).on = decide (65536 ≤ (s.heat h).accum + s.heatDuty h) ∧
          (t.heat h).accum = (if 65536 ≤ (s.heat h).accum + s.heatDuty h then (s.heat h).accum + s.heatDuty h - 65536 else (s.heat h).accum + s.heatDuty h) ∧
          (65536 ≤ (s.heat h).accum + s.heatDuty h → Out.heat h 0 (s.f hvfB 8 8) ∈ t.out)) ∧
        (t.heat h).duty = (s.heat h).duty ∧ t.thm.zcOk = s.thm.zcOk ∧ t.regs = s.regs) ∧
  (∀ s : State, s.inReset = false → s.id.motion = true → Gives .zeroCrossLoss s fun t =>
      t.thm.zcOk = false ∧ t.thm.zcHist = [] ∧ (∀ h ∈ t.thm.heaters, h.on = false) ∧ (s.thm.zcOk = true → t.evFlag 22 = true) ∧
      t.thm.sensors = s.thm.sensors ∧ t.sched = s.sched) ∧
  (∀ s : State, s.inReset = false → s.id.motion = true → s.thm.zcOk = false → 16 ≤ s.thm.zcGood → Gives .zeroCrossRegained s fun t =>
      t.thm.zcOk = true ∧ t.evFlag 22 = true ∧ t.thm.heaters = s.thm.heaters ∧ t.thm.sensors = s.thm.sensors ∧ t.sched = s.sched) ∧
  (∀ s : State, (s.id.motion = false ∨ s.thm.zcOk = true ∨ s.thm.zcGood < 16) → Gives .zeroCrossRegained s fun t => t = s) ∧
  (∀ (s : State) (us : Nat), s.id.motion = false → Gives .fuserPidUpdate s (fun t => t = s) ∧ Gives .zeroCrossLoss s (fun t => t = s) ∧
      Gives (.zeroCrossEdge us) s fun t => t = s) ∧
  (∀ (s : State) (h : Nat) (e o g : Int), s.inReset = false → s.id.motion = true → h < s.id.heaters → s.id.heaters ≤ 4 → s.thm.heaters.length = 4 →
      e = sfld (s.act (hvfB + 0x20 + 0x10 * h)) 0 16 - (s.sens (s.sensA h)).temp →
      g = (s.tabAct 8 0 (32 * h + 4) 2 : Nat) * e + (s.tabAct 8 0 (32 * h + 8) 2 : Nat) * 10 * (e - (s.heat h).lastT) → o = g + (s.heat h).integ / 10 →
      Gives .fuserPidUpdate s fun t =>
        (t.heat h).setp = sfld (s.act (hvfB + 0x20 + 0x10 * h)) 0 16 ∧ (t.heat h).admitT = sfld (s.act (hvfB + 0x20 + 0x10 * h)) 16 16 ∧
        (t.heat h).lastT = e ∧ (t.heat h).duty ≤ 65536 ∧ ((s.flag hvfB 0 = false ∨ s.hen h = false) → (t.heat h).duty = 0) ∧
        (0 < o → o < 65536 → o ≤ ((s.lad 0).limit * 65536 / 255 : Nat) →
          (t.heat h).integ = (s.heat h).integ + (s.tabAct 8 0 (32 * h + 6) 2 : Nat) * e ∧
          (s.flag hvfB 0 = true → s.hen h = true → (t.heat h).duty =
            (clampI 0 65536 (g + ((s.heat h).integ + (s.tabAct 8 0 (32 * h + 6) 2 : Nat) * e) / 10)).toNat)) ∧
        (t.heat h).on = (s.heat h).on ∧ t.thm.sensors = s.thm.sensors) ∧
  (∀ (s : State) (h : Nat), s.inReset = false → h < s.id.heaters → h < s.thm.heaters.length → (s.heat h).pairOk = true → s.pairAgrees h = false →
      Gives (.pairInvalid h) s fun t => (t.heat h).pairOk = false ∧ (t.heat h).on = false ∧ t.evFlag 23 = true ∧ (∀ k, k ≠ h → t.heat k = s.heat k) ∧
        t.thm.sensors = s.thm.sensors) ∧
  (∀ (s : State) (h : Nat), (s.id.heaters ≤ h ∨ (s.heat h).pairOk = false ∨ s.pairAgrees h = true) → Gives (.pairInvalid h) s fun t => t = s) ∧
  (∀ (s : State) (h : Nat), s.inReset = false → h < s.id.heaters → h < s.thm.heaters.length → (s.heat h).pairOk = false → s.pairAgrees h = true →
      Gives (.pairValid h) s fun t => (t.heat h).pairOk = true ∧ t.evFlag 23 = true ∧ (∀ k, k ≠ h → t.heat k = s.heat k) ∧
        t.thm.sensors = s.thm.sensors) ∧
  (∀ (s : State) (h : Nat), (s.id.heaters ≤ h ∨ (s.heat h).pairOk = true ∨ s.pairAgrees h = false) → Gives (.pairValid h) s fun t => t = s) ∧
  (∀ (s : State) (k : Nat), (s.heat k).ff ≠ 0 → (∀ h ∈ s.thm.heaters, h.ff ≠ 0 → (s.heat k).ffEnd ≤ h.ffEnd) → Gives .feedForwardEnd s fun t =>
      (t.heat k).ff = 0 ∧ (∀ j, (s.heat k).ffEnd < (s.heat j).ffEnd → t.heat j = s.heat j) ∧ (∀ j, (t.heat j).duty = (s.heat j).duty) ∧ t.regs = s.regs) ∧
  (∀ s : State, (∀ h ∈ s.thm.heaters, h.ff = 0) → Gives .feedForwardEnd s fun t => t = s)

/-- The high-voltage loop, its fault, and a profile switch by a sheet event (R342 to R344). An update takes each channel's feedback and the ramped target;
a channel that is off, unclaimed or faulted has duty 0, any other the duty of its loop, at most 4,095. A fault turns the channel off, raises HV_FAULT,
makes every sheet in flight waste and clears PICK_EN; without the error for its time nothing changes. An HV entry of the sheet-event table ramps every
channel of the group with a target in the profile from where it stands, over the profile's time. -/
def Obligations.HighVoltage : Prop :=
  (∀ (s : State) (fb : List Nat) (c : Nat), s.inReset = false → c < s.id.hvs → s.id.hvs ≤ 32 → s.thm.hv.length = 32 → Gives (.hvLoopUpdate fb) s fun t =>
      (t.hvc c).fb = fb.getD c (s.hvc c).fb % 65536 ∧ (t.hvc c).rampT = Nat.min (s.hvc c).rampUs ((s.hvc c).rampT + 100) ∧ (t.hvc c).duty ≤ 4095 ∧
      (t.hvc c).now = (t.hvc c).ramped ∧
      (s.flag (hvA c 0) 0 = false ∨ s.claim 4 c = none ∨ (s.hvc c).fault = true → (t.hvc c).duty = 0 ∧ (t.hvc c).errUs = 0) ∧
      (s.flag (hvA c 0) 0 = true → s.claim 4 c ≠ none → (s.hvc c).fault = false →
        (t.hvc c).integ = (s.hvc c).integ + (s.f (hvA c 0xC) 16 16 : Nat) * (((t.hvc c).now : Int) - (t.hvc c).fb) ∧
        (t.hvc c).duty = (clampI 0 4095 (((s.f (hvA c 0xC) 0 16 : Nat) * (((t.hvc c).now : Int) - (t.hvc c).fb) + (t.hvc c).integ / 10) * 4095 / 65536)).toNat ∧
        (t.hvc c).errUs = if s.f (hvA c 0) 16 16 < (((t.hvc c).now : Int) - (t.hvc c).fb).natAbs then (s.hvc c).errUs + 100 else 0) ∧
      (t.hvc c).fault = (s.hvc c).fault ∧ t.regs = s.regs ∧ t.thm.heaters = s.thm.heaters) ∧
  (∀ (s : State) (c : Nat), s.inReset = false → c < s.id.hvs → c < s.thm.hv.length → s.flag (hvA c 0) 0 = true → (s.hvc c).fault = false →
      1000 * s.f (hvA c 0) 8 8 ≤ (s.hvc c).errUs → s.sched.toks.length = 16 → Gives (.hvFault c) s fun t =>
        (t.hvc c).fault = true ∧ (t.hvc c).duty = 0 ∧ t.evFlag 25 = true ∧ bitOf (t.reg shtB) 0 = false ∧
        (∀ k, k < 16 → (s.tok k).busy = true → natBit (t.tok k).flags fWaste = true) ∧ (∀ k, k ≠ c → t.hvc k = s.hvc k)) ∧
  (∀ (s : State) (c : Nat), (s.id.hvs ≤ c ∨ s.flag (hvA c 0) 0 = false ∨ (s.hvc c).fault = true ∨ (s.hvc c).errUs < 1000 * s.f (hvA c 0) 8 8) →
      Gives (.hvFault c) s fun t => t = s) ∧
  (∀ (s : State) (k e c : Nat), s.inReset = false → (s.tok k).busy = true → (s.tok k).reg ≠ none → e < 64 → (s.sheetEv e).act = 2 → c < s.id.hvs →
      s.id.hvs ≤ 32 → s.thm.hv.length = 32 → s.f (hvA c 0) 1 4 = (s.sheetEv e).idx →
      s.tabAct 7 (s.sheetEv e).idx (0x50 * (s.sheetEv e).arg + 16 + 2 * c) 2 ≠ 0xFFFF → Gives (.sheetEvent k e) s fun t =>
        (t.hvc c).to1 = s.tabAct 7 (s.sheetEv e).idx (0x50 * (s.sheetEv e).arg + 16 + 2 * c) 2 ∧ (t.hvc c).from0 = (s.hvc c).ramped ∧
        (t.hvc c).rampUs = s.tabAct 7 (s.sheetEv e).idx (0x50 * (s.sheetEv e).arg) 4 ∧ (t.hvc c).rampT = 0 ∧
        t.reg (hvA c 4) = wd (s.tabAct 7 (s.sheetEv e).idx (0x50 * (s.sheetEv e).arg + 16 + 2 * c) 2) ∧ t.sched = s.sched)

/-- MOVE, RESUME and REFERENCE start a claimed channel at rest, and are refused on an unclaimed or a moving one (R287, R292, R296, R300). On a claimed
channel in IDLE or STOPPED with distance to go, MOVE starts a move of exactly that many steps in its direction, its first step no earlier than
DIR_SETUP; with none to go it is IDLE and STP_DONE is raised; in velocity mode it runs in the direction of the sign of its target. RESUME does the
same from STOPPED in the direction it has. REFERENCE starts its first stage; a stall input already active ends stall referencing at REFPOS, an active
home input starts the back-off. Without the claims each is refused with CONFLICT, in any other state with MOTION, and STP_REFUSED is raised. Other
channels stay as they were; a channel the die has not takes no command. -/
def Obligations.StepCommands : Prop :=
  (∀ (s : State) (n : Nat), s.stpHere n = true → n < s.stp.length → s.stpClaimed n = true → (s.sp n).st = .idle ∨ (s.sp n).st = .stopped →
      Gives (.stpMove n) s fun t =>
        (t.sp n).refused = false ∧ t.out = s.out ++ [.reg sOk (stpA n 4)] ∧ (∀ k, k ≠ n → t.sp k = s.sp k) ∧ (t.sp n).actual = (s.sp n).actual ∧
        (if s.stpVelMode n then (t.sp n).st = .moving ∧ (t.sp n).dirPos = decide (0 ≤ (s.sp n).target) ∧ (t.sp n).target = (s.sp n).actual ∧
            (t.sp n).goal = none ∧ (t.sp n).lims = s.stpLims n ∧ s.f (stpA n 0) 24 8 ≤ (t.sp n).due
         else if (s.sp n).remain = 0 then (t.sp n).st = .idle ∧ t.evFlag 224 = true
         else (t.sp n).st = .moving ∧ (t.sp n).goal = some (s.sp n).remain.natAbs ∧ (t.sp n).made = 0 ∧ (t.sp n).dirPos = decide (0 < (s.sp n).remain) ∧
            (t.sp n).target = (s.sp n).target ∧ (t.sp n).lims = s.stpLims n ∧ s.f (stpA n 0) 24 8 ≤ (t.sp n).due)) ∧
  (∀ (s : State) (n : Nat), s.stpHere n = true → n < s.stp.length → s.stpClaimed n = true → (s.sp n).st = .stopped → Gives (.stpResume n) s fun t =>
      (t.sp n).refused = false ∧ t.out = s.out ++ [.reg sOk (stpA n 4)] ∧ (∀ k, k ≠ n → t.sp k = s.sp k) ∧ (t.sp n).actual = (s.sp n).actual ∧
      (if s.stpVelMode n then (t.sp n).st = .moving ∧ (t.sp n).dirPos = (s.sp n).dirPos ∧ (t.sp n).goal = none
       else if (s.sp n).remain = 0 then (t.sp n).st = .idle ∧ t.evFlag 224 = true
       else (t.sp n).st = .moving ∧ (t.sp n).goal = some (s.sp n).remain.natAbs ∧ (t.sp n).made = 0 ∧ (t.sp n).dirPos = decide (0 < (s.sp n).remain))) ∧
  (∀ (s : State) (n : Nat), s.stpHere n = true → n < s.stp.length → s.stpClaimed n = true → (s.sp n).st = .idle ∨ (s.sp n).st = .stopped →
      Gives (.stpReference n) s fun t =>
        t.out = s.out ++ [.reg sOk (stpA n 4)] ∧ (t.sp n).refused = false ∧ (∀ k, k ≠ n → t.sp k = s.sp k) ∧
        (if s.f (stpA n 0) 3 2 ≠ 1 ∧ (s.sp n).stallIn = true then
            (t.sp n).st = .idle ∧ (t.sp n).refd = true ∧ (t.sp n).actual = sext 32 (s.f (stpA n 0x28) 0 32) ∧ (t.sp n).target = (t.sp n).actual ∧ t.evFlag 227 = true
         else (t.sp n).st = .referencing ∧ (t.sp n).refSteps = 0 ∧ (t.sp n).actual = (s.sp n).actual ∧ t.regs = s.regs ∧
            (if s.f (stpA n 0) 3 2 = 1 ∧ (s.sp n).homeIn = true then (t.sp n).refStage = 3 ∧ (t.sp n).dirPos = !s.flag (stpA n 0) 5
             else (t.sp n).refStage = (if s.f (stpA n 0) 3 2 = 1 then 1 else 0) ∧ (t.sp n).dirPos = s.flag (stpA n 0) 5))) ∧
  (∀ (s : State) (n : Nat), s.stpHere n = true → s.stpClaimed n = false →
      Gives (.stpMove n) s (Occurs [228] ((s.modStp n (fun x => { x with refused := true })).emit (.reg sConflict (stpA n 4)))) ∧
      Gives (.stpResume n) s (Occurs [228] ((s.modStp n (fun x => { x with refused := true })).emit (.reg sConflict (stpA n 4)))) ∧
      Gives (.stpReference n) s (Occurs [228] ((s.modStp n (fun x => { x with refused := true })).emit (.reg sConflict (stpA n 4))))) ∧
  (∀ (s : State) (n : Nat), s.stpHere n = true → s.stpClaimed n = true → (s.sp n).st ≠ .idle →
      ((s.sp n).st ≠ .stopped → Gives (.stpMove n) s (Occurs [228] ((s.modStp n (fun x => { x with refused := true })).emit (.reg sMotion (stpA n 4)))) ∧
        Gives (.stpReference n) s (Occurs [228] ((s.modStp n (fun x => { x with refused := true })).emit (.reg sMotion (stpA n 4)))))) ∧
  (∀ (s : State) (n : Nat), s.stpHere n = true → s.stpClaimed n = true → (s.sp n).st ≠ .stopped →
      Gives (.stpResume n) s (Occurs [228] ((s.modStp n (fun x => { x with refused := true })).emit (.reg sMotion (stpA n 4))))) ∧
  (∀ (s : State) (n : Nat), s.stpHere n = false → Gives (.stpMove n) s (· = s) ∧ Gives (.stpResume n) s (· = s) ∧ Gives (.stpReference n) s (· = s))

/-- STOP, CLEAR, ENABLE, DISABLE and a write of TARGET (R288, R293, R294, R296, R299). STOP brings a moving channel to STOPPING or at once to STOPPED, a
position-mode move within the steps it had left; it leaves a channel at rest as it is, and is refused with BAD_STATE on a transport channel with
sheets in flight. CLEAR takes STP_FAULT to STOPPED; ENABLE takes DISABLED to IDLE or STOPPED; DISABLE takes a channel at rest to DISABLED and is
refused with sheets in flight on a transport channel and in motion. A write of TARGET is accepted in IDLE, STOPPED and DISABLED and refused in every
other state; in velocity mode its sign is the direction. Nothing else changes. -/
def Obligations.StepStops : Prop :=
  (∀ (s : State) (n : Nat), s.stpHere n = true → n < s.stp.length → s.stpCarries n = false → (s.sp n).st = .moving ∨ (s.sp n).st = .referencing →
      Gives (.stpStop n) s fun t =>
        ((t.sp n).st = .stopping ∧ (t.sp n).goal ≠ none ∨ (t.sp n).st = .stopped ∧ t.evFlag 225 = true) ∧ (t.sp n).refused = false ∧
        ((s.sp n).st = .moving → s.stpVelMode n = false → (t.sp n).st = .stopping →
          ∃ g, (t.sp n).goal = some g ∧ g ≤ (t.sp n).made + (s.sp n).remain.natAbs) ∧ (t.sp n).actual = (s.sp n).actual ∧
        t.out = s.out ++ [.reg sOk (stpA n 4)] ∧ (∀ k, k ≠ n → t.sp k = s.sp k)) ∧
  (∀ (s : State) (n : Nat), s.stpHere n = true → s.stpCarries n = false → (s.sp n).st ≠ .moving → (s.sp n).st ≠ .referencing → Gives (.stpStop n) s fun t =>
      t = (s.modStp n (fun x => { x with refused := false })).emit (.reg sOk (stpA n 4))) ∧
  (∀ (s : State) (n : Nat), s.stpHere n = true → s.stpCarries n = true →
      Gives (.stpStop n) s (Occurs [228] ((s.modStp n (fun x => { x with refused := true })).emit (.reg sBadState (stpA n 4)))) ∧
      Gives (.stpDisable n) s (Occurs [228] ((s.modStp n (fun x => { x with refused := true })).emit (.reg sBadState (stpA n 4))))) ∧
  (∀ (s : State) (n : Nat), s.stpHere n = true → Gives (.stpClear n) s fun t =>
      t = (s.modStp n (fun x => { (if x.st == .fault then { x with st := .stopped, defer := false } else x) with refused := false })).emit (.reg sOk (stpA n 4))) ∧
  (∀ (s : State) (n : Nat), s.stpHere n = true → Gives (.stpEnable n) s fun t =>
      t = (s.modStp n (fun x =>
            { x with st := (if x.st = .disabled then (if x.remain = 0 then .idle else .stopped) else x.st), enabled := true, refused := false })).emit
            (.reg sOk (stpA n 4))) ∧
  (∀ (s : State) (n : Nat), s.stpHere n = true → s.stpCarries n = false → (s.sp n).moving = false → Gives (.stpDisable n) s fun t =>
      t = (s.modStp n (fun x => { x with st := .disabled, enabled := false, refused := false })).emit (.reg sOk (stpA n 4))) ∧
  (∀ (s : State) (n : Nat), s.stpHere n = true → s.stpCarries n = false → (s.sp n).moving = true →
      Gives (.stpDisable n) s (Occurs [228] ((s.modStp n (fun x => { x with refused := true })).emit (.reg sMotion (stpA n 4))))) ∧
  (∀ (s : State) (n : Nat) (v : Word), s.stpHere n = true → ((s.sp n).st = .idle ∨ (s.sp n).st = .stopped ∨ (s.sp n).st = .disabled) →
      Gives (.stpTargetWrite n v) s fun t =>
        t = (s.modStp n (fun x => { x with target := sext 32 v.toNat, dirPos := (if s.stpVelMode n then decide (0 ≤ sext 32 v.toNat) else x.dirPos), refused := false })).emit (.reg sOk (stpA n 8))) ∧
  (∀ (s : State) (n : Nat) (v : Word), s.stpHere n = true → (s.sp n).st ≠ .idle → (s.sp n).st ≠ .stopped → (s.sp n).st ≠ .disabled →
      Gives (.stpTargetWrite n v) s (Occurs [228] ((s.modStp n (fun x => { x with refused := true })).emit (.reg sMotion (stpA n 8))))) ∧
  (∀ (s : State) (n : Nat) (v : Word), s.stpHere n = false → Gives (.stpStop n) s (· = s) ∧ Gives (.stpClear n) s (· = s) ∧ Gives (.stpEnable n) s (· = s) ∧
      Gives (.stpDisable n) s (· = s) ∧ Gives (.stpTargetWrite n v) s (· = s))

/-- A step, a fault, the stall and home inputs, and an encoder edge (R291, R298 to R302). A step moves the position by one in the channel's direction and
goes out, the next at least 400 TIME clocks later; without supervision it ends a move, a stop or a fault stop where it is the last, and a seek that
has made REF_MAX steps is a fault. A fault records its cause and position, after a last step due then, and raises STP_FAULT; a transport channel with
sheets in flight defers the deceleration and clears PICK_EN, any other decelerates or is in STP_FAULT at once. A stall ends stall referencing at
REFPOS and is a fault in motion. The home input is recorded; it ends the back-off when it goes low and latches the position in the slow approach. A
quadrature edge changes the count by one in its direction; both inputs at once by two in an open direction. -/
def Obligations.StepMotion : Prop :=
  (∀ (s : State) (n : Nat), s.stpHere n = true → n < s.stp.length → ((s.sp n).st = .moving ∨ (s.sp n).st = .stopping ∨ (s.sp n).st = .faultStop) →
      s.flag (stpA n 0) 7 = false → Gives (.stepPulse n) s fun t =>
      (t.sp n).actual = wrap32 ((s.sp n).actual + (if (s.sp n).dirPos then 1 else -1)) ∧ t.out = s.out ++ [.step n (s.sp n).dirPos] ∧
      (∀ k, k ≠ n → t.sp k = s.sp k) ∧ (t.sp n).cause = (s.sp n).cause ∧
      ((∃ g, (s.sp n).goal = some g ∧ g ≤ (s.sp n).made + 1) →
        (t.sp n).st = (match (s.sp n).st with | .moving => .idle | .stopping => .stopped | _ => .fault) ∧
        ((s.sp n).st = .moving → t.evFlag 224 = true) ∧ ((s.sp n).st = .stopping → t.evFlag 225 = true)) ∧
      ((∀ g, (s.sp n).goal = some g → (s.sp n).made + 1 < g) → (t.sp n).st = (s.sp n).st ∧ (t.sp n).made = (s.sp n).made + 1 ∧
        (s.sp n).due + 400 ≤ (t.sp n).due ∧ t.regs = s.regs)) ∧
  (∀ (s : State) (n : Nat), s.stpHere n = true → n < s.stp.length → (s.sp n).st = .referencing → (s.sp n).refStage = 1 → (s.sp n).homeIn = false →
      s.flag (stpA n 0) 7 = false → Gives (.stepPulse n) s fun t =>
      (t.sp n).actual = wrap32 ((s.sp n).actual + (if (s.sp n).dirPos then 1 else -1)) ∧ t.out = s.out ++ [.step n (s.sp n).dirPos] ∧
      (∀ k, k ≠ n → t.sp k = s.sp k) ∧
      (if (s.sp n).refSteps + 1 < s.stpProf n 5 then (t.sp n).st = .referencing ∧ (t.sp n).refStage = 1 ∧ (t.sp n).refSteps = (s.sp n).refSteps + 1 ∧ t.regs = s.regs
       else (s.sp n).defer = false → (t.sp n).cause = 5 ∧ t.evFlag 226 = true)) ∧
  (∀ (s : State) (n : Nat), (s.stpHere n = false ∨ (s.sp n).moving = false) → Gives (.stepPulse n) s fun t => t = s) ∧
  (∀ (s : State) (n c : Nat), s.stpHere n = true → n < s.stp.length → s.stpCause n c = true → (s.sp n).st ≠ .fault →
      (s.sp n).st ≠ .faultStop → (s.sp n).defer = false → Gives (.stpFault n c) s fun t =>
        (t.sp n).cause = c ∧ (t.sp n).faultPos = (t.sp n).actual ∧
        (t.sp n).actual = (if (s.sp n).lastDue then wrap32 ((s.sp n).actual + (if (s.sp n).dirPos then 1 else -1)) else (s.sp n).actual) ∧
        t.evFlag 226 = true ∧ (∀ k, k ≠ n → t.sp k = s.sp k) ∧
        (s.stpCarries n = true → (t.sp n).defer = true ∧ (t.sp n).st = (s.sp n).st ∧ bitOf (t.reg shtB) 0 = false) ∧
        (s.stpCarries n = false → ((t.sp n).st = .fault ∨ (t.sp n).st = .faultStop) ∧ ((s.sp n).moving = false → (t.sp n).st = .fault))) ∧
  (∀ (s : State) (n c : Nat), (s.stpHere n = false ∨ s.stpCause n c = false ∨ (s.sp n).st = .fault ∨ (s.sp n).st = .faultStop ∨ (s.sp n).defer = true) →
      Gives (.stpFault n c) s fun t => t = s) ∧
  (∀ (s : State) (n : Nat), s.stpHere n = true → n < s.stp.length → s.pinFor 5 n = true → (s.sp n).st = .referencing → (s.sp n).refStage = 0 →
      (s.sp n).lastAt ≠ some s.clk → Gives (.stallInput n true) s fun t =>
        (t.sp n).st = .idle ∧ (t.sp n).stallIn = true ∧ (t.sp n).refd = true ∧ (t.sp n).actual = sext 32 (s.f (stpA n 0x28) 0 32) ∧
        (t.sp n).target = (t.sp n).actual ∧ t.evFlag 227 = true ∧ (∀ k, k ≠ n → t.sp k = s.sp k)) ∧
  (∀ (s : State) (n : Nat), s.stpHere n = true → n < s.stp.length → s.pinFor 5 n = true → s.flag (stpA n 0) 6 = true →
      ((s.sp n).st = .moving ∨ (s.sp n).st = .stopping) → (s.sp n).defer = false → Gives (.stallInput n true) s fun t =>
        (t.sp n).stallIn = true ∧ (t.sp n).cause = 1 ∧ (t.sp n).faultPos = (t.sp n).actual ∧ t.evFlag 226 = true ∧ (∀ k, k ≠ n → t.sp k = s.sp k)) ∧
  (∀ (s : State) (n : Nat) (l : Bool), s.stpHere n = true → s.pinFor 5 n = true → (s.flag (stpA n 0) 6 = false ∨ l = false) → (s.sp n).st ≠ .referencing →
      Gives (.stallInput n l) s fun t => t = s.modStp n (fun x => { x with stallIn := l })) ∧
  (∀ (s : State) (n : Nat) (l : Bool), (s.stpHere n = false ∨ s.pinFor 5 n = false) → Gives (.stallInput n l) s fun t => t = s) ∧
  (∀ (s : State) (n : Nat) (l : Bool), s.stpHere n = true → s.pinFor 6 n = true → (s.sp n).st ≠ .referencing →
      Gives (.homeEdge n l) s fun t => t = s.modStp n (fun x => { x with homeIn := l })) ∧
  (∀ (s : State) (n : Nat), s.stpHere n = true → n < s.stp.length → s.pinFor 6 n = true → (s.sp n).st = .referencing → (s.sp n).refStage = 3 →
      0 < s.stpProf n 4 → Gives (.homeEdge n false) s fun t =>
        t = s.modStp n (fun x => { x with homeIn := false, refStage := 4, refSteps := 0 })) ∧
  (∀ (s : State) (n : Nat), s.stpHere n = true → n < s.stp.length → s.pinFor 6 n = true → (s.sp n).st = .referencing → (s.sp n).refStage = 6 →
      Gives (.homeEdge n true) s fun t =>
        (t.sp n).homeIn = true ∧ (t.sp n).actual = sext 32 (s.f (stpA n 0x28) 0 32) ∧ (t.sp n).target = (t.sp n).actual ∧
        ((t.sp n).st = .referencing ∧ (t.sp n).refStage = 7 ∨ (t.sp n).st = .idle ∧ (t.sp n).refd = true ∧ t.evFlag 227 = true) ∧
        (∀ k, k ≠ n → t.sp k = s.sp k)) ∧
  (∀ (s : State) (n : Nat) (l : Bool), (s.stpHere n = false ∨ s.pinFor 6 n = false) → Gives (.homeEdge n l) s fun t => t = s) ∧
  (∀ (s : State) (e d : Nat) (a b : Bool), s.inReset = false → e < s.id.encs → e < s.enc.length → (s.claim 8 e).isSome = true →
      (quadPos a b + 4 - quadPos ((s.encPin.getD e (0, 0)).1 == 1) ((s.encPin.getD e (0, 0)).2 == 1)) % 4 = d → Gives (.encoderEdge e a b) s fun t =>
        t.encPin = updAt s.encPin e (fun _ => (b2n a, b2n b)) ∧ (∀ k, k ≠ e → t.enc.getD k 0 = s.enc.getD k 0) ∧
        (d = 0 → t.enc.getD e 0 = wrap32 (s.enc.getD e 0) ∧ t.free = s.free) ∧ (d = 1 → t.enc.getD e 0 = wrap32 (s.enc.getD e 0 + 1) ∧ t.free = s.free) ∧
        (d = 3 → t.enc.getD e 0 = wrap32 (s.enc.getD e 0 - 1) ∧ t.free = s.free) ∧
        (d = 2 → (t.enc.getD e 0 = wrap32 (s.enc.getD e 0 + 2) ∨ t.enc.getD e 0 = wrap32 (s.enc.getD e 0 - 2)) ∧ t.free = s.free + 1) ∧
        t.sched.toks = s.sched.toks) ∧
  (∀ (s : State) (e : Nat) (a b : Bool), (s.id.encs ≤ e ∨ s.claim 8 e = none) → Gives (.encoderEdge e a b) s fun t => t = s)

/-- RUN, STOP, COAST, CLEAR and a write of SPEED of a commutation channel (R303, R306, R307, R309, R311, R312, R318). RUN takes a claimed channel in
MOT_OFF to MOT_LISTEN in the commanded direction, the rotor's sector open, and leaves a running one as it is; without its claims it is refused with
CONFLICT, in MOT_STOPPED_FAULT with BAD_STATE. STOP brakes a turning channel that may brake, and turns any other running one off; COAST turns a
running channel off; both are refused on a station's or transport's channel with sheets in flight. CLEAR takes MOT_STOPPED_FAULT to MOT_OFF unless
V_OV2 holds. A speed is clamped and taken; one against a rotor that turns restarts a slow channel in the new direction, waits for the reversal where
the channel reverses by itself, and is refused with MOTION otherwise. -/
def Obligations.MotorCommands : Prop :=
  (∀ (s : State) (n : Nat), s.motHere n = true → s.motClaimed n = true → (s.mt n).st = .off → n < s.mot.length → Gives (.motRun n) s fun t =>
      (t.mt n).st = .listen ∧ (t.mt n).dirPos = decide (0 ≤ (s.mt n).target) ∧ (t.mt n).duty = 0 ∧ (t.mt n).refused = false ∧ (t.mt n).sector < 6 ∧
      (t.mt n).target = (s.mt n).target ∧
      t = { s with mot := t.mot, free := s.free + 1, out := s.out ++ [.reg sOk (motA n 0x24)] } ∧ (∀ k, k ≠ n → t.mt k = s.mt k)) ∧
  (∀ (s : State) (n : Nat), s.motHere n = true → s.motClaimed n = true → (s.mt n).running = true → Gives (.motRun n) s fun t =>
      t = (s.modMot n (fun m => { m with refused := false })).emit (.reg sOk (motA n 0x24))) ∧
  (∀ (s : State) (n : Nat), s.motHere n = true → (s.motClaimed n = false ∨ (s.mt n).st = .fault) → Gives (.motRun n) s
      (Occurs [236] ((s.modMot n (fun m => { m with refused := true })).emit (.reg (if s.motClaimed n = false then sConflict else sBadState) (motA n 0x24))))) ∧
  (∀ (s : State) (n : Nat), s.motHere n = true → s.motCarries n = false → n < s.mot.length → (s.mt n).running = true → Gives (.motStop n) s fun t =>
      (if (s.mt n).st = .brake ∨ ((s.mt n).st = .run ∧ s.motBrake n = true ∧ s.motRev n ≤ (s.mt n).est.natAbs) then (t.mt n).st = .brake
       else (t.mt n).st = .off ∧ (t.mt n).duty = 0) ∧ (t.mt n).target = (s.mt n).target ∧
      t = { s with mot := t.mot, out := s.out ++ [.reg sOk (motA n 0x24)] } ∧ (∀ k, k ≠ n → t.mt k = s.mt k)) ∧
  (∀ (s : State) (n : Nat), s.motHere n = true → s.motCarries n = false → n < s.mot.length → (s.mt n).running = true → Gives (.motCoast n) s fun t =>
      (t.mt n).st = .off ∧ (t.mt n).duty = 0 ∧ (t.mt n).target = (s.mt n).target ∧
      t = { s with mot := t.mot, out := s.out ++ [.reg sOk (motA n 0x24)] } ∧ (∀ k, k ≠ n → t.mt k = s.mt k)) ∧
  (∀ (s : State) (n : Nat), s.motHere n = true → s.motCarries n = false → (s.mt n).running = false →
      Gives (.motStop n) s (· = (s.modMot n (fun m => { m with refused := false })).emit (.reg sOk (motA n 0x24))) ∧
      Gives (.motCoast n) s (· = (s.modMot n (fun m => { m with refused := false })).emit (.reg sOk (motA n 0x24)))) ∧
  (∀ (s : State) (n : Nat), s.motHere n = true → s.motCarries n = true →
      Gives (.motStop n) s (Occurs [236] ((s.modMot n (fun m => { m with refused := true })).emit (.reg sBadState (motA n 0x24)))) ∧
      Gives (.motCoast n) s (Occurs [236] ((s.modMot n (fun m => { m with refused := true })).emit (.reg sBadState (motA n 0x24))))) ∧
  (∀ (s : State) (n : Nat), s.motHere n = true → s.bus.ov2 = false → Gives (.motClear n) s fun t =>
      t = (s.modMot n (fun m => { (if m.st == .fault then { m with st := .off, defer := false } else m) with refused := false })).emit (.reg sOk (motA n 0x24))) ∧
  (∀ (s : State) (n : Nat), s.motHere n = true → s.bus.ov2 = true → Gives (.motClear n) s
      (Occurs [236] ((s.modMot n (fun m => { m with refused := true })).emit (.reg sBadState (motA n 0x24))))) ∧
  (∀ (s : State) (n : Nat) (v : Word) (g : Int) (against : Prop), s.motHere n = true → n < s.mot.length →
      g = clampI (-(s.motLim n : Int)) (s.motLim n) (sext 18 v.toNat) →
      (against ↔ (s.mt n).running = true ∧ (s.mt n).turns = true ∧ g ≠ 0 ∧ decide (0 < g) ≠ (s.mt n).turnsPos) → Gives (.motSpeedWrite n v) s fun t =>
        (¬against → (t.mt n).target = g ∧ (t.mt n).revPend = false ∧ (t.mt n).st = (s.mt n).st ∧
          t = { s with mot := t.mot, out := s.out ++ [.reg sOk (motA n 8)] }) ∧
        (against → (s.mt n).est.natAbs < s.motRev n → (t.mt n).target = g ∧ t.out = s.out ++ [.reg sOk (motA n 8)] ∧
          (if (s.mt n).st = .brake then (t.mt n).st = .brake
           else if s.motSense n = 0 then (t.mt n).st = .align ∧ (t.mt n).sector = 0 ∧ (t.mt n).dirPos = decide (0 < g)
           else if (s.mt n).hall = 0 ∨ (s.mt n).hall = 7 then (t.mt n).st = .fault ∧ (t.mt n).cause = 2 ∧ t.evFlag 235 = true
           else (t.mt n).st = .run ∧ (t.mt n).sector = hallSector (s.mt n).hall ∧ (t.mt n).dirPos = decide (0 < g))) ∧
        (against → s.motRev n ≤ (s.mt n).est.natAbs → s.flag (motA n 0) 6 = true →
          Occurs [236] ((s.modMot n (fun m => { m with refused := true })).emit (.reg sMotion (motA n 8))) t) ∧
        (against → s.motRev n ≤ (s.mt n).est.natAbs → s.flag (motA n 0) 6 = false →
          (t.mt n).revPend = true ∧ (t.mt n).target = g ∧ (t.mt n).st = (s.mt n).st ∧ t = { s with mot := t.mot, out := s.out ++ [.reg sOk (motA n 8)] }) ∧
        (∀ k, k ≠ n → t.mt k = s.mt k)) ∧
  (∀ (s : State) (n : Nat) (v : Word), s.motHere n = false → Gives (.motRun n) s (· = s) ∧ Gives (.motStop n) s (· = s) ∧ Gives (.motCoast n) s (· = s) ∧
      Gives (.motClear n) s (· = s) ∧ Gives (.motSpeedWrite n v) s (· = s))

/-- Starting: the listen timeout, alignment, the handover timeout, crossings and Hall edges (R113, R307, R308, R311 to R313). After 50 ms without a
crossing a sensorless channel is in MOT_ALIGN at sector 0, and one with Halls in MOT_RUN at the sector they give, or in MOT_STOPPED_FAULT with cause 2
for a broken input; a transport channel that fails stops picks. At the end of alignment the ramp begins at 0. Without a handover the channel faults
with cause 2. A crossing while listening moves the sector and gives the estimate, and the twelfth good one in the commanded direction at RESTART_RPM
catches the rotor, but after a loss is only counted. In the ramp, at HANDOVER, a crossing after twelve good ones hands over to MOT_RUN. A running
channel takes good crossings; a braking one below REV_RPM is off. A Hall code of a broken input faults a running channel; any other gives the sector
of one that runs by Halls, and is recorded. Elsewhere nothing changes. -/
def Obligations.MotorStarting : Prop :=
  (∀ (s : State) (n : Nat), s.motHere n = true → n < s.mot.length → (s.mt n).st = .listen → (s.mt n).lostL = false → Gives (.listenTimeout n) s fun t =>
      (if s.motSense n = 0 then (t.mt n).st = .align ∧ (t.mt n).sector = 0 ∧ (t.mt n).dirPos = decide (0 ≤ (s.mt n).target) ∧ t.regs = s.regs
       else if (s.mt n).hall = 0 ∨ (s.mt n).hall = 7 then (t.mt n).st = .fault ∧ (t.mt n).cause = 2 ∧ t.evFlag 235 = true ∧
         (s.motOwned n 1 = true → bitOf (t.reg shtB) 0 = false)
       else (t.mt n).st = .run ∧ (t.mt n).sector = hallSector (s.mt n).hall ∧ (t.mt n).dirPos = decide (0 ≤ (s.mt n).target) ∧ t.regs = s.regs) ∧
      (∀ k, k ≠ n → t.mt k = s.mt k)) ∧
  (∀ (s : State) (n : Nat), (s.motHere n = false ∨ (s.mt n).st ≠ .listen ∨ (s.mt n).lostL = true) → Gives (.listenTimeout n) s (· = s)) ∧
  (∀ (s : State) (n : Nat), s.motHere n = true → (s.mt n).st = .align → Gives (.alignEnd n) s fun t =>
      t = s.modMot n (fun m => { m with st := .ramp, cmd := 0, goods := 0, sectT := 0 })) ∧
  (∀ (s : State) (n : Nat), (s.motHere n = false ∨ (s.mt n).st ≠ .align) → Gives (.alignEnd n) s (· = s)) ∧
  (∀ (s : State) (n : Nat), s.motHere n = true → n < s.mot.length → (s.mt n).st = .ramp → s.motAtHandover n = true → Gives (.handoverTimeout n) s fun t =>
      (t.mt n).st = .fault ∧ (t.mt n).cause = 2 ∧ (t.mt n).duty = 0 ∧ t.evFlag 235 = true ∧ (s.motOwned n 1 = true → bitOf (t.reg shtB) 0 = false) ∧
      (∀ k, k ≠ n → t.mt k = s.mt k)) ∧
  (∀ (s : State) (n : Nat), (s.motHere n = false ∨ (s.mt n).st ≠ .ramp ∨ s.motAtHandover n = false) → Gives (.handoverTimeout n) s (· = s)) ∧
  (∀ (s : State) (n dt : Nat) (pos : Bool), s.motHere n = true → n < s.mot.length → (s.mt n).st = .listen → (s.mt n).revPend = false →
      Gives (.zeroCrossing n dt pos) s fun t =>
        (t.mt n).est = (if pos then (s.motRpm n dt : Int) else -(s.motRpm n dt : Int)) ∧ (t.mt n).sectT = dt ∧
        (t.mt n).sector = (if pos then ((s.mt n).sector + 1) % 6 else ((s.mt n).sector + 5) % 6) ∧
        (if (s.mt n).lostL = false ∧ s.motGood n dt = true ∧ 11 ≤ (s.mt n).goods ∧ s.f (motA n 0x18) 0 16 ≤ (t.mt n).est.natAbs ∧
            decide (0 ≤ (t.mt n).est) = (s.mt n).dirPos
         then (t.mt n).st = .run ∧ (t.mt n).duty = s.motDutyFor n (t.mt n).est.natAbs
         else (t.mt n).st = .listen ∧ (t.mt n).heard = (s.mt n).heard + 1 ∧ (t.mt n).goods = (if s.motGood n dt then (s.mt n).goods + 1 else 0)) ∧
        t.regs = s.regs ∧ t.sched = s.sched ∧ (∀ k, k ≠ n → t.mt k = s.mt k)) ∧
  (∀ (s : State) (n dt : Nat) (pos : Bool), s.motHere n = true → n < s.mot.length → (s.mt n).st = .ramp → Gives (.zeroCrossing n dt pos) s fun t =>
        (t.mt n).est = (if pos then (s.motRpm n dt : Int) else -(s.motRpm n dt : Int)) ∧ (t.mt n).sectT = dt ∧
        (if s.motAtHandover n = true ∧ 12 ≤ (s.mt n).goods then (t.mt n).st = .run ∧ (t.mt n).duty = s.motDutyFor n (t.mt n).est.natAbs
         else (t.mt n).st = .ramp ∧ (t.mt n).goods = (if s.motGood n dt = true ∧ s.motAtHandover n = true then (s.mt n).goods + 1 else 0)) ∧
        t.regs = s.regs ∧ t.sched = s.sched ∧ (∀ k, k ≠ n → t.mt k = s.mt k)) ∧
  (∀ (s : State) (n dt : Nat) (pos : Bool), s.motHere n = true → n < s.mot.length → (s.mt n).st = .run ∨ (s.mt n).st = .brake → (s.mt n).revPend = false →
      Gives (.zeroCrossing n dt pos) s fun t =>
        ((s.mt n).st = .run → (t.mt n).st = .run ∧ (t.mt n).sectT = dt ∧
          (t.mt n).est = (if s.motGood n dt then (if pos then (s.motRpm n dt : Int) else -(s.motRpm n dt : Int)) else (s.mt n).est) ∧
          (t.mt n).badSect = (if s.motGood n dt then 0 else (s.mt n).badSect) ∧ (t.mt n).badSeen = !s.motGood n dt) ∧
        ((s.mt n).st = .brake → (t.mt n).est = (if pos then (s.motRpm n dt : Int) else -(s.motRpm n dt : Int)) ∧
          (t.mt n).st = (if s.motRpm n dt < s.motRev n then .off else .brake)) ∧
        t = { s with mot := t.mot } ∧ (∀ k, k ≠ n → t.mt k = s.mt k)) ∧
  (∀ (s : State) (n dt : Nat) (pos : Bool), (s.motHere n = false ∨ (s.mt n).st = .off ∨ (s.mt n).st = .fault ∨ (s.mt n).st = .align) →
      Gives (.zeroCrossing n dt pos) s (· = s)) ∧
  (∀ (s : State) (n code dt : Nat), s.motHere n = true → n < s.mot.length → s.motSense n ≠ 0 → code % 8 = 0 ∨ code % 8 = 7 → (s.mt n).running = true →
      Gives (.hallEdge n code dt) s fun t =>
        (t.mt n).st = .fault ∧ (t.mt n).cause = 2 ∧ (t.mt n).hall = code % 8 ∧ t.evFlag 235 = true ∧ (s.motOwned n 1 = true → bitOf (t.reg shtB) 0 = false) ∧
        (∀ k, k ≠ n → t.mt k = s.mt k)) ∧
  (∀ (s : State) (n code dt : Nat), s.motHere n = true → n < s.mot.length → s.motByHall n = true → code % 8 ≠ 0 → code % 8 ≠ 7 → (s.mt n).st = .run →
      (s.mt n).revPend = false → Gives (.hallEdge n code dt) s fun t =>
        (t.mt n).hall = code % 8 ∧ (t.mt n).sector = hallSector (code % 8) ∧ (t.mt n).est.natAbs = s.motRpm n dt ∧ (t.mt n).sectT = dt ∧
        (t.mt n).st = .run ∧ (t.mt n).badSect = 0 ∧ (∀ k, k ≠ n → t.mt k = s.mt k) ∧ t.sched = s.sched) ∧
  (∀ (s : State) (n code dt : Nat), s.motHere n = true → s.motSense n ≠ 0 →
      ((s.mt n).running = false ∨ (code % 8 ≠ 0 ∧ code % 8 ≠ 7 ∧ ((s.motByHall n = false) ∨ ((s.mt n).st ≠ .run ∧ (s.mt n).st ≠ .brake)))) →
      Gives (.hallEdge n code dt) s fun t => t = s.modMot n (fun m => { m with hall := code % 8 })) ∧
  (∀ (s : State) (n code dt : Nat), (s.motHere n = false ∨ s.motSense n = 0) → Gives (.hallEdge n code dt) s (· = s))

/-- A running channel: speed, loss of the rotor, current limit, phase lock, commutation and the floating-phase sample (R305, R306, R308 to R310, R313 to
R315). At speed the flag sets and MOT_AT_SPEED is raised. A rotor lost takes the channel to MOT_LISTEN with its gates off and raises MOT_LOST; its
station has lost SOS. At the end of listening the channel runs again and MOT_CAUGHT is raised, or faults with cause 1. A trip of the comparator is
counted and ends the on time of its period. Phase lock sets and clears with its event. A commutation advances the sector in the direction of turning,
the ramp's speed staying within HANDOVER. A sample closes its period: one too short for the window is skipped, the eighth in a row turns to
prediction, a forced one shortens the duty; otherwise the level is taken; a running channel's speed loop turns. Elsewhere nothing changes. -/
def Obligations.MotorRunning : Prop :=
  (∀ (s : State) (n : Nat), s.motHere n = true → Gives (.motAtSpeed n) s fun t =>
      if (s.mt n).st = .run ∧ (s.mt n).atSpeed = false ∧ 1000 * ((s.mt n).est - s.motTarget n).natAbs ≤ (s.motTarget n).natAbs then
        Occurs [229] (s.modMot n (fun m => { m with atSpeed := true })) t
      else t = s) ∧
  (∀ (s : State) (n : Nat), s.motHere n = true → n < s.mot.length → (s.mt n).st = .run → 18 ≤ (s.mt n).badSect → (s.mt n).badSeen = true →
      (∀ k, s.motStation n = some k → k < 6) → Gives (.rotorLost n) s fun t =>
        (t.mt n).st = .listen ∧ (t.mt n).lostL = true ∧ (t.mt n).duty = 0 ∧ t.evFlag 233 = true ∧ (∀ k, k ≠ n → t.mt k = s.mt k) ∧
        (∀ k, s.motStation n = some k → k < s.stn.length → (t.st k).held = true ∧ (t.st k).img = none ∧ t.evFlag (160 + 4 * k) = true)) ∧
  (∀ (s : State) (n : Nat), (s.motHere n = false ∨ (s.mt n).st ≠ .run ∨ (s.mt n).badSect < 18 ∨ (s.mt n).badSeen = false) → Gives (.rotorLost n) s (· = s)) ∧
  (∀ (s : State) (n : Nat), s.motHere n = true → n < s.mot.length → (s.mt n).st = .listen → (s.mt n).lostL = true → Gives (.listenEnd n) s fun t =>
      (if s.motCaught n then (t.mt n).st = .run ∧ (t.mt n).sector = (s.mt n).sector ∧ (t.mt n).duty = s.motDutyFor n (s.mt n).est.natAbs ∧ t.evFlag 234 = true
       else (t.mt n).st = .fault ∧ (t.mt n).cause = 1 ∧ t.evFlag 235 = true ∧ (s.motOwned n 1 = true → bitOf (t.reg shtB) 0 = false)) ∧
      (∀ k, k ≠ n → t.mt k = s.mt k)) ∧
  (∀ (s : State) (n : Nat), (s.motHere n = false ∨ (s.mt n).st ≠ .listen ∨ (s.mt n).lostL = false) → Gives (.listenEnd n) s (· = s)) ∧
  (∀ (s : State) (n d : Nat), s.motHere n = true → Gives (.ilimTrip n d) s fun t =>
      t = if ((s.mt n).st = .align ∨ (s.mt n).st = .ramp ∨ (s.mt n).st = .run ∨ (s.mt n).st = .brake) ∧ (s.mt n).tripped = false ∧
          s.f (motA n 0x10) 8 8 ≤ d ∧ d < (s.mt n).duty
        then (s.modMot n (fun m => { m with tripped := true, tripAt := d, ilimAct := true })).bump (motA n 0x38) 0 16 1 else s) ∧
  (∀ (s : State) (n : Nat), s.motHere n = true → Gives (.phaseLockChange n) s fun t =>
      if (s.mt n).plocked = false ∧ 256 ≤ (s.mt n).lockRun then Occurs [230] (s.modMot n (fun m => { m with plocked := true })) t
      else if (s.mt n).plocked = true ∧ 16 ≤ (s.mt n).unlockRun then Occurs [230] (s.modMot n (fun m => { m with plocked := false })) t
      else t = s) ∧
  (∀ (s : State) (n : Nat), s.motHere n = true → n < s.mot.length → ((s.mt n).st = .ramp ∨ (((s.mt n).st = .run ∨ (s.mt n).st = .brake) ∧ s.motByHall n = false)) →
      Gives (.commutation n) s fun t =>
        (t.mt n).sector = (if (s.mt n).dirPos then ((s.mt n).sector + 1) % 6 else ((s.mt n).sector + 5) % 6) ∧ (t.mt n).st = (s.mt n).st ∧
        (t.mt n).badSect = (s.mt n).badSect + 1 ∧ ((s.mt n).st = .ramp → (t.mt n).cmd.natAbs ≤ 1000 * s.motHandover n ∧ t = { s with mot := t.mot }) ∧
        ((s.mt n).predicting = true → (t.mt n).predicting = !((s.mt n).crossed && decide (1 ≤ (s.mt n).sampled))) ∧ (∀ k, k ≠ n → t.mt k = s.mt k)) ∧
  (∀ (s : State) (n : Nat), (s.motHere n = false ∨ ((s.mt n).st ≠ .ramp ∧ (s.motByHall n = true ∨ ((s.mt n).st ≠ .run ∧ (s.mt n).st ≠ .brake)))) →
      Gives (.commutation n) s (· = s)) ∧
  (∀ (s : State) (n : Nat) (l : Bool), s.motHere n = true → n < s.mot.length → (s.mt n).st = .align → Gives (.floatingPhaseSample n l) s fun t =>
        (t.mt n).tripped = false ∧ (t.mt n).ilimAct = (s.mt n).tripped ∧ (t.mt n).duty = (s.mt n).duty ∧ (t.mt n).st = .align ∧ t = { s with mot := t.mot } ∧
        (∀ k, k ≠ n → t.mt k = s.mt k)) ∧
  (∀ (s : State) (n : Nat) (l : Bool), s.motHere n = true → n < s.mot.length → ((s.mt n).st = .ramp ∨ (s.mt n).st = .run ∨ (s.mt n).st = .brake) →
      (s.mt n).force = true → (s.mt n).predicting = true → Gives (.floatingPhaseSample n l) s fun t =>
        (t.mt n).duty = Nat.min ((s.mt n).dutyWas.getD (s.mt n).duty) (s.motPeriod n - 2 * s.f (motA n 0) 16 8 - s.f (motA n 4) 16 8) ∧ (t.mt n).bemf = l ∧
        (t.mt n).force = false ∧ (t.mt n).tripped = false ∧ (t.mt n).ilimAct = (s.mt n).tripped ∧ t = { s with mot := t.mot } ∧ (∀ k, k ≠ n → t.mt k = s.mt k)) ∧
  (∀ (s : State) (n : Nat) (l : Bool), s.motHere n = true → n < s.mot.length → ((s.mt n).st = .ramp ∨ (s.mt n).st = .run ∨ (s.mt n).st = .brake) →
      ((s.mt n).force = false ∨ (s.mt n).predicting = false) → Gives (.floatingPhaseSample n l) s fun t =>
        (t.mt n).tripped = false ∧ (t.mt n).ilimAct = (s.mt n).tripped ∧ (t.mt n).st = (s.mt n).st ∧ (∀ k, k ≠ n → t.mt k = s.mt k) ∧
        (if s.motPeriod n < (s.mt n).dutyWas.getD (s.mt n).duty + 2 * s.f (motA n 0) 16 8 + s.f (motA n 4) 16 8
         then (t.mt n).skips = (s.mt n).skips + 1 ∧ (t.mt n).bemf = (s.mt n).bemf ∧
           ((s.mt n).predicting = false → 8 ≤ (s.mt n).skips + 1 → (t.mt n).predicting = true ∧ t.evFlag 232 = true)
         else (t.mt n).bemf = l ∧ (t.mt n).skips = 0 ∧ ((s.mt n).st = .ramp → t.regs = s.regs)) ∧
        ((s.mt n).st = .ramp → (t.mt n).duty = (s.mt n).dutyWas.getD (s.mt n).duty) ∧
        ((s.mt n).st ≠ .ramp → (t.mt n).duty ≤ s.motPeriod n ∧ (s.bus.ov2 = true → (t.mt n).duty = 0) ∧
          (t.mt n).cmd = ramp (s.mt n).cmd (1000 * s.motGoal n) (s.f (motA n 0xC) 16 16) (s.motPeriod n))) ∧
  (∀ (s : State) (n : Nat) (l : Bool), (s.motHere n = false ∨ ((s.mt n).running = false ∨ (s.mt n).st = .listen)) →
      Gives (.floatingPhaseSample n l) s (· = s)) ∧
  (∀ (s : State) (n d : Nat), s.motHere n = false → Gives (.motAtSpeed n) s (· = s) ∧ Gives (.ilimTrip n d) s (· = s) ∧ Gives (.phaseLockChange n) s (· = s))

/-- The bus: a VBUS sample, the chopper's faults and the acknowledgements (R316 to R318). A sample is recorded and the largest one kept; the chopper turns
on above V_CHOP and off below it by the hysteresis, V_OV1 sets and clears alike; above V_OV2 the overvoltage state holds, every running motor faults
with cause 4, ESTOP_N is asserted and every sheet in flight is waste. A chopper that disagrees with its feedback, or has been on for 2 ms without
effect, has failed and is off, and BUS_CHOP_FAIL is raised. OV_ACK ends the state once VBUS has fallen far enough and no sheet is in flight, and is
refused with BAD_STATE before; CHOP_ACK returns the chopper to service. Elsewhere, and on a die without motion, nothing changes. -/
def Obligations.BusAndChopper : Prop :=
  (∀ (s : State) (c : Nat), s.inReset = false → s.id.motion = true → c < 4096 → Gives (.vbusSample c) s fun t =>
      t.bus.vbus = c ∧ (s.f (motB + 4) 0 12 < c → t.bus.ov2 = true ∧ t.boot.estopOff = false ∧ (s.bus.ov2 = false → t.evFlag 239 = true) ∧
        (s.sched.toks.length = 16 → ∀ k, k < 16 → (s.tok k).busy = true → natBit (t.tok k).flags fWaste = true ∧ (t.tok k).dark = true)) ∧
      (c ≤ s.f (motB + 4) 0 12 → t.bus.ov2 = s.bus.ov2 ∧ t.boot = s.boot ∧ t.sched = s.sched ∧ t.mot = s.mot) ∧
      (t.bus.chopOn = true ↔ s.chopper = true ∧ (s.f motB 0 12 < c ∨ (s.bus.chopOn = true ∧ s.f motB 0 12 ≤ c + s.vHys))) ∧
      (t.bus.ov1 = true ↔ s.vOv1 < c ∨ (s.bus.ov1 = true ∧ s.vOv1 ≤ c + s.vHys)) ∧ (t.bus.ov1 ≠ s.bus.ov1 → t.evFlag 238 = true) ∧
      t.reg (motB + 0x10) = (if (s.reg (motB + 0x10)).toNat < c then wd c else s.reg (motB + 0x10)) ∧ t.jobs = s.jobs ∧ t.codec = s.codec) ∧
  (∀ (s : State) (c n : Nat), s.inReset = false → s.id.motion = true → c < 4096 → s.f (motB + 4) 0 12 < c → n < s.id.motors → n < s.mot.length →
      (s.mt n).running = true → Gives (.vbusSample c) s fun t => (t.mt n).st = .fault ∧ (t.mt n).cause = 4 ∧ t.evFlag 235 = true) ∧
  (∀ s : State, s.inReset = false → s.chopper = true → s.pinFor 15 0 = true → Gives .chopperFeedbackFault s
      (Occurs [237] { s with bus := { s.bus with chopOn := false, chopFail := true } })) ∧
  (∀ s : State, (s.chopper = false ∨ s.pinFor 15 0 = false) → Gives .chopperFeedbackFault s (· = s)) ∧
  (∀ s : State, s.inReset = false → s.bus.chopOn = true → s.bus.onV < s.bus.vbus → Gives .chopperOnTimeout s
      (Occurs [237] { s with bus := { s.bus with chopOn := false, chopFail := true } })) ∧
  (∀ s : State, (s.bus.chopOn = false ∨ s.bus.vbus ≤ s.bus.onV) → Gives .chopperOnTimeout s (· = s)) ∧
  (∀ s : State, s.inReset = false → s.id.motion = true → s.bus.vbus + s.vHys < s.vOv1 → s.flying = false → Gives .ovAck s fun t =>
      t.bus = { s.bus with ov2 := false } ∧ t.out = s.out ++ [.reg sOk (motB + 0xC)] ∧ t.mot = s.mot ∧ t.sched = s.sched ∧
      (s.boot.estopOff = true → t.boot.estopOff = true) ∧ (s.bus.ov2 = false → t.boot = s.boot)) ∧
  (∀ s : State, s.inReset = false → s.id.motion = true → (s.vOv1 ≤ s.bus.vbus + s.vHys ∨ s.flying = true) → Gives .ovAck s fun t =>
      t = s.emit (.reg sBadState (motB + 0xC))) ∧
  (∀ s : State, s.inReset = false → s.id.motion = true → Gives .chopAck s fun t =>
      t = ({ s with bus := { s.bus with chopFail := false } } : State).emit (.reg sOk (motB + 0xC))) ∧
  (∀ (s : State) (c : Nat), s.id.motion = false → Gives (.vbusSample c) s (· = s) ∧ Gives .ovAck s (· = s) ∧ Gives .chopAck s (· = s))

/-- Device time is stepped, steered and held (R347 to R350). A step moves device time by the written ns, never below 0, raises TIM_STEPPED and is answered
OK; with sheets in flight it is refused with BAD_STATE. A write of TIM_FREQ where software steers FREQ takes the value within 500 ppm, and the addend
follows; under a servo it is refused with CONFLICT. A sample is recorded as the offset and counted; one beyond the step limit with no sheet in flight
steps device time by it, any other gives FREQ the value of the PI law, and the fourth outside LOCK_NS in a row unlocks. Sixteen samples within LOCK_NS
lock the servo, and missing samples hold FREQ, with the event. Where software steers FREQ the servo does nothing. -/
def Obligations.TimeSteering : Prop :=
  (∀ (s : State) (v : Word), s.inReset = false → s.flying = false → Gives (.timStepWrite v) s fun t =>
      (t.time.now : Int) = (if (s.time.now : Int) + sext 32 v.toNat * 2 ^ 48 < 0 then 0 else (s.time.now : Int) + sext 32 v.toNat * 2 ^ 48) ∧
      t.time.freq = s.time.freq ∧ t.time.addend = s.time.addend ∧ t.evFlag 33 = true ∧ t.out = s.out ++ [.reg sOk (timB + 0x18)] ∧ t.sched = s.sched) ∧
  (∀ (s : State) (v : Word), s.inReset = false → s.flying = true → Gives (.timStepWrite v) s fun t => t = s.emit (.reg sBadState (timB + 0x18))) ∧
  (∀ (s : State) (v : Word), s.inReset = false → s.timSrc = 0 → Gives (.timFreqWrite v) s fun t =>
      t.time = { s.time with freq := clampI (-32768000) 32768000 (sext 32 v.toNat), addend := addendOf (clampI (-32768000) 32768000 (sext 32 v.toNat)) s.clks.eRef } ∧
      t.reg (timB + 0x14) = wd (wrapN 32 (clampI (-32768000) 32768000 (sext 32 v.toNat))) ∧ (∀ a, a ≠ timB + 0x14 → t.reg a = s.reg a) ∧
      t = { s with time := t.time, regs := t.regs, out := s.out ++ [.reg sOk (timB + 0x14)] }) ∧
  (∀ (s : State) (v : Word), s.inReset = false → s.timSrc ≠ 0 → Gives (.timFreqWrite v) s fun t =>
      t.time = s.time ∧ t.out = s.out ++ [.reg sConflict (timB + 0x14)] ∧ t.sched = s.sched) ∧
  (∀ (s : State) (o : Int), s.inReset = false → s.timSrc ≠ 0 → Gives (.servoSample o) s fun t =>
      t.time.offset = satI 32 o ∧ t.time.hold = false ∧ t.out = s.out ∧
      t.time.inRun = (if o.natAbs ≤ s.f (timB + 0x1C) 16 8 then s.time.inRun + 1 else 0) ∧
      t.time.outRun = (if o.natAbs ≤ s.f (timB + 0x1C) 16 8 then 0 else s.time.outRun + 1) ∧
      (t.time.locked = true ↔ s.time.locked = true ∧ t.time.outRun < 4) ∧ (s.time.locked = true → t.time.locked = false → t.evFlag 32 = true) ∧
      (if s.f (timB + 0x1C) 24 8 * 100000 < o.natAbs ∧ s.flying = false then
        (t.time.now : Int) = (if (s.time.now : Int) + (-o) * 2 ^ 48 < 0 then 0 else (s.time.now : Int) + (-o) * 2 ^ 48) ∧ t.time.sumO = 0 ∧
        t.time.freq = s.time.freq ∧ t.evFlag 33 = true
       else t.time.now = s.time.now ∧ t.time.sumO = s.time.sumO + o ∧
        t.time.freq = clampI (-32768000) 32768000 (s.servoFreq (s.time.sumO + o) o) ∧ t.time.addend = addendOf t.time.freq s.clks.eRef)) ∧
  (∀ s : State, s.inReset = false → Gives .servoLocked s fun t =>
      if s.time.locked = false ∧ 16 ≤ s.time.inRun then Occurs [32] { s with time := { s.time with locked := true } } t else t = s) ∧
  (∀ s : State, s.inReset = false → Gives .servoHoldover s fun t =>
      if s.timSrc ≠ 0 ∧ s.time.hold = false then
        Occurs [32] { s with time := { s.time with hold := true, locked := false, inRun := 0, outRun := 0 } } t
      else t = s) ∧
  (∀ (s : State) (o : Int), s.timSrc = 0 → Gives (.servoSample o) s (· = s))

/-- A wide compare, a fast compare and a capture (R351 to R354, R366). A claimed, armed wide compare whose target is reached fires: a pulse on its claimed
output, CMP_WIDE, and CMP_LATE where it fires late; it is then disarmed, or armed for its target plus its period. A fast compare fires likewise; MODE
1 ends it, MODE 2 advances its target by the interval, MODE 3 by the scan period, or takes its next scan reference first where the period has changed.
A capture holds the device time of its edge and counts it, once for two edges of one clock. One that is not claimed, not on or not due changes
nothing. -/
def Obligations.ComparesAndCaptures : Prop :=
  (∀ (s : State) (w : Nat), s.inReset = false → w < 32 → s.wcmp.length = 32 → (s.claim 9 w).isSome = true → s.flag (wcA w 0) 0 = true → s.wcTarget w ≤ s.ns →
      Gives (.wideCompareFire w) s fun t =>
        t.evFlag 34 = true ∧ ((s.wc w).lateNext = true → t.evFlag 37 = true) ∧ (t.wc w).late = (s.wc w).lateNext ∧
        t.out = s.out ++ (if s.pinFor 0xB w then [.pulse true w (s.f (wcA w 0) 8 8)] else []) ∧ (∀ k, k ≠ w → t.wc k = s.wc k) ∧ t.time = s.time ∧
        (if s.flag (wcA w 0) 1 then t.reg (wcA w 4) = wd ((s.wcTarget w + (s.reg (wcA w 0xC)).toNat) / secNs) ∧
            t.reg (wcA w 8) = wd ((s.wcTarget w + (s.reg (wcA w 0xC)).toNat) % secNs)
         else bitOf (t.reg (wcA w 0)) 0 = false ∧ t.reg (wcA w 4) = s.reg (wcA w 4) ∧ t.reg (wcA w 8) = s.reg (wcA w 8))) ∧
  (∀ (s : State) (w : Nat), (s.claim 9 w = none ∨ s.flag (wcA w 0) 0 = false ∨ s.ns < s.wcTarget w) → Gives (.wideCompareFire w) s (· = s)) ∧
  (∀ (s : State) (c inc : Nat), s.inReset = false → c < 8 → s.fcmp.length = 8 → (s.claim 10 c).isSome = true →
      (s.f (fcA c 0) 0 2 = 1 ∨ s.f (fcA c 0) 0 2 = 2 ∨ (s.f (fcA c 0) 0 2 = 3 ∧ s.fcStale c = false ∧ (s.fc c).per ≠ 0)) → s.fcDue c = true →
      inc = (if s.f (fcA c 0) 0 2 = 2 then (s.reg (fcA c 8)).toNat * 65536 + s.f (fcA c 0xC) 0 16 else 5 * (s.fc c).per * 4096) →
      Gives (.fastCompareFire c) s fun t =>
        (s.flag (fcA c 0) 16 = true → t.evFlag 35 = true) ∧ ((s.fc c).lateNext = true → t.evFlag 37 = true) ∧ (t.fc c).late = (s.fc c).lateNext ∧
        t.out = s.out ++ (if s.pinFor 0xA c then [.pulse false c (s.f (fcA c 0) 8 8)] else []) ∧ (∀ k, k ≠ c → t.fc k = s.fc k) ∧ t.time = s.time ∧
        (if s.f (fcA c 0) 0 2 = 1 then fld (t.reg (fcA c 0)) 0 2 = 0 ∧ t.reg (fcA c 4) = s.reg (fcA c 4)
         else t.reg (fcA c 4) = wd (((s.reg (fcA c 4)).toNat * 65536 + (s.fc c).frac + inc) / 65536) ∧
            (t.fc c).frac = ((s.reg (fcA c 4)).toNat * 65536 + (s.fc c).frac + inc) % 65536)) ∧
  (∀ (s : State) (c : Nat), s.inReset = false → (s.claim 10 c).isSome = true → s.fcStale c = true → Gives (.fastCompareFire c) s fun t =>
      t = s.fcScan c ∧ t.out = s.out ∧ (∀ a, a ≠ fcA c 4 → t.reg a = s.reg a)) ∧
  (∀ (s : State) (c : Nat), (s.claim 10 c = none ∨ s.f (fcA c 0) 0 2 = 0 ∨
      (s.fcStale c = false ∧ (s.fcDue c = false ∨ (s.f (fcA c 0) 0 2 = 3 ∧ (s.fc c).per = 0)))) → Gives (.fastCompareFire c) s (· = s)) ∧
  (∀ (s : State) (k : Nat), s.inReset = false → k < 64 → s.pinFor 0xC k = true → s.flag (capA k 0) 0 = true → s.time.capAt.getD k none ≠ some s.clk →
      Gives (.capture k) s fun t =>
      t.reg (capA k 4) = wd (s.ns / secNs) ∧ t.reg (capA k 8) = wd (s.ns % secNs) ∧ fld (t.reg (capA k 0)) 16 16 = s.ns / secNs / 2 ^ 32 % 65536 ∧
      fld (t.reg (capA k 0xC)) 0 16 = satN 16 (fld (s.reg (capA k 0xC)) 0 16 + 1) ∧ t.evFlag 36 = true ∧ t.time.now = s.time.now ∧ t.out = s.out) ∧
  (∀ (s : State) (k : Nat), (s.pinFor 0xC k = false ∨ s.flag (capA k 0) 0 = false ∨ s.time.capAt.getD k none = some s.clk) →
      Gives (.capture k) s (· = s))

/-- What a PTP port sends and takes in, and the transparent clock (R355 to R358). A master port sends Sync with its egress stamp and Announce, and answers
Delay_Req with its arrival stamp, in its domain; a slave port sends Delay_Req with the correction of its asymmetry and keeps its stamp. A Sync gives
t2 and its correction, with t1 at once or from the Follow_Up of its sequence number, and then the offset of the servo port; a Delay_Resp to the
request in progress gives the mean path delay. An Announce takes a slave port out of LISTENING or FAULTY; its timeout takes it to FAULTY, and holds
the servo. The transparent clock forwards to exactly the other ports with TC_EN, without what stayed more than 1 ms. A port of another role or state,
or a message not its own, changes nothing. -/
def Obligations.PrecisionTime : Prop :=
  (∀ (s : State) (p : Nat), s.inReset = false → s.ptpOn p = true → s.ptpRole p = 1 →
      Gives (.ptpSyncSend p) s (· = (s.modPtp p (fun x => { x with seqSync := ((s.pt p).seqSync + 1) % 65536 })).emit
        (.ptp p 0 (s.pt p).seqSync (s.rawStamp + s.ptpEg p) 0 (s.f (ptpA p 0) 5 8) (s.ptpVia p))) ∧
      Gives (.ptpAnnounceSend p) s (· = (s.modPtp p (fun x => { x with seqAnn := ((s.pt p).seqAnn + 1) % 65536 })).emit
        (.ptp p 0xB (s.pt p).seqAnn 0 0 (s.f (ptpA p 0) 5 8) (s.ptpVia p)))) ∧
  (∀ (s : State) (p : Nat) (m : PtpIn), s.inReset = false → s.ptpHears p m = true → s.ptpRole p = 1 → Gives (.ptpDelayReq p m) s fun t =>
      t = s.emit (.ptp p 9 m.seq (m.raw - s.ptpIn p) m.corr (s.f (ptpA p 0) 5 8) (s.ptpVia p))) ∧
  (∀ (s : State) (p : Nat), s.inReset = false → s.ptpOn p = true → s.ptpRole p = 2 → (s.pt p).st ≠ 6 → Gives (.ptpDelayReqSend p) s fun t =>
      t = (s.modPtp p (fun x => { x with seqReq := ((s.pt p).seqReq + 1) % 65536, t3 := some ((s.pt p).seqReq, s.rawStamp + s.ptpEg p) })).emit
            (.ptp p 1 (s.pt p).seqReq 0 (-s.ptpAsym p) (s.f (ptpA p 0) 5 8) (s.ptpVia p))) ∧
  (∀ (s : State) (p : Nat) (m : PtpIn), s.inReset = false → p < s.ptp.length → s.ptpHears p m = true → s.ptpRole p = 2 → (s.pt p).st ≠ 6 →
      Gives (.ptpSync p m) s fun t =>
        (t.pt p).t2 = some (m.raw - s.ptpIn p) ∧ (t.pt p).corr = m.corr + s.ptpAsym p ∧ (∀ k, k ≠ p → t.pt k = s.pt k) ∧
        (if m.twoStep then (t.pt p).t1 = none ∧ (t.pt p).waitFu = some m.seq ∧ (t.pt p).st = (s.pt p).st ∧ t = { s with ptp := t.ptp }
         else (t.pt p).t1 = some m.stamp ∧ (t.pt p).waitFu = none ∧ (t.pt p).st = (if (s.pt p).st = 4 then 5 else (s.pt p).st) ∧
          (if s.timSrc = 1 ∧ s.f timB 2 3 = p then
             t.time.offset = satI 32 (roundDiv ((m.raw - s.ptpIn p) - m.stamp - (m.corr + s.ptpAsym p)) 65536 - (s.pt p).mpd)
           else t = { s with ptp := t.ptp }))) ∧
  (∀ (s : State) (p : Nat) (m : PtpIn), s.inReset = false → p < s.ptp.length → s.ptpHears p m = true → s.ptpRole p = 2 → (s.pt p).waitFu = some m.seq →
      Gives (.ptpFollowUp p m) s fun t =>
        (t.pt p).t1 = some m.stamp ∧ (t.pt p).corr = (s.pt p).corr + m.corr ∧ (t.pt p).waitFu = none ∧ (∀ k, k ≠ p → t.pt k = s.pt k) ∧
        (∀ t2, (s.pt p).t2 = some t2 → s.timSrc = 1 → s.f timB 2 3 = p →
          t.time.offset = satI 32 (roundDiv (t2 - m.stamp - ((s.pt p).corr + m.corr)) 65536 - (s.pt p).mpd)) ∧
        (s.timSrc ≠ 1 ∨ s.f timB 2 3 ≠ p ∨ (s.pt p).t2 = none → t = { s with ptp := t.ptp })) ∧
  (∀ (s : State) (p : Nat) (m : PtpIn) (t1 t2 t3 : Int), s.inReset = false → s.ptpHears p m = true → s.ptpRole p = 2 → (s.pt p).t1 = some t1 →
      (s.pt p).t2 = some t2 → (s.pt p).t3 = some (m.seq, t3) → Gives (.ptpDelayResp p m) s fun t =>
        t = (s.modPtp p (fun x => { x with mpd := roundDiv ((t2 - t1) + (m.stamp - t3) - (s.pt p).corr - m.corr) 131072, t3 := none })).setReg (ptpA p 0x10) (wd (wrapN 32 (roundDiv ((t2 - t1) + (m.stamp - t3) - (s.pt p).corr - m.corr) 131072)))) ∧
  (∀ (s : State) (p : Nat) (m : PtpIn), s.inReset = false → s.ptpHears p m = true → s.ptpRole p = 2 → ((s.pt p).st = 1 ∨ (s.pt p).st = 6) →
      Gives (.ptpAnnounce p m) s fun t =>
        Occurs (if (s.pt p).st = 6 then [38] else []) (s.modPtp p (fun x => { x with st := 4 })) t) ∧
  (∀ (s : State) (p : Nat), s.inReset = false → s.id.ptpPort p = true → p < s.ptp.length → s.ptpRole p = 2 → (s.pt p).st ≠ 6 →
      Gives (.ptpAnnounceTimeout p) s fun t =>
      (t.pt p).st = 6 ∧ t.evFlag 38 = true ∧ (∀ k, k ≠ p → t.pt k = s.pt k) ∧ (s.timSrc = 1 → s.f timB 2 3 = p → t.time.hold = true) ∧
      (s.timSrc ≠ 1 ∨ s.f timB 2 3 ≠ p → t.time = s.time) ∧ t.out = s.out) ∧
  (∀ (s : State) (p type : Nat) (m : PtpIn), s.inReset = false → 2 ≤ p → p < 6 → s.ptpOn p = true → s.flag (ptpA p 0) 2 = true →
      Gives (.transparentClockForward p type m) s fun t =>
        t = { s with out := s.out ++ (((upTo 6).filter (fun q => decide (2 ≤ q) && q != p && s.ptpOn q && s.flag (ptpA q 0) 2)).filter (fun q => decide ((if type < 4 then (s.rawStamp + s.ptpEg q) - (m.raw - s.ptpIn p) else 0) ≤ 65536000000))).map (fun q => Out.ptp q type m.seq m.stamp (m.corr + (if type < 4 then (s.rawStamp + s.ptpEg q) - (m.raw - s.ptpIn p) else 0)) m.dom m.via) }) ∧
  (∀ (s : State) (p : Nat), ((s.ptpOn p = false ∨ s.ptpRole p ≠ 1) → Gives (.ptpSyncSend p) s (· = s) ∧ Gives (.ptpAnnounceSend p) s (· = s)) ∧
      ((s.ptpOn p = false ∨ s.ptpRole p ≠ 2 ∨ (s.pt p).st = 6) → Gives (.ptpDelayReqSend p) s (· = s)) ∧
      ((s.id.ptpPort p = false ∨ s.ptpRole p ≠ 2 ∨ (s.pt p).st = 6) → Gives (.ptpAnnounceTimeout p) s (· = s))) ∧
  (∀ (s : State) (p : Nat) (m : PtpIn), ((s.ptpHears p m = false ∨ s.ptpRole p ≠ 1) → Gives (.ptpDelayReq p m) s (· = s)) ∧
      ((s.ptpHears p m = false ∨ s.ptpRole p ≠ 2) → Gives (.ptpSync p m) s (· = s) ∧ Gives (.ptpFollowUp p m) s (· = s) ∧
        Gives (.ptpDelayResp p m) s (· = s) ∧ Gives (.ptpAnnounce p m) s (· = s)) ∧
      ((s.pt p).st = 6 → Gives (.ptpSync p m) s (· = s)) ∧ ((s.pt p).waitFu ≠ some m.seq → Gives (.ptpFollowUp p m) s (· = s)) ∧
      ((∀ t3, (s.pt p).t3 ≠ some (m.seq, t3)) ∨ (s.pt p).t1 = none ∨ (s.pt p).t2 = none → Gives (.ptpDelayResp p m) s (· = s)) ∧
      ((s.pt p).st ≠ 1 → (s.pt p).st ≠ 6 → Gives (.ptpAnnounce p m) s (· = s))) ∧
  (∀ (s : State) (p type : Nat) (m : PtpIn), (p < 2 ∨ 6 ≤ p ∨ s.ptpOn p = false ∨ s.flag (ptpA p 0) 2 = false) →
      Gives (.transparentClockForward p type m) s (· = s))

/-- Frames of the printing line: what a package announces, and how a frame is dropped, forwarded or taken in (R360). An announcement goes out of every
line-link port that is up with the next sequence number, and changes nothing else. A frame of another version is counted, with LINE_DROP the first
time; one already seen is counted as a duplicate; any other is remembered. One for this package is taken in; any other goes on out of every other port
that is up, one hop fewer, while it has hops left, and is taken in too if it is for all. A frame of another EtherType, or at a port that is down,
changes nothing. -/
def Obligations.LineFrames : Prop :=
  (∀ s : State, s.inReset = false → s.id.llPorts ≠ 0 → Gives .announceSend s fun t =>
      t.line.seqOut = (s.line.seqOut + 1) % 2 ^ 32 ∧ t.line.members = s.line.members ∧ t.line.orders = s.line.orders ∧ t = { s with line := t.line, out := t.out } ∧
      t.out = s.out ++ ((upTo 4).filter s.llUp).map (fun p => Out.line p { etype := s.f (lnkB + 4) 0 16, ver := 1, src := s.pkgId, dst := 0xFF, seq := s.line.seqOut, hops := 8, body := .announce s.role s.pkgId s.id.glbId s.stepFloor s.inFlight.length s.line.state (s.role == 2 && !s.line.admitted) })) ∧
  (∀ s : State, s.id.llPorts = 0 → Gives .announceSend s (· = s)) ∧
  (∀ (s : State) (p : Nat) (f : OuvFrame), s.inReset = false → s.llUp p = true → f.etype = s.f (lnkB + 4) 0 16 → f.ver ≠ 1 → Gives (.ouvothFrame p f) s
      (Occurs (if s.f (lnkB + 0x24) 0 16 = 0 then [45] else []) (s.bump (lnkB + 0x24) 0 16 1))) ∧
  (∀ (s : State) (p : Nat) (f : OuvFrame), s.inReset = false → s.llUp p = true → f.etype = s.f (lnkB + 4) 0 16 → f.ver = 1 →
      s.line.seen.contains (f.src, f.seq) = true → Gives (.ouvothFrame p f) s (· = s.bump (lnkB + 0x24) 16 16 1)) ∧
  (∀ (s : State) (p : Nat) (f : OuvFrame) (go : List Out), s.inReset = false → s.llUp p = true → f.etype = s.f (lnkB + 4) 0 16 → f.ver = 1 →
      s.line.seen.contains (f.src, f.seq) = false →
      go = (if f.hops = 0 then [] else ((upTo 4).filter (fun q => q != p && s.llUp q)).map (fun q => Out.line q { f with hops := f.hops - 1 })) →
      Gives (.ouvothFrame p f) s fun t =>
        if f.dst = s.pkgId ∧ s.role ≠ 0 then t = (s.sawFrame f.src f.seq).takeIn f.src f.body
        else if f.dst = 0xFF ∧ s.role ≠ 0 then t = State.takeIn { s.sawFrame f.src f.seq with out := s.out ++ go } f.src f.body
        else t = { s with line := { s.line with seen := lastN 1024 (s.line.seen ++ [(f.src, f.seq)]) }, out := s.out ++ go }) ∧
  (∀ (s : State) (p : Nat) (f : OuvFrame), (s.llUp p = false ∨ f.etype ≠ s.f (lnkB + 4) 0 16) → Gives (.ouvothFrame p f) s (· = s))

/-- Joining the line, and its ports (R359, R363 to R365). At the manager an announcement of an unknown ID from 1 to 64 makes a member that has not joined,
one of a member is noted, and a join request of a member that is in the line, or an ID out of range, is refused with the event; a request to join may
drain the line. At a worker an announcement of the manager is noted. An accepted admission puts a worker in the line at the manager's ANCHOR, a
refused one only raises the event. At a schedule boundary a member that has asked to join is joined and told, and the event is raised. A port that
goes up or down is recorded, with its event, each drop counted; a manager without a port loses its workers. Elsewhere nothing changes. -/
def Obligations.LineMembers : Prop :=
  (∀ (s : State) (src role : Nat) (glb : Word) (floor busy st : Nat) (jr : Bool), s.inReset = false → st ≤ 3 → s.role = 1 → src ≠ 0 → src ≤ 64 →
      s.line.members.find? (fun m => m.id == src) = none → Gives (.announce src role glb floor busy st jr) s fun t =>
        t.line.members = s.line.members ++ [{ id := src, glb := glb, recv := s.ns, floor := floor, busy := busy, joined := false, joinReq := jr, lost := false }] ∧
        t.line.state = (if s.line.state = 0 ∧ s.flag lnkB 15 = true ∧ t.line.members.any (fun m => m.joinReq && !m.joined) = true then 1 else s.line.state) ∧
        t = { s with line := t.line }) ∧
  (∀ (s : State) (src role : Nat) (glb : Word) (floor busy st : Nat) (jr : Bool) (m : Member), s.inReset = false → st ≤ 3 → s.role = 1 →
      s.line.members.find? (fun m => m.id == src) = some m → (m.joined = false ∨ m.lost = true ∨ jr = false) → Gives (.announce src role glb floor busy st jr) s fun t =>
        t.line.members = s.line.members.map (fun m => if m.id == src then { m with glb := glb, recv := s.ns, floor := floor, busy := busy, joinReq := jr } else m) ∧
        t.line.state = (if s.line.state = 0 ∧ s.flag lnkB 15 = true ∧ t.line.members.any (fun m => m.joinReq && !m.joined) = true then 1 else s.line.state) ∧
        t = { s with line := t.line }) ∧
  (∀ (s : State) (src role : Nat) (glb : Word) (floor busy st : Nat) (jr : Bool), s.inReset = false → st ≤ 3 → s.role = 1 →
      (match s.line.members.find? (fun m => m.id == src) with | some m => m.joined = true ∧ m.lost = false ∧ jr = true | none => src = 0 ∨ 64 < src) →
      Gives (.announce src role glb floor busy st jr) s fun t =>
        t.line.members = s.line.members ∧ t.evFlag 41 = true ∧
        t.out = s.out ++ ((upTo 4).filter s.llUp).map (fun p => Out.line p { etype := s.f (lnkB + 4) 0 16, ver := 1, src := s.pkgId, dst := src, seq := s.line.seqOut, hops := 8, body := .admission false s.time.anchor })) ∧
  (∀ (s : State) (src role : Nat) (glb : Word) (floor busy st : Nat) (jr : Bool), s.inReset = false → s.role ≠ 1 →
      Gives (.announce src role glb floor busy st jr) s fun t => t = if st ≤ 3 ∧ s.role = 2 ∧ role = 1 then { s with line := { s.line with mgrAt := s.ns } } else s) ∧
  (∀ (s : State) (anchor : Nat), s.inReset = false → s.role = 2 → Gives (.admitMsg true anchor) s fun t =>
      t.line = { s.line with admitted := true, state := 0, mgrAt := s.ns } ∧ t.time.anchor = anchor ∧ t.time.anchorSet = true ∧ t.evFlag 41 = true ∧
      t.sched = s.sched ∧ t.out = s.out) ∧
  (∀ (s : State) (anchor : Nat), s.inReset = false → s.role = 2 → Gives (.admitMsg false anchor) s (Occurs [41] s)) ∧
  (∀ (s : State) (a : Bool) (anchor : Nat), s.role ≠ 2 → Gives (.admitMsg a anchor) s (· = s)) ∧
  (∀ (s : State) (id : Nat) (m : Member), s.inReset = false → s.role = 1 → s.lineQuiet = true →
      s.line.members.find? (fun m => m.id == id && m.joinReq && !(m.joined && !m.lost)) = some m → Gives (.joinAdmit id) s fun t =>
        t.line.members = s.line.members.map (fun m => if m.id == id then { m with joined := true, lost := false, joinReq := false } else m) ∧ t.evFlag 41 = true ∧
        (s.line.state = 1 → t.line.state = if s.flag lnkB 15 = true ∧ t.line.members.any (fun m => m.joinReq && !m.joined) = true then 1 else 0) ∧
        t.out = s.out ++ ((upTo 4).filter s.llUp).map (fun p => Out.line p { etype := s.f (lnkB + 4) 0 16, ver := 1, src := s.pkgId, dst := id, seq := s.line.seqOut, hops := 8, body := .admission true s.time.anchor }) ∧
        t.sched = s.sched) ∧
  (∀ (s : State) (id : Nat), (s.role ≠ 1 ∨ s.lineQuiet = false ∨ s.line.members.find? (fun m => m.id == id && m.joinReq && !(m.joined && !m.lost)) = none) →
      Gives (.joinAdmit id) s (· = s)) ∧
  (∀ (s u : State) (p : Nat) (up : Bool), s.inReset = false → p < s.id.llPorts → (s.line.ports.getD p (false, 0)).1 ≠ up →
      u = { s with line := { s.line with ports := updAt s.line.ports p (fun x => (up, if up then x.2 else satN 8 (x.2 + 1))) } } →
      Gives (.lineLinkPortChange p up) s fun t =>
        if s.role = 1 ∧ (upTo 4).any u.llUp = false then t.workers = [] ∧ (s.workers ≠ [] → t.line.state = 2) ∧ t.line.ports = u.line.ports ∧ t.evFlag 40 = true
        else Occurs [40] u t) ∧
  (∀ (s : State) (p : Nat) (up : Bool), (s.id.llPorts ≤ p ∨ (s.line.ports.getD p (false, 0)).1 = up) → Gives (.lineLinkPortChange p up) s (· = s))

/-- Orders of the line: issue, receipt, evaluation, GO and the pick (R361, R362, R366). The manager issues an order with the next ID while the line runs
and the pick instant is at least 5 ms ahead, and sends it to every other package of the route. A package of the route holds an order it receives,
unanswered and without GO; any other ignores it. An evaluation with no reason against it answers 0 and, down the route, admits the sheet; with a
reason it answers that reason, SHT_SKIP_WHY holds it and the event is raised. Acknowledgements in time and refusals are kept with the order issued; a
refusal 9 or 10 lengthens the run of skips. GO is sent once every package of the route has acknowledged, counts as a pick, and is kept if it comes in
time. The picking package admits the sheet where it holds GO, and otherwise leaves the pitch empty with reason 11 and drops the order. Elsewhere
nothing changes. -/
def Obligations.LineOrders : Prop :=
  (∀ (s : State) (job page step pickT : Nat) (route : List (Nat × Nat × Nat)), s.inReset = false → s.role = 1 → s.line.state = 0 → route ≠ [] →
      s.ns + 5000000 ≤ pickT → Gives (.orderIssue job page step pickT route) s fun t =>
        t.line.issued = lastN 256 (s.line.issued ++ [{ order := mkOrder s.line.idNext job page step pickT route, acks := [], refused := false, go := false }]) ∧
        t.line.idNext = (s.line.idNext + 1) % 2 ^ 32 ∧
        (if (s.myEntry (mkOrder s.line.idNext job page step pickT route)).isSome then
          t.held? s.line.idNext = some { order := mkOrder s.line.idNext job page step pickT route, recv := s.ns, answer := none, go := false }
         else t.line.orders = s.line.orders) ∧
        (∀ e ∈ route, e.1 ≠ 0 → ∀ p, p < 4 → s.llUp p = true → ∃ q, Out.line p { etype := s.f (lnkB + 4) 0 16, ver := 1, src := s.pkgId, dst := e.1, seq := q, hops := 8, body := .order s.line.idNext job page step pickT route } ∈ t.out) ∧
        t = { s with regs := t.regs, line := t.line, out := t.out }) ∧
  (∀ (s : State) (job page step pickT : Nat) (route : List (Nat × Nat × Nat)), (s.role ≠ 1 ∨ s.line.state ≠ 0 ∨ route = [] ∨ pickT < s.ns + 5000000) →
      Gives (.orderIssue job page step pickT route) s (· = s)) ∧
  (∀ (s : State) (id job page step pickT : Nat) (route : List (Nat × Nat × Nat)), s.inReset = false → s.role ≠ 0 →
      (s.myEntry (mkOrder id job page step pickT route)).isSome = true → Gives (.order id job page step pickT route) s fun t =>
        t.held? id = some { order := mkOrder id job page step pickT route, recv := s.ns, answer := none, go := false } ∧
        (∀ k, k ≠ id → t.held? k = s.held? k) ∧ t.regs = (s.bump (lnkB + 0x20) 0 16 1).regs ∧ t = { s with regs := t.regs, line := t.line }) ∧
  (∀ (s : State) (id job page step pickT : Nat) (route : List (Nat × Nat × Nat)),
      s.role = 0 ∨ (s.myEntry (mkOrder id job page step pickT route)).isNone = true → Gives (.order id job page step pickT route) s (· = s)) ∧
  (∀ (s u : State) (id : Nat) (h : HeldOrder) (e : RouteEnt), s.inReset = false → s.held? id = some h → s.myEntry h.order = some e → h.answer = none →
      s.evalStart = u → u.held? id = some h → Gives (.orderEvaluation id) s fun t =>
        (∃ x, t.held? id = some x ∧ x.answer = some (u.orderWhy h e).2 ∧ x.order = h.order) ∧ t.sched.toks = s.sched.toks ∧
        (if (u.orderWhy h e).2 = 0 then
          u.picks h.order = false → t.sched.admitted = some { job := h.order.job, page := h.order.page, pitch := h.order.pickT, lead := u.lead, order := some id }
         else t.reg (shtB + 0x38) = wd (u.orderWhy h e).2 ∧ t.evFlag 151 = true)) ∧
  (∀ (s : State) (id : Nat), (∀ h, s.held? id = some h → h.answer ≠ none ∨ s.myEntry h.order = none) → Gives (.orderEvaluation id) s (· = s)) ∧
  (∀ (s : State) (src id : Nat), s.inReset = false → Gives (.orderAck src id) s fun t =>
      t = if s.role = 1 then s.modIssued id (fun o => if o.acks.contains src || decide (o.order.pickT < s.ns + 600000) then o else { o with acks := o.acks ++ [src] }) else s) ∧
  (∀ (s : State) (src id code : Nat), s.inReset = false → src ≤ 64 → s.role = 1 → s.line.issued.any (fun o => o.order.id == id) = true →
      Gives (.orderRefused src id code) s fun t =>
        t.line.issued = (s.modIssued id (fun o => { o with refused := true })).line.issued ∧
        (if code = 9 ∨ code = 10 then t.sched.skipRun = s.sched.skipRun + 1 ∧ t.sched.okRun = 0 ∧ t.sched.toks = s.sched.toks
         else t = s.modIssued id (fun o => { o with refused := true }))) ∧
  (∀ (s : State) (src id code : Nat), (64 < src ∨ s.role ≠ 1 ∨ s.line.issued.any (fun o => o.order.id == id) = false) → Gives (.orderRefused src id code) s (· = s)) ∧
  (∀ (s : State) (id : Nat) (o : IssuedOrder) (e : RouteEnt) (l : List RouteEnt), s.inReset = false → s.line.issued.find? (fun o => o.order.id == id) = some o →
      s.role = 1 → o.refused = false → o.go = false → o.order.route.all (fun e => o.acks.contains e.id) = true → o.order.route = e :: l →
      Gives (.goDecision id) s fun t =>
        t.line.issued = (s.modIssued id (fun o => { o with go := true })).line.issued ∧ t.sched.skipRun = 0 ∧ t.sched.okRun = satN 8 (s.sched.okRun + 1) ∧
        t.sched.toks = s.sched.toks ∧
        (if e.id = 0 then ∀ h, s.held? id = some h → s.ns + 400000 < h.order.pickT → t.held? id = some { h with go := true }
         else t.line.orders = s.line.orders ∧ ∀ p, p < 4 → s.llUp p = true →
           Out.line p { etype := s.f (lnkB + 4) 0 16, ver := 1, src := s.pkgId, dst := e.id, seq := s.line.seqOut, hops := 8, body := .go id } ∈ t.out)) ∧
  (∀ (s : State) (id : Nat), (∀ o, s.line.issued.find? (fun o => o.order.id == id) = some o →
      s.role ≠ 1 ∨ o.refused = true ∨ o.go = true ∨ o.order.route.all (fun e => o.acks.contains e.id) = false) → Gives (.goDecision id) s (· = s)) ∧
  (∀ (s : State) (id : Nat), s.inReset = false → Gives (.goMsg id) s fun t =>
      t = s.modHeld id (fun h => if h.order.pickT ≤ s.ns + 400000 then h else { h with go := true })) ∧
  (∀ (s : State) (id : Nat) (h : HeldOrder), s.inReset = false → s.held? id = some h → s.picks h.order = true → s.inLine = true → h.go = true →
      h.answer = some 0 → Gives (.linePickCheck id) s fun t =>
        t.sched = { s.sched with admitted := some { job := h.order.job, page := h.order.page, pitch := h.order.pickT, lead := s.lead, order := some id } } ∧
        t.line = s.line ∧ t.regs = s.regs ∧ t.stn = s.stn) ∧
  (∀ (s : State) (id : Nat) (h : HeldOrder), s.inReset = false → s.held? id = some h → s.picks h.order = true → s.inLine = true → (h.go = false ∨ h.answer ≠ some 0) →
      Gives (.linePickCheck id) s fun t =>
        t.held? id = none ∧ t.reg (shtB + 0x38) = wd 11 ∧ (∀ k, k ≠ id → t.held? k = s.held? k) ∧ t.sched = s.sched) ∧
  (∀ (s : State) (id : Nat), (s.inLine = false ∨ ∀ h, s.held? id = some h → s.picks h.order = false) → Gives (.linePickCheck id) s (· = s))

/-- Reports, speed steps and stops on the line (R359, R362, R364, R365). A worker's report goes to the host as an EVENT with the worker's ID. A STEP
message sets a worker's target and the instant of its gap; with sheets in flight or before that instant the ladder drains, otherwise it enters GAP at
the new step and ANCHOR, and the events are raised. A controlled line stop begins or ends at a worker with its message and at the manager by command;
it ends only when no sheet is in flight on the line, and is refused with BAD_STATE before. Elsewhere nothing changes but the answer. -/
def Obligations.LineSteps : Prop :=
  (∀ (s : State) (src id st fl : Nat), s.inReset = false → Gives (.report src id st fl) s fun t =>
      t = if s.role = 1 then { s with host := { s.host with unsent := queueEv s.host.unsent { s.evMsg (if st = 6 then 145 else 140) id (leBytes 4 (fl % 2 ^ 32)) with pkg := src } } } else s) ∧
  (∀ (s : State) (step g a : Nat), s.inReset = false → s.role = 2 → s.line.admitted = true → (s.flying = true ∨ s.ns < g) →
      (s.sched.ladder = .running ∨ s.sched.ladder = .held) → Gives (.lineStep step g a) s
        (Occurs [44, 146] { s with line := { s.line with stepMsg := some (step % 8, g, a) }, sched := { s.sched with target := some (step % 8), ladder := .draining, admitted := none } })) ∧
  (∀ (s : State) (step g a : Nat), s.inReset = false → s.role = 2 → s.line.admitted = true → s.flying = false → g ≤ s.ns →
      (s.sched.ladder = .running ∨ s.sched.ladder = .held) → Gives (.lineStep step g a) s fun t =>
        t.sched = { s.sched with target := some (step % 8), stepCur := step % 8, ladder := .gap, admitted := none } ∧ t.line.stepMsg = some (step % 8, g, a) ∧
        t.time.anchor = a ∧ t.time.anchorSet = true ∧ t.evFlag 44 = true ∧ t.evFlag 146 = true) ∧
  (∀ (s : State) (step g a : Nat), (s.role ≠ 2 ∨ s.line.admitted = false) → Gives (.lineStep step g a) s (· = s)) ∧
  (∀ (s : State) (b : Bool), s.inReset = false → s.role = 2 → s.line.state ≠ 3 → Gives (.lineStopMessage b) s
      (Occurs [43] { s with line := { s.line with state := if b then 2 else 0 } })) ∧
  (∀ (s : State) (b : Bool), (s.role ≠ 2 ∨ s.line.state = 3) → Gives (.lineStopMessage b) s (· = s)) ∧
  (∀ s : State, s.inReset = false → s.id.motion = true → s.role = 1 → s.line.state ≠ 2 → Gives .lineStop s fun t =>
      t.line.state = 2 ∧ t.evFlag 43 = true ∧ t.line.members = s.line.members ∧ t.sched = s.sched ∧
      t.out = s.out ++ ((upTo 4).filter s.llUp).map (fun p => Out.line p { etype := s.f (lnkB + 4) 0 16, ver := 1, src := s.pkgId, dst := 0xFF, seq := s.line.seqOut, hops := 8, body := .stop true }) ++ [.reg sOk lnkB]) ∧
  (∀ s : State, s.inReset = false → s.id.motion = true → (s.role ≠ 1 ∨ s.line.state = 2) → Gives .lineStop s (· = s.emit (.reg sOk lnkB))) ∧
  (∀ s : State, s.inReset = false → s.id.motion = true → s.role = 1 → s.line.state = 2 → s.lineQuiet = true → Gives .lineResume s fun t =>
      t.line.state = 0 ∧ t.line.lostSet = [] ∧ t.evFlag 43 = true ∧ t.line.members = s.line.members ∧ t.sched = s.sched ∧
      t.out = s.out ++ ((upTo 4).filter s.llUp).map (fun p => Out.line p { etype := s.f (lnkB + 4) 0 16, ver := 1, src := s.pkgId, dst := 0xFF, seq := s.line.seqOut, hops := 8, body := .stop false }) ++ [.reg sOk lnkB]) ∧
  (∀ s : State, s.inReset = false → s.id.motion = true → s.role = 1 → s.line.state = 2 → s.lineQuiet = false → Gives .lineResume s (· = s.emit (.reg sBadState lnkB))) ∧
  (∀ s : State, s.inReset = false → s.id.motion = true → (s.role ≠ 1 ∨ s.line.state ≠ 2) → Gives .lineResume s
      (· = s.emit (.reg (if s.flying then sBadState else sOk) lnkB))) ∧
  (∀ s : State, s.id.motion = false → Gives .lineStop s (· = s) ∧ Gives .lineResume s (· = s))

/-- A lost worker, at the manager, at the others and at itself (R364, R366). The manager that misses three announcements of a worker marks it lost, adds
it to the lost set, gives its orders without GO none, begins a controlled line stop and raises the events. A package that hears of it, like the
manager, flags every sheet in flight whose route includes the worker LOST, and a worker that is itself named leaves the line. A worker that misses the
manager is isolated: it is out of the line, every sheet in flight is flagged LOST, and device time holds its frequency. Elsewhere nothing changes. -/
def Obligations.LineLosses : Prop :=
  (∀ (s : State) (id : Nat), s.inReset = false → s.role = 1 → s.workers.any (fun m => m.id == id) = true → Gives (.workerLost id) s fun t =>
      t.line.members = s.line.members.map (fun m => if m.id == id then { m with lost := true, joined := false, busy := 0, joinReq := false } else m) ∧
      t.line.lostSet = s.line.lostSet.filter (· != id) ++ [id] ∧ t.line.state = 2 ∧ t.evFlag 42 = true ∧ (s.line.state ≠ 2 → t.evFlag 43 = true) ∧
      (∀ o ∈ t.line.issued, o.go = false → o.order.route.any (fun e => e.id == id) = true → o.refused = true) ∧ t.jobs = s.jobs) ∧
  (∀ (s : State) (id k o : Nat) (h : HeldOrder), s.inReset = false → s.role = 1 → s.workers.any (fun m => m.id == id) = true → s.sched.toks.length = 16 →
      k < 16 → (s.tok k).busy = true → (s.tok k).order = some o → s.held? o = some h → h.order.route.any (fun e => e.id == id) = true →
      Gives (.workerLost id) s fun t => natBit (t.tok k).flags fLost = true ∧ ((s.tok k).cause = 0 → (t.tok k).cause = 6) ∧ (t.tok k).st = (s.tok k).st) ∧
  (∀ (s : State) (id : Nat), (s.role ≠ 1 ∨ s.workers.any (fun m => m.id == id) = false) → Gives (.workerLost id) s (· = s)) ∧
  (∀ (s : State) (id k o : Nat) (h : HeldOrder), s.inReset = false → s.role = 2 → s.sched.toks.length = 16 → k < 16 → (s.tok k).busy = true →
      (s.tok k).order = some o → s.held? o = some h → h.order.route.any (fun e => e.id == id) = true → Gives (.lost id) s fun t =>
        natBit (t.tok k).flags fLost = true ∧ ((s.tok k).cause = 0 → (t.tok k).cause = 6) ∧ (t.tok k).st = (s.tok k).st) ∧
  (∀ (s : State) (id : Nat), s.inReset = false → s.role = 2 → Gives (.lost id) s fun t =>
      t.evFlag 42 = true ∧ t.line = { s.line with admitted := if id = s.pkgId then false else s.line.admitted } ∧
      (∀ k, (s.tok k).order = none → t.tok k = s.tok k) ∧ t.jobs = s.jobs ∧ t.out = s.out) ∧
  (∀ (s : State) (id : Nat), s.role ≠ 2 → Gives (.lost id) s (· = s)) ∧
  (∀ s : State, s.inReset = false → s.role = 2 → s.line.state ≠ 3 → s.sched.toks.length = 16 → Gives .isolated s fun t =>
      t.line = { s.line with state := 3, admitted := false } ∧
      (∀ k, k < 16 → (s.tok k).busy = true → natBit (t.tok k).flags fLost = true ∧ ((s.tok k).cause = 0 → (t.tok k).cause = 6) ∧ (t.tok k).st = (s.tok k).st) ∧
      t.time.hold = true ∧ t.time.freq = s.time.freq ∧ t.evFlag 42 = true ∧ t.jobs = s.jobs) ∧
  (∀ s : State, (s.role ≠ 2 ∨ s.line.state = 3) → Gives .isolated s (· = s))

/-- A merge buffer's flush writes the bytes it holds and no others; the scrubber walks its unit; patina entries are consumed (R254, R255, R258 to R261,
R264). The flush of the oldest entry of a DRAM channel's buffer or of an SRAM bank's, whatever cells have flipped, takes the entry out, writes every
beat or word it covers whole, leaves every byte outside its granule or word as it was, and does nothing else but log errors. Where no cell has flipped
each byte it holds is written and no other. With no entry of the unit only the cells named flip. A scrub moves on past the word and past retired
regions; at the top address the lap ends with its duration in 2^16 clocks, saturating, kept as the last and as the longest, and for a DRAM channel
MEM_SCRUB_LAP is raised; it changes nothing but errors found. A disabled scrubber does nothing. A write of MEM_PAT_TAIL moves the tail unless an
overwrite has moved it in the same clock. -/
def Obligations.MergeFlushAndScrub : Prop :=
  (∀ (s : State) (ch : Nat) (ups : List Upset) (e : MergeEnt), s.inReset = false → ch < 4 → s.oldest ch = some e → Gives (.mergeFlush ch ups) s fun t =>
      t.mem.merge = s.mem.merge.filter (fun (x : MergeEnt) => !(x.unit == e.unit && x.addr == e.addr)) ∧
      (∀ a, a < e.addr ∨ e.addr + 64 ≤ a → t.mem.dram.byte a = s.mem.dram.byte a) ∧
      (∀ k, k < 16 → (∀ j, j < 4 → (look e.bytes (4 * k + j)).isSome = true) → ∀ j, j < 4 → some (t.mem.dram.byte (e.addr + (4 * k + j))) = look e.bytes (4 * k + j)) ∧
      (ups = [] → s.mem.upset = [] →
        (∀ a, t.mem.dram.byte a = if e.addr ≤ a ∧ a < e.addr + 64 then (look e.bytes (a - e.addr)).getD (s.mem.dram.byte a) else s.mem.dram.byte a) ∧
        t = { s with mem := t.mem }) ∧
      t.mem.sram = s.mem.sram ∧ t.mem.scrubs = s.mem.scrubs ∧ EventsOnly { s with regs := t.regs, mem := t.mem } t) ∧
  (∀ (s : State) (bank : Nat) (ups : List Upset) (e : MergeEnt), s.inReset = false → bank < 17 → s.oldest (16 + bank) = some e →
      Gives (.sramMergeFlush bank ups) s fun t =>
        t.mem.merge = s.mem.merge.filter (fun (x : MergeEnt) => !(x.unit == e.unit && x.addr == e.addr)) ∧
        (∀ a, a < e.addr ∨ e.addr + 8 ≤ a → t.mem.sram.byte a = s.mem.sram.byte a) ∧
        ((∀ j, j < 8 → (look e.bytes j).isSome = true) → ∀ j, j < 8 → some (t.mem.sram.byte (e.addr + j)) = look e.bytes j) ∧
        (ups = [] → s.mem.upset = [] →
          (∀ a, t.mem.sram.byte a = if e.addr ≤ a ∧ a < e.addr + 8 then (look e.bytes (a - e.addr)).getD (s.mem.sram.byte a) else s.mem.sram.byte a) ∧
          t = { s with mem := t.mem }) ∧
        t.mem.dram = s.mem.dram ∧ t.mem.scrubs = s.mem.scrubs ∧ EventsOnly { s with regs := t.regs, mem := t.mem } t) ∧
  (∀ (s : State) (ch : Nat) (ups : List Upset), s.inReset = false → ch < 4 → s.oldest ch = none → Gives (.mergeFlush ch ups) s (· = s.applyUps ups)) ∧
  (∀ (s : State) (bank : Nat) (ups : List Upset), s.inReset = false → bank < 17 → s.oldest (16 + bank) = none →
      Gives (.sramMergeFlush bank ups) s (· = s.applyUps ups)) ∧
  (∀ (s : State) (n : Nat) (ups : List Upset), s.inReset = true → Gives (.mergeFlush n ups) s (· = s) ∧ Gives (.sramMergeFlush n ups) s (· = s)) ∧
  (∀ (s : State) (unit i p np : Nat) (x : Scrub) (rs : List Nat) (ups : List Upset), s.inReset = false → scrubIx unit = some i → s.mem.scrubs[i]? = some x →
      (if unit < 4 then s.flag (memB + 8) 0 = true ∧ s.ways.contains unit = true else s.flag (memB + 8) 9 = true) →
      rs = (if unit < 4 then s.mem.rmap.getD unit [] else []) → p = scrubSkip rs (rs.length + 1) x.pos → np = scrubSkip rs (rs.length + 1) (p + 1) →
      Gives (.scrubRead unit ups) s fun t =>
        t.mem.scrubs = updAt s.mem.scrubs i (fun (y : Scrub) => if np < s.scrubTop unit then { y with pos := np } else
          { pos := 0, t0 := s.clk, last := satN 32 ((s.clk - y.t0) / 65536), max := Nat.max y.max (satN 32 ((s.clk - y.t0) / 65536)) }) ∧
        t.mem.merge = s.mem.merge ∧ EventsOnly { s with regs := t.regs, mem := t.mem } t ∧ (unit < 4 → s.scrubTop unit ≤ np → t.evFlag 213 = true) ∧
        (ups = [] → s.mem.upset = [] →
          Occurs (if unit < 4 ∧ s.scrubTop unit ≤ np then [213] else []) { s with mem := { s.mem with scrubs := t.mem.scrubs } } t)) ∧
  (∀ (s : State) (unit : Nat) (ups : List Upset), (s.inReset = true ∨ scrubIx unit = none ∨
      (if unit < 4 then s.flag (memB + 8) 0 = false ∨ s.ways.contains unit = false else s.flag (memB + 8) 9 = false)) → Gives (.scrubRead unit ups) s (· = s)) ∧
  (∀ (s : State) (v : Word), s.inReset = false → Gives (.patinaTailWrite v) s fun t =>
      t = (if s.mem.overAt = some s.clk then s else { s with mem := { s.mem with tail := v.toNat % 64, tailWas := some (s.clk, s.mem.tail) } } : State).emit (.reg sOk (memB + 0x1C))) ∧
  (∀ (s : State) (v : Word), s.inReset = true → Gives (.patinaTailWrite v) s (· = s))

/-- Retirement of regions and channels: accepted or refused, by register or by RETIRE, and what the end of the copy removes (R262 to R265, R284, R383). A
request to retire a region or a channel is carried out alike by MEM_RETIRE and by RETIRE, and answered with its code. A region in use of a channel in
service whose table has room becomes pending, clamped to the last region, its copy starts on a DMA channel, the store has 64 KiB less, and a host die
tells the other die; a repeat has no effect; an absent channel or a full table is refused with NO_RESOURCE. A channel whose loss would leave none in
use is refused with CONFLICT, one whose pages would not fit with NO_RESOURCE; else every RESIDENT band of its copies is IN_PAGE_STORE again, and the
channel becomes pending where there is a page store and leaves at once where there is none. The end of a region's copy, once there is room, puts the
region into the table and raises MEM_REGION; that of a channel retires it, with MEM_CH and the capacities cut. The retry lets halted copies run again. -/
def Obligations.Retirement : Prop :=
  (∀ (s : State) (ch region : Nat), ch < 4 → region < 2 ^ 18 →
      (s.inReset = false → Gives (.retireRegion none ch region) s (· = State.answer (memB + 0x10) (s.retire (retWord ch region false)))) ∧
      (s.inReset = true → Gives (.retireRegion none ch region) s (· = s)) ∧
      ∀ (h : ReqHdr) (u : State), s.takes false h 0x0F 4 → u = s.countMsg h.link → Gives (.retireRegion (some h) ch region) s
        (Answered h 0x0F (if (u.retire (retWord ch region false)).2 = sOk then okMsg [] else nakMsg (u.retire (retWord ch region false)).2)
          (u.retire (retWord ch region false)).1)) ∧
  (∀ (s : State) (ch : Nat), ch < 4 →
      (s.inReset = false → Gives (.retireChannel none ch) s (· = State.answer (memB + 0x10) (s.retire (retWord ch 0 true)))) ∧
      (s.inReset = true → Gives (.retireChannel none ch) s (· = s)) ∧
      ∀ (h : ReqHdr) (u : State), s.takes false h 0x0F 4 → u = s.countMsg h.link → Gives (.retireChannel (some h) ch) s
        (Answered h 0x0F (if (u.retire (retWord ch 0 true)).2 = sOk then okMsg [] else nakMsg (u.retire (retWord ch 0 true)).2)
          (u.retire (retWord ch 0 true)).1)) ∧
  (∀ (s : State) (ch region rg : Nat) (rs : List Nat) (gone : Bool), ch < 4 → region < 2 ^ 18 → rg = Nat.min region (s.chBytes / 65536 - 1) →
      rs = s.mem.rmap.getD ch [] →
      gone = (natBit s.mem.retired ch || natBit s.mem.failed ch || s.mem.pend.any (fun (r : Retire) => r.ch == ch && r.whole) || rs.contains rg ||
        s.mem.pend.any (fun (r : Retire) => r.ch == ch && r.region == rg)) →
      s.retire (retWord ch region false) =
        if s.id.drams ≤ ch then ({ s with mem := { s.mem with refused := true } }, sNoRes)
        else if gone = true then ({ s with mem := { s.mem with refused := false } }, sOk)
        else if 256 ≤ rs.length + s.mem.pend.countP (fun (r : Retire) => r.ch == ch) then ({ s with mem := { s.mem with refused := true } }, sNoRes)
        else ({ s.seqTake 32 (.copy ch rg false) 65536 with mem := { s.mem with refused := false, pend := s.mem.pend ++ [{ ch := ch, region := rg, whole := false, halted := false }] }, pageCap := if s.id.hostSide then s.pageCap - 65536 else s.pageCap, bandCap := if s.id.hostSide then s.bandCap else s.bandCap - 65536, brg := if s.id.isH then { s.brg with outQ := s.brg.outQ ++ [{ vc := 0, body := .retire ch rg false }] } else s.brg }, sOk)) ∧
  (∀ (s : State) (ch : Nat) (aft : List Nat) (gone : Bool), ch < 4 →
      aft = interleave (sumN (((upTo 4).filter (fun c => natBit s.chUp c && !(c == ch || s.mem.pend.any (fun (r : Retire) => r.ch == c && r.whole)))).map (fun c => 2 ^ c))) →
      gone = (natBit s.mem.retired ch || natBit s.mem.failed ch || s.mem.pend.any (fun (r : Retire) => r.ch == ch && r.whole)) →
      (s.id.drams ≤ ch → s.retire (retWord ch 0 true) = ({ s with mem := { s.mem with refused := true } }, sNoRes)) ∧
      (ch < s.id.drams → gone = true → s.retire (retWord ch 0 true) = ({ s with mem := { s.mem with refused := false } }, sOk)) ∧
      (ch < s.id.drams → gone = false → aft = [] → s.retire (retWord ch 0 true) = ({ s with mem := { s.mem with refused := true } }, sConflict)) ∧
      (ch < s.id.drams → gone = false → aft ≠ [] → s.id.hostSide = true → s.pageCap * aft.length / Nat.max 1 s.ways.length < s.pageUsed →
        s.retire (retWord ch 0 true) = ({ s with mem := { s.mem with refused := true } }, sNoRes)) ∧
      (ch < s.id.drams → gone = false → aft ≠ [] → s.id.hostSide = true → s.pageUsed ≤ s.pageCap * aft.length / Nat.max 1 s.ways.length →
        ∃ t, s.retire (retWord ch 0 true) = (t, sOk) ∧
          t.mem = { s.mem with refused := false, pend := s.mem.pend ++ [{ ch := ch, region := 0, whole := true, halted := false }] } ∧
          t.dma = (s.seqTake 32 (.copy ch 0 true) s.chBytes).dma ∧ t.regs = (s.seqTake 32 (.copy ch 0 true) s.chBytes).regs ∧
          (s.id.isH = true → t.jobs = s.jobs ∧ t.brg = { s.brg with outQ := s.brg.outQ ++ [{ vc := 0, body := .retire ch 0 true }] }) ∧
          (s.ways.contains ch = false → t.jobs = s.jobs) ∧
          (s.id.engineSide = true → s.ways.contains ch = true → ∀ r b, s.band? r = some b → b.res = .resident → ∃ b', t.band? r = some b' ∧ b'.res = .inPageStore) ∧
          t = { s with mem := t.mem, dma := t.dma, regs := t.regs, free := t.free, jobs := t.jobs, brg := t.brg }) ∧
      (ch < s.id.drams → gone = false → aft ≠ [] → s.id.hostSide = false → ∃ t, s.retire (retWord ch 0 true) = (t, sOk) ∧
          t.mem.retired = Nat.lor s.mem.retired (2 ^ ch) ∧ t.mem.refused = false ∧ (∀ r ∈ t.mem.pend, r.ch ≠ ch) ∧ t.mem.rmap = s.mem.rmap ∧
          t.evFlag 212 = true ∧ t.dma = s.dma ∧
          (s.id.isE = true → ∃ q, t.brg.outQ = q ++ [{ vc := 0, body := .retire ch 0 true }]) ∧
          (s.id.engineSide = true → s.ways.contains ch = true → ∀ r b, s.band? r = some b → b.res = .resident → ∃ b', t.band? r = some b' ∧ b'.res = .inPageStore))) ∧
  (∀ (s : State) (ch region : Nat) (r : Retire), s.inReset = false → r = { ch := ch, region := region, whole := false, halted := false } → r ∈ s.mem.pend →
      s.retWait = false → Gives (.retirementCopyDone false ch region) s
        (Occurs [211] { s.seqDone (.copy ch region false) with mem := { s.mem with rmap := updAt s.mem.rmap ch (fun l => l ++ [region]), pend := s.mem.pend.filter (fun (x : Retire) => x != r) } })) ∧
  (∀ (s u : State) (ch region : Nat), s.inReset = false → (∃ r ∈ s.mem.pend, r.ch = ch ∧ r.whole = true ∧ r.halted = false) →
      u = { s with mem := { s.mem with retired := Nat.lor s.mem.retired (2 ^ ch) } } → Gives (.retirementCopyDone true ch region) s fun t =>
        t.mem.retired = Nat.lor s.mem.retired (2 ^ ch) ∧ t.mem.pend = s.mem.pend.filter (fun (r : Retire) => r.ch != ch) ∧ t.mem.rmap = s.mem.rmap ∧
        (∀ e ∈ t.mem.merge, 4 ≤ e.unit) ∧ t.evFlag 212 = true ∧ t.pageCap = s.pageCap * u.ways.length / Nat.max 1 s.ways.length ∧
        t.bandCap = s.bandCap * u.ways.length / Nat.max 1 s.ways.length ∧ t.jobs = s.jobs ∧ t.sched = s.sched ∧ t.mem.sram = s.mem.sram ∧
        ∃ r ∈ s.mem.pend, r.ch = ch ∧ r.whole = true ∧ r.halted = false ∧ t.dma = (s.seqDone (.copy ch r.region true)).dma) ∧
  (∀ (s : State) (w : Bool) (ch region : Nat), (s.inReset = true ∨ (w = false ∧ s.retWait = true) ∨
      ∀ r ∈ s.mem.pend, ¬(r.ch = ch ∧ r.whole = w ∧ (w = true ∨ r.region = region) ∧ r.halted = false)) →
      Gives (.retirementCopyDone w ch region) s (· = s)) ∧
  (∀ s : State, s.inReset = false → Gives .retirementCopyRetry s fun t =>
      t.mem = { s.mem with pend := s.mem.pend.map (fun (r : Retire) => { r with halted := false }) } ∧
      (∀ k, k < 32 ∨ 48 ≤ k → t.dm k = s.dm k) ∧ t = { s with mem := t.mem, dma := t.dma, regs := t.regs, free := t.free } ∧
      (∀ r n, s.mem.pend.filter (·.halted) = [r] → s.seqFree 32 = some n → n < s.dma.length →
        (t.dm n).st = .run ∧ (t.dm n).use = some (.copy r.ch r.region r.whole)) ∧ ((∀ r ∈ s.mem.pend, r.halted = false) → t = s)) ∧
  (∀ s : State, s.inReset = true → Gives .retirementCopyRetry s (· = s))

/-- START, TAIL_RECHECK, RESTART, SKIP, ABORT and STOP of a DMA channel (R265, R270, R271, R273, R275, R281, R283 to R285). Each action acts on a channel
of any number, an action on a software channel being answered OK, and on no other channel. START begins the chain at HEAD with the audit counts at one
fetched and none retired, and has no effect in RUN. TAIL_RECHECK goes on where the link word now names a descriptor and waits where it is still the
end. RESTART runs a halted channel on, reading its descriptor again where that is what failed. SKIP writes the descriptor back with DONE and FAILED
and goes on at its link. ABORT halts a channel in RUN or TAIL_WAIT with code 5. STOP takes one in TAIL_WAIT or HALTED to IDLE. A descriptor out of
reach, unreadable or not valid halts the channel with its code; a halt raises its event, and a band or a retirement copy the channel moved goes back. -/
def Obligations.DmaActions : Prop :=
  (∀ (s : State) (n : Nat), s.inReset = false → n < 64 →
      Gives (.dmaStart n) s (· = if n < 48 then s.dmaStart n else (s.dmaStart n).emit (.reg sOk (dmaA n 0))) ∧
      Gives (.dmaTailRecheck n) s (· = if n < 48 then s.dmaRecheck n else (s.dmaRecheck n).emit (.reg sOk (dmaA n 0))) ∧
      Gives (.dmaRestart n) s (· = if n < 48 then s.dmaRestart n else (s.dmaRestart n).emit (.reg sOk (dmaA n 0))) ∧
      Gives (.dmaSkip n) s (· = if n < 48 then s.dmaSkip n else (s.dmaSkip n).emit (.reg sOk (dmaA n 0))) ∧
      Gives (.dmaAbort n) s (· = if n < 48 then s.dmaAbort n else (s.dmaAbort n).emit (.reg sOk (dmaA n 0))) ∧
      Gives (.dmaStop n) s (· = if n < 48 then s.dmaStop n else (s.dmaStop n).emit (.reg sOk (dmaA n 0)))) ∧
  (∀ (s : State) (n : Nat), (s.inReset = true ∨ 64 ≤ n) → Gives (.dmaStart n) s (· = s) ∧ Gives (.dmaTailRecheck n) s (· = s) ∧
      Gives (.dmaRestart n) s (· = s) ∧ Gives (.dmaSkip n) s (· = s) ∧ Gives (.dmaAbort n) s (· = s) ∧ Gives (.dmaStop n) s (· = s)) ∧
  (∀ (s : State) (n k : Nat), (s.dm n).use = none → k ≠ n → (s.dmaStart n).dm k = s.dm k ∧ (s.dmaRecheck n).dm k = s.dm k ∧
      (s.dmaRestart n).dm k = s.dm k ∧ (s.dmaSkip n).dm k = s.dm k ∧ (s.dmaAbort n).dm k = s.dm k ∧ (s.dmaStop n).dm k = s.dm k) ∧
  (∀ (s : State) (n err a : Nat) (w : Bool), n < s.dma.length → ((s.dm n).use = none →
        Occurs [if n < 48 then 113 else 112] (s.modDma n (fun (c : DmaCh) => { c with st := .halted, err := err, fail := a, dirW := w })) (s.dmaHalt n err a w)) ∧
      (∀ ch rg wh, (s.dm n).use = some (.copy ch rg wh) → ((s.dmaHalt n err a w).dm n).st = .halted ∧
        (s.dmaHalt n err a w).mem = { s.mem with pend := s.mem.pend.map (fun (r : Retire) => if r.ch = ch ∧ r.region = rg ∧ r.whole = wh then { r with halted := true } else r) }) ∧
      (∀ r b, ((s.dm n).use = some (.send r) ∨ (s.dm n).use = some (.land r)) → s.band? r = some b → b.res = .inTransit →
        ∃ b', (s.dmaHalt n err a w).band? r = some b' ∧ b'.res = .inPageStore ∧ b'.moved = 0)) ∧
  (∀ (s u : State) (n a : Nat) (c : Bool), u = s.modDma n (fun (x : DmaCh) => { x with st := .run, cur := a, desc := none, remain := 0, err := 0, tail := false, use := none, fetched := if c then (x.fetched + 1) % 65536 else x.fetched }) →
      s.dmaFetch n a c =
        if u.descOk n a = false then u.dmaHalt n 3 a false
        else if u.dramBytes < a + 32 then u.dmaHalt n 1 a false
        else if (u.memRead false a 24).2.2 ≠ none then (u.memRead false a 24).1.dmaHalt n 4 a false
        else if (mkDesc (u.memRead false a 24).2.1).valid = false then (u.memRead false a 24).1.dmaHalt n 3 a false
        else (u.memRead false a 24).1.modDma n (fun (x : DmaCh) =>
          { x with desc := some (mkDesc (u.memRead false a 24).2.1), remain := (mkDesc (u.memRead false a 24).2.1).count })) ∧
  (∀ (s : State) (n : Nat), (s.dm n).st = .run → s.dmaStart n = s ∧ s.dmaRecheck n = s ∧ s.dmaRestart n = s ∧ s.dmaSkip n = s ∧ s.dmaStop n = s) ∧
  (∀ (s : State) (n : Nat), (s.dm n).st ≠ .run →
      s.dmaStart n = (s.modDma n (fun (x : DmaCh) => { x with fetched := 0, retired := 0, err := 0 })).dmaFetch n ((s.reg (dmaA n 4)).toNat * 32) true) ∧
  (∀ (s : State) (n next : Nat) (m : State × List Byte × Option Nat), (s.dm n).st = .tailWait → m = s.memRead false ((s.dm n).cur + 24) 8 →
      next = ofLe m.2.1 / 32 % 2 ^ 43 * 32 →
      s.dmaRecheck n =
        if m.2.2 ≠ none then (m.1.modDma n (fun (x : DmaCh) => { x with fetched := (x.fetched + 1) % 65536 })).dmaHalt n 4 (s.dm n).cur false
        else if natBit (ofLe m.2.1) 0 = true then m.1
        else if m.1.descOk n next = false then
          (m.1.modDma n (fun (x : DmaCh) => { x with fetched := (x.fetched + 1) % 65536 })).dmaHalt n 3 (m.1.dm n).cur false
        else m.1.dmaFetch n next true) ∧
  (∀ (s : State) (n : Nat), (s.dm n).st = .halted → s.dmaRestart n = if (s.dm n).err = 3 ∨ (s.dm n).err = 4 ∨ (s.dm n).desc = none then
      s.dmaFetch n (s.dm n).cur false else s.modDma n (fun (x : DmaCh) => { x with st := .run, err := 0 })) ∧
  (∀ (s : State) (n : Nat), (s.dm n).st = .halted → (s.descOk n (s.dm n).cur = false ∨ s.dramBytes < (s.dm n).cur + 32) →
      s.dmaSkip n = (s.modDma n (fun (x : DmaCh) => { x with st := .run, err := 0, remain := 0, tail := true })).dmaHalt n 1 (s.dm n).cur true) ∧
  (∀ (s : State) (n w next : Nat), n < 64 → n < s.dma.length → (s.dm n).st = .halted → s.descOk n (s.dm n).cur = true → (s.dm n).cur + 32 ≤ s.dramBytes →
      s.mem.upset = [] → s.mem.merge = [] → (s.dm n).cur % 32 = 0 → (s.dm n).cur < 2 ^ 44 → (s.dm n).use = none →
      w = (match (s.dm n).desc with | some d => d.ctrl % 2 ^ 32 | none => ofLe (s.mem.dram.bytes ((s.dm n).cur + 20) 4)) →
      next = ofLe (s.mem.dram.bytes ((s.dm n).cur + 24) 8) / 32 % 2 ^ 43 * 32 →
      (s.dmaSkip n).rawBytes ((s.dm n).cur + 20) 4 = leBytes 4 (Nat.lor w (2 ^ 31 + 2 ^ 30)) ∧
      (∀ a, a < 2 ^ 44 → (a < (s.dm n).cur + 20 ∨ (s.dm n).cur + 24 ≤ a) → (s.dmaSkip n).rawBytes a 1 = s.rawBytes a 1) ∧
      (natBit w 7 = true → (s.dmaSkip n).evFlag (48 + n) = true) ∧ ((s.dmaSkip n).dm n).retired = ((s.dm n).retired + 1) % 65536 ∧
      (s.dmaSkip n).jobs = s.jobs ∧ (s.dmaSkip n).sched = s.sched ∧
      (if natBit (ofLe (s.mem.dram.bytes ((s.dm n).cur + 24) 8)) 0 = true then
        (s.dmaSkip n).dm n = { s.dm n with st := .tailWait, remain := 0, err := 0, tail := true, retired := ((s.dm n).retired + 1) % 65536 }
       else ((s.dmaSkip n).dm n).fetched = ((s.dm n).fetched + 1) % 65536 ∧
        ((s.dmaSkip n).dm n).cur = if s.descOk n next then next else (s.dm n).cur)) ∧
  (∀ (s : State) (n : Nat), s.dmaAbort n =
      if (s.dm n).st = .run then s.dmaHalt n 5 0 false
      else if (s.dm n).st = .tailWait then (s.modDma n (fun (x : DmaCh) => { x with fetched := (x.fetched + 1) % 65536 })).dmaHalt n 5 0 false else s) ∧
  (∀ (s : State) (n : Nat), s.dmaStop n = if (s.dm n).st = .tailWait ∨ (s.dm n).st = .halted then
      s.modDma n (fun (x : DmaCh) => { x with st := .idle, desc := none, remain := 0, err := 0, tail := false, fetched := x.retired }) else s)

/-- A granted burst moves its bytes in each of the five modes, counts down the descriptor and charges the bucket; its end, and what halts it (R267, R271,
R276-R282). With no ready channel only the named cells flip. A granted channel that has only its link left to read follows it. Any other, in every
mode, reads its runs, then writes its runs, REMAIN falls by the burst's length and a rated bucket by four times that; a read or a write that fails
halts it with its code and address, a bridge port that is down with code 6. In copy mode between DRAM addresses it may use each byte of the
destination reads as the source byte did and every other byte as before; a source or destination outside its space halts it with code 1 and that
address. The last burst writes DONE and goes on at the link. In a split each bit goes to its plane and place, and a merge takes each from there. The
arbiter's level remembers the winner, and no other channel changes. -/
def Obligations.DmaBursts : Prop :=
  (∀ (s : State) (input : List Byte) (ups : List Upset), s.inReset = false → (s.applyUps ups).dmaPick input = none →
      Gives (.dmaBurst input ups) s (· = s.applyUps ups)) ∧
  (∀ (s : State) (input : List Byte) (ups : List Upset), s.inReset = true → Gives (.dmaBurst input ups) s (· = s)) ∧
  (∀ (s : State) (input : List Byte) (n : Nat), s.inReset = false → s.dmaPick input = some n → n < s.dma.length → (s.dm n).tail = true →
      s.mem.upset = [] → natBit (ofLe (s.memRead false ((s.dm n).cur + 24) 8).2.1) 0 = true → Gives (.dmaBurst input []) s
        (Occurs (if 48 ≤ n then [114] else []) (s.modDma n (fun (c : DmaCh) => { c with st := .tailWait, remain := 0, retired := (c.retired + 1) % 65536 })))) ∧
  (∀ (s u z : State) (input : List Byte) (ups : List Upset) (n l done : Nat) (d : Desc) (r : State × List (List Byte) × Option (Nat × Nat)) (pr : Nat × Nat)
      (outs : List (Nat × List Byte)) (w : State × Option Nat), s.inReset = false → u = s.applyUps ups → u.dmaPick input = some n → (u.dm n).desc = some d →
      (u.dm n).tail = false → u.vc1Down = false → l = d.burst (u.dm n).remain → done = d.count - (u.dm n).remain → pr = d.planeRun done l →
      z = { u with rr := updAt u.rr (u.dmaPrio n) (fun _ => n), dma := if u.dmaRate n = 0 then u.dma else updAt u.dma n (fun (c : DmaCh) => { c with bucket := c.bucket - 4 * l }) } →
      r = z.dmaRead n (d.srcRuns done l) input →
      outs = (if d.split then (upTo d.planes).map (fun p => (d.planeAt p pr.1, d.splitPlane done l p (r.2.1.headD []) (r.1.rawBytes (d.planeAt p pr.1) pr.2)))
        else if d.merge then [(d.dst + done, d.mergeBytes done l r.2.1)] else [(d.dst + done, r.2.1.headD [])]) → w = r.1.dmaWrite n 600 outs →
      (∀ e, r.2.2 = some e → Gives (.dmaBurst input ups) s (· = r.1.dmaHalt n e.1 e.2 false)) ∧
      (∀ a, r.2.2 = none → w.2 = some a → Gives (.dmaBurst input ups) s (· = w.1.dmaHalt n 1 a true)) ∧
      (r.2.2 = none → w.2 = none → l < (u.dm n).remain →
        Gives (.dmaBurst input ups) s (· = w.1.modDma n (fun (c : DmaCh) => { c with remain := (u.dm n).remain - l }))) ∧
      (r.2.2 = none → w.2 = none → (u.dm n).remain ≤ l →
        Gives (.dmaBurst input ups) s (· = (w.1.modDma n (fun (c : DmaCh) => { c with remain := 0 })).dmaComplete n d))) ∧
  (∀ (s : State) (input : List Byte) (n l : Nat) (d : Desc), s.inReset = false → s.dmaPick input = some n → n < s.dma.length → (s.dm n).desc = some d →
      (s.dm n).tail = false → d.mode = 0 → l = d.burst (s.dm n).remain → (s.dm n).remain ≤ d.count → s.mem.upset = [] → s.mem.merge = [] →
      d.src + d.count < 2 ^ 44 → d.dst + d.count < 2 ^ 44 → s.busOk n (d.src + (d.count - (s.dm n).remain)) l false = true →
      s.busOk n (d.dst + (d.count - (s.dm n).remain)) l true = true →
      (l < (s.dm n).remain → Gives (.dmaBurst input []) s fun t =>
        t.dm n = { s.dm n with remain := (s.dm n).remain - l, bucket := if s.dmaRate n = 0 then (s.dm n).bucket else (s.dm n).bucket - 4 * l } ∧
        (∀ k, k ≠ n → t.dm k = s.dm k) ∧ t.rr = updAt s.rr (s.dmaPrio n) (fun _ => n) ∧
        (∀ i, i < l → t.rawBytes (d.dst + (d.count - (s.dm n).remain) + i) 1 = s.rawBytes (d.src + (d.count - (s.dm n).remain) + i) 1) ∧
        (∀ a, a < 2 ^ 44 → (a < d.dst + (d.count - (s.dm n).remain) ∨ d.dst + (d.count - (s.dm n).remain) + l ≤ a) → t.rawBytes a 1 = s.rawBytes a 1) ∧
        t = { s with mem := t.mem, dma := t.dma, rr := t.rr } ∧ t.mem.sram = s.mem.sram) ∧
      (0 < (s.dm n).remain → (s.dm n).remain ≤ l → (s.dm n).cur % 32 = 0 → (s.dm n).cur < 2 ^ 44 → n < 64 → natBit (ofLe (s.mem.dram.bytes ((s.dm n).cur + 24) 8)) 0 = true →
        (d.dst + d.count ≤ (s.dm n).cur ∨ (s.dm n).cur + 32 ≤ d.dst) → Gives (.dmaBurst input []) s fun t =>
          t.dm n = { s.dm n with st := .tailWait, remain := 0, tail := true, err := 0, retired := ((s.dm n).retired + 1) % 65536, bucket := if s.dmaRate n = 0 then (s.dm n).bucket else (s.dm n).bucket - 4 * l } ∧
          t.rawBytes ((s.dm n).cur + 20) 4 = leBytes 4 (Nat.lor d.ctrl (2 ^ 31)) ∧
          (∀ i, i < l → t.rawBytes (d.dst + (d.count - (s.dm n).remain) + i) 1 = s.rawBytes (d.src + (d.count - (s.dm n).remain) + i) 1) ∧
          (natBit d.ctrl 7 = true → t.evFlag (48 + n) = true) ∧ (48 ≤ n → t.evFlag 114 = true) ∧ (∀ k, k ≠ n → t.dm k = s.dm k) ∧ t.jobs = s.jobs)) ∧
  (∀ (s : State) (input : List Byte) (n l a : Nat) (w : Bool) (d : Desc), s.inReset = false → s.dmaPick input = some n → n < s.dma.length →
      (s.dm n).desc = some d → (s.dm n).tail = false → (s.dm n).use = none → d.mode = 0 → l = d.burst (s.dm n).remain → 0 < l →
      s.vc1Down = false → s.mem.upset = [] →
      (if w = true then s.busOk n (d.src + (d.count - (s.dm n).remain)) l false = true ∧ a = d.dst + (d.count - (s.dm n).remain) ∧
          (d.src + (d.count - (s.dm n).remain)) / 2 ^ 44 % 16 < 2 ∧ s.busOk n a (Nat.min l (64 - a % 64)) true = false
       else s.busOk n a l false = false ∧ a = d.src + (d.count - (s.dm n).remain)) →
      Gives (.dmaBurst input []) s fun t =>
        (t.dm n).st = .halted ∧ (t.dm n).err = 1 ∧ (t.dm n).fail = a ∧ (t.dm n).dirW = w ∧ t.evFlag (if n < 48 then 113 else 112) = true ∧
        (∀ k, k ≠ n → t.dm k = s.dm k) ∧ t.mem = s.mem ∧ t.out = s.out ∧ t.jobs = s.jobs) ∧
  (∀ (s : State) (input : List Byte) (n a : Nat) (w : Bool) (d : Desc), s.inReset = false → s.dmaPick input = some n → n < s.dma.length →
      (s.dm n).desc = some d → (s.dm n).tail = false → (s.dm n).use = none → s.vc1Down = true → a = (if w then d.dst else d.src) →
      w = !atVc1 d.src → atVc1 a = true → s.busOk n a 1 w = true → Gives (.dmaBurst input []) s fun t =>
        (t.dm n).st = .halted ∧ (t.dm n).err = 6 ∧ (t.dm n).fail = a ∧ (t.dm n).dirW = w ∧ t.evFlag (if n < 48 then 113 else 112) = true ∧
        (∀ k, k ≠ n → t.dm k = s.dm k) ∧ t.mem = s.mem ∧ t.out = s.out ∧ t.jobs = s.jobs) ∧
  (∀ (d : Desc) (done l t p bp : Nat) (src old : List Byte) (planes : List (List Byte)), d.mode ≠ 0 → 8 * done ≤ t → t < 8 * (done + l) →
      p = t % (d.planes * d.bits) / d.bits → bp = t / (d.planes * d.bits) * d.bits + t % d.bits →
      p < d.planes ∧ bitAt (d.splitPlane done l p src old) (bp - 8 * (d.planeRun done l).1) = bitAt src (t - 8 * done) ∧
      bitAt (d.mergeBytes done l planes) (t - 8 * done) = bitAt (planes.getD p []) (bp - 8 * (d.planeRun done l).1))

/-- Presence, IDENT, AUTH and COMMIT of a consumable port, and their failures (R396 to R406). Of a port in use: probes count in a row; two answered make
it occupied and start IDENT, with CSM_CHANGE raised; three unanswered make an idle port empty and drop its pending units, and fail one with a command
in progress. IDENT, AUTH and COMMIT send their frames and poll; the answer to a command in progress is taken alike whichever command brings it. A good
IDENT takes the serial and goes on to AUTH; AUTH sends a fresh nonce, fails with cause 1, 2 or 4, or makes the port READY and genuine with its
counter; COMMIT sends the pending units, fails with cause 1, 2 or 3, or makes the port READY, adds them to COMMITTED and leaves a report due. A bad
frame is read again three times, a frame without reply is sent again three times, then causes 5 and 6; cause 6 empties the port. Other ports stay as
they are, and elsewhere nothing changes. -/
def Obligations.ConsumablePorts : Prop :=
  (∀ (s : State) (p : Nat) (r : Option (List Byte)) (b : Bool), (s.inReset = true ∨ s.csmOn p = false) → Gives (.presenceProbe p b) s (· = s) ∧
      Gives (.presenceChange p) s (· = s) ∧ Gives (.ident p r) s (· = s) ∧ Gives (.auth p r) s (· = s) ∧ Gives (.commit p r) s (· = s) ∧
      Gives (.replyPoll p r) s (· = s) ∧ Gives (.replyTimeout p) s (· = s)) ∧
  (∀ (s : State) (p : Nat) (answered : Bool), s.inReset = false → s.csmOn p = true → Gives (.presenceProbe p answered) s
      (· = (s.emit (.csm p [])).modCsm p (fun (c : CsmPort) => if answered then { c with yes := c.yes + 1, no := 0 } else { c with no := c.no + 1, yes := 0 }))) ∧
  (∀ (s : State) (p : Nat), s.inReset = false → s.csmOn p = true → (s.cp p).present = false → 2 ≤ (s.cp p).yes → Gives (.presenceChange p) s
      (Occurs [241] (s.modCsm p (fun (c : CsmPort) => { c with present := true, st := .ident, cmd := none, cause := 0 })))) ∧
  (∀ (s : State) (p : Nat), s.inReset = false → s.csmOn p = true → p < s.csm.ports.length → (s.cp p).present = true → 3 ≤ (s.cp p).no →
      Gives (.presenceChange p) s fun t =>
        (t.cp p).st = .empty ∧ (t.cp p).present = false ∧ (t.cp p).genuine = false ∧ (t.cp p).pend = 0 ∧ (t.cp p).cmd = none ∧ t.evFlag 241 = true ∧
        (t.cp p).cause = (if (s.cp p).cmd = none then (s.cp p).cause else 6) ∧ ((s.cp p).cmd ≠ none → t.evFlag 244 = true) ∧
        ((s.cp p).pend ≠ 0 → t.evFlag 245 = true) ∧ (∀ e ∈ t.csm.asked, p ∉ e.2.1) ∧
        (∀ k, k ≠ p → t.cp k = s.cp k) ∧ t.jobs = s.jobs ∧ t.free = s.free) ∧
  (∀ (s : State) (p : Nat), (if (s.cp p).present then (s.cp p).no < 3 else (s.cp p).yes < 2) → Gives (.presenceChange p) s (· = s)) ∧
  (∀ (s : State) (p : Nat) (r : Option (List Byte)), ((s.cp p).st ≠ .ident → Gives (.ident p r) s (· = s)) ∧ ((s.cp p).st ≠ .auth → Gives (.auth p r) s (· = s)) ∧
      ((s.cp p).present = false → Gives (.commit p r) s (· = s)) ∧
      ((s.cp p).st ≠ .commit → ((s.cp p).st ≠ .ready ∧ (s.cp p).st ≠ .failed ∨ (s.cp p).serial = none ∨ (s.cp p).due = false ∨ (s.cp p).pend = 0) →
        Gives (.commit p r) s (· = s)) ∧
      ((s.cp p).cmd = none → Gives (.replyPoll p r) s (· = s)) ∧ ((s.cp p).cmd = none → Gives (.replyTimeout p) s (· = s))) ∧
  (∀ (s : State) (p : Nat), s.inReset = false → s.csmOn p = true → p < s.csm.ports.length → (s.cp p).cmd = none →
      ((s.cp p).st = .ident → Gives (.ident p none) s fun t =>
        t.out = s.out ++ .csm p (csmFrame 1 []) :: (if s.flag (csmA p 0) 1 then [] else [.csm p [0x50]]) ∧
        t.cp p = { s.cp p with reReads := 0, reSends := 0, cmd := some 1 } ∧ (∀ k, k ≠ p → t.cp k = s.cp k) ∧ t = { s with csm := t.csm, out := t.out }) ∧
      ((s.cp p).st = .auth → s.otp.kMaster ≠ none → Gives (.auth p none) s fun t =>
        t.out = s.out ++ .csm p (csmFrame 2 (t.cp p).nonce) :: (if s.flag (csmA p 0) 1 then [] else [.csm p [0x50]]) ∧
        t.cp p = { s.cp p with reReads := 0, reSends := 0, cmd := some 2, nonce := (upTo 16).map (fun i => BitVec.ofNat 8 (Config.freeValue (s.free + i))) } ∧
        t.free = s.free + 16 ∧ (∀ k, k ≠ p → t.cp k = s.cp k) ∧ t = { s with csm := t.csm, out := t.out, free := t.free })) ∧
  (∀ (s : State) (p : Nat), s.inReset = false → s.csmOn p = true → p < s.csm.ports.length → (s.cp p).present = true →
      ((s.cp p).st = .ready ∨ (s.cp p).st = .failed) → (s.cp p).serial ≠ none → (s.cp p).due = true → 0 < (s.cp p).pend → Gives (.commit p none) s fun t =>
        t.out = s.out ++ .csm p (csmFrame 3 (leBytes 4 (s.cp p).pend ++ (t.cp p).nonce)) :: (if s.flag (csmA p 0) 1 then [] else [.csm p [0x50]]) ∧
        t.cp p = { s.cp p with reReads := 0, reSends := 0, cmd := some 3, st := .commit, units := (s.cp p).pend, due := false, nonce := (upTo 16).map (fun i => BitVec.ofNat 8 (Config.freeValue (s.free + i))) } ∧
        t.free = s.free + 16 ∧ (∀ k, k ≠ p → t.cp k = s.cp k) ∧ t = { s with csm := t.csm, out := t.out, free := t.free }) ∧
  (∀ (s : State) (p cmd : Nat) (r : Option (List Byte)), s.inReset = false → s.csmOn p = true → (s.cp p).cmd = some cmd →
      Gives (.replyPoll p r) s (· = s.csmReply p r) ∧ ((s.cp p).st = .ident → Gives (.ident p r) s (· = s.csmReply p r)) ∧
      ((s.cp p).st = .auth → s.otp.kMaster ≠ none → Gives (.auth p r) s (· = s.csmReply p r)) ∧
      ((s.cp p).st = .commit → (s.cp p).present = true → Gives (.commit p r) s (· = s.csmReply p r))) ∧
  (∀ (s u : State) (p cmd : Nat), (s.cp p).cmd = some cmd → p < s.csm.ports.length →
      u = (if s.flag (csmA p 0) 1 then s else s.emit (.csm p [if (s.cp p).reReads = 0 then 0x50 else 0x52])) →
      s.csmReply p none = u ∧
      (∀ f, s.flag (csmA p 0) 1 = false → f = [0xAA] → s.csmReply p (some f) = u) ∧
      (∀ f, csmBody cmd f = none → (s.flag (csmA p 0) 1 = true ∨ f ≠ [0xAA]) →
        if (s.cp p).reReads < 3 then s.csmReply p (some f) = u.modCsm p (fun (c : CsmPort) => { c with reReads := c.reReads + 1 })
        else s.csmReply p (some f) = u.csmFail p 5) ∧
      (∀ f body t, csmBody cmd f = some body → f ≠ [0xAA] → t = s.csmReply p (some f) → (∀ k, k ≠ p → t.cp k = s.cp k) ∧ t.jobs = s.jobs ∧ t.free = s.free ∧
        (cmd = 1 → t.cp p = { s.cp p with st := .auth, serial := some (body.take 8), prev := quad body 8, cmd := none, pend := if (s.cp p).serial ≠ none ∧ (s.cp p).serial ≠ some (body.take 8) then 0 else (s.cp p).pend, due := if (s.cp p).serial ≠ none ∧ (s.cp p).serial ≠ some (body.take 8) ∧ (s.cp p).pend ≠ 0 then false else (s.cp p).due } ∧ t.out = u.out) ∧
        (∀ ser, cmd = 2 → s.macOk p 2 body = true → (s.cp p).serial = some ser → (∀ m, s.seenCount ser = some m → m ≤ quad body 0) →
          t.cp p = { s.cp p with st := .ready, cause := 0, genuine := true, count := quad body 0, prev := quad body 0, cmd := none } ∧
          t.seenCount ser = some (quad body 0) ∧ t.evFlag 242 = true ∧ ∀ e ∈ t.csm.asked, p ∉ e.2.1) ∧
        (cmd = 2 → s.macOk p 2 body = false → t = u.csmFail p 2) ∧
        (∀ ser m, cmd = 2 → s.macOk p 2 body = true → (s.cp p).serial = some ser → s.seenCount ser = some m → quad body 0 < m → t = u.csmFail p 4) ∧
        (∀ own, cmd = 3 → own = (s.policy && !(s.cp p).genuine) → (own = true ∨ (s.otp.kMaster ≠ none ∧ s.macOk p 3 body = true)) →
          if quad body 0 = satN 32 ((s.cp p).prev + (s.cp p).units) then
            t.cp p = { s.cp p with st := if (s.cp p).authDue then .auth else .ready, authDue := false, cause := 0, count := quad body 0, prev := quad body 0, cmd := none, pend := (s.cp p).pend - (s.cp p).units, committed := ((s.cp p).committed + (s.cp p).units) % 2 ^ 32, report := true } ∧ t.evFlag 240 = true
          else t = u.csmFail p 3) ∧
        (cmd = 3 → (s.policy && !(s.cp p).genuine) = false → (s.otp.kMaster = none ∨ s.macOk p 3 body = false) →
          t = u.csmFail p (if s.otp.kMaster = none then 1 else 2)))) ∧
  (∀ (s t : State) (p cause : Nat), p < s.csm.ports.length → t = s.csmFail p cause → (∀ k, k ≠ p → t.cp k = s.cp k) ∧ t.jobs = s.jobs ∧ t.free = s.free ∧
      (t.cp p).cause = cause ∧ (t.cp p).genuine = false ∧ (t.cp p).cmd = none ∧ t.evFlag (if cause = 6 then 244 else 243) = true ∧
      (if cause = 6 then (t.cp p).st = .empty ∧ (t.cp p).present = false ∧ (t.cp p).pend = 0 ∧ t.evFlag 241 = true
       else (t.cp p).st = (if (s.cp p).authDue then (if (s.cp p).serial.isSome then .auth else .ident) else .failed) ∧ (t.cp p).authDue = false ∧
        (t.cp p).pend = (s.cp p).pend) ∧ ((cause = 6 ∨ (s.cp p).st ≠ .commit) → ∀ e ∈ t.csm.asked, p ∉ e.2.1)) ∧
  (∀ (s : State) (p : Nat) (r : Option (List Byte)), s.inReset = false → s.csmOn p = true → (s.cp p).st = .auth → s.otp.kMaster = none →
      Gives (.auth p r) s (· = s.csmFail p 1)) ∧
  (∀ (s : State) (p cmd : Nat), s.inReset = false → s.csmOn p = true → p < s.csm.ports.length → (s.cp p).cmd = some cmd → Gives (.replyTimeout p) s fun t =>
      if (s.cp p).reSends < 3 then
        t = (s.modCsm p (fun (c : CsmPort) => { c with reSends := c.reSends + 1, reReads := 0 })).emit (.csm p ((s.cp p).frame cmd))
      else t = s.csmFail p 6)

/-- A write of CSM_CMD, the usage reports, and CONSUMABLE with OP 0 and 1 (R400, R406, R407, R411). A write of CSM_CMD is answered OK and every port in
use whose bit is set starts to authenticate, after its commit where one runs; ports without their bit stay as they are. An unsent usage report goes to
the event destination with KIND 3, or over the bridge, and REPORTED takes COMMITTED; it waits while it has no path. CONSUMABLE with OP 0 is answered
with one KIND 3 STATUS for each enabled port. With OP 1 a named port that is not occupied is answered with AUTH_FAIL and no occupied port at all with
ACK; otherwise the reply waits and the occupied ports named authenticate. -/
def Obligations.ConsumableRequests : Prop :=
  (∀ (s : State) (v : Word) (g : CsmPort → CsmPort), s.inReset = false → s.id.motion = true → (∀ c, g c = match c.st with
        | .ident => c | .auth => c | .commit => { c with authDue := true }
        | _ => { c with st := if c.serial.isSome then CsmSt.auth else CsmSt.ident, cmd := none }) → Gives (.csmCmdAuth v) s fun t =>
      t = ({ s with csm := { s.csm with ports := t.csm.ports } } : State).emit (.reg sOk (csmB + 8)) ∧
      ∀ p, p < s.csm.ports.length → t.cp p = if p < 12 ∧ bitOf v p = true ∧ s.csmOn p = true ∧ (s.cp p).present = true then g (s.cp p) else s.cp p) ∧
  (∀ (s : State) (v : Word), (s.inReset = true ∨ s.id.motion = false) → Gives (.csmCmdAuth v) s (· = s)) ∧
  (∀ (s : State) (p : Nat), (s.inReset = true ∨ (s.cp p).report = false ∨ s.unasked 0x0D 0 (s.usageBody p) = none) → Gives (.usageReportSend p) s (· = s)) ∧
  (∀ (s u : State) (p : Nat), s.inReset = false → (s.cp p).report = true → s.unasked 0x0D 0 (s.usageBody p) = some u → Gives (.usageReportSend p) s
      (· = u.modCsm p (fun (c : CsmPort) => { c with report := false, reported := c.committed }))) ∧
  (∀ (s : State) (p : Nat), s.id.isE = false → s.host.dest = none → Gives (.usageReportSend p) s (· = s)) ∧
  (∀ (s u : State) (p q : Nat) (d : Dest), s.inReset = false → p < s.csm.ports.length → (s.cp p).report = true →
      u = s.setReg (evtB + 0x44) (wd (((s.reg (evtB + 0x44)).toNat + 1) % 2 ^ 32)) →
      (s.id.isE = false → s.host.dest = some d → d.link = .eth q → s.ethUp q = true → Gives (.usageReportSend p) s fun t =>
        t.cp p = { s.cp p with report := false, reported := (s.cp p).committed } ∧ (∀ k, k ≠ p → t.cp k = s.cp k) ∧
        t = { u with csm := t.csm, out := s.out ++ [.msg d 0x0D 0 (((s.reg (evtB + 0x44)).toNat + 1) % 2 ^ 32) 0 (s.usageBody p)] }) ∧
      (s.id.isE = true → s.brg.st ≠ .down → Gives (.usageReportSend p) s fun t =>
        t.cp p = { s.cp p with report := false, reported := (s.cp p).committed } ∧ (∀ k, k ≠ p → t.cp k = s.cp k) ∧
        t = { u with csm := t.csm, brg := { s.brg with outQ := s.brg.outQ ++ [{ vc := 3, body := .host 0x0D 0 (((s.reg (evtB + 0x44)).toNat + 1) % 2 ^ 32) 1 (s.usageBody p) }] } })) ∧
  (∀ (s : State) (h : ReqHdr), s.takes false h 0x10 4 → Gives (.consumableReport h) s
      (Answered h 0x10 (((upTo 12).filter s.csmOn).map (fun p => (0x0D, 0, s.usageBody p))) (s.countMsg h.link))) ∧
  (∀ (s : State) (h : ReqHdr) (port : Nat), s.takes false h 0x10 4 → port ≠ 0xFF → (s.csmOn port && (s.cp port).present) = false →
      Gives (.consumableAuthenticate h port) s (Answered h 0x10 (nakMsg sAuth) (s.countMsg h.link))) ∧
  (∀ (s : State) (h : ReqHdr), s.takes false h 0x10 4 → (∀ p, p < 12 → (s.csmOn p && (s.cp p).present) = false) →
      Gives (.consumableAuthenticate h 0xFF) s (Answered h 0x10 (okMsg []) (s.countMsg h.link))) ∧
  (∀ (s : State) (h : ReqHdr) (port : Nat) (ps : List Nat) (g : CsmPort → CsmPort), s.takes false h 0x10 4 →
      ps = (if port = 0xFF then upTo 12 else [port]).filter (fun p => s.csmOn p && (s.cp p).present) → ps ≠ [] → (∀ c, g c = match c.st with
        | .ident => c | .auth => c | .commit => { c with authDue := true }
        | _ => { c with st := if c.serial.isSome then CsmSt.auth else CsmSt.ident, cmd := none }) → Gives (.consumableAuthenticate h port) s fun t =>
        t = { s.countMsg h.link with csm := { s.csm with ports := t.csm.ports, asked := s.csm.asked ++ [(h, ps, true)] } } ∧
        ∀ p, p < s.csm.ports.length → t.cp p = if ps.contains p then g (s.cp p) else s.cp p)

/-- How requests are taken and answered; HELLO, the job slots, and the release of pages (R66, R95, R369, R374 to R377, R379, R392, R394). Each of the 21
requests, however it stands otherwise: one that repeats a kept one only gets its kept reply again, one whose reply is outstanding nothing, one before
READY BUSY, one too long for its path CHECK_FAIL, one for the engine die goes over the bridge, or is answered with BUSY while that is down; one that
reaches no die leaves it as it was but for what waits in the ring. A reply goes out by the request's link. A JOB_OPEN takes a free slot for a job that
holds none, and is refused with BAD_STATE or NO_RESOURCE; JOB_CLOSE closes an open job and ends it where all its pages are released. PAGE_RELEASE
records that the page is to be released and lets the releases that are due take effect. HELLO makes its sender the event destination, raising HST_DEST
where that is a change; of two in one clock Ethernet's stands. -/
def Obligations.HostJobs : Prop :=
  (∀ (s u : State) (h : ReqHdr) (job page table inst off addr count sec ns port ch region ty : Nat) (f : PageFrag) (p : BandPart) (d : List Byte)
      (l : List RegEntry) (w : List WinEntry) (dt : Int) (i : Instr) (b : List Byte) (here : Bool),
      (i, ty, b, here) ∈ [(Instr.hello h, 1, [], false), (.jobOpen h job, 2, jobBody job, false), (.jobClose h job, 3, jobBody job, false),
        (.pageDesc h f, 4, fragBody f, false), (.bandData h p, 5, partBody p, true), (.bandRaw h p, 6, partBody p, true),
        (.pageRelease h job page, 7, leBytes 2 job ++ leBytes 2 page, false), (.queryGlobalStatus h, 8, [0], false), (.queryTokens h, 8, [1], false),
        (.queryResidency h job page, 8, [2, 0] ++ leBytes 2 job ++ leBytes 2 page, false),
        (.setTable h table inst off d, 9, leBytes 2 table ++ leBytes 2 inst ++ leBytes 4 off ++ d, false),
        (.readReg h addr count, 0xA, leBytes 4 addr ++ leBytes 2 count ++ [0, 0], false), (.writeReg h l, 0xB, entriesBody l, false),
        (.writeRegWindow h w, 0xB, winBody w, false), (.timeRead h, 0xE, [0, 0, 0, 0], false),
        (.timeSet h sec ns, 0xE, [1, 0, 0, 0] ++ leBytes 8 sec ++ leBytes 4 ns, false),
        (.timeStep h dt, 0xE, [2, 0, 0, 0] ++ leBytes 8 (wrapN 64 dt), false), (.consumableReport h, 0x10, [0, 0, 0, 0], false),
        (.consumableAuthenticate h port, 0x10, [1, BitVec.ofNat 8 port, 0, 0], false),
        (.retireRegion (some h) ch region, 0x0F, wordBytes (retWord ch region false), false),
        (.retireChannel (some h) ch, 0x0F, wordBytes (retWord ch 0 true), false)] →
      u = s.countMsg h.link → (here = true → s.id.hostSide = true) →
      ((s.inReset = true ∨ s.linkOk h.link = false) → Gives i s (· = s.ringHolds h ty b)) ∧
      (s.inReset = false → s.linkOk h.link = true →
        (∀ k, s.host.kept.find? (fun (k : Kept) => k.link == h.link && k.seq == h.seq && k.type == ty && k.crc == h.crc) = some k →
          Gives i s (· = u.sendReply k.link h.src h.port k.seq k.die k.msgs)) ∧
        (s.host.kept.find? (fun (k : Kept) => k.link == h.link && k.seq == h.seq && k.type == ty && k.crc == h.crc) = none →
          ((∃ e ∈ s.host.relayed, e.1.link = h.link ∧ e.1.seq = h.seq ∧ e.2 = ty ∧ e.1.crc = h.crc) ∨
            (∃ e ∈ s.csm.asked, e.1.link = h.link ∧ e.1.seq = h.seq ∧ e.1.crc = h.crc) → Gives i s (· = u)) ∧
          ((∀ e ∈ s.host.relayed, ¬(e.1.link = h.link ∧ e.1.seq = h.seq ∧ e.2 = ty ∧ e.1.crc = h.crc)) →
            (∀ e ∈ s.csm.asked, ¬(e.1.link = h.link ∧ e.1.seq = h.seq ∧ e.1.crc = h.crc)) →
            (s.ready = false → ty ≠ 1 → Gives i s (Answered h ty (nakMsg sBusy) u)) ∧
            ((s.ready = true ∨ ty = 1) → s.maxMsg h < b.length + 16 → Gives i s (Answered h ty (nakMsg sCheck) u)) ∧
            ((s.ready = true ∨ ty = 1) → b.length + 16 ≤ s.maxMsg h → s.id.isH = true → h.die = 1 → here = false →
              if 1024 < b.length + 16 then Gives i s (Answered h ty (nakMsg sCheck) u)
              else if s.brg.st = .down then Gives i s (Answered h ty (nakMsg sBusy) u)
              else Gives i s (· = { u with host := { s.host with relayed := s.host.relayed ++ [(h, ty)] }, brg := { s.brg with outQ := s.brg.outQ ++ [{ vc := 0, body := .host ty 0 h.seq 1 b }] } })))))) ∧
  (∀ (s : State) (h : ReqHdr) (p : BandPart), s.id.hostSide = false → Gives (.bandData h p) s (· = s) ∧ Gives (.bandRaw h p) s (· = s)) ∧
  (∀ (s : State) (l : Link) (src port seq die : Nat) (msgs : List (Nat × Nat × List Byte)),
      (∀ p, s.id.isE = false → l = .eth p → s.ethUp p = true → s.sendReply l src port seq die msgs =
        { s with out := s.out ++ msgs.map (fun m => .msg ⟨l, src, port⟩ m.1 m.2.1 seq die m.2.2) }) ∧
      (s.id.isE = true → s.sendReply l src port seq die msgs = { s with brg := { s.brg with outQ := s.brg.outQ ++ msgs.map (fun m => { vc := if m.1 = 0x0D then 3 else 0, body := .host m.1 m.2.1 seq 1 m.2.2 }) } })) ∧
  (∀ (s : State) (h : ReqHdr) (job : Nat), s.takes false h 2 4 → s.job? job = none → s.jobs.length < 16 → Gives (.jobOpen h job) s fun t =>
      Answered h 2 (okMsg []) { s.countMsg h.link with jobs := s.jobs ++ [{ id := job, closed := false, pages := [] }] } t ∧
      (∃ k ∈ t.host.kept, k.link = h.link ∧ k.seq = h.seq ∧ k.type = 2 ∧ k.crc = h.crc ∧ k.msgs = okMsg [])) ∧
  (∀ (s : State) (h : ReqHdr) (job : Nat), s.takes false h 2 4 → s.job? job ≠ none → Gives (.jobOpen h job) s (Answered h 2 (nakMsg sBadState) (s.countMsg h.link))) ∧
  (∀ (s : State) (h : ReqHdr) (job : Nat), s.takes false h 2 4 → s.job? job = none → 16 ≤ s.jobs.length →
      Gives (.jobOpen h job) s (Answered h 2 (nakMsg sNoRes) (s.countMsg h.link))) ∧
  (∀ (s : State) (h : ReqHdr) (job : Nat) (j : Job), s.takes false h 3 4 → s.job? job = some j → j.closed = false → Gives (.jobClose h job) s
      (Answered h 3 (okMsg []) ((s.countMsg h.link).modJob job (fun (x : Job) => { x with closed := true })).endJobs)) ∧
  (∀ (s : State) (h : ReqHdr) (job : Nat), s.takes false h 3 4 → (∀ j, s.job? job = some j → j.closed = true) →
      Gives (.jobClose h job) s (Answered h 3 (nakMsg sBadState) (s.countMsg h.link))) ∧
  (∀ (s : State) (h : ReqHdr) (job page : Nat) (p : Page), s.takes false h 7 4 → page ≠ 0xFFFF → s.page? job page = some p → Gives (.pageRelease h job page) s
      (Answered h 7 (okMsg []) ((s.countMsg h.link).modPage job page (fun (y : Page) => { y with relAsked := true })).dueReleases)) ∧
  (∀ (s : State) (h : ReqHdr) (job : Nat) (j : Job), s.takes false h 7 4 → s.job? job = some j → Gives (.pageRelease h job 0xFFFF) s
      (Answered h 7 (okMsg []) ((s.countMsg h.link).modJob job (fun (x : Job) =>
        { x with pages := x.pages.map (fun (y : Page) => { y with relAsked := true }) })).dueReleases)) ∧
  (∀ (s : State) (h : ReqHdr) (job page : Nat), s.takes false h 7 4 → (if page = 0xFFFF then s.job? job = none else s.page? job page = none) →
      Gives (.pageRelease h job page) s (Answered h 7 (nakMsg sBadState) (s.countMsg h.link))) ∧
  (∀ (s u : State) (h : ReqHdr), s.takes false h 1 0 → u = (if s.id.isE then s.countMsg h.link else (s.countMsg h.link).helloFrom ⟨h.link, h.src, h.port⟩) →
      Gives (.hello h) s (Answered h 1 (okMsg (wordBytes s.id.glbId ++ wordBytes u.glbBoot ++ leBytes 2 (s.maxMsg h - 16) ++ leBytes 2 1)) u)) ∧
  (∀ (s : State) (d : Dest), ((∀ e, s.host.helloAt = some e → e.1 ≠ s.clk) → Occurs (if s.host.dest = some d then [] else [250])
        { s with host := { s.host with dest := some d, helloAt := some (s.clk, s.host.dest != some d) } } (s.helloFrom d)) ∧
      (∀ told, s.host.helloAt = some (s.clk, told) →
        if d.link = .pcie ∧ (∃ x, s.host.dest = some x ∧ x.link ≠ .pcie) then s.helloFrom d = s
        else Occurs (if s.host.dest = some d ∨ told = true then [] else [250])
          { s with host := { s.host with dest := some d, helloAt := some (s.clk, told || s.host.dest != some d) } } (s.helloFrom d)))

/-- Page descriptions and the parts of bands (R91, R94, R139, R148, R380, R381). A fragment that keeps R380 begins or extends its page and is answered
with ACK; one that breaks it is answered with CHECK_FAIL, one for a closed or unknown job or a page on which PAGE_RELEASE has been received with
BAD_STATE, and none of these changes a page. A part of an ABSENT band is laid at its offset while bytes are missing; the part that completes a
BAND_DATA band makes it IN_PAGE_STORE, and one that completes a BAND_RAW band hands it on for compression. A part for a band that is already there is
acknowledged and changes nothing; one for a page asked to be released gets BAD_STATE, one for no band described or past its end CHECK_FAIL, and a raw
part without a chisel in service, or a part the page store has no room for, NO_RESOURCE. -/
def Obligations.HostPages : Prop :=
  (∀ (s : State) (h : ReqHdr) (f : PageFrag) (j : Job) (p : Page), s.takes false h 4 (fragBody f).length → s.job? f.job = some j → j.closed = false →
      j.page? f.page = none → fragOk f = true → (j.newPage f).take f = some p →
      Gives (.pageDesc h f) s fun t => Answered h 4 (okMsg []) ((s.countMsg h.link).modJob f.job (fun (x : Job) => { x with pages := x.pages ++ [p] })) t) ∧
  (∀ (s : State) (h : ReqHdr) (f : PageFrag) (j : Job) (p0 p : Page), s.takes false h 4 (fragBody f).length → s.job? f.job = some j → j.closed = false →
      j.page? f.page = some p0 → p0.relAsked = false → fragOk f = true → p0.take f = some p →
      Gives (.pageDesc h f) s fun t => Answered h 4 (okMsg []) ((s.countMsg h.link).modPage f.job f.page (fun _ => p)) t) ∧
  (∀ (s : State) (h : ReqHdr) (f : PageFrag) (j : Job), s.takes false h 4 (fragBody f).length → s.job? f.job = some j → j.closed = false →
      (match j.page? f.page with
        | none => fragOk f = false ∨ (j.newPage f).take f = none
        | some p0 => p0.relAsked = false ∧ (fragOk f = false ∨ p0.take f = none)) →
      Gives (.pageDesc h f) s fun t => Answered h 4 (nakMsg sCheck) (s.countMsg h.link) t) ∧
  (∀ (s : State) (h : ReqHdr) (f : PageFrag), s.takes false h 4 (fragBody f).length →
      (∀ j, s.job? f.job = some j → j.closed = true ∨ ∃ p, j.page? f.page = some p ∧ p.relAsked = true) →
      Gives (.pageDesc h f) s fun t => Answered h 4 (nakMsg sBadState) (s.countMsg h.link) t) ∧
  (∀ (s : State) (h : ReqHdr) (p : BandPart) (raw : Bool) (i : Instr) (ty : Nat), i = (if raw then .bandRaw h p else .bandData h p) → ty = (if raw then 6 else 5) →
      s.id.hostSide = true → s.takes true h ty (partBody p).length →
      (raw = true → (upTo 8).any s.chsServ = false → Gives i s (Answered h ty (nakMsg sNoRes) (s.countMsg h.link))) ∧
      ((raw = true → (upTo 8).any s.chsServ = true) →
        (∀ g, s.page? p.job p.page = some g → g.relAsked = true → Gives i s (Answered h ty (nakMsg sBadState) (s.countMsg h.link))) ∧
        ((∀ g, s.page? p.job p.page = some g → g.relAsked = false) → s.band? ⟨p.job, p.page, p.plane, p.band⟩ = none →
          Gives i s (Answered h ty (nakMsg sCheck) (s.countMsg h.link))) ∧
        (∀ (g : Page) (q : Plane) (b : Band) (size : Nat) (got : List (Nat × Byte)), s.page? p.job p.page = some g → g.relAsked = false →
          g.plane? p.plane = some q → q.band? p.band = some b → size = (if raw then b.rawLen q.pitch else b.compLen) →
          got = layPart b.got p.off p.data →
          ((raw ≠ (b.compLen == 0) ∨ size < p.off + p.data.length) → Gives i s (Answered h ty (nakMsg sCheck) (s.countMsg h.link))) ∧
          (raw = (b.compLen == 0) → p.off + p.data.length ≤ size →
            ((b.res ≠ .absent ∨ b.handed = true) → Gives i s (Answered h ty (okMsg []) (s.countMsg h.link))) ∧
            (b.res = .absent → b.handed = false → s.pageCap < s.pageUsed + (got.length - b.got.length) →
              Gives i s (Answered h ty (nakMsg sNoRes) (s.countMsg h.link))) ∧
            (b.res = .absent → b.handed = false → s.pageUsed + (got.length - b.got.length) ≤ s.pageCap → Gives i s (Answered h ty (okMsg [])
              (if got.length < size then (s.countMsg h.link).modBand ⟨p.job, p.page, p.plane, p.band⟩ (fun (x : Band) => { x with got := got })
               else if raw then
                { (s.countMsg h.link).modBand ⟨p.job, p.page, p.plane, p.band⟩ (fun (x : Band) => { x with got := [], raw := got.map (·.2), handed := true }) with codec := { s.codec with rawQ := s.codec.rawQ ++ [⟨p.job, p.page, p.plane, p.band⟩] } }
               else (((s.countMsg h.link).modBand ⟨p.job, p.page, p.plane, p.band⟩ (fun (x : Band) => { x with got := [], stream := got.map (·.2) })).setRes
                ⟨p.job, p.page, p.plane, p.band⟩ .inPageStore).hostDone b.compLen))))))) ∧
  (∀ (got : List (Nat × Byte)) (off n : Nat) (data : List Byte), look (layPart got off data) n =
      if off ≤ n ∧ n < off + data.length then some (data.getD (n - off) 0) else look got n)

/-- QUERY and TIME (R350, R382, R383). QUERY is answered with a STATUS: with KIND 0 the global status registers, with KIND 1 the 16 token records, with
KIND 2 the residency counts of a page, or BAD_STATE where the page is unknown. TIME with OP 0 is answered with seconds and nanoseconds and changes
nothing. OP 1 and OP 2 are answered with CONFLICT where device time does not follow this die's own clock, and with BAD_STATE while sheets are in
flight; otherwise the time is set or stepped. -/
def Obligations.HostQueriesAndTime : Prop :=
  (∀ (s : State) (h : ReqHdr), s.takes false h 8 1 → Gives (.queryGlobalStatus h) s
      (Answered h 8 [(0x0D, 0, 0 :: (s.countMsg h.link).kind0)] (s.countMsg h.link))) ∧
  (∀ (s : State) (h : ReqHdr), s.takes false h 8 1 → Gives (.queryTokens h) s fun t =>
      Answered h 8 [(0x0D, 0, 1 :: s.sched.toks.flatMap (fun (k : Token) => k.words.flatMap wordBytes))] (s.countMsg h.link) t) ∧
  (∀ (s : State) (h : ReqHdr) (job page : Nat) (p : Page), s.takes false h 8 6 → s.page? job page = some p → Gives (.queryResidency h job page) s fun t =>
      Answered h 8 [(0x0D, 0, 2 :: ((upTo 6).flatMap p.resCounts).flatMap (leBytes 2))] (s.countMsg h.link) t) ∧
  (∀ (s : State) (h : ReqHdr) (job page : Nat), s.takes false h 8 6 → s.page? job page = none → Gives (.queryResidency h job page) s fun t =>
      Answered h 8 (nakMsg sBadState) (s.countMsg h.link) t) ∧
  (∀ (s : State) (h : ReqHdr), s.takes false h 0xE 4 → Gives (.timeRead h) s fun t =>
      Answered h 0xE (okMsg (leBytes 8 (s.ns / secNs) ++ leBytes 4 (s.ns % secNs))) (s.countMsg h.link) t) ∧
  (∀ (s : State) (h : ReqHdr) (sec ns : Nat), s.takes false h 0xE 16 → s.timSrc = 0 → s.flying = false → Gives (.timeSet h sec ns) s fun t =>
      Answered h 0xE (okMsg []) ((s.countMsg h.link).stepTo ((sec % 2 ^ 48 * secNs + Nat.min ns 999999999) * 2 ^ 48)) t ∧
      t.time = { s.time with now := (sec % 2 ^ 48 * secNs + Nat.min ns 999999999) * 2 ^ 48 } ∧ t.evFlag 33 = true ∧ t.jobs = s.jobs ∧ t.sched = s.sched) ∧
  (∀ (s : State) (h : ReqHdr) (sec ns : Nat), s.takes false h 0xE 16 → (s.timSrc ≠ 0 ∨ s.flying = true) → Gives (.timeSet h sec ns) s fun t =>
      Answered h 0xE (nakMsg (if s.timSrc ≠ 0 then sConflict else sBadState)) (s.countMsg h.link) t) ∧
  (∀ (s : State) (h : ReqHdr) (d : Int), s.takes false h 0xE 12 → s.timSrc = 0 → s.flying = false → Gives (.timeStep h d) s fun t =>
      Answered h 0xE (okMsg []) ((s.countMsg h.link).stepBy d) t ∧ t.evFlag 33 = true ∧ t.jobs = s.jobs ∧ t.sched = s.sched ∧
      t.time = { s.time with now := ((s.time.now : Int) + d * 2 ^ 48).toNat }) ∧
  (∀ (s : State) (h : ReqHdr) (d : Int), s.takes false h 0xE 12 → (s.timSrc ≠ 0 ∨ s.flying = true) → Gives (.timeStep h d) s fun t =>
      Answered h 0xE (nakMsg (if s.timSrc ≠ 0 then sConflict else sBadState)) (s.countMsg h.link) t)

/-- READ_REG, WRITE_REG in both forms, and SET (R84, R268, R384 to R386, R388). READ_REG with a COUNT of 0 or above 64 is answered with CHECK_FAIL;
otherwise, where every word is good, with the words. WRITE_REG with FORM 0 carries its entries out in order: all of them and ACK, or those before the
first refusal and a NAK with its code, index and address; more than 64 entries are answered with CHECK_FAIL. FORM 1 writes each 8-byte value in one
access, or is refused as a whole. SET of table 0x00 resolves claims; a SET of an unknown table or of a length that is no whole number of claims is
answered with CHECK_FAIL, of an absent instance with NO_RESOURCE, and of an instance the image does not make adjustable, after READY, with
NOT_ADJUSTABLE; otherwise the table is changed. -/
def Obligations.HostRegistersAndTables : Prop :=
  (∀ (s : State) (h : ReqHdr) (addr count : Nat), s.takes false h 0xA 8 → (count = 0 ∨ 64 < count) → Gives (.readReg h addr count) s fun t =>
      Answered h 0xA (nakMsg sCheck) (s.countMsg h.link) t) ∧
  (∀ (s : State) (h : ReqHdr) (addr count : Nat), s.takes false h 0xA 8 → 1 ≤ count → count ≤ 64 → ((s.countMsg h.link).readRegs addr count).2.2 = false →
      Gives (.readReg h addr count) s fun t =>
        Answered h 0xA (okMsg (((s.countMsg h.link).readRegs addr count).2.1.flatMap wordBytes)) ((s.countMsg h.link).readRegs addr count).1 t) ∧
  (∀ (s : State) (h : ReqHdr) (addr count : Nat) (u : State) (ws : List Word), s.takes false h 0xA 8 → 1 ≤ count → count ≤ 64 →
      (s.countMsg h.link).readRegs addr count = (u, ws, true) → Gives (.readReg h addr count) s
        (Answered h 0xA [(0x12, sCheck, nakBody ws.length (addr + 4 * ws.length) ++ ws.flatMap wordBytes)] u)) ∧
  (∀ (s : State) (h : ReqHdr) (l : List RegEntry), s.takes false h 0xB (entriesBody l).length → 64 < l.length → Gives (.writeReg h l) s fun t =>
      Answered h 0xB (nakMsg sCheck) (s.countMsg h.link) t) ∧
  (∀ (s w : State) (h : ReqHdr) (l1 l2 : List RegEntry) (e : RegEntry), s.takes false h 0xB (entriesBody (l1 ++ e :: l2)).length →
      (l1 ++ e :: l2).length ≤ 64 → writeAll 0 l1 (s.countMsg h.link) = ack w [] → (w.writeEntry e).2 ≠ sOk → Gives (.writeReg h (l1 ++ e :: l2)) s fun t =>
        Answered h 0xB [(0x12, (w.writeEntry e).2, nakBody l1.length e.addr)] (w.writeEntry e).1 t) ∧
  (∀ (s w : State) (h : ReqHdr) (l : List RegEntry), s.takes false h 0xB (entriesBody l).length → l.length ≤ 64 →
      writeAll 0 l (s.countMsg h.link) = ack w [] → Gives (.writeReg h l) s fun t => Answered h 0xB (okMsg []) w t) ∧
  (∀ (s : State) (h : ReqHdr) (l : List WinEntry), s.takes false h 0xB (winBody l).length → (64 < l.length ∨ ∃ e ∈ l, e.addr % 8 ≠ 0 ∨ inDmaWin e.addr = false) →
      Gives (.writeRegWindow h l) s (Answered h 0xB (nakMsg sCheck) (s.countMsg h.link))) ∧
  (∀ (s : State) (h : ReqHdr) (l : List WinEntry), s.takes false h 0xB (winBody l).length → l.length ≤ 64 → (∀ e ∈ l, inDmaWin e.addr = true ∧ e.addr % 8 = 0) →
      Gives (.writeRegWindow h l) s (Answered h 0xB (okMsg []) (l.foldl (fun (u : State) (e : WinEntry) =>
        if e.addr - dmaB - 0x8000 + 8 ≤ Nat.min s.userLen 32768 then u.memWrite false 2 (s.userBase + (e.addr - dmaB - 0x8000)) (leBytes 8 e.val) else u)
        (s.countMsg h.link)))) ∧
  (∀ (s u : State) (h : ReqHdr) (inst off : Nat) (l : List (Nat × Nat)) (msgs : List (Nat × Nat × List Byte)), s.takes false h 9 (8 + 8 * l.length) →
      (∀ e ∈ l, e.1 < 2 ^ 32 ∧ e.2 < 2 ^ 32) → claimAll 0 l (s.countMsg h.link) = { st := u, msgs := msgs } →
      Gives (.setTable h 0 inst off (l.flatMap (fun e => leBytes 4 e.1 ++ leBytes 4 e.2))) s (Answered h 9 msgs u)) ∧
  (∀ (s w : State) (l1 l2 : List (Nat × Nat)) (w0 owner : Nat), claimAll 0 l1 s = ack w [] →
      let r := w.claimEntry (w0 % 256) (w0 / 256 % 65536) owner
      (r.2 ≠ sOk → claimAll 0 (l1 ++ (w0, owner) :: l2) s = nakAt r.1 r.2 l1.length w0) ∧
      (r.2 = sOk → claimAll 0 (l1 ++ [(w0, owner)]) s = ack r.1 [])) ∧
  (∀ (s : State) (h : ReqHdr) (table inst off : Nat) (data : List Byte), s.takes false h 9 (8 + data.length) →
      (if table = 0 then data.length % 8 ≠ 0 else 10 < table) → Gives (.setTable h table inst off data) s fun t =>
        Answered h 9 (nakMsg sCheck) (s.countMsg h.link) t) ∧
  (∀ (s : State) (h : ReqHdr) (table inst off : Nat) (data : List Byte), s.takes false h 9 (8 + data.length) → table ≠ 0 → table ≤ 10 →
      (s.id.tabInsts table ≤ inst ∨ s.tabMayChange table inst = false) → Gives (.setTable h table inst off data) s fun t =>
        Answered h 9 (nakMsg (if s.id.tabInsts table ≤ inst then sNoRes else sNotAdj)) (s.countMsg h.link) t) ∧
  (∀ (s : State) (h : ReqHdr) (table inst off : Nat) (data : List Byte), s.takes false h 9 (8 + data.length) → table ≠ 0 → table ≤ 10 →
      inst < s.id.tabInsts table → s.tabMayChange table inst = true → Gives (.setTable h table inst off data) s fun t =>
        Answered h 9 (okMsg []) (if s.ready then (s.countMsg h.link).setTabRun table inst off data else (s.countMsg h.link).loadTab table inst off data) t)

/-- A write of a register: what may change, when it takes effect, pin claims, the aperture and BAR0 (R9, R10, R27, R49 to R52, R59, R84, R85, R183, R294,
R369). A write is answered with its code. To an address with no register, to one this die lacks, or to none of its writable bits, it has no effect and
is answered OK; to a channel of the engine sequencer CONFLICT; of bits that the image does not make adjustable NOT_ADJUSTABLE. A permitted write of an
Ethernet, chisel, cast or scan register stores the merged and clamped word and no other, and where the register waits for a boundary the word in force
stays the old one. A 1 written to the root clock's LOST sets it. A write of a step channel's limit stores the clamped limit and replans that channel.
PIN_SEL claims a free pin for a free function, changes the electrical fields of a repeat, is refused with CONFLICT otherwise, and FUNC 0 releases an
idle pin and gives BAD_STATE for a busy one. The aperture has no effect without COMPAT5, and with it makes the writes of its fields in order, or is
refused whole. BAR0 is written while the endpoint is up. -/
def Obligations.RegisterWrites : Prop :=
  (∀ (s : State) (e : RegEntry), s.inReset = false → e.addr < 2 ^ 32 → Gives (.registerWrite e) s (· = State.answer e.addr (s.writeEntry e))) ∧
  (∀ (s : State) (e : RegEntry), s.inReset = true → Gives (.registerWrite e) s (· = s)) ∧
  (∀ (s : State) (e : RegEntry), s.inReset = false → 2 ^ 32 ≤ e.addr → Gives (.registerWrite e) s fun t =>
      if s.id.pcie = false ∨ s.host.pcie.up = false ∨ e.addr = ringB + 0x20 ∨ e.addr = ringB + 0x2C then t = s
      else if e.addr = ringB + 8 then t = s.ringCtrl e.val e.mask.toNat
      else match rowOf e.addr with | none => t = s | some r => t = s.setReg e.addr (s.merged r e.addr e.val e.mask.toNat)) ∧
  (∀ (s : State) (e : RegEntry), s.inReset = false → e.addr < 0x01000000 → inDmaWin e.addr = false → e.addr ≠ clkB →
      (rowOf e.addr = none ∨ s.id.present e.addr = false ∨ ∃ r, rowOf e.addr = some r ∧ Nat.land e.mask.toNat r.bits = 0) →
      Gives (.registerWrite e) s (· = s.emit (.reg sOk e.addr))) ∧
  (∀ (s : State) (e : RegEntry) (r : RegRow), s.inReset = false → dmaB + 0x100 ≤ e.addr → e.addr < dmaB + 0x700 → rowOf e.addr = some r →
      Nat.land e.mask.toNat r.bits ≠ 0 → Gives (.registerWrite e) s fun t => t.out = s.out ++ [.reg sConflict e.addr] ∧ t.evFlag 11 = true ∧
        t.boot = { s.boot with conflicts := satN 16 (s.boot.conflicts + 1) } ∧ t.dma = s.dma) ∧
  (∀ (s : State) (e : RegEntry) (r : RegRow), s.inReset = false → e.addr < 0x01000000 → inDmaWin e.addr = false → e.addr ≠ clkB → rowOf e.addr = some r →
      s.id.present e.addr = true → Nat.land e.mask.toNat r.bits ≠ 0 → ¬(dmaB + 0x100 ≤ e.addr ∧ e.addr < dmaB + 0x700) →
      s.mayChange e.addr (Nat.land e.mask.toNat r.bits) = false → Gives (.registerWrite e) s (· = s.emit (.reg sNotAdj e.addr))) ∧
  (∀ (s : State) (e : RegEntry), s.inReset = false → e.addr = clkB → Gives (.registerWrite e) s fun t =>
      if bitOf e.mask 1 = true ∧ s.mayChange clkB 2 = false then t = s.emit (.reg sNotAdj clkB)
      else t = ({ s with clks := { s.clks with rootLost := s.clks.rootLost || (bitOf e.mask 1 && bitOf e.val 1) } } : State).emit (.reg sOk clkB)) ∧
  (∀ (s : State) (e : RegEntry) (r : RegRow), s.inReset = false → rowOf e.addr = some r → s.id.present e.addr = true →
      Nat.land e.mask.toNat r.bits ≠ 0 → s.mayChange e.addr (Nat.land e.mask.toNat r.bits) = true →
      (e.addr / 0x10000 = 6 ∨ e.addr / 0x10000 = 8 ∨ e.addr / 0x10000 = 9 ∨ e.addr / 0x10000 = 0xB) → Gives (.registerWrite e) s fun t =>
        t.reg e.addr = s.merged r e.addr e.val (Nat.land e.mask.toNat r.bits) ∧ (∀ a, a ≠ e.addr → t.reg a = s.reg a) ∧
        (s.ready = true → (r.cls = .station ∨ r.cls = .admission ∨ (r.cls = .engine ∧ s.flying = true)) → t.act e.addr = s.act e.addr) ∧
        (s.ready = false ∨ r.cls = .now ∨ (r.cls = .engine ∧ s.flying = false) → t.held = s.held) ∧
        (∀ a, a ≠ e.addr → t.act a = s.act a) ∧ t = ({ s with regs := t.regs, held := t.held } : State).emit (.reg sOk e.addr)) ∧
  (∀ (s : State) (n which : Nat) (v : Word) (r : RegRow), s.inReset = false → n < s.id.steppers → which < 3 →
      rowOf (stpA n (0x1C + 4 * which)) = some r → s.id.present (stpA n (0x1C + 4 * which)) = true → Nat.land 0xFFFFFFFF r.bits ≠ 0 →
      Gives (.stpLimitWrite n which v) s fun t =>
        if s.mayChange (stpA n (0x1C + 4 * which)) (Nat.land 0xFFFFFFFF r.bits) = false then t = s.emit (.reg sNotAdj (stpA n (0x1C + 4 * which)))
        else t = ((s.put r (stpA n (0x1C + 4 * which)) v (Nat.land 0xFFFFFFFF r.bits)).stpReplan n).emit (.reg sOk (stpA n (0x1C + 4 * which))) ∧
          t.reg (stpA n (0x1C + 4 * which)) = s.merged r (stpA n (0x1C + 4 * which)) v (Nat.land 0xFFFFFFFF r.bits) ∧
          (∀ a, a ≠ stpA n (0x1C + 4 * which) → t.reg a = s.reg a) ∧ (∀ k, k ≠ n → t.sp k = s.sp k) ∧ (t.sp n).actual = (s.sp n).actual ∧
          (t.sp n).st = (s.sp n).st ∧ (t.sp n).target = (s.sp n).target) ∧
  (∀ (s : State) (n which : Nat) (v : Word), (s.inReset = true ∨ s.id.steppers ≤ n ∨ 3 ≤ which) → Gives (.stpLimitWrite n which v) s (· = s)) ∧
  (∀ (s : State) (n : Nat) (v mask : Word), s.inReset = false → n < s.id.pins → Gives (.pinSelWrite n v mask) s fun t =>
      if Nat.land mask.toNat 0xFFFFF = 0 then t = s.emit (.reg sOk (pinB + 4 * n))
      else if s.mayChange (pinB + 4 * n) (Nat.land mask.toNat 0xFFFFF) = false then t = s.emit (.reg sNotAdj (pinB + 4 * n))
      else t = State.answer (pinB + 4 * n) (s.pinClaim n (wd (Nat.land (s.reg (pinB + 4 * n)).toNat (0xFFFFFFFF - Nat.land mask.toNat 0xFFFFF) +
        Nat.land v.toNat (Nat.land mask.toNat 0xFFFFF))))) ∧
  (∀ (s : State) (n : Nat), s.inReset = false → n < s.id.pins → Gives (.pinRelease n) s fun t =>
      if s.mayChange (pinB + 4 * n) 0xFF = false then t = s.emit (.reg sNotAdj (pinB + 4 * n))
      else t = State.answer (pinB + 4 * n) (s.pinClaim n (wd (Nat.land (s.reg (pinB + 4 * n)).toNat 0xFFFFFF00)))) ∧
  (∀ (s : State) (n : Nat) (v mask : Word), (s.inReset = true ∨ s.id.pins ≤ n) → Gives (.pinSelWrite n v mask) s (· = s) ∧ Gives (.pinRelease n) s (· = s)) ∧
  (∀ (s : State) (n f i : Nat) (v w : Word), n < s.id.pins → w = pinWord v → f = fld w 0 8 → i = fld w 8 6 →
      (f = 0 → (∀ c ∈ s.pinClaims n, s.funcIdle (c.owner % 256) (c.owner / 256) = true) → s.pinClaim n v =
        (({ s with claims := s.claims.filter (fun c => !(c.cls == 1 && c.index == n)) } : State).setReg (pinB + 4 * n) w, sOk)) ∧
      (f = 0 → (∃ c ∈ s.pinClaims n, s.funcIdle (c.owner % 256) (c.owner / 256) = false) → s.pinClaim n v = (s, sBadState)) ∧
      (f ≠ 0 → (∃ c ∈ s.pinClaims n, c.owner = f + i * 256) → s.pinClaim n v =
        (s.setReg (pinB + 4 * n) (wd (Nat.land (s.reg (pinB + 4 * n)).toNat (0xFFFFFFFF - 0xFC000) + Nat.land w.toNat 0xFC000)), sOk)) ∧
      (f ≠ 0 → (∀ c ∈ s.pinClaims n, c.owner ≠ f + i * 256) → s.pinFor f i = false → (s.pinClaims n = [] ∨ (f = 3 ∧ ∀ c ∈ s.pinClaims n, c.owner % 256 = 3)) →
        s.pinClaim n v = (({ s with claims := s.claims ++ [{ cls := 1, index := n, owner := f + i * 256 }] } : State).setReg (pinB + 4 * n) w, sOk)) ∧
      (f ≠ 0 → (∀ c ∈ s.pinClaims n, c.owner ≠ f + i * 256) → (s.pinFor f i = true ∨ (s.pinClaims n ≠ [] ∧ (f ≠ 3 ∨ ∃ c ∈ s.pinClaims n, c.owner % 256 ≠ 3))) →
        s.pinClaim n v = (s.refuseClaim 1 n sConflict, sConflict))) ∧
  (∀ (s : State) (off : Nat) (v mask : Word), s.inReset = false → off < 0x10000 → (s.compat5 = false ∨ off % 4 ≠ 0) → Gives (.apertureWrite off v mask) s
      (· = s.emit (.reg sOk (0x08000000 + off)))) ∧
  (∀ (s : State) (off : Nat) (v mask : Word), s.inReset = false → off < 0x10000 → off % 4 = 0 → s.compat5 = true →
      Gives (.apertureWrite off v mask) s (· = State.answer (0x08000000 + off) (s.writeList (apWrites s off v mask)))) ∧
  (∀ (s u : State) (ws : List RegEntry) (code : Nat), runOps (ws.map (fun w => fun x => State.blockWrite x w.addr w.val w.mask)) s = (u, code) →
      (code = sOk → s.writeList ws = (u, sOk)) ∧
      (∀ l1 l2 w, code ≠ sOk → ws = l1 ++ w :: l2 → (∀ x ∈ l1, (s.blockWrite x.addr x.val x.mask).2 = sOk) → (s.blockWrite w.addr w.val w.mask).2 ≠ sOk →
        s.writeList ws = s.blockWrite w.addr w.val w.mask) ∧
      (code ≠ sOk → (∀ x ∈ ws, (s.blockWrite x.addr x.val x.mask).2 = sOk) → s.writeList ws = (s, code))) ∧
  (∀ (s : State) (off : Nat) (v mask : Word), (s.inReset = true ∨ 0x10000 ≤ off) → Gives (.apertureWrite off v mask) s (· = s))

/-- Event flags, enables, routes and messages (R236, R391, R392, R394). A write of EVT_FLAGk clears the flags whose bits are 1 and no others. A write of
EVT_ENk stores the enables under its mask; a source that is newly enabled with its flag at 1 and a route to the host has a message waiting. A write of
ROUTE and VEC stores them under its mask: with ROUTE 1 the source's unsent message is dropped, from ROUTE 1 to another that of a flagged source waits
again; its flag and COUNT stay. The oldest unsent EVENT goes to the event destination where its link has room, another die's with that die's sequence;
it waits while there is none. That of an engine die starts over the bridge once it is next there. -/
def Obligations.EventRegisters : Prop :=
  (∀ (s : State) (k : Nat) (v : Word), s.inReset = false → k < 8 → Gives (.eventFlagClear k v) s fun t =>
      (∀ i, i < 32 → t.evFlag (32 * k + i) = (s.evFlag (32 * k + i) && !bitOf v i)) ∧ (∀ a, a ≠ evtB + 4 * k → t.reg a = s.reg a) ∧
      t = ({ s with regs := t.regs } : State).emit (.reg sOk (evtB + 4 * k))) ∧
  (∀ (s : State) (k : Nat) (v mask w : Word), s.inReset = false → k < 8 →
      w = wd (Nat.land (s.reg (evtB + 0x20 + 4 * k)).toNat (0xFFFFFFFF - mask.toNat) + Nat.land v.toNat mask.toNat) →
      Gives (.eventEnableWrite k v mask) s fun t =>
      t.reg (evtB + 0x20 + 4 * k) = w ∧ t.out = s.out ++ [.reg sOk (evtB + 0x20 + 4 * k)] ∧
      (∀ a, a ≠ evtB + 0x20 + 4 * k → a ≠ brgB + 0x1C → t.reg a = s.reg a) ∧
      (∀ i, i < 32 → bitOf w i = true → s.evEn (32 * k + i) = false → s.evFlag (32 * k + i) = true → s.evRoute (32 * k + i) ≠ 1 →
        ∃ m ∈ t.host.unsent, m.src = 32 * k + i) ∧
      ((∀ i, i < 32 → bitOf w i = true → s.evEn (32 * k + i) = true ∨ s.evFlag (32 * k + i) = false) → t.host = s.host) ∧
      EventsOnly { s with regs := t.regs, out := t.out } t) ∧
  (∀ (s : State) (n : Nat) (v mask w0 w : Word), s.inReset = false → n < 256 →
      w0 = wd (Nat.land (s.reg (evSrcA n)).toNat (0xFFFFFFFF - Nat.land mask.toNat 0xFF) + Nat.land v.toNat (Nat.land mask.toNat 0xFF)) →
      w = (if fld mask 0 2 ≠ 0 ∧ fld w0 0 2 = 3 then setFld w0 0 2 2 else w0) →
      Nat.land mask.toNat 0xFF ≠ 0 → Gives (.eventRouteWrite n v mask) s fun t =>
      t.reg (evSrcA n) = w ∧ t.evFlag n = s.evFlag n ∧ (∀ a, a ≠ evSrcA n → a ≠ brgB + 0x1C → t.reg a = s.reg a) ∧ t.out = s.out ++ [.reg sOk (evSrcA n)] ∧
      (fld w 0 2 = 1 → t.host.unsent = s.host.unsent.filter (fun m => !(m.src == n && m.pkg == 0 && m.die == b2n s.id.isE))) ∧
      (fld w 0 2 ≠ 1 → s.evRoute n ≠ 1 → t = ({ s with regs := t.regs } : State).emit (.reg sOk (evSrcA n))) ∧
      (fld w 0 2 ≠ 1 → s.evRoute n = 1 → s.evFlag n = true → s.evEn n = true → ∃ m ∈ t.host.unsent, m.src = n) ∧
      EventsOnly { s with regs := t.regs, out := t.out } t) ∧
  (∀ (s : State) (n : Nat) (v mask : Word), s.inReset = false → n < 256 → Nat.land mask.toNat 0xFF = 0 →
      Gives (.eventRouteWrite n v mask) s (· = s.emit (.reg sOk (evSrcA n)))) ∧
  (∀ (s : State) (n : Nat) (v mask : Word), (s.inReset = true → Gives (.eventFlagClear n v) s (· = s) ∧ Gives (.eventEnableWrite n v mask) s (· = s) ∧
        Gives (.eventRouteWrite n v mask) s (· = s)) ∧ (8 ≤ n → Gives (.eventFlagClear n v) s (· = s) ∧ Gives (.eventEnableWrite n v mask) s (· = s)) ∧
      (256 ≤ n → Gives (.eventRouteWrite n v mask) s (· = s))) ∧
  (∀ s : State, (s.inReset = true ∨ (s.id.isE = false ∧ (s.host.unsent = [] ∨ s.host.dest = none))) → Gives .eventSend s (· = s)) ∧
  (∀ s : State, s.inReset = false → s.id.isE = true → Gives .eventSend s fun t =>
      match s.nextMsg with | some (_, some _) => t = s.startMsg | _ => t = s) ∧
  (∀ (s u : State) (m : EvMsg) (l : List EvMsg) (d : Dest) (sq : Nat) (r : Option State), s.inReset = false → s.id.isE = false → s.host.unsent = m :: l →
      s.host.dest = some d → sq = (if m.die = 0 then ((s.reg (evtB + 0x44)).toNat + 1) % 2 ^ 32 else m.seq) →
      u = (if m.die = 0 then ({ s with host := { s.host with unsent := l } } : State).setReg (evtB + 0x44) (wd sq) else { s with host := { s.host with unsent := l } }) →
      r = u.toHost d 0x0C 0 sq m.die (fld (s.reg (evSrcA m.src)) 2 6) (m.body (m.count.getD (fld (s.reg (evSrcA m.src)) 16 16))) →
      Gives .eventSend s (· = r.getD s) ∧
      (∀ p, d.link = .eth p → r = if s.ethUp p then some (u.emit (.msg d 0x0C 0 sq m.die (m.body (m.count.getD (fld (s.reg (evSrcA m.src)) 16 16))))) else none) ∧
      (d.link = .pcie → s.ringOn = false → r = none))

/-- The rings, PERST_N, the host links, datagrams and ring messages as requests, and the answers of a host port (R66, R367 to R376). A tail in range is
stored and the ring bytes up to it are taken over and read; a head in range is stored and reading goes on; one out of range or not aligned sets
RING_ERR. RESET empties both rings. A ring message moves the head past it and is carried out. PERST_N resets the endpoint and the ring registers and
raises HST_PERST. A link change is recorded, once the links run, and raises HST_LINK, and one to the state the link has changes nothing; PCIe trains
at its rate and width, Ethernet at its configured rate. A datagram that is no message is discarded and counted. One that holds a request, and a ring
message that does, has exactly the effect of that request as a command, for each of the 21 requests. ARP, neighbour discovery and echo for an address
of the port are answered, and others are not. -/
def Obligations.HostLinks : Prop :=
  (∀ (s : State) (tail n : Nat) (bytes : List Byte), s.inReset = false → s.id.pcie = true → s.host.pcie.up = true → tail % 64 = 0 → tail < s.h2dSize →
      n = (tail + s.h2dSize - s.h2dTail) % s.h2dSize → Gives (.ringH2dTail tail bytes) s fun t =>
        ∃ u, u = ({ s with host := { s.host with h2d := s.host.h2d ++ (bytes.take n ++ List.replicate (n - bytes.length) 0) } } : State).setReg (ringB + 0x20) (wd tail) ∧
          t = u.readH2d (u.host.h2d.length / 64 + 1)) ∧
  (∀ (s : State) (head : Nat), s.inReset = false → s.id.pcie = true → s.host.pcie.up = true → head % 64 = 0 → head < s.d2hSize →
      Gives (.ringD2hHead head) s (· = (s.setReg (ringB + 0x2C) (wd head)).readH2d (s.host.h2d.length / 64 + 1))) ∧
  (∀ (s : State) (n : Nat), ((s.host.h2d.length < 16 ∨ s.ringOn = false ∨ s.d2hRoom 1024 = false) → s.readH2d n = s) ∧
      (16 ≤ s.host.h2d.length → s.ringOn = true → s.d2hRoom 1024 = true → s.readH2d (n + 1) = s.readRing.readH2d n)) ∧
  (∀ (s : State) (k : Nat), byteAt s.host.h2d 0 = 0 → k = s.h2dSize - s.h2dHead → 16 + half s.host.h2d 8 = k → k ≤ s.host.h2d.length → s.readRing =
      ({ s with host := { s.host with h2d := s.host.h2d.drop k } } : State).setReg (ringB + 0x24) (wd ((s.h2dHead + k) % s.h2dSize))) ∧
  (∀ (s : State) (a : Nat) (bytes : List Byte), s.inReset = false → s.id.pcie = true → s.host.pcie.up = true →
      ((a % 64 ≠ 0 ∨ s.h2dSize ≤ a) → Gives (.ringH2dTail a bytes) s (· = s.setF (ringB + 0x30) 2 1 1)) ∧
      ((a % 64 ≠ 0 ∨ s.d2hSize ≤ a) → Gives (.ringD2hHead a) s (· = s.setF (ringB + 0x30) 2 1 1))) ∧
  (∀ (s : State) (a : Nat) (bytes : List Byte) (v : Word), (s.inReset = true ∨ s.id.pcie = false ∨ s.host.pcie.up = false) →
      Gives (.ringH2dTail a bytes) s (· = s) ∧ Gives (.ringD2hHead a) s (· = s) ∧ Gives (.ringReset v) s (· = s)) ∧
  (∀ (s : State) (v : Word), s.inReset = false → s.id.pcie = true → s.host.pcie.up = true →
      (bitOf v 1 = true → Gives (.ringReset v) s fun t =>
        t.host = { s.host with h2d := [] } ∧ t.h2dTail = 0 ∧ t.h2dHead = 0 ∧ t.d2hTail = 0 ∧ t.d2hHead = 0 ∧ t = { s with regs := t.regs, host := t.host }) ∧
      (s.host.h2d.length < 16 → Gives (.ringReset v) s fun t => bitOf (t.reg (ringB + 8)) 0 = bitOf v 0 ∧
        fld (t.reg (ringB + 8)) 4 4 = Nat.min 8 (fld v 4 4) ∧ fld (t.reg (ringB + 8)) 8 4 = Nat.min 8 (fld v 8 4))) ∧
  (∀ s : State, s.inReset = false → s.id.pcie = true → Gives .perstN s fun t =>
      t.host.pcie = LinkState.down ∧ t.host.h2d = [] ∧ (∀ a, ringB ≤ a → t.reg a = resetOf s.id a) ∧ t.evFlag 251 = true ∧
      (s.host.pcie.up = true → t.evFlag 248 = true) ∧ t.jobs = s.jobs ∧ t.sched = s.sched ∧ t.host.eth = s.host.eth ∧ t.host.dest = s.host.dest) ∧
  (∀ s : State, (s.inReset = true ∨ s.id.pcie = false) → Gives .perstN s (· = s)) ∧
  (∀ (s : State) (p rate width : Nat) (up : Bool) (l : LinkState), s.inReset = false → (up = true → 8 ≤ s.boot.stage ∧ s.flag (ethB + 0x100 * p) 0 = true) →
      p < s.id.ethPorts → l = (if up then { up := true, rate := s.f (ethB + 0x100 * p) 1 2, width := 1 } else .down) → s.host.eth.getD p .down ≠ l →
      Gives (.hostLinkChange (.eth p) up rate width) s fun t => t.evFlag 248 = true ∧ t.host.eth = updAt s.host.eth p (fun _ => l) ∧
        (s.id.isH = false → Occurs [248] { s with host := { s.host with eth := updAt s.host.eth p (fun _ => l) } } t) ∧
        (s.id.isH = true → t.brg.outQ = s.brg.outQ ++ [{ vc := 0, body := t.rateMsg }])) ∧
  (∀ (s : State) (rate width : Nat) (up : Bool) (l : LinkState), s.inReset = false → (up = true → 8 ≤ s.boot.stage) → s.id.pcie = true →
      l = (if up then { up := true, rate := clampN 3 (if s.boot.image.isSome then 5 else 3) rate, width := if width < 2 then 1 else if width < 4 then 2 else 4 } else .down) →
      s.host.pcie ≠ l → Gives (.hostLinkChange .pcie up rate width) s fun t => t.evFlag 248 = true ∧ t.host.pcie = l ∧
        t.host.retrains = (if s.host.pcie.up && up then s.host.retrains + 1 else s.host.retrains) ∧ t.host.eth = s.host.eth ∧ t.jobs = s.jobs ∧ t.sched = s.sched ∧
        t.brg.outQ = s.brg.outQ ++ (if s.id.isH then [{ vc := 0, body := t.rateMsg }] else [])) ∧
  (∀ (s : State) (l : Link) (rate width : Nat) (up : Bool), (s.inReset = true ∨ (up = true ∧ s.boot.stage < 8) ∨ (match l with
        | .pcie => s.id.pcie = false ∨ (up = false ∧ s.host.pcie = .down)
        | .eth p => s.id.ethPorts ≤ p ∨ (up = true ∧ s.flag (ethB + 0x100 * p) 0 = false) ∨ (up = false ∧ s.host.eth.getD p .down = .down))) →
      Gives (.hostLinkChange l up rate width) s (· = s)) ∧
  (∀ (s : State) (d : Datagram), s.inReset = false → s.portOn d.port = true →
      (d.frag = true ∨ d.sumOk = false ∨ d.dport ≠ s.f (ethB + 0x100 * d.port) 16 16 ∨ s.flag (ethB + 0x100 * d.port) (if d.v6 then 3 else 4) = false ∨
        d.payload.length < 16) → Gives (.udpDatagram d) s (· = s.bump (ethB + 0x100 * d.port + 0x28) 16 16 1)) ∧
  (∀ (s : State) (d : Datagram), s.inReset = false → s.portOn d.port = true → d.frag = false → d.sumOk = true →
      d.dport = s.f (ethB + 0x100 * d.port) 16 16 → s.flag (ethB + 0x100 * d.port) (if d.v6 then 3 else 4) = true → 16 ≤ d.payload.length →
      Gives (.udpDatagram d) s (· = s.takeMsg (.eth d.port) d.src d.sport d.payload)) ∧
  (∀ (s : State) (d : Datagram), (s.inReset = true ∨ s.portOn d.port = false) → Gives (.udpDatagram d) s (· = s)) ∧
  (∀ (s : State) (h : ReqHdr) (job page table inst off addr count sec ns port ch region ty : Nat) (f : PageFrag) (p : BandPart) (d : List Byte)
      (l : List RegEntry) (w : List WinEntry) (dt : Int) (i : Instr) (b : List Byte), i.wf = true → (-(2 ^ 63) ≤ dt ∧ dt < 2 ^ 63) → s.id.hostSide = true →
      b.length < 2 ^ 16 → f.entries.length < 256 → h.crc = bodyCrc b →
      (i, ty, b) ∈ [(Instr.hello h, 1, []), (.jobOpen h job, 2, jobBody job), (.jobClose h job, 3, jobBody job), (.pageDesc h f, 4, fragBody f),
        (.bandData h p, 5, partBody p), (.bandRaw h p, 6, partBody p), (.pageRelease h job page, 7, leBytes 2 job ++ leBytes 2 page),
        (.queryGlobalStatus h, 8, [0]), (.queryTokens h, 8, [1]), (.queryResidency h job page, 8, [2, 0] ++ leBytes 2 job ++ leBytes 2 page),
        (.setTable h table inst off d, 9, leBytes 2 table ++ leBytes 2 inst ++ leBytes 4 off ++ d),
        (.readReg h addr count, 0xA, leBytes 4 addr ++ leBytes 2 count ++ [0, 0]), (.writeReg h l, 0xB, entriesBody l),
        (.writeRegWindow h w, 0xB, winBody w), (.timeRead h, 0xE, [0, 0, 0, 0]),
        (.timeSet h sec ns, 0xE, [1, 0, 0, 0] ++ leBytes 8 sec ++ leBytes 4 ns),
        (.timeStep h dt, 0xE, [2, 0, 0, 0] ++ leBytes 8 (wrapN 64 dt)), (.consumableReport h, 0x10, [0, 0, 0, 0]),
        (.consumableAuthenticate h port, 0x10, [1, BitVec.ofNat 8 port, 0, 0]),
        (.retireRegion (some h) ch region, 0x0F, wordBytes (retWord ch region false)),
        (.retireChannel (some h) ch, 0x0F, wordBytes (retWord ch 0 true))] →
      exec i s = .next (s.takeMsg h.link h.src h.port (msgBytes ty 0 h.seq h.die b))) ∧
  (∀ (s u : State) (ty sq die k n : Nat) (b pad : List Byte), ty ≠ 0 → ty < 256 → b.length < 2 ^ 16 → s.host.h2d = msgBytes ty 0 sq die b ++ pad →
      n = ringLen (16 + b.length) → k = Nat.min n s.host.h2d.length →
      u = ({ s with host := { s.host with h2d := s.host.h2d.drop k } } : State).setReg (ringB + 0x24) (wd ((s.h2dHead + k) % s.h2dSize)) →
      s.readRing = u.takeMsg .pcie 0 0 (msgBytes ty 0 sq die b)) ∧
  (∀ (s : State) (p ip mac : Nat), s.inReset = false → Gives (.arpRequest p ip mac) s fun t =>
      t = if s.mine p false ip then s.emit (.net p 1 (beBytes 6 (s.otp.mac.getD p 0) ++ beBytes 4 ip ++ beBytes 6 mac)) else s) ∧
  (∀ (s : State) (p ip mac : Nat), s.inReset = false → Gives (.neighbourDiscovery p ip mac) s fun t =>
      t = if s.mine p true ip then s.emit (.net p 2 (beBytes 6 (s.otp.mac.getD p 0) ++ beBytes 16 ip ++ beBytes 6 mac)) else s) ∧
  (∀ (s : State) (p ip : Nat) (v6 : Bool) (data : List Byte), s.inReset = false → Gives (.echoRequest p v6 ip data) s fun t =>
      t = if s.mine p v6 ip then s.emit (.net p (if v6 then 4 else 3) data) else s) ∧
  (∀ (s : State) (p ip mac : Nat) (v6 : Bool) (data : List Byte), s.inReset = true → Gives (.arpRequest p ip mac) s (· = s) ∧
      Gives (.neighbourDiscovery p ip mac) s (· = s) ∧ Gives (.echoRequest p v6 ip data) s (· = s))

/-- The link of the isolation bridge: training, messages and flits, replay, retraining, lanes and loss (R229 to R239, R243, R246, R434). Step 9 ends with
the attempt: of a single-die package with the on-die path up and its pools full, of a D package with the link up over the permitted lanes, full pools
and BR_HELLO queued where a lane came up and a peer answered, else down. A message with its credits starts, takes them and leaves its queue, on either
path. A flit that fails its check is counted and, like one out of order, gets a replay requested once; a repeated one is taken for nothing; one in
order that ends no message is appended to its channel's message and occupies its credits, and a whole message is a request, a reply, an EVENT, or
counted as bad. A replay sends every unacknowledged flit again in order; it starts after 4 us, is counted and raises BRG_REPLAY, and at the limit a
retrain starts instead. Loss of lock of a lane in use, errors at the limit, and a rejoin that falls due each start a retrain, a rejoin only when no
band data is in flight. A retrain that passes ends in the link being up, with each failed lane counted; one without lanes or with books that disagree
in its being down. When the link goes down its flits are gone, and bands on their way are in a store again. Elsewhere nothing changes. -/
def Obligations.BridgeLink : Prop :=
  (∀ (s : State) (lanes : Nat) (peer : Option BridgePeer), s.inReset = false → s.boot.stage = 9 → s.id.dual = false → Gives (.bridgeTraining lanes peer) s
      (· = { s with brg := { s.brg with st := .up, vcs := fullPools }, boot := { s.boot with stage := 10, step9 := some s.clk } })) ∧
  (∀ (s : State) (lanes : Nat) (p : BridgePeer), s.inReset = false → s.id.dual = true → s.id.isW = false → (s.boot.stage = 9 ∨ s.brg.st = .train) →
      s.linkLanes lanes ≠ 0 → Gives (.bridgeTraining lanes (some p)) s fun t =>
        t.brg.st = .up ∧ t.brg.laneUp = s.linkLanes lanes ∧ t.brg.vcs = fullPools ∧ t.brg.peer = some p ∧ t.boot.peerPair = some p.pairId ∧ t.brg.buf = [] ∧
        t.brg.txSeq = Config.freeValue s.free % 4096 ∧ t.brg.rxSeq = Config.freeValue (s.free + 1) % 4096 ∧ t.free = s.free + 2 ∧ t.jobs = s.jobs ∧
        t.boot.stage = (if s.boot.stage = 9 then 10 else s.boot.stage) ∧ t.sched = s.sched ∧
        (s.id.isH = true → fld (t.reg brgB) 0 4 = fld p.settings 0 4 ∧ fld (t.reg brgB) 16 8 = fld p.settings 16 8 ∧ fld (t.reg brgB) 24 1 = fld p.settings 24 1) ∧
        ∃ q, t.brg.outQ = s.brg.outQ ++ { vc := 0, body := .hello { glbId := s.id.glbId, pairId := s.boot.image.map (·.pairId), settings := s.reg brgB } ((s.boot.image.map (·.gen)).getD 0) } :: q) ∧
  (∀ (s : State) (lanes : Nat) (peer : Option BridgePeer), s.inReset = false → s.id.dual = true → (s.boot.stage = 9 ∨ s.brg.st = .train) →
      (peer = none ∨ s.linkLanes lanes = 0) → Gives (.bridgeTraining lanes peer) s fun t =>
        t.brg.st = .down ∧ t.brg.laneUp = 0 ∧ t.evFlag 202 = true ∧ t.boot.stage = (if s.boot.stage = 9 then 10 else s.boot.stage)) ∧
  (∀ (s : State) (lanes : Nat) (peer : Option BridgePeer), (s.inReset = true ∨ (s.boot.stage ≠ 9 ∧ (s.id.dual = false ∨ s.brg.st ≠ .train))) →
      Gives (.bridgeTraining lanes peer) s (· = s)) ∧
  (∀ s : State, s.inReset = false → s.id.dual = true → s.brg.st = .down → Gives .bridgeTrainingAttempt s fun t =>
      t.brg.st = .train ∧ t.out = s.out ++ [.train] ∧ t.evFlag 202 = true ∧ (∀ a, a ∉ evRegs [202] → t.reg a = s.reg a) ∧ t.jobs = s.jobs) ∧
  (∀ s : State, (s.inReset = true ∨ s.id.dual = false ∨ s.brg.st ≠ .down) → Gives .bridgeTrainingAttempt s (· = s)) ∧
  (∀ (s : State) (m : BrMsg) (e : Option EvMsg), s.inReset = false → s.id.dual = true → s.brg.st = .up → s.brg.vcs.length = 4 → m.vc < 4 →
      s.nextMsg = some (m, e) → Gives .bridgeMessageSend s fun t =>
        .bridge m.vc m.body ∈ t.out ∧ (t.vc m.vc).avail = (s.vc m.vc).avail - m.need ∧ (∀ v, v ≠ m.vc → (t.vc v).avail = (s.vc v).avail) ∧
        (e = none → t.brg.outQ = eraseFirst (fun (x : BrMsg) => x == m) s.brg.outQ ∧ t.regs = s.regs ∧ t.host = s.host) ∧
        (∀ x, e = some x → t.brg.outQ = s.brg.outQ ∧ t.host.unsent = eraseFirst (· == x) s.host.unsent) ∧ t.jobs = s.jobs ∧ t.brg.st = .up) ∧
  (∀ s : State, s.inReset = false → s.id.dual = true → s.brg.st = .up → s.nextMsg = none → Gives .bridgeMessageSend s fun t =>
      t.brg.outQ = s.brg.outQ ∧ t.host = s.host ∧ (∀ v, (t.vc v).avail = (s.vc v).avail) ∧ t = { s with brg := t.brg, out := t.out }) ∧
  (∀ (s : State) (m : BrMsg) (e : Option EvMsg), s.inReset = false → s.id.dual = false → s.id.isE = false → s.brg.st = .up → s.brg.vcs.length = 4 → m.vc < 4 →
      s.nextMsg = some (m, e) → Gives .bridgeMessageSend s fun t =>
        .bridge m.vc m.body ∈ t.out ∧ t.vc m.vc = { s.vc m.vc with avail := (s.vc m.vc).avail - m.need, occ := (s.vc m.vc).occ + m.need } ∧
        (∀ v, v ≠ m.vc → t.vc v = s.vc v) ∧ t.brg.outQ = eraseFirst (fun (x : BrMsg) => x == m) s.brg.outQ ∧ t.regs = s.regs ∧
        (∀ r off d b, m.body = .band r off d → s.band? r = some b → t.band? r = some { b with moved := off + d.length })) ∧
  (∀ s : State, (s.inReset = true ∨ (s.id.dual = false ∧ (s.brg.st ≠ .up ∨ s.nextMsg = none)) ∨ (s.id.dual = true ∧ s.brg.st ≠ .up ∧ s.brg.st ≠ .replay)) →
      Gives .bridgeMessageSend s (· = s)) ∧
  (∀ (s : State) (f : List Byte), (s.inReset = true ∨ s.id.dual = false ∨ (s.brg.st ≠ .up ∧ s.brg.st ≠ .replay)) → Gives (.flitReceive f) s (· = s)) ∧
  (∀ (s : State) (f : List Byte) (bad : Bool) (d : Nat), s.inReset = false → s.id.dual = true → (s.brg.st = .up ∨ s.brg.st = .replay) →
      (bad = true ↔ (f.length ≠ 272 ∨ crc32 (f.take 268) ≠ quad f 268)) → d = (quad f 0 % 4096 + 4096 - s.brg.rxSeq) % 4096 →
      (bad = true ∨ (2 ≤ d ∧ d < 4032)) → Gives (.flitReceive f) s fun t =>
        t.regs = (if bad then s.bump (brgB + 0x10) 0 16 1 else s).regs ∧ t.brg.nakSent = true ∧ t.brg.rxSeq = s.brg.rxSeq ∧ t.brg.inBuf = s.brg.inBuf ∧
        (s.brg.nakSent = true → t.out = s.out) ∧ (s.brg.nakSent = false → s.brg.buf.length < 64 → s.brg.resend = false →
          ∃ x, t.out = s.out ++ [.flit x] ∧ natBit (quad x 0) 18 = true) ∧
        (s.brg.nakSent = false → (64 ≤ s.brg.buf.length ∨ s.brg.resend = true) → t.out = s.out ∧ t.brg.nakDue = true) ∧
        t = { s with regs := t.regs, brg := t.brg, out := t.out }) ∧
  (∀ (s : State) (f : List Byte) (d : Nat), s.inReset = false → s.id.dual = true → (s.brg.st = .up ∨ s.brg.st = .replay) → f.length = 272 →
      crc32 (f.take 268) = quad f 268 → d = (quad f 0 % 4096 + 4096 - s.brg.rxSeq) % 4096 → (d = 0 ∨ 4032 ≤ d) → Gives (.flitReceive f) s fun t =>
        t.brg.rxSeq = s.brg.rxSeq ∧ t.brg.inBuf = s.brg.inBuf ∧ t.jobs = s.jobs ∧ t.sched = s.sched ∧ t.mem = s.mem) ∧
  (∀ (s : State) (f : List Byte), s.inReset = false → s.id.dual = true → (s.brg.st = .up ∨ s.brg.st = .replay) → f.length = 272 →
      crc32 (f.take 268) = quad f 268 → (quad f 0 % 4096 + 4096 - s.brg.rxSeq) % 4096 = 1 → Gives (.flitReceive f) s (· = s.flitTake f (quad f 0) (quad f 4))) ∧
  (∀ (s : State) (f : List Byte) (v : Nat), s.inReset = false → s.id.dual = true → (s.brg.st = .up ∨ s.brg.st = .replay) → f.length = 272 →
      crc32 (f.take 268) = quad f 268 → (quad f 0 % 4096 + 4096 - s.brg.rxSeq) % 4096 = 1 → natBit (quad f 0) 16 = false → natBit (quad f 0) 15 = false →
      v = quad f 0 / 4096 % 4 → s.brg.vcs.length = 4 → s.brg.inBuf.length = 4 → Gives (.flitReceive f) s fun t =>
        t.brg.rxSeq = quad f 0 % 4096 ∧ t.brg.nakSent = false ∧
        t.brg.inBuf = updAt s.brg.inBuf v (fun _ =>
          (if natBit (quad f 0) 14 then [] else s.brg.inBuf.getD v []) ++ ((f.drop 12).take 256).take (quad f 8 % 512)) ∧
        (t.vc v).occ = (s.vc v).occ + ceilDiv (((f.drop 12).take 256).take (quad f 8 % 512)).length (vcSize v) ∧ t.jobs = s.jobs ∧ t.sched = s.sched) ∧
  (∀ (s : State) (v : Nat) (m : List Byte), (m.length < 16 ∨ s.mayCross v (byteAt m 0) = false → Occurs [205] (s.bump (brgB + 0x1C) 0 16 1) (s.bridgeMsg v m)) ∧
      (16 ≤ m.length → s.mayCross v (byteAt m 0) = true → byteAt m 0 < 0x80 → s.id.isE = true → s.bridgeMsg v m = s.takeMsg .pcie 0 0 m) ∧
      (16 ≤ m.length → s.mayCross v (byteAt m 0) = true → byteAt m 0 = 0xC → s.id.isE = false → s.bridgeMsg v m = { s with host := { s.host with unsent := queueEv s.host.unsent { src := half m 16, detail := quad m 20, ns := quad m 24, sec := ofLe ((m.drop 28).take 6), pkg := byteAt m 34, extra := m.drop 36, count := some (half m 18), die := 1, seq := quad m 4 } } })) ∧
  (∀ s : State, s.inReset = false → s.brg.buf ≠ [] → s.brg.resend = false → (s.brg.st = .up ∨ s.brg.st = .replay) → Gives .replayTimeout s fun t =>
      t.brg.st = (if s.brg.replays + 1 < s.f brgB 4 4 then .replay else .retrain) ∧ t.brg.replays = s.brg.replays + 1 ∧ t.brg.resend = true ∧
      t.brg.buf = s.brg.buf ∧ t.evFlag 203 = true ∧ t.out = s.out ++ (if s.brg.replays + 1 < s.f brgB 4 4 then [] else [.train]) ∧
      fld (t.reg (brgB + 0x10)) 16 16 = satN 16 (fld (s.reg (brgB + 0x10)) 16 16 + 1)) ∧
  (∀ s : State, (s.inReset = true ∨ s.brg.buf = [] ∨ s.brg.resend = true ∨ (s.brg.st ≠ .up ∧ s.brg.st ≠ .replay)) → Gives .replayTimeout s (· = s)) ∧
  (∀ s : State, s.inReset = false → s.brg.st = .replay → s.brg.resend = true → Gives .replay s
      (· = { s with brg := { s.brg with resend := false, nakDue := s.brg.nakDue && s.brg.buf.isEmpty, ackDue := s.brg.ackDue && s.brg.buf.isEmpty }, out := s.out ++ (s.brg.buf.zip (upTo s.brg.buf.length)).map (fun x => .flit (x.1.bytes (s.brg.nakDue && x.2 == 0) s.brg.rxSeq)) })) ∧
  (∀ s : State, (s.inReset = true ∨ s.brg.st ≠ .replay ∨ s.brg.resend = false) → Gives .replay s (· = s)) ∧
  (∀ (s : State) (lane : Nat), s.inReset = false → natBit s.brg.laneUp lane = true → (s.brg.st = .up ∨ s.brg.st = .replay) → Gives (.laneLockLoss lane) s
      (· = ({ s with brg := { s.brg with st := .retrain, rejoinDue := none } } : State).emit .train)) ∧
  (∀ (s : State) (lane : Nat), (s.inReset = true ∨ natBit s.brg.laneUp lane = false ∨ (s.brg.st ≠ .up ∧ s.brg.st ≠ .replay)) → Gives (.laneLockLoss lane) s (· = s)) ∧
  (∀ (s : State) (lane n : Nat) (l : List (Nat × Nat × Nat)), s.inReset = false → natBit s.brg.laneUp lane = true →
      l = s.brg.skp.filter (fun e => decide (s.clk < e.2.1 + 200000)) ++ [(lane, s.clk, n)] → Gives (.skpErrors lane n) s fun t =>
        if sumN ((l.filter (fun e => e.1 == lane)).map (·.2.2)) < s.f brgB 8 8 then t = { s with brg := { s.brg with skp := l } }
        else if s.brg.st = .up ∨ s.brg.st = .replay then
          t = ({ s with brg := { s.brg with skp := l.filter (fun e => e.1 != lane), st := .retrain, rejoinDue := none } } : State).emit .train
        else t = { s with brg := { s.brg with skp := l.filter (fun e => e.1 != lane) } }) ∧
  (∀ (s : State) (lane n : Nat), (s.inReset = true ∨ natBit s.brg.laneUp lane = false) → Gives (.skpErrors lane n) s (· = s)) ∧
  (∀ s : State, s.inReset = false → s.brg.dropped ≠ 0 → s.brg.rejoin ≠ 0 → s.brg.rejoinDue = none → Gives .rejoinRetrainDue s fun t =>
      if s.vc1Flying = true then t = { s with brg := { s.brg with rejoinDue := some (s.clk + 20000000) } }
      else if s.brg.st = .up ∨ s.brg.st = .replay then
        t = { s with brg := { s.brg with st := .retrain, rejoinDue := none, rejoining := true }, out := s.out ++ [.train] }
      else t = s) ∧
  (∀ s : State, (s.inReset = true ∨ s.brg.dropped = 0 ∨ s.brg.rejoin = 0 ∨ s.brg.rejoinDue ≠ none) → Gives .rejoinRetrainDue s (· = s)) ∧
  (∀ (s : State) (pass dur : Nat) (books : List (Nat × Nat × Nat)), s.inReset = false → s.brg.st = .retrain → s.linkLanes pass ≠ 0 →
      s.booksOk books = true → Gives (.retrainEnd pass dur books) s fun t =>
        t.brg.st = .up ∧ t.brg.laneUp = s.linkLanes pass ∧ t.brg.resend = false ∧ t.evFlag 201 = true ∧ t.jobs = s.jobs ∧ t.sched = s.sched ∧
        fld (t.reg (brgB + 0x14)) 0 16 = satN 16 (fld (s.reg (brgB + 0x14)) 0 16 + 1) ∧
        fld (t.reg (brgB + 0x18)) 0 16 = Nat.max (s.f (brgB + 0x18) 0 16) (satN 16 dur) ∧ .bridge 0 (.audit ((upTo 4).map (s.book 0))) ∈ t.out ∧
        (∀ l, l < 8 → natBit s.brg.laneOut l = false → natBit s.brg.dropped l = false → natBit pass l = false →
          fld (t.reg (brgB + 0xC)) (4 * l) 4 = Nat.min 8 (s.f (brgB + 0xC) (4 * l) 4 + 1) ∧ t.evFlag 200 = true)) ∧
  (∀ (s : State) (pass dur : Nat) (books : List (Nat × Nat × Nat)), s.inReset = false → s.brg.st = .retrain →
      (s.linkLanes pass = 0 ∨ s.booksOk books = false) → Gives (.retrainEnd pass dur books) s fun t =>
        t.brg.st = .down ∧ t.brg.laneUp = 0 ∧ t.evFlag 201 = true ∧ t.evFlag 202 = true ∧ (s.linkLanes pass ≠ 0 → t.evFlag 206 = true)) ∧
  (∀ (s : State) (pass dur : Nat) (books : List (Nat × Nat × Nat)), (s.inReset = true ∨ s.brg.st ≠ .retrain) → Gives (.retrainEnd pass dur books) s (· = s)) ∧
  (∀ s : State, s.inReset = false → s.id.dual = true → s.brg.st ≠ .down → Gives .bridgeDown s fun t =>
      t.brg.st = .down ∧ t.brg.laneUp = 0 ∧ t.brg.buf = [] ∧ t.brg.slots = [] ∧ t.brg.wanted = [] ∧ t.brg.vcs = s.brg.vcs ∧ t.host.relayed = [] ∧ t.evFlag 202 = true ∧
      (∀ r b, s.band? r = some b → b.res = .inTransit → ∃ b', t.band? r = some b' ∧ (b'.res = .inPageStore ∨ b'.res = .resident)) ∧
      (∀ f ∈ s.brg.buf ++ s.brg.slots, ∀ e, f.ev = some e → ∃ m ∈ t.host.unsent, m.src = e.src ∧ m.die = e.die ∧ m.pkg = e.pkg) ∧ t.mem = s.mem) ∧
  (∀ s : State, (s.inReset = true ∨ s.id.dual = false ∨ s.brg.st = .down) → Gives .bridgeDown s (· = s))

/-- What each bridge message does where it arrives (R21, R29, R68, R69, R93, R240 to R243, R263, R330, R434, R435). BR_HELLO gives the peer's identity and
PAIR_ID, and on the host die the engine die's governing settings. BR_READY at the host die records that the engine die is ready, returns the bands
held there, and lets a host die that waits raise READY. BR_BAND_REQ replaces the list of wanted bands. BR_BAND lays its bytes over what has arrived of
a band that is not there yet; BR_RESIDENCY sets the band's state, and one on its way takes a DMA channel; BR_RATE records the delivery window and the
links' rate. BR_FAULT records the peer's state and sets MODE, and a host die newly in CRIT makes the sheets of the engine die waste. BR_MON is printed
by the host die and carried out by the engine die. BR_RETIRE of a channel makes resident bands IN_PAGE_STORE. A message on the wrong die or channel is
counted and raises BRG_BADMSG, and one while the link is down is none. The leader sends its mark and answers the follower's with its two stamps; the
follower stamps a mark and answers it, takes offset and delay from the four, and after missed exchanges the time is not good. -/
def Obligations.BridgeMessages : Prop :=
  (∀ (s : State) (peer : BridgePeer) (r : BandRef) (l : List BandRef) (b : List Byte) (w : Word) (x y z : Nat) (p q i : Bool), s.brgRx = false →
      Gives (.brHello peer x) s (· = s) ∧ Gives (.brReady w) s (· = s) ∧ Gives (.brBandReq l) s (· = s) ∧ Gives (.brBand r x b) s (· = s) ∧
      Gives (.brResidency r x) s (· = s) ∧ Gives (.brRate x y z) s (· = s) ∧ Gives (.brFault p q) s (· = s) ∧ Gives (.brMon b) s (· = s) ∧
      Gives (.brRetire x y i) s (· = s)) ∧
  (∀ (s : State) (r : BandRef) (l : List BandRef) (b : List Byte) (w : Word) (x y z : Nat), s.brgRx = true →
      (s.id.isH = false → Gives (.brReady w) s (Occurs [205] (s.bump (brgB + 0x1C) 0 16 1)) ∧ Gives (.brBandReq l) s (Occurs [205] (s.bump (brgB + 0x1C) 0 16 1))) ∧
      (s.id.isE = false → Gives (.brBand r x b) s (Occurs [205] (s.bump (brgB + 0x1C) 0 16 1)) ∧ Gives (.brRate x y z) s (Occurs [205] (s.bump (brgB + 0x1C) 0 16 1)))) ∧
  (∀ (s : State) (peer : BridgePeer) (gen : Nat), s.brgRx = true → Gives (.brHello peer gen) s fun t =>
      t.brg.peer = some peer ∧ t.boot.peerPair = some peer.pairId ∧ t.jobs = s.jobs ∧ t.sched = s.sched ∧ t.mem = s.mem ∧
      (s.boot.mode ≠ 0 → t.boot.reason = t.plinthWhy) ∧
      (s.id.isH = true → fld (t.reg brgB) 0 4 = fld peer.settings 0 4 ∧ fld (t.reg brgB) 16 8 = fld peer.settings 16 8 ∧
        fld (t.reg brgB) 24 1 = fld peer.settings 24 1) ∧ (s.id.isH = false → t.reg brgB = s.reg brgB)) ∧
  (∀ (s : State) (w : Word), s.brgRx = true → s.id.isH = true → Gives (.brReady w) s fun t =>
      t.boot.peerReady = true ∧ (∀ r b, s.band? r = some b → b.res.held = true → ∃ b', t.band? r = some b' ∧ b'.res = .inPageStore) ∧
      (∀ r b, s.band? r = some b → b.res.held = false → t.band? r = some b) ∧
      (s.boot.stage = 10 → s.clks.rootLocked = true → t.ready = true) ∧ (s.boot.stage ≠ 10 → t.ready = s.ready) ∧ t.mem = s.mem) ∧
  (∀ (s : State) (l : List BandRef), s.brgRx = true → s.id.isH = true → Gives (.brBandReq l) s (· = { s with brg := { s.brg with wanted := l } })) ∧
  (∀ (s : State) (r : BandRef) (off : Nat) (data : List Byte) (b : Band), s.brgRx = true → s.id.isE = true → s.band? r = some b →
      Gives (.brBand r off data) s fun t =>
        t.band? r = some (if b.res = .inTransit ∨ b.res = .inPageStore then { b with got := layPart b.got off data, moved := (layPart b.got off data).length } else b) ∧
        t = { s with jobs := t.jobs, dma := (s.seqMoved (.land r) data.length).dma }) ∧
  (∀ (s : State) (r : BandRef) (res : Nat) (b : Band) (x : Res), s.brgRx = true → s.band? r = some b → x = Res.ofCode res → Gives (.brResidency r res) s fun t =>
      t.band? r = some { b with res := x, t0 := if x = .inTransit ∧ s.id.isE = true then s.fab else b.t0, got := if s.id.isE = true ∧ (x = .absent ∨ x = .inPageStore) then [] else b.got } ∧
      (x ≠ .inTransit → x ≠ .inPageStore → t.dma = s.dma ∧ t.brg = s.brg) ∧
      (x = .inTransit → s.id.isE = true → ∀ n, s.seqFree 0 = some n → n < s.dma.length → (t.dm n).use = some (.land r) ∧ (t.dm n).st = .run) ∧
      (x = .inPageStore → t.dma = ((s.seqDrop (.send r)).seqDrop (.land r)).dma ∧ t.brg = (s.dropParts r).brg) ∧ t.codec = s.codec ∧ t.sched = s.sched) ∧
  (∀ (s : State) (n k links : Nat), s.brgRx = true → s.id.isE = true → Gives (.brRate n k links) s
      (· = { s with brg := { s.brg with hostRate := some (n, k), hostLinks := links } })) ∧
  (∀ (s : State) (plinth thermal : Bool), s.brgRx = true → Gives (.brFault plinth thermal) s fun t =>
      t.brg.peerFault = b2n (!plinth) + 2 * b2n thermal ∧ t.jobs = s.jobs ∧ t.mem = s.mem ∧ (s.boot.mode = 0 → t.boot = s.boot) ∧
      (s.boot.mode ≠ 0 → t.boot.reason = t.plinthWhy ∧ t.boot.mode = (if t.plinthWhy = 0 then 1 else 2) ∧ (t.boot.mode ≠ s.boot.mode → t.evFlag 12 = true)) ∧
      (s.id.isE = false ∨ thermal = false ∨ natBit s.brg.peerFault 1 = true → t.sched = s.sched) ∧
      (s.id.isE = true → thermal = true → natBit s.brg.peerFault 1 = false → s.sched.toks.length = 16 → ∀ k, k < 16 → (s.tok k).busy = true →
        natBit (t.tok k).flags fWaste = true ∧ (t.tok k).dark = true)) ∧
  (∀ (s : State) (l : List Byte), s.brgRx = true → s.id.isE = false → Gives (.brMon l) s (· = s.emit (.text (String.ofList (lineOf l))))) ∧
  (∀ (s : State) (l : List Byte), s.brgRx = true → s.id.isE = true → monCommand l = none → Gives (.brMon l) s fun t =>
      t.brg.outQ = s.brg.outQ ++ (monLines sBadType []).map (fun x => { vc := 0, body := .mon (textBytes x) }) ∧
      t = { s.bump (dbgB + 8) 16 16 1 with brg := { s.brg with outQ := t.brg.outQ } }) ∧
  (∀ (s u : State) (l : List Byte) (o : Bool) (run : State → MonAns) (c : Nat) (x : List String), s.brgRx = true → s.id.isE = true → monCommand l = some (o, run) →
      s.monRun o run = (u, c, x) → Gives (.brMon l) s (· = (monLines c x).foldl (fun v y => v.toBridge 0 (.mon (textBytes y))) u)) ∧
  (∀ (s : State) (ch region : Nat), s.brgRx = true → s.id.isH = true → Gives (.brRetire ch region true) s fun t =>
      (∀ r b, s.band? r = some b → t.band? r = some (if b.res = .resident then { b with res := .inPageStore } else b)) ∧ t = { s with jobs := t.jobs }) ∧
  (∀ (s : State) (ch region : Nat) (w : Bool), (s.id.isH = false ∨ w = false) → Gives (.brRetire ch region w) s (· = s)) ∧
  (∀ (s : State) (vc type : Nat), s.inReset = false → s.id.dual = true → vc < 4 → type < 256 → Gives (.brBadMessage vc type) s
      (Occurs [205] (s.bump (brgB + 0x1C) 0 16 1))) ∧
  (∀ (s : State) (vc type : Nat), (s.inReset = true ∨ s.id.dual = false ∨ 4 ≤ vc ∨ 256 ≤ type) → Gives (.brBadMessage vc type) s (· = s)) ∧
  (∀ (s u : State), s.inReset = false → s.id.dual = true → s.id.isW = false → (s.brg.st = .up ∨ s.brg.st = .replay) →
      u = (if s.brg.t1 = none ∧ s.brg.t2 = none ∧ s.markWaits = false then { s with brg := { s.brg with timeDir := s.flag brgB 24 } } else s) →
      Gives .brTimeMark s fun t =>
        if u.follower = true then t = { u with brg := { u.brg with t2 := some s.ns, t3 := none, laneChanged := false, outQ := s.brg.outQ ++ [{ vc := 2, body := .timeMark }] } }
        else match s.brg.t1 with
          | some t1 =>
            if s.ns < t1 + 1000000 then
              t = { u with brg := { u.brg with t1 := none, laneChanged := false, outQ := s.brg.outQ ++ (if s.brg.laneChanged then [] else [{ vc := 2, body := .timeFollow t1 s.ns }]) } }
            else if s.markWaits = true then t = u else t = { u with brg := { u.brg with t1 := none, outQ := s.brg.outQ ++ [{ vc := 2, body := .timeMark }] } }
          | none => if s.markWaits = true then t = u else t = { u with brg := { u.brg with outQ := s.brg.outQ ++ [{ vc := 2, body := .timeMark }] } }) ∧
  (∀ s : State, s.inReset = false → s.id.dual = true → s.brg.st ≠ .up → s.brg.st ≠ .replay → Gives .brTimeMark s (· = { s with brg := { s.brg with t1 := none } })) ∧
  (∀ (s : State) (t1 t4 : Nat), (s.inReset = true ∨ s.id.dual = false) → Gives .brTimeMark s (· = s) ∧ Gives (.brTimeFollow t1 t4) s (· = s) ∧
      Gives .timeExchangeMissed s (· = s)) ∧
  (∀ (s : State) (t1 t2 t3 t4 : Nat) (o d : Int), s.inReset = false → s.follower = true → s.brg.laneChanged = false → s.brg.t2 = some t2 → s.brg.t3 = some t3 →
      o = ((t2 : Int) - t1 - ((t4 : Int) - t3)) / 2 → d = ((t2 : Int) - t1 + ((t4 : Int) - t3)) / 2 → Gives (.brTimeFollow t1 t4) s fun t =>
        t = s.timeSample o d ∧ t.brg.t2 = none ∧ t.brg.t3 = none ∧ t.brg.timeGood = (if o.natAbs < 4 then s.brg.timeGood + 1 else 0) ∧
        t.brg.timeOk = (s.brg.timeOk || decide (4 ≤ t.brg.timeGood)) ∧ (s.brg.timeOk = false → t.brg.timeOk = true → t.evFlag 204 = true)) ∧
  (∀ (s : State) (t1 t4 : Nat), s.inReset = false → s.follower = true → s.brg.laneChanged = true → Gives (.brTimeFollow t1 t4) s
      (· = { s with brg := { s.brg with laneChanged := false, t2 := none, t3 := none } })) ∧
  (∀ (s : State) (t1 t4 : Nat), (s.follower = false ∨ (s.brg.laneChanged = false ∧ (s.brg.t2 = none ∨ s.brg.t3 = none))) → Gives (.brTimeFollow t1 t4) s (· = s)) ∧
  (∀ s : State, s.inReset = false → s.follower = true → Gives .timeExchangeMissed s fun t =>
      t.brg.timeOk = false ∧ t.brg.timeGood = 0 ∧ (s.brg.timeOk = true → t.evFlag 204 = true) ∧ t.time.hold = true ∧ t.time.now = s.time.now ∧
      t.time.freq = s.time.freq ∧ (s.time.hold = false → t.time.locked = false) ∧ t.jobs = s.jobs) ∧
  (∀ s : State, s.follower = false → Gives .timeExchangeMissed s (· = s))

/-- The debug monitor: its lock, its challenge, and what each command does and prints in every case (R408 to R411). A die that gives no service answers no
monitor command. While the monitor is locked every command but id, help and unlock is answered with E5 BUSY, counted, and has no other effect. id and
help print. unlock gives a fresh challenge of eight free bytes, and E5 during the lockout. The right response unlocks and raises DBG_SESSION; a wrong
one, or none in time, is a failure that raises DBG_UNLOCK_FAIL, and the third in a row starts the lockout, which ends with the count at 0; a response
without a challenge is E6. Unlocked: lock locks again where the lock is provisioned, baud takes the nearest rate, rr reads as READ_REG and wr writes
as WRITE_REG and raises DBG_WRITE, rm prints words of the band SRAM or the DRAM and gives E7 with the data where one is uncorrectable, wm writes one
only with picks off and no sheet in flight, ev, pat and maq print, trace sets its bit, sched prints the evaluation's result while picks are off and no
sheet is in flight, and e: hands a command to the engine die. Every E is counted and every answer ends in the prompt; the text of the lines is the
model's own (log entry 23). -/
def Obligations.MonitorCommands : Prop :=
  (∀ s : State, s.serves = false → ∀ i, (i = .monId ∨ i = .monHelp ∨ i = .monUnlock ∨ (∃ r, i = .monUnlockResponse r) ∨ i = .monLock ∨ (∃ r, i = .monBaud r) ∨
      (∃ a n, i = .monitorRr a n) ∨ (∃ a v m, i = .monitorWr a v m) ∨ (∃ a n, i = .monitorRm a n) ∨ (∃ a v, i = .monitorWm a v) ∨ (∃ n, i = .monEv n) ∨
      i = .monPat ∨ (∃ o n, i = .monMaq o n) ∨ (∃ b, i = .monTrace b) ∨ i = .schedStep ∨ (∃ l, i = .engineRelay l)) → Gives i s (· = s)) ∧
  (∀ s : State, s.serves = true → s.monLocked = true → ∀ i, (i = .monLock ∨ (∃ r, i = .monBaud r) ∨ (∃ a n, i = .monitorRr a n) ∨ (∃ a v m, i = .monitorWr a v m) ∨
      (∃ a n, i = .monitorRm a n) ∨ (∃ a v, i = .monitorWm a v) ∨ (∃ n, i = .monEv n) ∨ i = .monPat ∨ (∃ o n, i = .monMaq o n) ∨ (∃ b, i = .monTrace b) ∨
      i = .schedStep) → Gives i s fun t => t = (s.bump (dbgB + 8) 16 16 1).monPrint (monLines sBusy [])) ∧
  (∀ s : State, s.serves = true → Gives .monId s fun t =>
      t = s.monPrint (monLines sOk ["GLB_ID " ++ hexW (s.peek 0), "GLB_BOOT " ++ hexW (s.peek 0x10), "DBG_STAT " ++ hexW (s.peek (dbgB + 4))])) ∧
  (∃ l : List String, ∀ s : State, s.serves = true → Gives .monHelp s fun t => t = s.monPrint (monLines sOk l)) ∧
  (∀ (s : State) (ch : List Byte), s.serves = true → ch = (upTo 8).map (fun i => BitVec.ofNat 8 (Config.freeValue (s.free + i))) → Gives .monUnlock s fun t =>
      t = if s.mon.lockout then (s.bump (dbgB + 8) 16 16 1).monPrint (monLines sBusy [])
          else ({ s with free := s.free + 8, mon := { s.mon with challenge := some ch } } : State).monPrint (monLines sOk ["CH " ++ hexGroups ch])) ∧
  (∀ (s : State) (r : List Byte), s.serves = true → (s.mon.lockout = true ∨ s.mon.challenge = none) → Gives (.monUnlockResponse r) s fun t =>
      t = (s.bump (dbgB + 8) 16 16 1).monPrint (monLines (if s.mon.lockout then sBusy else sBadState) [])) ∧
  (∀ (s : State) (ch r : List Byte), s.serves = true → s.mon.lockout = false → s.mon.challenge = some ch → s.monResponse ch = some r →
      Gives (.monUnlockResponse r) s fun t =>
        t = (({ s with mon := { s.mon with challenge := none, unlocked := true, run := 0 } } : State).raise 252 1).monPrint (monLines sOk [])) ∧
  (∀ (s u : State) (ch r : List Byte), s.serves = true → s.mon.lockout = false → s.mon.challenge = some ch → s.monResponse ch ≠ some r →
      u = { s with mon := { s.mon with challenge := none, fails := Nat.min 7 (s.mon.fails + 1), run := s.mon.run + 1, lockout := decide (3 ≤ s.mon.run + 1) } } →
      Gives (.monUnlockResponse r) s fun t => t = ((u.raise 253 0).bump (dbgB + 8) 16 16 1).monPrint (monLines sAuth [])) ∧
  (∀ s : State, s.inReset = false → s.mon.challenge ≠ none → Gives .monUnlockTimeout s fun t =>
      Occurs [253] { s with mon := { s.mon with challenge := none, fails := Nat.min 7 (s.mon.fails + 1), run := s.mon.run + 1, lockout := decide (3 ≤ s.mon.run + 1) } } t) ∧
  (∀ s : State, (s.inReset = true ∨ s.mon.challenge = none) → Gives .monUnlockTimeout s (· = s)) ∧
  (∀ s : State, s.inReset = false → s.mon.lockout = true → Gives .lockoutEnd s fun t => t = { s with mon := { s.mon with lockout := false, run := 0 } }) ∧
  (∀ s : State, (s.inReset = true ∨ s.mon.lockout = false) → Gives .lockoutEnd s (· = s)) ∧
  (∀ s : State, s.serves = true → s.monLocked = false → Gives .monLock s fun t =>
      t = ((if s.otp.monLock then ({ s with mon := { s.mon with unlocked := false } } : State).raise 252 0 else s) : State).monPrint (monLines sOk [])) ∧
  (∀ (s : State) (rate : Nat), s.serves = true → s.monLocked = false → Gives (.monBaud rate) s fun t =>
      t.mon.baud ∈ baudRates ∧ (∀ b ∈ baudRates, ((t.mon.baud : Int) - rate).natAbs ≤ ((b : Int) - rate).natAbs) ∧
      t = ({ s with mon := { s.mon with baud := t.mon.baud } } : State).monPrint (monLines sOk [])) ∧
  (∀ (s : State) (a n : Nat), s.serves = true → s.monLocked = false → 1 ≤ n → n ≤ 64 → Gives (.monitorRr a n) s fun t =>
      t = if (s.readRegs a n).2.2 then ((s.readRegs a n).1.bump (dbgB + 8) 16 16 1).monPrint (monLines sCheck ((s.readRegs a n).2.1.map hexW))
          else (s.readRegs a n).1.monPrint (monLines sOk ((s.readRegs a n).2.1.map hexW))) ∧
  (∀ (s : State) (a n : Nat), s.serves = true → s.monLocked = false → n = 0 ∨ 64 < n → Gives (.monitorRr a n) s fun t =>
      t = (s.bump (dbgB + 8) 16 16 1).monPrint (monLines sCheck [])) ∧
  (∀ (s u : State) (a c : Nat) (v m : Word), s.serves = true → s.monLocked = false → s.writeEntry { addr := a, val := v, mask := m } = (u, c) →
      Gives (.monitorWr a v m) s fun t =>
        t = if c = sOk then (u.raise 254 a).monPrint (monLines sOk []) else (u.bump (dbgB + 8) 16 16 1).monPrint (monLines c [])) ∧
  (∀ (s u : State) (a n : Nat) (sram : Bool) (l : List Byte) (e : Option Nat), s.serves = true → s.monLocked = false → a % 4 = 0 →
      ((sram = false ∧ a < 2 ^ 44 ∧ a + 4 * n ≤ s.dramBytes) ∨ (sram = true ∧ 2 ^ 44 ≤ a ∧ a + 4 * n ≤ 2 ^ 44 + 2 ^ 25)) →
      s.memRead sram (a % 2 ^ 44) (4 * n) = (u, l, e) → Gives (.monitorRm a n) s fun t =>
        t = if e.isSome then (u.bump (dbgB + 8) 16 16 1).monPrint (monLines sCheck ((upTo n).map (fun i => hexW (wd (quad l (4 * i))))))
            else u.monPrint (monLines sOk ((upTo n).map (fun i => hexW (wd (quad l (4 * i))))))) ∧
  (∀ (s : State) (a n : Nat), s.serves = true → s.monLocked = false → (a % 4 ≠ 0 ∨ (a < 2 ^ 44 ∧ s.dramBytes < a + 4 * n) ∨ (2 ^ 44 ≤ a ∧ 2 ^ 44 + 2 ^ 25 < a + 4 * n)) →
      Gives (.monitorRm a n) s fun t => t = (s.bump (dbgB + 8) 16 16 1).monPrint (monLines (if a % 4 = 0 then sNoRes else sCheck) [])) ∧
  (∀ (s : State) (a : Nat) (v : Word), s.serves = true → s.monLocked = false → (s.flag shtB 0 = true ∨ s.flying = true) → Gives (.monitorWm a v) s fun t =>
      t = (s.bump (dbgB + 8) 16 16 1).monPrint (monLines sBadState [])) ∧
  (∀ (s : State) (a : Nat) (v : Word) (sram : Bool), s.serves = true → s.monLocked = false → s.flag shtB 0 = false → s.flying = false → a % 4 = 0 →
      ((sram = false ∧ a < 2 ^ 44 ∧ a + 4 ≤ s.dramBytes) ∨ (sram = true ∧ 2 ^ 44 ≤ a ∧ a + 4 ≤ 2 ^ 44 + 2 ^ 25)) → Gives (.monitorWm a v) s fun t =>
      t = ((s.memWrite sram 4 (a % 2 ^ 44) (wordBytes v)).raise 254 a).monPrint (monLines sOk [])) ∧
  (∀ (s : State) (a : Nat) (v : Word), s.serves = true → s.monLocked = false → s.flag shtB 0 = false → s.flying = false →
      (a % 4 ≠ 0 ∨ (a < 2 ^ 44 ∧ s.dramBytes < a + 4) ∨ (2 ^ 44 ≤ a ∧ 2 ^ 44 + 2 ^ 25 < a + 4)) → Gives (.monitorWm a v) s fun t =>
      t = (s.bump (dbgB + 8) 16 16 1).monPrint (monLines (if a % 4 = 0 then sNoRes else sCheck) [])) ∧
  (∀ (s : State) (n : Nat), s.serves = true → s.monLocked = false → Gives (.monEv (some n)) s fun t =>
      t = if n < 256 then s.monPrint (monLines sOk [s.evLine n]) else (s.bump (dbgB + 8) 16 16 1).monPrint (monLines sNoRes [])) ∧
  (∀ s : State, s.serves = true → s.monLocked = false → Gives (.monEv none) s fun t => t = s.monPrint (monLines sOk ((upTo 256).map s.evLine))) ∧
  (∀ s : State, s.serves = true → s.monLocked = false → Gives .monPat s fun t =>
      ∃ l : List String, l.length = (s.mem.head + 64 - s.mem.tail) % 64 ∧ t = s.monPrint (monLines sOk l) ∧
        ∀ i p, i < l.length → s.mem.log[(s.mem.tail + i) % 64]? = some p →
          l[i]? = some (hexW (p.word 0) ++ " " ++ hexW (p.word 1) ++ " " ++ hexW (p.word 2) ++ " " ++ hexW (p.word 3))) ∧
  (∀ (s : State) (off n : Nat) (i : Image) (d : FlashDev), s.serves = true → s.monLocked = false → s.boot.image = some i → s.boot.flash = some d →
      Gives (.monMaq off n) s fun t => t = s.monPrint (monLines sOk
        ((flashRead d (flashBase d s.boot.copy + off) (Nat.min n (i.bytes.length - off))).map (fun b => hexN 2 b.toNat)))) ∧
  (∀ (s : State) (off n : Nat), s.serves = true → s.monLocked = false → (s.boot.image = none ∨ s.boot.flash = none) → Gives (.monMaq off n) s fun t =>
      t = (s.bump (dbgB + 8) 16 16 1).monPrint (monLines sBadState [])) ∧
  (∀ (s : State) (on : Bool), s.serves = true → s.monLocked = false → Gives (.monTrace on) s fun t => t = (s.setF dbgB 0 1 (b2n on)).monPrint (monLines sOk [])) ∧
  (∀ (s u : State) (w : Nat), s.serves = true → s.monLocked = false → s.id.motion = true → s.ready = true → s.flag shtB 0 = false → s.flying = false →
      s.schedStep = (u, w) → Gives .schedStep s fun t => t = u.monPrint (monLines sOk [Nat.repr w ++ " " ++ hexW (u.peek (shtB + 0x30))])) ∧
  (∀ s : State, s.serves = true → s.monLocked = false → (s.id.motion = false ∨ s.ready = false ∨ s.flag shtB 0 = true ∨ s.flying = true) →
      Gives .schedStep s fun t => t = (s.bump (dbgB + 8) 16 16 1).monPrint (monLines (if s.id.motion then sBadState else sNoRes) [])) ∧
  (∀ (s : State) (l : List Byte), s.serves = true → s.monLocked = false → s.id.isH = true → s.brg.st ≠ .down → Gives (.engineRelay l) s fun t =>
      t = s.toBridge 0 (.mon l)) ∧
  (∀ (s : State) (l : List Byte), s.serves = true → s.monLocked = false → (s.id.isH = false ∨ s.brg.st = .down) → Gives (.engineRelay l) s fun t =>
      t = (s.bump (dbgB + 8) 16 16 1).monPrint (monLines (if s.id.isH then sBusy else sBadState) [])) ∧
  (∀ (s : State) (l : List Byte), s.serves = true → s.monLocked = true → (∀ c, monCommand l = some c → c.1 = false) → Gives (.engineRelay l) s fun t =>
      t = (s.bump (dbgB + 8) 16 16 1).monPrint (monLines sBusy [])) ∧
  (∀ (s : State) (l : List Byte) (c : Bool × (State → MonAns)), s.serves = true → s.monLocked = true → monCommand l = some c → c.1 = true →
      s.id.isH = true → s.brg.st ≠ .down → Gives (.engineRelay l) s fun t => t = s.toBridge 0 (.mon l))

/-- Every command completes in every state, and none touches the queue, the variant or the OTP. For every command and every state, exec answers a next
state. The commands that wait, the variant fuses and bonding, and the OTP are as they were in it. -/
def Obligations.EveryCommandCompletes : Prop :=
  ∀ (i : Instr) (s : State), ∃ t, exec i s = .next t ∧ t.pending = s.pending ∧ t.id = s.id ∧ t.otp = s.otp

/-- The frame of every command: each part of State outside those the command may touch is as it was. Whatever command is carried out and whatever state it
answers, every part of State that is not in the command's list of touched parts holds what it held before: register file, table windows, memories,
tokens, jobs, engines, links, motors, thermal units, time, line, consumables, monitor and outputs alike. -/
def Obligations.CommandFrame : Prop :=
  ∀ (i : Instr) (s t : State), exec i s = .next t → ∀ p, p ∉ touches i → p.same s t

/-- No step alters the variant fuses or the bonding, whatever command is carried out (R36). From every state, and whatever command waits, a step leaves
the variant and the role as they were, and so it is after any number of steps: no message, maquette record or monitor command alters them. -/
def Obligations.FusesNeverChange : Prop :=
  (∀ s t : State, step s = .next t → t.id = s.id) ∧
  (∀ (l : List State) (s : State), (∀ p ∈ (s :: l).zip l, step p.1 = .next p.2) → ∀ t ∈ l, t.id = s.id)

/-- Every step keeps the state in form: memories, table windows and registers canonical, 16 tokens, the OTP as provisioned. From every state whose
memories, table windows and register file are in canonical form and that has 16 tokens, every step, of a command or of an idle clock, answers a state
of the same form, with never more than 16 tokens in flight and the OTP as it was. -/
def Obligations.StepKeepsForm : Prop :=
  ∀ s t : State, s.memOk ∧ s.regsOk ∧ s.sched.toks.length = 16 → step s = .next t →
    (t.memOk ∧ t.regsOk ∧ t.sched.toks.length = 16) ∧ t.otp = s.otp ∧ t.sched.toks.countP Token.busy ≤ 16

/-- The DRAM code: data in x_0 to x_7, both sums of every stored beat are 0 (R250), and every error confined to one symbol is corrected. For every 32-bit
word the stored beat holds the word as x_0 to x_7; x_9 is α^3·(B + α^8·A) and x_8 is A + x_9; the sum and the weighted sum of all ten symbols are 0. A
beat in which one symbol has changed by any non-zero error is decoded as CORRECTED to the beat that was stored, and an unchanged beat as without
error. -/
def Obligations.DramCode : Prop :=
  ∀ d : Nat, d < 2 ^ 32 →
    (∀ j, j < 8 → sym (rsEncode d) j = sym d j) ∧
    sym (rsEncode d) 9 = gmulA 3 (Nat.xor (rsSum1 d 8) (gmulA 8 (rsSum0 d 8))) ∧ sym (rsEncode d) 8 = Nat.xor (rsSum0 d 8) (sym (rsEncode d) 9) ∧
    rsSum0 (rsEncode d) 10 = 0 ∧ rsSum1 (rsEncode d) 10 = 0 ∧ rsEncode d < 2 ^ 40 ∧
    rsDecode (rsEncode d) = (.clean, 0, rsEncode d) ∧
    (∀ j e, j < 10 → 0 < e → e < 16 →
      (rsDecode (Nat.xor (rsEncode d) (e * 16 ^ j))).1 = .corrected ∧ (rsDecode (Nat.xor (rsEncode d) (e * 16 ^ j))).2.2 = rsEncode d)
end

