-- ==== Sys2Proof/Laws/Mem.lean ====
section
/-! SUPPORT. The laws of sparse stores: a read after a write, every other place left alone, and the canonical form kept by every
operation. -/
namespace Sys2Proof.Machine

variable {α : Type}

/-- What is listed at the address just listed. -/
@[simp] theorem look_ins_same (l : List (Nat × α)) (a : Nat) (v : α) : look (ins l a v) a = some v := by
  induction l with
  | nil => simp [ins, look]
  | cons e t ih =>
    obtain ⟨b, w⟩ := e
    unfold ins
    split
    · simp [look]
    · split
      · simp [look]
      · simp [look, *]

/-- Listing at `a` changes nothing elsewhere. -/
theorem look_ins_ne (l : List (Nat × α)) (a b : Nat) (v : α) (h : b ≠ a) : look (ins l a v) b = look l b := by
  induction l with
  | nil => simp [ins, look, h]
  | cons e t ih =>
    obtain ⟨c, w⟩ := e
    unfold ins
    split
    · simp [look, h]
    · split
      · rename_i h1 h2
        subst h2
        simp [look, h]
      · simp [look, ih]

/-- Nothing is listed where a listing has been removed. -/
@[simp] theorem look_del_same (l : List (Nat × α)) (a : Nat) : look (del l a) a = none := by
  induction l with
  | nil => simp [del, look]
  | cons e t ih =>
    obtain ⟨b, w⟩ := e
    unfold del
    split
    · exact ih
    · rename_i h
      simp [look, h, ih]

/-- Removing the listing at `a` changes nothing elsewhere. -/
theorem look_del_ne (l : List (Nat × α)) (a b : Nat) (h : b ≠ a) : look (del l a) b = look l b := by
  induction l with
  | nil => simp [del, look]
  | cons e t ih =>
    obtain ⟨c, w⟩ := e
    unfold del
    split
    · rename_i h1
      subst h1
      simp [look, h, ih]
    · simp [look, ih]

variable [DecidableEq α]

/-- A read of a store whose unlisted address reads `d`, after a write there. -/
@[simp] theorem look_put_same (l : List (Nat × α)) (a : Nat) (d v : α) : (look (put l a d v) a).getD d = v := by
  unfold put
  split
  · rename_i h
    simp [h]
  · simp

/-- A write at `a` leaves every other address alone. -/
theorem look_put_ne (l : List (Nat × α)) (a b : Nat) (d v : α) (h : b ≠ a) : look (put l a d v) b = look l b := by
  unfold put
  split
  · exact look_del_ne l a b h
  · exact look_ins_ne l a b v h

omit [DecidableEq α] in
/-- A store in canonical form above a bound is so above every lower one. -/
theorem canonFrom_lower {bad : Nat → α → Bool} {l : List (Nat × α)} {lo lo' : Option Nat} (h : canonFrom bad lo l = true)
    (hl : lo' = none ∨ ∃ x y, lo' = some x ∧ lo = some y ∧ x ≤ y) : canonFrom bad lo' l = true := by
  cases l with
  | nil => rfl
  | cons e t =>
    obtain ⟨a, v⟩ := e
    rcases hl with rfl | ⟨x, y, rfl, rfl, hxy⟩
    · simp [canonFrom] at h ⊢
      exact ⟨h.1.2, h.2⟩
    · simp [canonFrom] at h ⊢
      exact ⟨⟨by omega, h.1.2⟩, h.2⟩

omit [DecidableEq α] in
/-- Removing a listing keeps the canonical form. -/
theorem canonFrom_del {bad : Nat → α → Bool} {l : List (Nat × α)} {lo : Option Nat} {a : Nat} (h : canonFrom bad lo l = true) :
    canonFrom bad lo (del l a) = true := by
  induction l generalizing lo with
  | nil => exact h
  | cons e t ih =>
    obtain ⟨b, v⟩ := e
    unfold del
    have ht : canonFrom bad (some b) t = true := by simp [canonFrom] at h; exact h.2
    split
    · refine ih (canonFrom_lower ht ?_)
      cases lo with
      | none => exact .inl rfl
      | some y => simp [canonFrom] at h; exact .inr ⟨y, b, rfl, rfl, by omega⟩
    · simp [canonFrom] at h ⊢
      exact ⟨h.1, ih ht⟩

omit [DecidableEq α] in
/-- Listing a good value above the bound keeps the canonical form. -/
theorem canonFrom_ins {bad : Nat → α → Bool} {l : List (Nat × α)} {lo : Option Nat} {a : Nat} {v : α} (h : canonFrom bad lo l = true)
    (hb : bad a v = false) (hl : ∀ x, lo = some x → x < a) : canonFrom bad lo (ins l a v) = true := by
  induction l generalizing lo with
  | nil => cases lo <;> simp_all [ins, canonFrom]
  | cons e t ih =>
    obtain ⟨b, w⟩ := e
    unfold ins
    split
    · cases lo <;> simp_all [canonFrom]
    · split
      · rename_i h1 h2
        subst h2
        cases lo <;> simp_all [canonFrom]
      · rename_i h1 h2
        have ht : canonFrom bad (some b) t = true := by simp [canonFrom] at h; exact h.2
        have hi := ih ht (fun x hx => by injection hx with hx; omega)
        simp [canonFrom] at h ⊢
        exact ⟨h.1, hi⟩

/-- Writing keeps the canonical form. -/
theorem canonFrom_put {l : List (Nat × α)} {dflt : Nat → α} {bad : Nat → α → Bool} (hbad : ∀ a v, bad a v = false ↔ v ≠ dflt a) {a : Nat}
    {v : α} (h : canonFrom bad none l = true) : canonFrom bad none (put l a (dflt a) v) = true := by
  unfold put
  split
  · exact canonFrom_del h
  · rename_i hv
    exact canonFrom_ins h ((hbad a v).2 hv) (fun x hx => by cases hx)

omit [DecidableEq α] in
/-- Every entry of a store in canonical form above `x` lies above `x`. -/
theorem canonFrom_above {bad : Nat → α → Bool} {l : List (Nat × α)} {x : Nat} (h : canonFrom bad (some x) l = true) :
    ∀ e ∈ l, x < e.1 := by
  induction l generalizing x with
  | nil => simp
  | cons e t ih =>
    obtain ⟨a, v⟩ := e
    simp [canonFrom] at h
    intro e he
    rcases List.mem_cons.1 he with rfl | he
    · exact h.1.1
    · exact Nat.lt_trans h.1.1 (ih h.2 e he)

omit [DecidableEq α] in
/-- Dropping entries keeps the canonical form. -/
theorem canonFrom_filter {bad : Nat → α → Bool} {l : List (Nat × α)} {lo : Option Nat} (p : Nat × α → Bool)
    (h : canonFrom bad lo l = true) : canonFrom bad lo (l.filter p) = true := by
  induction l generalizing lo with
  | nil => exact h
  | cons e t ih =>
    obtain ⟨b, v⟩ := e
    have ht : canonFrom bad (some b) t = true := by simp [canonFrom] at h; exact h.2
    rw [List.filter_cons]
    split
    · simp [canonFrom] at h ⊢
      exact ⟨h.1, ih ht⟩
    · refine ih (canonFrom_lower ht ?_)
      cases lo with
      | none => exact .inl rfl
      | some y => simp [canonFrom] at h; exact .inr ⟨y, b, rfl, rfl, by omega⟩

/-- One byte written keeps the canonical form of a byte memory. -/
theorem Mem.set_wf {m : Mem} {a : Nat} {b : Byte} (h : m.wf = true) : (m.set a b).wf = true := by
  unfold Mem.wf Mem.set at *
  exact canonFrom_put (dflt := fun _ => (0 : Byte)) (by simp) h

/-- Bytes written keep the canonical form of a byte memory. -/
theorem Mem.setBytes_wf {m : Mem} {a : Nat} {l : List Byte} (h : m.wf = true) : (m.setBytes a l).wf = true := by
  induction l generalizing m a with
  | nil => exact h
  | cons b bs ih => exact ih (Mem.set_wf h)

/-- The byte just written. -/
@[simp] theorem Mem.byte_set_same (m : Mem) (a : Nat) (b : Byte) : (m.set a b).byte a = b := by
  unfold Mem.byte Mem.set
  exact look_put_same m a 0 b

/-- A byte written leaves every other byte alone. -/
theorem Mem.byte_set_ne (m : Mem) (a c : Nat) (b : Byte) (h : c ≠ a) : (m.set a b).byte c = m.byte c := by
  unfold Mem.byte Mem.set
  rw [look_put_ne m a c 0 b h]

/-- Bytes written from `a` on leave every byte outside them alone. -/
theorem Mem.byte_setBytes_out (m : Mem) (a c : Nat) (l : List Byte) (h : c < a ∨ a + l.length ≤ c) :
    (m.setBytes a l).byte c = m.byte c := by
  induction l generalizing m a with
  | nil => rfl
  | cons b bs ih =>
    simp only [List.length_cons] at h
    simp only [Mem.setBytes]
    rw [ih (m.set a b) (a + 1) (by omega), Mem.byte_set_ne m a c b (by omega)]

/-- Bytes written from `a` on read back. -/
theorem Mem.byte_setBytes_in (m : Mem) (a i : Nat) (l : List Byte) (h : i < l.length) : (m.setBytes a l).byte (a + i) = l.getD i 0 := by
  induction l generalizing m a i with
  | nil => simp at h
  | cons b bs ih =>
    simp only [Mem.setBytes]
    cases i with
    | zero => rw [Nat.add_zero, Mem.byte_setBytes_out _ _ _ _ (by omega)]; simp
    | succ i =>
      have hi : i < bs.length := by simpa using h
      have := ih (m.set a b) (a + 1) i hi
      rw [show a + (i + 1) = a + 1 + i by omega, this]
      simp

end Sys2Proof.Machine
end

