-- ==== Sys2Proof/Laws/Events.lean ====
section
/-! SUPPORT. What the operations over registers and events can do: which registers they write, and that they leave the rest of State alone. -/
namespace Sys2Proof.Machine

theorem State.reg_setReg_same (s : State) (a : Nat) (w : Word) : (s.setReg a w).reg a = w := by
  simp [State.reg, State.setReg]

/-- What a register reads depends on the register file and the die alone. -/
theorem State.reg_congr {s t : State} (a : Nat) (hr : t.regs = s.regs) (hi : t.id = s.id) : t.reg a = s.reg a := by
  unfold State.reg
  rw [hr, hi]

theorem State.reg_setReg_ne (s : State) (a b : Nat) (w : Word) (h : b ≠ a) : (s.setReg a w).reg b = s.reg b := by
  simp only [State.reg, State.setReg]
  rw [look_put_ne _ _ _ _ _ h]

theorem State.reg_setF_ne (s : State) (a b lo n v : Nat) (h : b ≠ a) : (s.setF a lo n v).reg b = s.reg b :=
  State.reg_setReg_ne _ _ _ _ h

theorem State.reg_setF_same (s : State) (a lo n v : Nat) : (s.setF a lo n v).reg a = setFld (s.reg a) lo n v :=
  State.reg_setReg_same _ _ _

theorem setFld_toNat (w : Word) (lo n v : Nat) (h : lo + n ≤ 32) :
    (setFld w lo n v).toNat = w.toNat % 2 ^ lo + v % 2 ^ n * 2 ^ lo + w.toNat / 2 ^ (lo + n) * 2 ^ (lo + n) := by
  unfold setFld
  rw [BitVec.toNat_ofNat, Nat.mod_eq_of_lt]
  have h1 : w.toNat % 2 ^ lo < 2 ^ lo := Nat.mod_lt _ (Nat.two_pow_pos _)
  have h2 : v % 2 ^ n < 2 ^ n := Nat.mod_lt _ (Nat.two_pow_pos _)
  have h3 : w.toNat / 2 ^ (lo + n) < 2 ^ (32 - (lo + n)) := by
    rw [Nat.div_lt_iff_lt_mul (Nat.two_pow_pos _), ← Nat.pow_add, Nat.sub_add_cancel h]
    exact w.isLt
  have h4 : 2 ^ 32 = 2 ^ (32 - (lo + n)) * 2 ^ (lo + n) := by rw [← Nat.pow_add, Nat.sub_add_cancel h]
  have h6 : (w.toNat / 2 ^ (lo + n) + 1) * 2 ^ (lo + n) ≤ 2 ^ (32 - (lo + n)) * 2 ^ (lo + n) := Nat.mul_le_mul_right _ h3
  have h7 : (v % 2 ^ n + 1) * 2 ^ lo ≤ 2 ^ n * 2 ^ lo := Nat.mul_le_mul_right _ h2
  have h5 : 2 ^ (lo + n) = 2 ^ n * 2 ^ lo := by rw [Nat.pow_add, Nat.mul_comm]
  rw [Nat.add_mul] at h6 h7
  generalize w.toNat / 2 ^ (lo + n) * 2 ^ (lo + n) = X at *
  generalize 2 ^ (32 - (lo + n)) * 2 ^ (lo + n) = Y at *
  generalize v % 2 ^ n * 2 ^ lo = Z at *
  generalize 2 ^ n * 2 ^ lo = U at *
  omega

theorem field_of_sum {A B C P Q : Nat} (hA : A < P) (hB : B < Q) : (A + B * P + C * (P * Q)) / P % Q = B := by
  have e : A + B * P + C * (P * Q) = A + P * (B + Q * C) := by
    rw [Nat.mul_add, Nat.mul_comm B P, Nat.mul_comm C (P * Q), Nat.mul_assoc, Nat.add_assoc]
  rw [e, Nat.add_mul_div_left _ _ (Nat.lt_of_le_of_lt (Nat.zero_le _) hA), Nat.div_eq_of_lt hA, Nat.zero_add, Nat.add_mul_mod_self_left,
    Nat.mod_eq_of_lt hB]

/-- A field reads back as it was written. -/
theorem fld_setFld_same (w : Word) (lo n v : Nat) (h : lo + n ≤ 32) : fld (setFld w lo n v) lo n = v % 2 ^ n := by
  unfold fld
  rw [setFld_toNat _ _ _ _ h, Nat.pow_add]
  exact field_of_sum (Nat.mod_lt _ (Nat.two_pow_pos _)) (Nat.mod_lt _ (Nat.two_pow_pos _))

/-- A bit outside the written field keeps its value. -/
theorem bitOf_setFld_ne (w : Word) (lo n v i : Nat) (h : lo + n ≤ 32) (hi : i < lo ∨ lo + n ≤ i) : bitOf (setFld w lo n v) i = bitOf w i := by
  unfold bitOf
  rw [setFld_toNat _ _ _ _ h]
  have key : (w.toNat % 2 ^ lo + v % 2 ^ n * 2 ^ lo + w.toNat / 2 ^ (lo + n) * 2 ^ (lo + n)) / 2 ^ i % 2 = w.toNat / 2 ^ i % 2 := by
    generalize w.toNat = W
    have h2 : v % 2 ^ n < 2 ^ n := Nat.mod_lt _ (Nat.two_pow_pos _)
    generalize v % 2 ^ n = V at h2
    rcases hi with hi | hi
    · obtain ⟨k, rfl⟩ : ∃ k, lo = i + 1 + k := ⟨lo - i - 1, by omega⟩
      have m1 : ∀ x, x / 2 ^ i % 2 = x % 2 ^ (i + 1) / 2 ^ i := by
        intro x; rw [Nat.pow_succ, Nat.mod_mul_right_div_self]
      have d1 : V * 2 ^ (i + 1 + k) = 2 ^ (i + 1) * (V * 2 ^ k) := by rw [Nat.pow_add, Nat.mul_left_comm]
      have d2 : W / 2 ^ (i + 1 + k + n) * 2 ^ (i + 1 + k + n) = 2 ^ (i + 1) * (W / 2 ^ (i + 1 + k + n) * (2 ^ k * 2 ^ n)) := by
        generalize W / 2 ^ (i + 1 + k + n) = D
        rw [Nat.pow_add, Nat.pow_add, Nat.mul_assoc, Nat.mul_left_comm]
      rw [d1, d2, Nat.add_assoc, ← Nat.mul_add, m1, Nat.add_mul_mod_self_left, m1 W, Nat.pow_add _ (i + 1) k, Nat.mod_mul_right_mod]
    · obtain ⟨k, rfl⟩ : ∃ k, i = lo + n + k := ⟨i - (lo + n), by omega⟩
      have hl : W % 2 ^ lo + V * 2 ^ lo < 2 ^ (lo + n) := by
        have h1 : W % 2 ^ lo < 2 ^ lo := Nat.mod_lt _ (Nat.two_pow_pos _)
        have h7 : (V + 1) * 2 ^ lo ≤ 2 ^ n * 2 ^ lo := Nat.mul_le_mul_right _ h2
        rw [Nat.add_mul] at h7
        rw [Nat.pow_add, Nat.mul_comm (2 ^ lo)]
        omega
      rw [Nat.pow_add 2 (lo + n) k, ← Nat.div_div_eq_div_mul, ← Nat.div_div_eq_div_mul, Nat.add_mul_div_right _ _ (Nat.two_pow_pos _), Nat.div_eq_of_lt hl,
        Nat.zero_add]
  rw [key]

theorem bitOf_setFld_same (w : Word) (i v : Nat) (h : i < 32) : bitOf (setFld w i 1 v) i = (v % 2 == 1) := by
  have := fld_setFld_same w i 1 v (by omega)
  unfold fld at this
  unfold bitOf
  rw [Nat.pow_one] at this
  rw [this]

theorem EventsOnly.refl (u : State) : EventsOnly u u := ⟨_, _, _, _, rfl⟩

theorem EventsOnly.setReg {u t : State} (h : EventsOnly u t) (a : Nat) (w : Word) : EventsOnly u (t.setReg a w) := by
  obtain ⟨r, l, m, q, rfl⟩ := h
  exact ⟨_, _, _, _, rfl⟩

theorem EventsOnly.setF {u t : State} (h : EventsOnly u t) (a lo n v : Nat) : EventsOnly u (t.setF a lo n v) := h.setReg _ _

theorem EventsOnly.bump {u t : State} (h : EventsOnly u t) (a lo n k : Nat) : EventsOnly u (t.bump a lo n k) := h.setF _ _ _ _

theorem EventsOnly.latest {u t : State} (h : EventsOnly u t) (l : List EvMsg) : EventsOnly u { t with host := { t.host with latest := l } } := by
  obtain ⟨r, l, m, q, rfl⟩ := h
  exact ⟨_, _, _, _, rfl⟩

theorem EventsOnly.unsent {u t : State} (h : EventsOnly u t) (l : List EvMsg) : EventsOnly u { t with host := { t.host with unsent := l } } := by
  obtain ⟨r, l, m, q, rfl⟩ := h
  exact ⟨_, _, _, _, rfl⟩

theorem EventsOnly.qloss {u t : State} (h : EventsOnly u t) (b : Bool) : EventsOnly u { t with brg := { t.brg with qloss := b } } := by
  obtain ⟨r, l, m, q, rfl⟩ := h
  exact ⟨_, _, _, _, rfl⟩

theorem EventsOnly.sendEv {u t : State} (h : EventsOnly u t) (n : Nat) (m : EvMsg) : EventsOnly u (t.sendEv n m) := by
  unfold State.sendEv
  split
  · extract_lets late src s1
    split
    · exact ((h.unsent _).qloss _).bump _ _ _ _
    · exact h.unsent _
  · exact h

theorem EventsOnly.occur {u t : State} (h : EventsOnly u t) (n d : Nat) (x : List Byte) : EventsOnly u (t.occur n d x) := by
  unfold State.occur
  extract_lets s1 s2 m src
  exact (((h.setF _ _ _ _).setF _ _ _ _).latest _).sendEv _ _

theorem State.sendEv_reg (s : State) (n : Nat) (m : EvMsg) (a : Nat) (h : a ≠ brgB + 0x1C) : (s.sendEv n m).reg a = s.reg a := by
  unfold State.sendEv
  split
  · extract_lets late src s1
    have h1 : s1.reg a = s.reg a := State.reg_congr a rfl rfl
    split
    · refine (State.reg_setF_ne _ _ _ _ _ _ h).trans ((State.reg_congr a ?_ ?_).trans h1) <;> rfl
    · exact h1
  · rfl

/-- The registers after an occurrence: its flag and its COUNT are written, then the message goes. -/
theorem State.occur_reg_eq (s : State) (n d : Nat) (x : List Byte) (a : Nat) (h : a ≠ brgB + 0x1C) :
    (s.occur n d x).reg a =
      ((s.setF (evFlagA n) (n % 32) 1 1).setF (evSrcA n) 16 16 (fld ((s.setF (evFlagA n) (n % 32) 1 1).reg (evSrcA n)) 16 16 + 1)).reg a := by
  unfold State.occur
  extract_lets s1 s2 m src
  rw [State.sendEv_reg _ _ _ _ h]
  have e : ∀ (x : State) (l : List EvMsg), ({ x with host := { x.host with latest := l } } : State).reg a = x.reg a := fun x l => State.reg_congr a rfl rfl
  exact e s2 _

theorem State.occur_reg (s : State) (n d : Nat) (x : List Byte) (a : Nat) (h1 : a ≠ evFlagA n) (h2 : a ≠ evSrcA n) (h3 : a ≠ brgB + 0x1C) :
    (s.occur n d x).reg a = s.reg a := by
  rw [State.occur_reg_eq _ _ _ _ _ h3, State.reg_setF_ne _ _ _ _ _ _ h2, State.reg_setF_ne _ _ _ _ _ _ h1]

theorem evFlagA_ne_src (k n : Nat) (hk : k < 256) : evFlagA k ≠ evSrcA n := by unfold evFlagA evSrcA; omega
theorem evFlagA_ne_replay (k : Nat) (hk : k < 256) : evFlagA k ≠ brgB + 0x1C := by unfold evFlagA brgB evtB; omega

theorem State.occur_evFlag (s : State) (n d : Nat) (x : List Byte) (h : n < 256) : (s.occur n d x).evFlag n = true := by
  unfold State.evFlag
  rw [State.occur_reg_eq _ _ _ _ _ (evFlagA_ne_replay n h), State.reg_setF_ne _ _ _ _ _ _ (evFlagA_ne_src n n h), State.reg_setF_same,
    bitOf_setFld_same _ _ _ (Nat.mod_lt _ (by decide))]
  rfl

/-- No occurrence clears a flag. -/
theorem State.occur_evFlag_mono (s : State) (n d : Nat) (x : List Byte) (k : Nat) (hn : n < 256) (hk : k < 256) (h : s.evFlag k = true) :
    (s.occur n d x).evFlag k = true := by
  by_cases e : k = n
  · subst e; exact State.occur_evFlag s k d x hk
  · unfold State.evFlag at h ⊢
    rw [State.occur_reg_eq _ _ _ _ _ (evFlagA_ne_replay k hk), State.reg_setF_ne _ _ _ _ _ _ (evFlagA_ne_src k n hk)]
    by_cases g : k / 32 = n / 32
    · have g2 : evFlagA k = evFlagA n := by unfold evFlagA; rw [g]
      rw [g2, State.reg_setF_same, bitOf_setFld_ne _ _ _ _ _ (by omega) (by omega), ← g2]
      exact h
    · rw [State.reg_setF_ne _ _ _ _ _ _ (by unfold evFlagA; omega)]
      exact h

theorem mem_evRegs_append {ns ms : List Nat} {a : Nat} : a ∈ evRegs (ns ++ ms) ↔ a ∈ evRegs ns ∨ a ∈ evRegs ms := by
  unfold evRegs
  rw [List.flatMap_append, List.mem_append]

theorem mem_evRegs_one {n a : Nat} :
    a ∈ evRegs [n] ↔ a = evFlagA n ∨ a = evSrcA n ∨ a = evFlagA 207 ∨ a = evSrcA 207 ∨ a = brgB + 0x1C := by
  simp [evRegs]

theorem Occurs.refl (u : State) : Occurs [] u u := by
  exact ⟨by simp, fun _ _ => rfl, EventsOnly.refl u⟩

theorem Occurs.occur {ns : List Nat} {u t : State} (h : Occurs ns u t) (n d : Nat) (x : List Byte) (hn : n < 256) (hs : ∀ m ∈ ns, m < 256) :
    Occurs (ns ++ [n]) u (t.occur n d x) := by
  refine ⟨?_, ?_, ?_⟩
  · intro k hk
    rcases List.mem_append.mp hk with hk | hk
    · exact State.occur_evFlag_mono _ _ _ _ _ hn (hs k hk) (h.1 k hk)
    · rw [List.mem_singleton.mp hk]; exact State.occur_evFlag _ _ _ _ hn
  · intro a ha
    rw [mem_evRegs_append, mem_evRegs_one] at ha
    rw [State.occur_reg _ _ _ _ _ (fun e => ha (.inr (.inl e))) (fun e => ha (.inr (.inr (.inl e)))) (fun e => ha (.inr (.inr (.inr (.inr (.inr e))))))]
    exact h.2.1 a (fun e => ha (.inl e))
  · exact h.2.2.occur n d x

theorem Occurs.raiseX {ns : List Nat} {u t : State} (h : Occurs ns u t) (n d : Nat) (x : List Byte) (hn : n < 256) (hs : ∀ m ∈ ns, m < 256) :
    Occurs (ns ++ [n]) u (t.raiseX n d x) := by
  have h1 := h.occur n d x hn hs
  unfold State.raiseX
  extract_lets s1
  split
  · have h2 := h1.occur 207 n [] (by decide) (by
      intro m hm; rcases List.mem_append.mp hm with hm | hm
      · exact hs m hm
      · rw [List.mem_singleton.mp hm]; exact hn)
    refine ⟨fun k hk => h2.1 k (List.mem_append_left _ hk), fun a ha => h2.2.1 a ?_, h2.2.2⟩
    intro e
    rw [mem_evRegs_append, mem_evRegs_one] at e
    rcases e with e | e
    · exact ha e
    · refine ha (mem_evRegs_append.mpr (.inr (mem_evRegs_one.mpr ?_)))
      omega
  · exact h1

theorem Occurs.raise {ns : List Nat} {u t : State} (h : Occurs ns u t) (n d : Nat) (hn : n < 256) (hs : ∀ m ∈ ns, m < 256) :
    Occurs (ns ++ [n]) u (t.raise n d) := h.raiseX n d [] hn hs

theorem Occurs.raiseIf {ns : List Nat} {u t : State} (h : Occurs ns u t) (c : Bool) (n d : Nat) (hn : n < 256) (hs : ∀ m ∈ ns, m < 256) :
    Occurs (ns ++ if c then [n] else []) u (t.raiseIf c n d) := by
  unfold State.raiseIf
  cases c
  · rw [if_neg (by decide), if_neg (by decide), List.append_nil]
    exact h
  · rw [if_pos rfl, if_pos rfl]
    exact h.raise n d hn hs

/-- One occurrence, from the state it happens in. -/
theorem occurs_raise (s : State) (n d : Nat) (hn : n < 256) : Occurs [n] s (s.raise n d) := by
  simpa using (Occurs.refl s).raise n d hn (by simp)

theorem occurs_raiseIf (s : State) (c : Bool) (n d : Nat) (hn : n < 256) : Occurs (if c then [n] else []) s (s.raiseIf c n d) := by
  simpa using (Occurs.refl s).raiseIf c n d hn (by simp)

end Sys2Proof.Machine
end

