-- ==== Sys2Proof/Laws/Keeps.lean ====
section
/-! SUPPORT. What every operation of the model keeps: the die, its OTP and the queue of commands as they are, the register file, the memories
and the table windows in canonical form, 16 tokens, and every part of State outside its footprint. A footprint is a set of parts as the bits of a number.
Each operation has one lemma, named after it; a caller cites it and unfolds nothing. -/
namespace Sys2Proof.Machine

/-- A part's bit in a footprint. -/
def Part.ix : Part → Nat
  | .reset => 0
  | .clk => 1
  | .free => 2
  | .regs => 3
  | .held => 4
  | .tab => 5
  | .heldTab => 6
  | .adj => 7
  | .claims => 8
  | .boot => 9
  | .msgs => 10
  | .hostIf => 11
  | .jobs => 12
  | .toks => 13
  | .sched => 14
  | .casts => 15
  | .chisels => 16
  | .codec => 17
  | .stn => 18
  | .clks => 19
  | .links => 20
  | .qloss => 21
  | .brg => 22
  | .dram => 23
  | .sram => 24
  | .mem => 25
  | .dma => 26
  | .rr => 27
  | .stp => 28
  | .enc => 29
  | .mot => 30
  | .bus => 31
  | .sensors => 32
  | .ladders => 33
  | .heaters => 34
  | .hv => 35
  | .thm => 36
  | .time => 37
  | .wcmp => 38
  | .fcmp => 39
  | .ptp => 40
  | .line => 41
  | .csm => 42
  | .mon => 43
  | .caps => 44
  | .out => 45

theorem Part.same.trans' {p : Part} {a b c : State} (h : p.same b c) (g : p.same a b) : p.same a c := by
  cases p <;> exact Eq.trans h g

theorem Part.same_refl (p : Part) (s : State) : p.same s s := by
  cases p <;> rfl

/-- Footprint `a` lies within footprint `b`. -/
def within (a b : Nat) : Bool := Nat.land a b == a

theorem within_bit {a b i : Nat} (h : within a b = true) (g : a.testBit i = true) : b.testBit i = true := by
  have e : a &&& b = a := by simpa [within] using h
  have := congrArg (fun x => x.testBit i) e
  simp only [Nat.testBit_and, g, Bool.true_and] at this
  exact this

theorem within_trans {a b c : Nat} (g : within b c = true) (h : within a b = true) : within a c = true := by
  have e : a &&& b = a := by simpa [within] using h
  have f : b &&& c = b := by simpa [within] using g
  have : a &&& c = a := by rw [← e, Nat.and_assoc, f]
  simpa [within] using this

theorem within_refl (a : Nat) : within a a = true := by
  simp [within]

/-- From `s` to `t` an operation of footprint `F` has kept what every operation keeps. -/
structure Keeps (F : Nat) (s t : State) : Prop where
  id : t.id = s.id
  otp : t.otp = s.otp
  pend : t.pending = s.pending
  regs : s.regsOk → t.regsOk
  mem : s.memOk → t.memOk
  toks : s.sched.toks.length = 16 → t.sched.toks.length = 16
  part : ∀ p : Part, F.testBit p.ix = false → p.same s t
/-- What a meaning answers keeps it. -/
structure KeepsA (F : Nat) (S : State) (r : Ans) : Prop where
  out : ∀ t, r = .next t → Keeps F S t
theorem Keeps.rfl' (F : Nat) (s : State) : Keeps F s s := ⟨rfl, rfl, rfl, fun h => h, fun h => h, fun h => h, fun p _ => p.same_refl s⟩
/-- A state that may be absent. -/
structure KeepsO (F : Nat) (S : State) (o : Option State) : Prop where
  out : ∀ t, o = some t → Keeps F S t
theorem foot_absurd {m F i : Nat} (hF : within m F = true) (hp : F.testBit i = false) (hm : m.testBit i = true) {P : Prop} : P := by
  rw [within_bit hF hm] at hp; cases hp
theorem keepsO_some {F : Nat} {S x : State} (h : Keeps F S x) : KeepsO F S (some x) := by
  constructor; intro t e; injection e with e; subst e; exact h
theorem keepsO_none {F : Nat} {S : State} : KeepsO F S none := by
  constructor; intro t e; cases e
theorem keeps_of_some {F : Nat} {S a : State} {o : Option State} (e : o = some a) (h : KeepsO F S o) : Keeps F S a := h.out a e
theorem keeps_getDo {F : Nat} {S x : State} {o : Option State} (g : KeepsO F S o) (h : Keeps F S x) : Keeps F S (o.getD x) := by
  cases o with
  | none => exact h
  | some a => exact g.out a rfl
theorem keepsA_next {F : Nat} {S x : State} (h : Keeps F S x) : KeepsA F S (.next x) := by
  constructor; intro t e; injection e with e; subst e; exact h
theorem keeps_upd {F : Nat} {S x : State} {a_inReset a_rstLow a_brown a_clk a_free a_held a_heldTab a_adjRegs a_adjTabs a_claims a_boot a_host a_jobs a_codec a_stn a_clks a_links a_brg a_dma a_rr a_stp a_enc a_encPin a_mot a_bus a_thm a_time a_wcmp a_fcmp a_ptp a_line a_csm a_mon a_pageCap a_bandCap a_out} (h : Keeps F S x)
    (hp : ∀ p : Part, F.testBit p.ix = false → p.same x (State.mk x.id x.otp a_inReset a_rstLow a_brown a_clk a_free x.regs a_held x.tab a_heldTab a_adjRegs a_adjTabs a_claims a_boot a_host a_jobs x.sched a_codec a_stn a_clks a_links a_brg x.mem a_dma a_rr a_stp a_enc a_encPin a_mot a_bus a_thm a_time a_wcmp a_fcmp a_ptp a_line a_csm a_mon a_pageCap a_bandCap a_out x.pending)) :
    Keeps F S (State.mk x.id x.otp a_inReset a_rstLow a_brown a_clk a_free x.regs a_held x.tab a_heldTab a_adjRegs a_adjTabs a_claims a_boot a_host a_jobs x.sched a_codec a_stn a_clks a_links a_brg x.mem a_dma a_rr a_stp a_enc a_encPin a_mot a_bus a_thm a_time a_wcmp a_fcmp a_ptp a_line a_csm a_mon a_pageCap a_bandCap a_out x.pending) :=
  ⟨h.id, h.otp, h.pend, h.regs, h.mem, h.toks, fun p q => (hp p q).trans' (h.part p q)⟩
theorem keeps_mem {F : Nat} {S x : State} {a_inReset a_rstLow a_brown a_clk a_free a_held a_heldTab a_adjRegs a_adjTabs a_claims a_boot a_host a_jobs a_codec a_stn a_clks a_links a_brg a_dma a_rr a_stp a_enc a_encPin a_mot a_bus a_thm a_time a_wcmp a_fcmp a_ptp a_line a_csm a_mon a_pageCap a_bandCap a_out b_upset b_trained b_failed b_retired b_rmap b_pend b_refused b_head b_tail b_overAt b_tailWas b_log b_ceWin b_merge b_scrubs} (h : Keeps F S x)
    (hp : ∀ p : Part, F.testBit p.ix = false → p.same x (State.mk x.id x.otp a_inReset a_rstLow a_brown a_clk a_free x.regs a_held x.tab a_heldTab a_adjRegs a_adjTabs a_claims a_boot a_host a_jobs x.sched a_codec a_stn a_clks a_links a_brg (MemSys.mk x.mem.dram x.mem.sram b_upset b_trained b_failed b_retired b_rmap b_pend b_refused b_head b_tail b_overAt b_tailWas b_log b_ceWin b_merge b_scrubs) a_dma a_rr a_stp a_enc a_encPin a_mot a_bus a_thm a_time a_wcmp a_fcmp a_ptp a_line a_csm a_mon a_pageCap a_bandCap a_out x.pending)) :
    Keeps F S (State.mk x.id x.otp a_inReset a_rstLow a_brown a_clk a_free x.regs a_held x.tab a_heldTab a_adjRegs a_adjTabs a_claims a_boot a_host a_jobs x.sched a_codec a_stn a_clks a_links a_brg (MemSys.mk x.mem.dram x.mem.sram b_upset b_trained b_failed b_retired b_rmap b_pend b_refused b_head b_tail b_overAt b_tailWas b_log b_ceWin b_merge b_scrubs) a_dma a_rr a_stp a_enc a_encPin a_mot a_bus a_thm a_time a_wcmp a_fcmp a_ptp a_line a_csm a_mon a_pageCap a_bandCap a_out x.pending) :=
  ⟨h.id, h.otp, h.pend, h.regs, h.mem, h.toks, fun p q => (hp p q).trans' (h.part p q)⟩
theorem keeps_sched {F : Nat} {S x : State} {a_inReset a_rstLow a_brown a_clk a_free a_held a_heldTab a_adjRegs a_adjTabs a_claims a_boot a_host a_jobs a_codec a_stn a_clks a_links a_brg a_dma a_rr a_stp a_enc a_encPin a_mot a_bus a_thm a_time a_wcmp a_fcmp a_ptp a_line a_csm a_mon a_pageCap a_bandCap a_out c_stepCur c_target c_ladder c_skipRun c_okRun c_misHold c_seqNext c_longLeft c_longTo c_admitted c_brgWin c_hostWin c_thermHold} (h : Keeps F S x)
    (hp : ∀ p : Part, F.testBit p.ix = false → p.same x (State.mk x.id x.otp a_inReset a_rstLow a_brown a_clk a_free x.regs a_held x.tab a_heldTab a_adjRegs a_adjTabs a_claims a_boot a_host a_jobs (Sched.mk x.sched.toks c_stepCur c_target c_ladder c_skipRun c_okRun c_misHold c_seqNext c_longLeft c_longTo c_admitted c_brgWin c_hostWin c_thermHold) a_codec a_stn a_clks a_links a_brg x.mem a_dma a_rr a_stp a_enc a_encPin a_mot a_bus a_thm a_time a_wcmp a_fcmp a_ptp a_line a_csm a_mon a_pageCap a_bandCap a_out x.pending)) :
    Keeps F S (State.mk x.id x.otp a_inReset a_rstLow a_brown a_clk a_free x.regs a_held x.tab a_heldTab a_adjRegs a_adjTabs a_claims a_boot a_host a_jobs (Sched.mk x.sched.toks c_stepCur c_target c_ladder c_skipRun c_okRun c_misHold c_seqNext c_longLeft c_longTo c_admitted c_brgWin c_hostWin c_thermHold) a_codec a_stn a_clks a_links a_brg x.mem a_dma a_rr a_stp a_enc a_encPin a_mot a_bus a_thm a_time a_wcmp a_fcmp a_ptp a_line a_csm a_mon a_pageCap a_bandCap a_out x.pending) :=
  ⟨h.id, h.otp, h.pend, h.regs, h.mem, h.toks, fun p q => (hp p q).trans' (h.part p q)⟩
theorem keeps_each {F : Nat} {S x : State} {l : List Nat} {f : State → Nat → State} (hf : ∀ y n, Keeps F S y → Keeps F S (f y n)) (h : Keeps F S x) :
    Keeps F S (x.each l f) := by
  unfold State.each
  induction l generalizing x with
  | nil => exact h
  | cons n l ih => exact ih (hf _ _ h)
theorem keeps_foldl {F : Nat} {α : Type} {S x : State} {l : List α} {f : State → α → State} (hf : ∀ y n, Keeps F S y → Keeps F S (f y n)) (h : Keeps F S x) :
    Keeps F S (l.foldl f x) := by
  induction l generalizing x with
  | nil => exact h
  | cons n l ih => exact ih (hf _ _ h)
theorem keeps_foldl1 {F : Nat} {α β : Type} {S : State} {x : State × β} {l : List α} {f : State × β → α → State × β} (hf : ∀ y n, Keeps F S y.1 → Keeps F S (f y n).1) (h : Keeps F S x.1) :
    Keeps F S (l.foldl f x).1 := by
  induction l generalizing x with
  | nil => exact h
  | cons n l ih => exact ih (hf _ _ h)
theorem keeps_getD {F : Nat} {α : Type} {S x : State} {o : Option α} {f : α → State} (h : Keeps F S x) (hf : ∀ a, Keeps F S (f a)) : Keeps F S ((o.map f).getD x) := by
  cases o with
  | none => exact h
  | some a => exact hf a
theorem keeps_cut {F : Nat} {S y : State} {P : Prop} (a : Keeps F S y) (b : Keeps F S y → P) : P := b a
theorem keeps_cut1 {F : Nat} {β : Type} {S : State} {y : State × β} {P : Prop} (a : Keeps F S y.1) (b : Keeps F S y.1 → P) : P := b a
theorem keeps_cutR {F : Nat} {S : State} {y : Rsp} {P : Prop} (a : Keeps F S y.st) (b : Keeps F S y.st → P) : P := b a
theorem keeps_ite {F : Nat} {S a b : State} {c : Prop} [Decidable c] (h : Keeps F S a) (g : Keeps F S b) : Keeps F S (if c then a else b) := by
  split
  · exact h
  · exact g
theorem keeps_fst {F : Nat} {β : Type} {S a : State} {b : β} (h : Keeps F S a) : Keeps F S (a, b).1 := h
theorem keeps_of_pair {F : Nat} {β : Type} {S a : State} {b : β} {p : State × β} (e : p = (a, b)) (h : Keeps F S p.1) : Keeps F S a := by
  subst e; exact h
theorem keeps_of_trip {F : Nat} {β γ : Type} {S a : State} {b : β} {c : γ} {p : State × β × γ} (e : p = (a, b, c)) (h : Keeps F S p.1) : Keeps F S a := by
  subst e; exact h
theorem keeps_st {F : Nat} {S a : State} {b} (h : Keeps F S a) : Keeps F S (Rsp.mk a b).st := h

end Sys2Proof.Machine
end

