-- ==== Sys2Proof/Laws/KeepsOps.lean ====
section
/-! SUPPORT. What the operations of the shared operations, tables, event flags and clocks keep (Ops, Tables, Flags, Clock). -/
namespace Sys2Proof.Machine
set_option linter.all false
set_option Elab.async false
/-! Ops -/

theorem State.setReg_keeps (s : State) (a : Nat) (w : Word) {F : Nat} {S : State} (h : Keeps F S s)
    (hF : within 8 F = true := by exact within_trans hF (by decide)) : Keeps F S (s.setReg a w) :=
  ⟨h.id, h.otp, h.pend, fun q => canonFrom_put (dflt := fun a => resetOf s.id a) (by simp [State.setReg]) (h.regs q), h.mem, h.toks,
    fun p hp => Part.same.trans' (by cases p <;> first | exact foot_absurd hF hp (by decide) | exact rfl) (h.part p hp)⟩

theorem State.setLater_keeps (s : State) (a : Nat) (w : Word) {F : Nat} {S : State} (h : Keeps F S s)
    (hF : within 24 F = true := by exact within_trans hF (by decide)) : Keeps F S (s.setLater a w) :=
  ⟨h.id, h.otp, h.pend, fun q => canonFrom_put (dflt := fun a => resetOf s.id a) (by simp [State.setLater]) (h.regs q), h.mem, h.toks,
    fun p hp => Part.same.trans' (by cases p <;> first | exact foot_absurd hF hp (by decide) | exact rfl) (h.part p hp)⟩

theorem State.release_keeps (s : State) (p : Nat → Bool) {F : Nat} {S : State} (hK : Keeps F S s)
    (hF : within 16 F = true := by exact within_trans hF (by decide)) : Keeps F S (State.release s p) := by
  unfold State.release
  repeat' with_reducible first
    | assumption | (intro p hp; cases p <;> with_unfolding_all first | exact foot_absurd hF hp (by decide) | exact rfl)
    | fail_if_no_progress apply keeps_upd

theorem State.setF_keeps (s : State) (a lo n v : Nat) {F : Nat} {S : State} (hK : Keeps F S s)
    (hF : within 8 F = true := by exact within_trans hF (by decide)) : Keeps F S (State.setF s a lo n v) := by
  unfold State.setF
  repeat' with_reducible first | assumption | apply State.setReg_keeps

theorem State.bump_keeps (s : State) (a lo n k : Nat) {F : Nat} {S : State} (hK : Keeps F S s)
    (hF : within 8 F = true := by exact within_trans hF (by decide)) : Keeps F S (State.bump s a lo n k) := by
  unfold State.bump
  repeat' with_reducible first | assumption | apply State.setF_keeps

theorem State.emit_keeps (s : State) (o : Out) {F : Nat} {S : State} (hK : Keeps F S s)
    (hF : within 35184372088832 F = true := by exact within_trans hF (by decide)) : Keeps F S (State.emit s o) := by
  unfold State.emit
  repeat' with_reducible first
    | assumption | (intro p hp; cases p <;> with_unfolding_all first | exact foot_absurd hF hp (by decide) | exact rfl)
    | fail_if_no_progress apply keeps_upd

theorem State.tookFree_keeps (s : State) {F : Nat} {S : State} (hK : Keeps F S s)
    (hF : within 4 F = true := by exact within_trans hF (by decide)) : Keeps F S (State.tookFree s) := by
  unfold State.tookFree
  repeat' with_reducible first
    | assumption | (intro p hp; cases p <;> with_unfolding_all first | exact foot_absurd hF hp (by decide) | exact rfl)
    | fail_if_no_progress apply keeps_upd

theorem State.sendEv_keeps (s : State) (n : Nat) (m : EvMsg) {F : Nat} {S : State} (hK : Keeps F S s)
    (hF : within 2098184 F = true := by exact within_trans hF (by decide)) : Keeps F S (State.sendEv s n m) := by
  unfold State.sendEv
  repeat' with_reducible first
    | assumption | exact within_trans hF (by decide)
    | (intro p hp; cases p <;> with_unfolding_all first | exact foot_absurd hF hp (by decide) | exact rfl) | apply State.bump_keeps | split
    | fail_if_no_progress apply keeps_upd

theorem State.occur_keeps (s : State) (n detail : Nat) (extra : List Byte) {F : Nat} {S : State} (hK : Keeps F S s)
    (hF : within 2098184 F = true := by exact within_trans hF (by decide)) : Keeps F S (State.occur s n detail extra) := by
  unfold State.occur
  repeat' with_reducible first
    | assumption
    | (extract_lets +onlyGivenNames y; refine keeps_cut (F := F) (S := S) (y := y) ?_ ?_; dsimp -zeta only [y]; clear y; rotate_left; clear_value y; intro hy; rotate_right)
    | exact within_trans hF (by decide) | (intro p hp; cases p <;> with_unfolding_all first | exact foot_absurd hF hp (by decide) | exact rfl)
    | apply State.sendEv_keeps | apply State.setF_keeps | fail_if_no_progress apply keeps_upd

theorem State.raiseX_keeps (s : State) (n detail : Nat) (extra : List Byte) {F : Nat} {S : State} (hK : Keeps F S s)
    (hF : within 2098184 F = true := by exact within_trans hF (by decide)) : Keeps F S (State.raiseX s n detail extra) := by
  unfold State.raiseX
  repeat' with_reducible first | assumption | extract_lets +onlyGivenNames y | apply State.occur_keeps | split

theorem State.raise_keeps (s : State) (n detail : Nat) {F : Nat} {S : State} (hK : Keeps F S s)
    (hF : within 2098184 F = true := by exact within_trans hF (by decide)) : Keeps F S (State.raise s n detail) := by
  unfold State.raise
  repeat' with_reducible first | assumption | apply State.raiseX_keeps

theorem State.raiseIf_keeps (s : State) (c : Bool) (n detail : Nat) {F : Nat} {S : State} (hK : Keeps F S s)
    (hF : within 2098184 F = true := by exact within_trans hF (by decide)) : Keeps F S (State.raiseIf s c n detail) := by
  unfold State.raiseIf
  repeat' with_reducible first | assumption | apply State.raise_keeps | split

theorem updAt_length {α : Type} (l : List α) (n : Nat) (f : α → α) : (updAt l n f).length = l.length := by
  induction l generalizing n with
  | nil => rfl
  | cons a t ih => cases n <;> simp [updAt, ih]

theorem State.modTok_keeps (s : State) (t : Nat) (f : Token → Token) {F : Nat} {S : State} (h : Keeps F S s)
    (hF : within 8192 F = true := by exact within_trans hF (by decide)) : Keeps F S (s.modTok t f) :=
  ⟨h.id, h.otp, h.pend, h.regs, h.mem, fun q => by simp only [State.modTok, updAt_length]; exact h.toks q,
    fun p hp => Part.same.trans' (by cases p <;> first | exact foot_absurd hF hp (by decide) | exact rfl) (h.part p hp)⟩

theorem State.modStn_keeps (s : State) (n : Nat) (f : Station → Station) {F : Nat} {S : State} (hK : Keeps F S s)
    (hF : within 262144 F = true := by exact within_trans hF (by decide)) : Keeps F S (State.modStn s n f) := by
  unfold State.modStn
  repeat' with_reducible first
    | assumption | (intro p hp; cases p <;> with_unfolding_all first | exact foot_absurd hF hp (by decide) | exact rfl)
    | fail_if_no_progress apply keeps_upd

theorem State.modLink_keeps (s : State) (n : Nat) (f : BeamLink → BeamLink) {F : Nat} {S : State} (hK : Keeps F S s)
    (hF : within 1048576 F = true := by exact within_trans hF (by decide)) : Keeps F S (State.modLink s n f) := by
  unfold State.modLink
  repeat' with_reducible first
    | assumption | (intro p hp; cases p <;> with_unfolding_all first | exact foot_absurd hF hp (by decide) | exact rfl)
    | fail_if_no_progress apply keeps_upd

theorem State.modPix_keeps (s : State) (n : Nat) (f : PixSynth → PixSynth) {F : Nat} {S : State} (hK : Keeps F S s)
    (hF : within 524288 F = true := by exact within_trans hF (by decide)) : Keeps F S (State.modPix s n f) := by
  unfold State.modPix
  repeat' with_reducible first
    | assumption | (intro p hp; cases p <;> with_unfolding_all first | exact foot_absurd hF hp (by decide) | exact rfl)
    | fail_if_no_progress apply keeps_upd

theorem State.modCast_keeps (s : State) (n : Nat) (f : Cast → Cast) {F : Nat} {S : State} (hK : Keeps F S s)
    (hF : within 32768 F = true := by exact within_trans hF (by decide)) : Keeps F S (State.modCast s n f) := by
  unfold State.modCast
  repeat' with_reducible first
    | assumption | (intro p hp; cases p <;> with_unfolding_all first | exact foot_absurd hF hp (by decide) | exact rfl)
    | fail_if_no_progress apply keeps_upd

theorem State.modChs_keeps (s : State) (n : Nat) (f : Chisel → Chisel) {F : Nat} {S : State} (hK : Keeps F S s)
    (hF : within 65536 F = true := by exact within_trans hF (by decide)) : Keeps F S (State.modChs s n f) := by
  unfold State.modChs
  repeat' with_reducible first
    | assumption | (intro p hp; cases p <;> with_unfolding_all first | exact foot_absurd hF hp (by decide) | exact rfl)
    | fail_if_no_progress apply keeps_upd

theorem State.modDma_keeps (s : State) (n : Nat) (f : DmaCh → DmaCh) {F : Nat} {S : State} (hK : Keeps F S s)
    (hF : within 67108864 F = true := by exact within_trans hF (by decide)) : Keeps F S (State.modDma s n f) := by
  unfold State.modDma
  repeat' with_reducible first
    | assumption | (intro p hp; cases p <;> with_unfolding_all first | exact foot_absurd hF hp (by decide) | exact rfl)
    | fail_if_no_progress apply keeps_upd

theorem State.modStp_keeps (s : State) (n : Nat) (f : Stepper → Stepper) {F : Nat} {S : State} (hK : Keeps F S s)
    (hF : within 268435456 F = true := by exact within_trans hF (by decide)) : Keeps F S (State.modStp s n f) := by
  unfold State.modStp
  repeat' with_reducible first
    | assumption | (intro p hp; cases p <;> with_unfolding_all first | exact foot_absurd hF hp (by decide) | exact rfl)
    | fail_if_no_progress apply keeps_upd

theorem State.modMot_keeps (s : State) (n : Nat) (f : Motor → Motor) {F : Nat} {S : State} (hK : Keeps F S s)
    (hF : within 1073741824 F = true := by exact within_trans hF (by decide)) : Keeps F S (State.modMot s n f) := by
  unfold State.modMot
  repeat' with_reducible first
    | assumption | (intro p hp; cases p <;> with_unfolding_all first | exact foot_absurd hF hp (by decide) | exact rfl)
    | fail_if_no_progress apply keeps_upd

theorem State.modSens_keeps (s : State) (k : Nat) (f : Sensor → Sensor) {F : Nat} {S : State} (hK : Keeps F S s)
    (hF : within 4294967296 F = true := by exact within_trans hF (by decide)) : Keeps F S (State.modSens s k f) := by
  unfold State.modSens
  repeat' with_reducible first
    | assumption | (intro p hp; cases p <;> with_unfolding_all first | exact foot_absurd hF hp (by decide) | exact rfl)
    | fail_if_no_progress apply keeps_upd

theorem State.modLad_keeps (s : State) (d : Nat) (f : Ladder → Ladder) {F : Nat} {S : State} (hK : Keeps F S s)
    (hF : within 8589934592 F = true := by exact within_trans hF (by decide)) : Keeps F S (State.modLad s d f) := by
  unfold State.modLad
  repeat' with_reducible first
    | assumption | (intro p hp; cases p <;> with_unfolding_all first | exact foot_absurd hF hp (by decide) | exact rfl)
    | fail_if_no_progress apply keeps_upd

theorem State.modHeat_keeps (s : State) (h : Nat) (f : Heater → Heater) {F : Nat} {S : State} (hK : Keeps F S s)
    (hF : within 17179869184 F = true := by exact within_trans hF (by decide)) : Keeps F S (State.modHeat s h f) := by
  unfold State.modHeat
  repeat' with_reducible first
    | assumption | (intro p hp; cases p <;> with_unfolding_all first | exact foot_absurd hF hp (by decide) | exact rfl)
    | fail_if_no_progress apply keeps_upd

theorem State.modHv_keeps (s : State) (c : Nat) (f : HvCh → HvCh) {F : Nat} {S : State} (hK : Keeps F S s)
    (hF : within 34359738368 F = true := by exact within_trans hF (by decide)) : Keeps F S (State.modHv s c f) := by
  unfold State.modHv
  repeat' with_reducible first
    | assumption | (intro p hp; cases p <;> with_unfolding_all first | exact foot_absurd hF hp (by decide) | exact rfl)
    | fail_if_no_progress apply keeps_upd

theorem State.modPtp_keeps (s : State) (p : Nat) (f : PtpPort → PtpPort) {F : Nat} {S : State} (hK : Keeps F S s)
    (hF : within 1099511627776 F = true := by exact within_trans hF (by decide)) : Keeps F S (State.modPtp s p f) := by
  unfold State.modPtp
  repeat' with_reducible first
    | assumption | (intro p hp; cases p <;> with_unfolding_all first | exact foot_absurd hF hp (by decide) | exact rfl)
    | fail_if_no_progress apply keeps_upd

theorem State.modCsm_keeps (s : State) (p : Nat) (f : CsmPort → CsmPort) {F : Nat} {S : State} (hK : Keeps F S s)
    (hF : within 4398046511104 F = true := by exact within_trans hF (by decide)) : Keeps F S (State.modCsm s p f) := by
  unfold State.modCsm
  repeat' with_reducible first
    | assumption | (intro p hp; cases p <;> with_unfolding_all first | exact foot_absurd hF hp (by decide) | exact rfl)
    | fail_if_no_progress apply keeps_upd

theorem State.answer_keeps (a : Nat) (r : State × Nat) {F : Nat} {S : State} (h : Keeps F S r.1)
    (hF : within 35184372088832 F = true := by exact within_trans hF (by decide)) : Keeps F S (State.answer a r) := by
  unfold State.answer; exact State.emit_keeps _ _ h

/-! Tables -/

theorem tabCanon_set {m : Mem} {a : Nat} {b : Byte} (h : canonFrom (fun a b => b == tabDef a) none m = true) :
    canonFrom (fun a b => b == tabDef a) none (setTab m a b) = true :=
  canonFrom_put (dflt := tabDef) (by simp) h

theorem State.putTab_keeps (s : State) (a : Nat) (l : List Byte) {F : Nat} {S : State} (h : Keeps F S s)
    (hF : within 32 F = true := by exact within_trans hF (by decide)) : Keeps F S (s.putTab a l) := by
  induction l generalizing s a with
  | nil => exact h
  | cons b bs ih =>
    refine ih _ _ ⟨h.id, h.otp, h.pend, h.regs, fun q => ?_, h.toks,
      fun p hp => Part.same.trans' (by cases p <;> first | exact foot_absurd hF hp (by decide) | exact rfl) (h.part p hp)⟩
    have := h.mem q
    exact ⟨this.1, this.2.1, tabCanon_set this.2.2⟩

theorem State.clampTab_keeps (s : State) (t i lo hi : Nat) {F : Nat} {S : State} (hK : Keeps F S s)
    (hF : within 32 F = true := by exact within_trans hF (by decide)) : Keeps F S (State.clampTab s t i lo hi) := by
  unfold State.clampTab
  repeat' with_reducible first
    | exact hK | assumption
    | (extract_lets +onlyGivenNames y; refine keeps_cut (F := F) (S := S) (y := y) ?_ ?_; dsimp -zeta only [y]; clear y; rotate_left; clear_value y; intro hy; rotate_right)
    | (extract_lets +onlyGivenNames y; refine keeps_cut1 (F := F) (S := S) (y := y) ?_ ?_; dsimp -zeta only [y]; clear y; rotate_left; clear_value y; intro hy; rotate_right)
    | (extract_lets +onlyGivenNames y; refine keeps_cutR (F := F) (S := S) (y := y) ?_ ?_; dsimp -zeta only [y]; clear y; rotate_left; clear_value y; intro hy; rotate_right)
    | extract_lets +onlyGivenNames y | apply keepsA_next | apply keepsO_some | exact keepsO_none | exact within_trans hF (by decide)
    | (intro p hp; cases p <;> with_unfolding_all first | exact foot_absurd hF hp (by decide) | exact rfl) | apply State.putTab_keeps
    | (apply keeps_foldl; intro y n hy) | (apply keeps_foldl1; intro y n hy) | split | (apply keeps_of_pair; assumption)
    | (apply keeps_of_trip; assumption) | refine keeps_of_some (by assumption) ?_ | dsimp -zeta only

theorem State.clampSlip_keeps (s : State) (i : Nat) {F : Nat} {S : State} (hK : Keeps F S s)
    (hF : within 32 F = true := by exact within_trans hF (by decide)) : Keeps F S (State.clampSlip s i) := by
  unfold State.clampSlip
  repeat' with_reducible first
    | exact hK | assumption
    | (extract_lets +onlyGivenNames y; refine keeps_cut (F := F) (S := S) (y := y) ?_ ?_; dsimp -zeta only [y]; clear y; rotate_left; clear_value y; intro hy; rotate_right)
    | (extract_lets +onlyGivenNames y; refine keeps_cut1 (F := F) (S := S) (y := y) ?_ ?_; dsimp -zeta only [y]; clear y; rotate_left; clear_value y; intro hy; rotate_right)
    | (extract_lets +onlyGivenNames y; refine keeps_cutR (F := F) (S := S) (y := y) ?_ ?_; dsimp -zeta only [y]; clear y; rotate_left; clear_value y; intro hy; rotate_right)
    | extract_lets +onlyGivenNames y | apply keepsA_next | apply keepsO_some | exact keepsO_none | exact within_trans hF (by decide)
    | (intro p hp; cases p <;> with_unfolding_all first | exact foot_absurd hF hp (by decide) | exact rfl) | apply State.each_keeps
    | apply State.putTab_keeps | (apply keeps_each; intro y n hy) | split | (apply keeps_of_pair; assumption) | (apply keeps_of_trip; assumption)
    | refine keeps_of_some (by assumption) ?_ | dsimp -zeta only

theorem State.clampLadder_keeps (s : State) {F : Nat} {S : State} (hK : Keeps F S s)
    (hF : within 32 F = true := by exact within_trans hF (by decide)) : Keeps F S (State.clampLadder s) := by
  unfold State.clampLadder
  repeat' with_reducible first
    | exact hK | assumption
    | (extract_lets +onlyGivenNames y; refine keeps_cut (F := F) (S := S) (y := y) ?_ ?_; dsimp -zeta only [y]; clear y; rotate_left; clear_value y; intro hy; rotate_right)
    | (extract_lets +onlyGivenNames y; refine keeps_cut1 (F := F) (S := S) (y := y) ?_ ?_; dsimp -zeta only [y]; clear y; rotate_left; clear_value y; intro hy; rotate_right)
    | (extract_lets +onlyGivenNames y; refine keeps_cutR (F := F) (S := S) (y := y) ?_ ?_; dsimp -zeta only [y]; clear y; rotate_left; clear_value y; intro hy; rotate_right)
    | extract_lets +onlyGivenNames y | apply keepsA_next | apply keepsO_some | exact keepsO_none | exact within_trans hF (by decide)
    | (intro p hp; cases p <;> with_unfolding_all first | exact foot_absurd hF hp (by decide) | exact rfl) | apply State.each_keeps
    | apply State.putTab_keeps | (apply keeps_each; intro y n hy) | split | (apply keeps_of_pair; assumption) | (apply keeps_of_trip; assumption)
    | refine keeps_of_some (by assumption) ?_ | dsimp -zeta only

theorem State.clampTherm_keeps (s : State) (i : Nat) {F : Nat} {S : State} (hK : Keeps F S s)
    (hF : within 32 F = true := by exact within_trans hF (by decide)) : Keeps F S (State.clampTherm s i) := by
  unfold State.clampTherm
  repeat' with_reducible first
    | exact hK | assumption
    | (extract_lets +onlyGivenNames y; refine keeps_cut (F := F) (S := S) (y := y) ?_ ?_; dsimp -zeta only [y]; clear y; rotate_left; clear_value y; intro hy; rotate_right)
    | (extract_lets +onlyGivenNames y; refine keeps_cut1 (F := F) (S := S) (y := y) ?_ ?_; dsimp -zeta only [y]; clear y; rotate_left; clear_value y; intro hy; rotate_right)
    | (extract_lets +onlyGivenNames y; refine keeps_cutR (F := F) (S := S) (y := y) ?_ ?_; dsimp -zeta only [y]; clear y; rotate_left; clear_value y; intro hy; rotate_right)
    | extract_lets +onlyGivenNames y | apply keepsA_next | apply keepsO_some | exact keepsO_none | exact within_trans hF (by decide)
    | (intro p hp; cases p <;> with_unfolding_all first | exact foot_absurd hF hp (by decide) | exact rfl) | apply State.each_keeps
    | apply State.putTab_keeps | (apply keeps_each; intro y n hy) | split | (apply keeps_of_pair; assumption) | (apply keeps_of_trip; assumption)
    | refine keeps_of_some (by assumption) ?_ | dsimp -zeta only

theorem State.clampEvents_keeps (s : State) {F : Nat} {S : State} (hK : Keeps F S s)
    (hF : within 32 F = true := by exact within_trans hF (by decide)) : Keeps F S (State.clampEvents s) := by
  unfold State.clampEvents
  repeat' with_reducible first
    | exact hK | assumption
    | (extract_lets +onlyGivenNames y; refine keeps_cut (F := F) (S := S) (y := y) ?_ ?_; dsimp -zeta only [y]; clear y; rotate_left; clear_value y; intro hy; rotate_right)
    | (extract_lets +onlyGivenNames y; refine keeps_cut1 (F := F) (S := S) (y := y) ?_ ?_; dsimp -zeta only [y]; clear y; rotate_left; clear_value y; intro hy; rotate_right)
    | (extract_lets +onlyGivenNames y; refine keeps_cutR (F := F) (S := S) (y := y) ?_ ?_; dsimp -zeta only [y]; clear y; rotate_left; clear_value y; intro hy; rotate_right)
    | extract_lets +onlyGivenNames y | apply keepsA_next | apply keepsO_some | exact keepsO_none | exact within_trans hF (by decide)
    | (intro p hp; cases p <;> with_unfolding_all first | exact foot_absurd hF hp (by decide) | exact rfl) | apply State.each_keeps
    | apply State.putTab_keeps | (apply keeps_each; intro y n hy) | split | (apply keeps_of_pair; assumption) | (apply keeps_of_trip; assumption)
    | refine keeps_of_some (by assumption) ?_ | dsimp -zeta only

theorem tabCanon_foldl {m l : Mem} {k : Nat} (h : canonFrom (fun a b => b == tabDef a) none m = true) :
    canonFrom (fun a b => b == tabDef a) none (l.foldl (fun m e => setTab m (e.1 + k) e.2) m) = true := by
  induction l generalizing m with
  | nil => exact h
  | cons e t ih => exact ih (tabCanon_set h)

theorem State.applyTab_keeps (s : State) (t i : Nat) {F : Nat} {S : State} (h : Keeps F S s)
    (hF : within 32 F = true := by exact within_trans hF (by decide)) : Keeps F S (s.applyTab t i) := by
  unfold State.applyTab
  extract_lets b kept
  refine ⟨h.id, h.otp, h.pend, h.regs, fun q => ⟨(h.mem q).1, (h.mem q).2.1, ?_⟩, h.toks,
    fun p hp => Part.same.trans' (by cases p <;> first | exact foot_absurd hF hp (by decide) | exact rfl) (h.part p hp)⟩
  exact tabCanon_foldl (canonFrom_filter _ (h.mem q).2.2)

theorem State.loadTab_keeps (s : State) (t i off : Nat) (data : List Byte) {F : Nat} {S : State} (hK : Keeps F S s)
    (hF : within 32 F = true := by exact within_trans hF (by decide)) : Keeps F S (State.loadTab s t i off data) := by
  unfold State.loadTab
  repeat' with_reducible first
    | exact hK | assumption
    | (extract_lets +onlyGivenNames y; refine keeps_cut (F := F) (S := S) (y := y) ?_ ?_; dsimp -zeta only [y]; clear y; rotate_left; clear_value y; intro hy; rotate_right)
    | (extract_lets +onlyGivenNames y; refine keeps_cut1 (F := F) (S := S) (y := y) ?_ ?_; dsimp -zeta only [y]; clear y; rotate_left; clear_value y; intro hy; rotate_right)
    | (extract_lets +onlyGivenNames y; refine keeps_cutR (F := F) (S := S) (y := y) ?_ ?_; dsimp -zeta only [y]; clear y; rotate_left; clear_value y; intro hy; rotate_right)
    | extract_lets +onlyGivenNames y | apply keepsA_next | apply keepsO_some | exact keepsO_none | exact within_trans hF (by decide)
    | (intro p hp; cases p <;> with_unfolding_all first | exact foot_absurd hF hp (by decide) | exact rfl) | apply State.clampEvents_keeps
    | apply State.clampLadder_keeps | apply State.clampSlip_keeps | apply State.clampTab_keeps | apply State.clampTherm_keeps
    | apply State.putTab_keeps | split | (apply keeps_of_pair; assumption) | (apply keeps_of_trip; assumption)
    | refine keeps_of_some (by assumption) ?_ | dsimp -zeta only

theorem State.holdTab_keeps (s : State) (t i : Nat) {F : Nat} {S : State} (hK : Keeps F S s)
    (hF : within 64 F = true := by exact within_trans hF (by decide)) : Keeps F S (State.holdTab s t i) := by
  unfold State.holdTab
  repeat' with_reducible first
    | exact hK | assumption
    | (extract_lets +onlyGivenNames y; refine keeps_cut (F := F) (S := S) (y := y) ?_ ?_; dsimp -zeta only [y]; clear y; rotate_left; clear_value y; intro hy; rotate_right)
    | (extract_lets +onlyGivenNames y; refine keeps_cut1 (F := F) (S := S) (y := y) ?_ ?_; dsimp -zeta only [y]; clear y; rotate_left; clear_value y; intro hy; rotate_right)
    | (extract_lets +onlyGivenNames y; refine keeps_cutR (F := F) (S := S) (y := y) ?_ ?_; dsimp -zeta only [y]; clear y; rotate_left; clear_value y; intro hy; rotate_right)
    | extract_lets +onlyGivenNames y | apply keepsA_next | apply keepsO_some | exact keepsO_none | exact within_trans hF (by decide)
    | (intro p hp; cases p <;> with_unfolding_all first | exact foot_absurd hF hp (by decide) | exact rfl) | split | (apply keeps_of_pair; assumption)
    | (apply keeps_of_trip; assumption) | refine keeps_of_some (by assumption) ?_ | dsimp -zeta only | fail_if_no_progress apply keeps_upd

theorem State.ladRefresh_keeps (s : State) (d : Nat) {F : Nat} {S : State} (hK : Keeps F S s)
    (hF : within 8590983168 F = true := by exact within_trans hF (by decide)) : Keeps F S (State.ladRefresh s d) := by
  unfold State.ladRefresh
  repeat' with_reducible first
    | exact hK | assumption
    | (extract_lets +onlyGivenNames y; refine keeps_cut (F := F) (S := S) (y := y) ?_ ?_; dsimp -zeta only [y]; clear y; rotate_left; clear_value y; intro hy; rotate_right)
    | (extract_lets +onlyGivenNames y; refine keeps_cut1 (F := F) (S := S) (y := y) ?_ ?_; dsimp -zeta only [y]; clear y; rotate_left; clear_value y; intro hy; rotate_right)
    | (extract_lets +onlyGivenNames y; refine keeps_cutR (F := F) (S := S) (y := y) ?_ ?_; dsimp -zeta only [y]; clear y; rotate_left; clear_value y; intro hy; rotate_right)
    | extract_lets +onlyGivenNames y | apply keepsA_next | apply keepsO_some | exact keepsO_none | exact within_trans hF (by decide)
    | (intro p hp; cases p <;> with_unfolding_all first | exact foot_absurd hF hp (by decide) | exact rfl) | apply State.modLad_keeps
    | apply State.modLink_keeps | split | (apply keeps_of_pair; assumption) | (apply keeps_of_trip; assumption)
    | refine keeps_of_some (by assumption) ?_ | dsimp -zeta only | fail_if_no_progress apply keeps_upd

theorem State.ladLoad_keeps (s : State) (d : Nat) {F : Nat} {S : State} (hK : Keeps F S s)
    (hF : within 8590983168 F = true := by exact within_trans hF (by decide)) : Keeps F S (State.ladLoad s d) := by
  unfold State.ladLoad
  repeat' with_reducible first
    | exact hK | assumption
    | (extract_lets +onlyGivenNames y; refine keeps_cut (F := F) (S := S) (y := y) ?_ ?_; dsimp -zeta only [y]; clear y; rotate_left; clear_value y; intro hy; rotate_right)
    | (extract_lets +onlyGivenNames y; refine keeps_cut1 (F := F) (S := S) (y := y) ?_ ?_; dsimp -zeta only [y]; clear y; rotate_left; clear_value y; intro hy; rotate_right)
    | (extract_lets +onlyGivenNames y; refine keeps_cutR (F := F) (S := S) (y := y) ?_ ?_; dsimp -zeta only [y]; clear y; rotate_left; clear_value y; intro hy; rotate_right)
    | extract_lets +onlyGivenNames y | apply keepsA_next | apply keepsO_some | exact keepsO_none | exact within_trans hF (by decide)
    | (intro p hp; cases p <;> with_unfolding_all first | exact foot_absurd hF hp (by decide) | exact rfl) | apply State.ladRefresh_keeps
    | apply State.modLad_keeps | split | (apply keeps_of_pair; assumption) | (apply keeps_of_trip; assumption)
    | refine keeps_of_some (by assumption) ?_ | dsimp -zeta only | fail_if_no_progress apply keeps_upd

theorem State.setTabRun_keeps (s : State) (t i off : Nat) (data : List Byte) {F : Nat} {S : State} (hK : Keeps F S s)
    (hF : within 8591245408 F = true := by exact within_trans hF (by decide)) : Keeps F S (State.setTabRun s t i off data) := by
  unfold State.setTabRun
  repeat' with_reducible first
    | exact hK | assumption
    | (extract_lets +onlyGivenNames y; refine keeps_cut (F := F) (S := S) (y := y) ?_ ?_; dsimp -zeta only [y]; clear y; rotate_left; clear_value y; intro hy; rotate_right)
    | (extract_lets +onlyGivenNames y; refine keeps_cut1 (F := F) (S := S) (y := y) ?_ ?_; dsimp -zeta only [y]; clear y; rotate_left; clear_value y; intro hy; rotate_right)
    | (extract_lets +onlyGivenNames y; refine keeps_cutR (F := F) (S := S) (y := y) ?_ ?_; dsimp -zeta only [y]; clear y; rotate_left; clear_value y; intro hy; rotate_right)
    | extract_lets +onlyGivenNames y | apply keepsA_next | apply keepsO_some | exact keepsO_none | exact within_trans hF (by decide)
    | (intro p hp; cases p <;> with_unfolding_all first | exact foot_absurd hF hp (by decide) | exact rfl) | apply State.holdTab_keeps
    | apply State.ladLoad_keeps | apply State.loadTab_keeps | apply State.modStn_keeps | split | (apply keeps_of_pair; assumption)
    | (apply keeps_of_trip; assumption) | refine keeps_of_some (by assumption) ?_ | dsimp -zeta only | fail_if_no_progress apply keeps_upd

theorem State.ptpRoleSet_keeps (s : State) (p old : Nat) {F : Nat} {S : State} (hK : Keeps F S s)
    (hF : within 1099513725960 F = true := by exact within_trans hF (by decide)) : Keeps F S (State.ptpRoleSet s p old) := by
  unfold State.ptpRoleSet
  repeat' with_reducible first
    | exact hK | assumption
    | (extract_lets +onlyGivenNames y; refine keeps_cut (F := F) (S := S) (y := y) ?_ ?_; dsimp -zeta only [y]; clear y; rotate_left; clear_value y; intro hy; rotate_right)
    | (extract_lets +onlyGivenNames y; refine keeps_cut1 (F := F) (S := S) (y := y) ?_ ?_; dsimp -zeta only [y]; clear y; rotate_left; clear_value y; intro hy; rotate_right)
    | (extract_lets +onlyGivenNames y; refine keeps_cutR (F := F) (S := S) (y := y) ?_ ?_; dsimp -zeta only [y]; clear y; rotate_left; clear_value y; intro hy; rotate_right)
    | extract_lets +onlyGivenNames y | apply keepsA_next | apply keepsO_some | exact keepsO_none | exact within_trans hF (by decide)
    | (intro p hp; cases p <;> with_unfolding_all first | exact foot_absurd hF hp (by decide) | exact rfl) | apply State.modPtp_keeps
    | apply State.raiseIf_keeps | split | (apply keeps_of_pair; assumption) | (apply keeps_of_trip; assumption)
    | refine keeps_of_some (by assumption) ?_ | dsimp -zeta only | fail_if_no_progress apply keeps_upd

theorem State.engineBoundary_keeps (s : State) {F : Nat} {S : State} (hK : Keeps F S s)
    (hF : within 1108104709208 F = true := by exact within_trans hF (by decide)) : Keeps F S (State.engineBoundary s) := by
  unfold State.engineBoundary
  repeat' with_reducible first
    | exact hK | assumption
    | (extract_lets +onlyGivenNames y; refine keeps_cut (F := F) (S := S) (y := y) ?_ ?_; dsimp -zeta only [y]; clear y; rotate_left; clear_value y; intro hy; rotate_right)
    | (extract_lets +onlyGivenNames y; refine keeps_cut1 (F := F) (S := S) (y := y) ?_ ?_; dsimp -zeta only [y]; clear y; rotate_left; clear_value y; intro hy; rotate_right)
    | (extract_lets +onlyGivenNames y; refine keeps_cutR (F := F) (S := S) (y := y) ?_ ?_; dsimp -zeta only [y]; clear y; rotate_left; clear_value y; intro hy; rotate_right)
    | extract_lets +onlyGivenNames y | apply keepsA_next | apply keepsO_some | exact keepsO_none | exact within_trans hF (by decide)
    | (intro p hp; cases p <;> with_unfolding_all first | exact foot_absurd hF hp (by decide) | exact rfl) | apply State.each_keeps
    | apply State.ladRefresh_keeps | apply State.ptpRoleSet_keeps | apply State.release_keeps | (apply keeps_each; intro y n hy) | split
    | (apply keeps_of_pair; assumption) | (apply keeps_of_trip; assumption) | refine keeps_of_some (by assumption) ?_ | dsimp -zeta only
    | fail_if_no_progress apply keeps_upd

/-! Flags -/

theorem State.moveTok_keeps (s : State) (t : Nat) (f : Token → Token) {F : Nat} {S : State} (hK : Keeps F S s)
    (hF : within 35184372097024 F = true := by exact within_trans hF (by decide)) : Keeps F S (State.moveTok s t f) := by
  unfold State.moveTok
  repeat' with_reducible first
    | exact hK | assumption
    | (extract_lets +onlyGivenNames y; refine keeps_cut (F := F) (S := S) (y := y) ?_ ?_; dsimp -zeta only [y]; clear y; rotate_left; clear_value y; intro hy; rotate_right)
    | (extract_lets +onlyGivenNames y; refine keeps_cut1 (F := F) (S := S) (y := y) ?_ ?_; dsimp -zeta only [y]; clear y; rotate_left; clear_value y; intro hy; rotate_right)
    | (extract_lets +onlyGivenNames y; refine keeps_cutR (F := F) (S := S) (y := y) ?_ ?_; dsimp -zeta only [y]; clear y; rotate_left; clear_value y; intro hy; rotate_right)
    | extract_lets +onlyGivenNames y | apply keepsA_next | apply keepsO_some | exact keepsO_none | exact within_trans hF (by decide)
    | (intro p hp; cases p <;> with_unfolding_all first | exact foot_absurd hF hp (by decide) | exact rfl) | apply State.emit_keeps
    | apply State.modTok_keeps | split | (apply keeps_of_pair; assumption) | (apply keeps_of_trip; assumption)
    | refine keeps_of_some (by assumption) ?_ | dsimp -zeta only

theorem State.flagTok_keeps (s : State) (t bit : Nat) (ev : Option Nat) {F : Nat} {S : State} (hK : Keeps F S s)
    (hF : within 2106376 F = true := by exact within_trans hF (by decide)) : Keeps F S (State.flagTok s t bit ev) := by
  unfold State.flagTok
  repeat' with_reducible first
    | exact hK | assumption
    | (extract_lets +onlyGivenNames y; refine keeps_cut (F := F) (S := S) (y := y) ?_ ?_; dsimp -zeta only [y]; clear y; rotate_left; clear_value y; intro hy; rotate_right)
    | (extract_lets +onlyGivenNames y; refine keeps_cut1 (F := F) (S := S) (y := y) ?_ ?_; dsimp -zeta only [y]; clear y; rotate_left; clear_value y; intro hy; rotate_right)
    | (extract_lets +onlyGivenNames y; refine keeps_cutR (F := F) (S := S) (y := y) ?_ ?_; dsimp -zeta only [y]; clear y; rotate_left; clear_value y; intro hy; rotate_right)
    | extract_lets +onlyGivenNames y | apply keepsA_next | apply keepsO_some | exact keepsO_none | exact within_trans hF (by decide)
    | (intro p hp; cases p <;> with_unfolding_all first | exact foot_absurd hF hp (by decide) | exact rfl) | apply State.modTok_keeps
    | apply State.raise_keeps | split | (apply keeps_of_pair; assumption) | (apply keeps_of_trip; assumption)
    | refine keeps_of_some (by assumption) ?_ | dsimp -zeta only | fail_if_no_progress apply keeps_upd

theorem State.causeTok_keeps (s : State) (t c : Nat) {F : Nat} {S : State} (hK : Keeps F S s)
    (hF : within 8192 F = true := by exact within_trans hF (by decide)) : Keeps F S (State.causeTok s t c) := by
  unfold State.causeTok
  repeat' with_reducible first
    | exact hK | assumption
    | (extract_lets +onlyGivenNames y; refine keeps_cut (F := F) (S := S) (y := y) ?_ ?_; dsimp -zeta only [y]; clear y; rotate_left; clear_value y; intro hy; rotate_right)
    | (extract_lets +onlyGivenNames y; refine keeps_cut1 (F := F) (S := S) (y := y) ?_ ?_; dsimp -zeta only [y]; clear y; rotate_left; clear_value y; intro hy; rotate_right)
    | (extract_lets +onlyGivenNames y; refine keeps_cutR (F := F) (S := S) (y := y) ?_ ?_; dsimp -zeta only [y]; clear y; rotate_left; clear_value y; intro hy; rotate_right)
    | extract_lets +onlyGivenNames y | apply keepsA_next | apply keepsO_some | exact keepsO_none | exact within_trans hF (by decide)
    | (intro p hp; cases p <;> with_unfolding_all first | exact foot_absurd hF hp (by decide) | exact rfl) | apply State.modTok_keeps | split
    | (apply keeps_of_pair; assumption) | (apply keeps_of_trip; assumption) | refine keeps_of_some (by assumption) ?_ | dsimp -zeta only
    | fail_if_no_progress apply keeps_upd

theorem State.wasteTok_keeps (s : State) (t c : Nat) {F : Nat} {S : State} (hK : Keeps F S s)
    (hF : within 2106376 F = true := by exact within_trans hF (by decide)) : Keeps F S (State.wasteTok s t c) := by
  unfold State.wasteTok
  repeat' with_reducible first
    | exact hK | assumption
    | (extract_lets +onlyGivenNames y; refine keeps_cut (F := F) (S := S) (y := y) ?_ ?_; dsimp -zeta only [y]; clear y; rotate_left; clear_value y; intro hy; rotate_right)
    | (extract_lets +onlyGivenNames y; refine keeps_cut1 (F := F) (S := S) (y := y) ?_ ?_; dsimp -zeta only [y]; clear y; rotate_left; clear_value y; intro hy; rotate_right)
    | (extract_lets +onlyGivenNames y; refine keeps_cutR (F := F) (S := S) (y := y) ?_ ?_; dsimp -zeta only [y]; clear y; rotate_left; clear_value y; intro hy; rotate_right)
    | extract_lets +onlyGivenNames y | apply keepsA_next | apply keepsO_some | exact keepsO_none | exact within_trans hF (by decide)
    | (intro p hp; cases p <;> with_unfolding_all first | exact foot_absurd hF hp (by decide) | exact rfl) | apply State.causeTok_keeps
    | apply State.flagTok_keeps | split | (apply keeps_of_pair; assumption) | (apply keeps_of_trip; assumption)
    | refine keeps_of_some (by assumption) ?_ | dsimp -zeta only

theorem State.wasteAll_keeps (s : State) (c : Nat) {F : Nat} {S : State} (hK : Keeps F S s)
    (hF : within 2106376 F = true := by exact within_trans hF (by decide)) : Keeps F S (State.wasteAll s c) := by
  unfold State.wasteAll
  repeat' with_reducible first
    | exact hK | assumption
    | (extract_lets +onlyGivenNames y; refine keeps_cut (F := F) (S := S) (y := y) ?_ ?_; dsimp -zeta only [y]; clear y; rotate_left; clear_value y; intro hy; rotate_right)
    | (extract_lets +onlyGivenNames y; refine keeps_cut1 (F := F) (S := S) (y := y) ?_ ?_; dsimp -zeta only [y]; clear y; rotate_left; clear_value y; intro hy; rotate_right)
    | (extract_lets +onlyGivenNames y; refine keeps_cutR (F := F) (S := S) (y := y) ?_ ?_; dsimp -zeta only [y]; clear y; rotate_left; clear_value y; intro hy; rotate_right)
    | extract_lets +onlyGivenNames y | apply keepsA_next | apply keepsO_some | exact keepsO_none | exact within_trans hF (by decide)
    | (intro p hp; cases p <;> with_unfolding_all first | exact foot_absurd hF hp (by decide) | exact rfl) | apply State.each_keeps
    | apply State.modTok_keeps | apply State.wasteTok_keeps | (apply keeps_each; intro y n hy) | split | (apply keeps_of_pair; assumption)
    | (apply keeps_of_trip; assumption) | refine keeps_of_some (by assumption) ?_ | dsimp -zeta only | fail_if_no_progress apply keeps_upd

theorem State.wasteAllSeen_keeps (s : State) (c : Nat) {F : Nat} {S : State} (hK : Keeps F S s)
    (hF : within 2106376 F = true := by exact within_trans hF (by decide)) : Keeps F S (State.wasteAllSeen s c) := by
  unfold State.wasteAllSeen
  repeat' with_reducible first
    | exact hK | assumption
    | (extract_lets +onlyGivenNames y; refine keeps_cut (F := F) (S := S) (y := y) ?_ ?_; dsimp -zeta only [y]; clear y; rotate_left; clear_value y; intro hy; rotate_right)
    | (extract_lets +onlyGivenNames y; refine keeps_cut1 (F := F) (S := S) (y := y) ?_ ?_; dsimp -zeta only [y]; clear y; rotate_left; clear_value y; intro hy; rotate_right)
    | (extract_lets +onlyGivenNames y; refine keeps_cutR (F := F) (S := S) (y := y) ?_ ?_; dsimp -zeta only [y]; clear y; rotate_left; clear_value y; intro hy; rotate_right)
    | extract_lets +onlyGivenNames y | apply keepsA_next | apply keepsO_some | exact keepsO_none | exact within_trans hF (by decide)
    | (intro p hp; cases p <;> with_unfolding_all first | exact foot_absurd hF hp (by decide) | exact rfl) | apply State.each_keeps
    | apply State.wasteTok_keeps | (apply keeps_each; intro y n hy) | split | (apply keeps_of_pair; assumption) | (apply keeps_of_trip; assumption)
    | refine keeps_of_some (by assumption) ?_ | dsimp -zeta only

theorem State.blankStation_keeps (s : State) (n c : Nat) {F : Nat} {S : State} (hK : Keeps F S s)
    (hF : within 2368520 F = true := by exact within_trans hF (by decide)) : Keeps F S (State.blankStation s n c) := by
  unfold State.blankStation
  repeat' with_reducible first
    | exact hK | assumption
    | (extract_lets +onlyGivenNames y; refine keeps_cut (F := F) (S := S) (y := y) ?_ ?_; dsimp -zeta only [y]; clear y; rotate_left; clear_value y; intro hy; rotate_right)
    | (extract_lets +onlyGivenNames y; refine keeps_cut1 (F := F) (S := S) (y := y) ?_ ?_; dsimp -zeta only [y]; clear y; rotate_left; clear_value y; intro hy; rotate_right)
    | (extract_lets +onlyGivenNames y; refine keeps_cutR (F := F) (S := S) (y := y) ?_ ?_; dsimp -zeta only [y]; clear y; rotate_left; clear_value y; intro hy; rotate_right)
    | extract_lets +onlyGivenNames y | apply keepsA_next | apply keepsO_some | exact keepsO_none | exact within_trans hF (by decide)
    | (intro p hp; cases p <;> with_unfolding_all first | exact foot_absurd hF hp (by decide) | exact rfl) | apply State.modStn_keeps
    | apply State.wasteTok_keeps | split | (apply keeps_of_pair; assumption) | (apply keeps_of_trip; assumption)
    | refine keeps_of_some (by assumption) ?_ | dsimp -zeta only | fail_if_no_progress apply keeps_upd

theorem State.pickOff_keeps (s : State) {F : Nat} {S : State} (hK : Keeps F S s)
    (hF : within 8 F = true := by exact within_trans hF (by decide)) : Keeps F S (State.pickOff s) := by
  unfold State.pickOff
  repeat' with_reducible first
    | exact hK | assumption
    | (extract_lets +onlyGivenNames y; refine keeps_cut (F := F) (S := S) (y := y) ?_ ?_; dsimp -zeta only [y]; clear y; rotate_left; clear_value y; intro hy; rotate_right)
    | (extract_lets +onlyGivenNames y; refine keeps_cut1 (F := F) (S := S) (y := y) ?_ ?_; dsimp -zeta only [y]; clear y; rotate_left; clear_value y; intro hy; rotate_right)
    | (extract_lets +onlyGivenNames y; refine keeps_cutR (F := F) (S := S) (y := y) ?_ ?_; dsimp -zeta only [y]; clear y; rotate_left; clear_value y; intro hy; rotate_right)
    | extract_lets +onlyGivenNames y | apply keepsA_next | apply keepsO_some | exact keepsO_none | exact within_trans hF (by decide)
    | (intro p hp; cases p <;> with_unfolding_all first | exact foot_absurd hF hp (by decide) | exact rfl) | apply State.setF_keeps | split
    | (apply keeps_of_pair; assumption) | (apply keeps_of_trip; assumption) | refine keeps_of_some (by assumption) ?_ | dsimp -zeta only

/-! Clock -/

theorem State.retrim_keeps (s : State) {F : Nat} {S : State} (hK : Keeps F S s)
    (hF : within 137438953472 F = true := by exact within_trans hF (by decide)) : Keeps F S (State.retrim s) := by
  unfold State.retrim
  repeat' with_reducible first
    | exact hK | assumption
    | (extract_lets +onlyGivenNames y; refine keeps_cut (F := F) (S := S) (y := y) ?_ ?_; dsimp -zeta only [y]; clear y; rotate_left; clear_value y; intro hy; rotate_right)
    | (extract_lets +onlyGivenNames y; refine keeps_cut1 (F := F) (S := S) (y := y) ?_ ?_; dsimp -zeta only [y]; clear y; rotate_left; clear_value y; intro hy; rotate_right)
    | (extract_lets +onlyGivenNames y; refine keeps_cutR (F := F) (S := S) (y := y) ?_ ?_; dsimp -zeta only [y]; clear y; rotate_left; clear_value y; intro hy; rotate_right)
    | extract_lets +onlyGivenNames y | apply keepsA_next | apply keepsO_some | exact keepsO_none | exact within_trans hF (by decide)
    | (intro p hp; cases p <;> with_unfolding_all first | exact foot_absurd hF hp (by decide) | exact rfl) | split | (apply keeps_of_pair; assumption)
    | (apply keeps_of_trip; assumption) | refine keeps_of_some (by assumption) ?_ | dsimp -zeta only | fail_if_no_progress apply keeps_upd

theorem execRootLock_keeps (s : State) {F : Nat} {S : State} (hK : Keeps F S s)
    (hF : within 524800 F = true := by exact within_trans hF (by decide)) : KeepsA F S (execRootLock s) := by
  unfold execRootLock
  repeat' with_reducible first
    | exact hK | assumption
    | (extract_lets +onlyGivenNames y; refine keeps_cut (F := F) (S := S) (y := y) ?_ ?_; dsimp -zeta only [y]; clear y; rotate_left; clear_value y; intro hy; rotate_right)
    | (extract_lets +onlyGivenNames y; refine keeps_cut1 (F := F) (S := S) (y := y) ?_ ?_; dsimp -zeta only [y]; clear y; rotate_left; clear_value y; intro hy; rotate_right)
    | (extract_lets +onlyGivenNames y; refine keeps_cutR (F := F) (S := S) (y := y) ?_ ?_; dsimp -zeta only [y]; clear y; rotate_left; clear_value y; intro hy; rotate_right)
    | extract_lets +onlyGivenNames y | apply keepsA_next | apply keepsO_some | exact keepsO_none | exact within_trans hF (by decide)
    | (intro p hp; cases p <;> with_unfolding_all first | exact foot_absurd hF hp (by decide) | exact rfl) | split | (apply keeps_of_pair; assumption)
    | (apply keeps_of_trip; assumption) | refine keeps_of_some (by assumption) ?_ | dsimp -zeta only | fail_if_no_progress apply keeps_upd

theorem execRootLockRetry_keeps (s : State) {F : Nat} {S : State} (hK : Keeps F S s)
    (hF : within 0 F = true := by exact within_trans hF (by decide)) : KeepsA F S (execRootLockRetry s) := by
  unfold execRootLockRetry
  repeat' with_reducible first
    | exact hK | assumption
    | (extract_lets +onlyGivenNames y; refine keeps_cut (F := F) (S := S) (y := y) ?_ ?_; dsimp -zeta only [y]; clear y; rotate_left; clear_value y; intro hy; rotate_right)
    | (extract_lets +onlyGivenNames y; refine keeps_cut1 (F := F) (S := S) (y := y) ?_ ?_; dsimp -zeta only [y]; clear y; rotate_left; clear_value y; intro hy; rotate_right)
    | (extract_lets +onlyGivenNames y; refine keeps_cutR (F := F) (S := S) (y := y) ?_ ?_; dsimp -zeta only [y]; clear y; rotate_left; clear_value y; intro hy; rotate_right)
    | extract_lets +onlyGivenNames y | apply keepsA_next | apply keepsO_some | exact keepsO_none | exact within_trans hF (by decide)
    | (intro p hp; cases p <;> with_unfolding_all first | exact foot_absurd hF hp (by decide) | exact rfl) | split | (apply keeps_of_pair; assumption)
    | (apply keeps_of_trip; assumption) | refine keeps_of_some (by assumption) ?_ | dsimp -zeta only

theorem execRootLossOfLock_keeps (s : State) {F : Nat} {S : State} (hK : Keeps F S s)
    (hF : within 2630664 F = true := by exact within_trans hF (by decide)) : KeepsA F S (execRootLossOfLock s) := by
  unfold execRootLossOfLock
  repeat' with_reducible first
    | exact hK | assumption
    | (extract_lets +onlyGivenNames y; refine keeps_cut (F := F) (S := S) (y := y) ?_ ?_; dsimp -zeta only [y]; clear y; rotate_left; clear_value y; intro hy; rotate_right)
    | (extract_lets +onlyGivenNames y; refine keeps_cut1 (F := F) (S := S) (y := y) ?_ ?_; dsimp -zeta only [y]; clear y; rotate_left; clear_value y; intro hy; rotate_right)
    | (extract_lets +onlyGivenNames y; refine keeps_cutR (F := F) (S := S) (y := y) ?_ ?_; dsimp -zeta only [y]; clear y; rotate_left; clear_value y; intro hy; rotate_right)
    | extract_lets +onlyGivenNames y | apply keepsA_next | apply keepsO_some | exact keepsO_none | exact within_trans hF (by decide)
    | (intro p hp; cases p <;> with_unfolding_all first | exact foot_absurd hF hp (by decide) | exact rfl) | apply State.raise_keeps
    | apply State.wasteAll_keeps | split | (apply keeps_of_pair; assumption) | (apply keeps_of_trip; assumption)
    | refine keeps_of_some (by assumption) ?_ | dsimp -zeta only | fail_if_no_progress apply keeps_upd

theorem execPixLossOfLock_keeps (n : Nat) (s : State) {F : Nat} {S : State} (hK : Keeps F S s)
    (hF : within 3941384 F = true := by exact within_trans hF (by decide)) : KeepsA F S (execPixLossOfLock n s) := by
  unfold execPixLossOfLock
  repeat' with_reducible first
    | exact hK | assumption
    | (extract_lets +onlyGivenNames y; refine keeps_cut (F := F) (S := S) (y := y) ?_ ?_; dsimp -zeta only [y]; clear y; rotate_left; clear_value y; intro hy; rotate_right)
    | (extract_lets +onlyGivenNames y; refine keeps_cut1 (F := F) (S := S) (y := y) ?_ ?_; dsimp -zeta only [y]; clear y; rotate_left; clear_value y; intro hy; rotate_right)
    | (extract_lets +onlyGivenNames y; refine keeps_cutR (F := F) (S := S) (y := y) ?_ ?_; dsimp -zeta only [y]; clear y; rotate_left; clear_value y; intro hy; rotate_right)
    | extract_lets +onlyGivenNames y | apply keepsA_next | apply keepsO_some | exact keepsO_none | exact within_trans hF (by decide)
    | (intro p hp; cases p <;> with_unfolding_all first | exact foot_absurd hF hp (by decide) | exact rfl) | apply State.blankStation_keeps
    | apply State.bump_keeps | apply State.modLink_keeps | apply State.modPix_keeps | apply State.raise_keeps | apply State.setF_keeps | split
    | (apply keeps_of_pair; assumption) | (apply keeps_of_trip; assumption) | refine keeps_of_some (by assumption) ?_ | dsimp -zeta only
    | fail_if_no_progress apply keeps_upd

theorem execPixRelock_keeps (n : Nat) (s : State) {F : Nat} {S : State} (hK : Keeps F S s)
    (hF : within 1572864 F = true := by exact within_trans hF (by decide)) : KeepsA F S (execPixRelock n s) := by
  unfold execPixRelock
  repeat' with_reducible first
    | exact hK | assumption
    | (extract_lets +onlyGivenNames y; refine keeps_cut (F := F) (S := S) (y := y) ?_ ?_; dsimp -zeta only [y]; clear y; rotate_left; clear_value y; intro hy; rotate_right)
    | (extract_lets +onlyGivenNames y; refine keeps_cut1 (F := F) (S := S) (y := y) ?_ ?_; dsimp -zeta only [y]; clear y; rotate_left; clear_value y; intro hy; rotate_right)
    | (extract_lets +onlyGivenNames y; refine keeps_cutR (F := F) (S := S) (y := y) ?_ ?_; dsimp -zeta only [y]; clear y; rotate_left; clear_value y; intro hy; rotate_right)
    | extract_lets +onlyGivenNames y | apply keepsA_next | apply keepsO_some | exact keepsO_none | exact within_trans hF (by decide)
    | (intro p hp; cases p <;> with_unfolding_all first | exact foot_absurd hF hp (by decide) | exact rfl) | apply State.modLink_keeps
    | apply State.modPix_keeps | split | (apply keeps_of_pair; assumption) | (apply keeps_of_trip; assumption)
    | refine keeps_of_some (by assumption) ?_ | dsimp -zeta only | fail_if_no_progress apply keeps_upd

theorem execBypassSwitch_keeps (n : Nat) (s : State) {F : Nat} {S : State} (hK : Keeps F S s)
    (hF : within 524288 F = true := by exact within_trans hF (by decide)) : KeepsA F S (execBypassSwitch n s) := by
  unfold execBypassSwitch
  repeat' with_reducible first
    | exact hK | assumption
    | (extract_lets +onlyGivenNames y; refine keeps_cut (F := F) (S := S) (y := y) ?_ ?_; dsimp -zeta only [y]; clear y; rotate_left; clear_value y; intro hy; rotate_right)
    | (extract_lets +onlyGivenNames y; refine keeps_cut1 (F := F) (S := S) (y := y) ?_ ?_; dsimp -zeta only [y]; clear y; rotate_left; clear_value y; intro hy; rotate_right)
    | (extract_lets +onlyGivenNames y; refine keeps_cutR (F := F) (S := S) (y := y) ?_ ?_; dsimp -zeta only [y]; clear y; rotate_left; clear_value y; intro hy; rotate_right)
    | extract_lets +onlyGivenNames y | apply keepsA_next | apply keepsO_some | exact keepsO_none | exact within_trans hF (by decide)
    | (intro p hp; cases p <;> with_unfolding_all first | exact foot_absurd hF hp (by decide) | exact rfl) | apply State.modPix_keeps | split
    | (apply keeps_of_pair; assumption) | (apply keeps_of_trip; assumption) | refine keeps_of_some (by assumption) ?_ | dsimp -zeta only
    | fail_if_no_progress apply keeps_upd

theorem execAuxClockSwitch_keeps (a : Nat) (s : State) {F : Nat} {S : State} (hK : Keeps F S s)
    (hF : within 524288 F = true := by exact within_trans hF (by decide)) : KeepsA F S (execAuxClockSwitch a s) := by
  unfold execAuxClockSwitch
  repeat' with_reducible first
    | exact hK | assumption
    | (extract_lets +onlyGivenNames y; refine keeps_cut (F := F) (S := S) (y := y) ?_ ?_; dsimp -zeta only [y]; clear y; rotate_left; clear_value y; intro hy; rotate_right)
    | (extract_lets +onlyGivenNames y; refine keeps_cut1 (F := F) (S := S) (y := y) ?_ ?_; dsimp -zeta only [y]; clear y; rotate_left; clear_value y; intro hy; rotate_right)
    | (extract_lets +onlyGivenNames y; refine keeps_cutR (F := F) (S := S) (y := y) ?_ ?_; dsimp -zeta only [y]; clear y; rotate_left; clear_value y; intro hy; rotate_right)
    | extract_lets +onlyGivenNames y | apply keepsA_next | apply keepsO_some | exact keepsO_none | exact within_trans hF (by decide)
    | (intro p hp; cases p <;> with_unfolding_all first | exact foot_absurd hF hp (by decide) | exact rfl) | split | (apply keeps_of_pair; assumption)
    | (apply keeps_of_trip; assumption) | refine keeps_of_some (by assumption) ?_ | dsimp -zeta only | fail_if_no_progress apply keeps_upd

theorem execRefCompUpdate_keeps (s : State) {F : Nat} {S : State} (hK : Keeps F S s)
    (hF : within 137441575944 F = true := by exact within_trans hF (by decide)) : KeepsA F S (execRefCompUpdate s) := by
  unfold execRefCompUpdate
  repeat' with_reducible first
    | exact hK | assumption
    | (extract_lets +onlyGivenNames y; refine keeps_cut (F := F) (S := S) (y := y) ?_ ?_; dsimp -zeta only [y]; clear y; rotate_left; clear_value y; intro hy; rotate_right)
    | (extract_lets +onlyGivenNames y; refine keeps_cut1 (F := F) (S := S) (y := y) ?_ ?_; dsimp -zeta only [y]; clear y; rotate_left; clear_value y; intro hy; rotate_right)
    | (extract_lets +onlyGivenNames y; refine keeps_cutR (F := F) (S := S) (y := y) ?_ ?_; dsimp -zeta only [y]; clear y; rotate_left; clear_value y; intro hy; rotate_right)
    | extract_lets +onlyGivenNames y | apply keepsA_next | apply keepsO_some | exact keepsO_none | exact within_trans hF (by decide)
    | (intro p hp; cases p <;> with_unfolding_all first | exact foot_absurd hF hp (by decide) | exact rfl) | apply State.raise_keeps
    | apply State.retrim_keeps | split | (apply keeps_of_pair; assumption) | (apply keeps_of_trip; assumption)
    | refine keeps_of_some (by assumption) ?_ | dsimp -zeta only | fail_if_no_progress apply keeps_upd

theorem execGainRecalibration_keeps (s : State) {F : Nat} {S : State} (hK : Keeps F S s)
    (hF : within 524288 F = true := by exact within_trans hF (by decide)) : KeepsA F S (execGainRecalibration s) := by
  unfold execGainRecalibration
  repeat' with_reducible first
    | exact hK | assumption
    | (extract_lets +onlyGivenNames y; refine keeps_cut (F := F) (S := S) (y := y) ?_ ?_; dsimp -zeta only [y]; clear y; rotate_left; clear_value y; intro hy; rotate_right)
    | (extract_lets +onlyGivenNames y; refine keeps_cut1 (F := F) (S := S) (y := y) ?_ ?_; dsimp -zeta only [y]; clear y; rotate_left; clear_value y; intro hy; rotate_right)
    | (extract_lets +onlyGivenNames y; refine keeps_cutR (F := F) (S := S) (y := y) ?_ ?_; dsimp -zeta only [y]; clear y; rotate_left; clear_value y; intro hy; rotate_right)
    | extract_lets +onlyGivenNames y | apply keepsA_next | apply keepsO_some | exact keepsO_none | exact within_trans hF (by decide)
    | (intro p hp; cases p <;> with_unfolding_all first | exact foot_absurd hF hp (by decide) | exact rfl) | split | (apply keeps_of_pair; assumption)
    | (apply keeps_of_trip; assumption) | refine keeps_of_some (by assumption) ?_ | dsimp -zeta only | fail_if_no_progress apply keeps_upd

theorem execRecalibrationComplete_keeps (s : State) {F : Nat} {S : State} (hK : Keeps F S s)
    (hF : within 524296 F = true := by exact within_trans hF (by decide)) : KeepsA F S (execRecalibrationComplete s) := by
  unfold execRecalibrationComplete
  repeat' with_reducible first
    | exact hK | assumption
    | (extract_lets +onlyGivenNames y; refine keeps_cut (F := F) (S := S) (y := y) ?_ ?_; dsimp -zeta only [y]; clear y; rotate_left; clear_value y; intro hy; rotate_right)
    | (extract_lets +onlyGivenNames y; refine keeps_cut1 (F := F) (S := S) (y := y) ?_ ?_; dsimp -zeta only [y]; clear y; rotate_left; clear_value y; intro hy; rotate_right)
    | (extract_lets +onlyGivenNames y; refine keeps_cutR (F := F) (S := S) (y := y) ?_ ?_; dsimp -zeta only [y]; clear y; rotate_left; clear_value y; intro hy; rotate_right)
    | extract_lets +onlyGivenNames y | apply keepsA_next | apply keepsO_some | exact keepsO_none | exact within_trans hF (by decide)
    | (intro p hp; cases p <;> with_unfolding_all first | exact foot_absurd hF hp (by decide) | exact rfl) | apply State.each_keeps
    | apply State.modPix_keeps | apply State.setF_keeps | (apply keeps_each; intro y n hy) | split | (apply keeps_of_pair; assumption)
    | (apply keeps_of_trip; assumption) | refine keeps_of_some (by assumption) ?_ | dsimp -zeta only | fail_if_no_progress apply keeps_upd

end Sys2Proof.Machine
end

