-- ==== Sys2Proof/Laws/KeepsImaging.lean ====
section
/-! SUPPORT. What the operations of the beam links, the patina log, the DMA sequencer, bands, casts, chisels and scans keep (BeamLink, Patina, Sequencer, Bands, Codec, Scan). -/
namespace Sys2Proof.Machine
set_option linter.all false
set_option Elab.async false
/-! BeamLink -/

theorem State.dropLane_keeps (s : State) (n l : Nat) {F : Nat} {S : State} (hK : Keeps F S s)
    (hF : within 3417096 F = true := by exact within_trans hF (by decide)) : Keeps F S (State.dropLane s n l) := by
  unfold State.dropLane
  repeat' with_reducible first
    | exact hK | assumption
    | (extract_lets +onlyGivenNames y; refine keeps_cut (F := F) (S := S) (y := y) ?_ ?_; dsimp -zeta only [y]; clear y; rotate_left; clear_value y; intro hy; rotate_right)
    | (extract_lets +onlyGivenNames y; refine keeps_cut1 (F := F) (S := S) (y := y) ?_ ?_; dsimp -zeta only [y]; clear y; rotate_left; clear_value y; intro hy; rotate_right)
    | (extract_lets +onlyGivenNames y; refine keeps_cutR (F := F) (S := S) (y := y) ?_ ?_; dsimp -zeta only [y]; clear y; rotate_left; clear_value y; intro hy; rotate_right)
    | extract_lets +onlyGivenNames y | apply keepsA_next | apply keepsO_some | exact keepsO_none | exact within_trans hF (by decide)
    | (intro p hp; cases p <;> with_unfolding_all first | exact foot_absurd hF hp (by decide) | exact rfl) | apply State.blankStation_keeps
    | apply State.bump_keeps | apply State.modLink_keeps | apply State.raise_keeps | split | (apply keeps_of_pair; assumption)
    | (apply keeps_of_trip; assumption) | refine keeps_of_some (by assumption) ?_ | dsimp -zeta only | fail_if_no_progress apply keeps_upd

theorem State.trainLane_keeps (s : State) (n l lock delta : Nat) {F : Nat} {S : State} (hK : Keeps F S s)
    (hF : within 1048576 F = true := by exact within_trans hF (by decide)) : Keeps F S (State.trainLane s n l lock delta) := by
  unfold State.trainLane
  repeat' with_reducible first
    | exact hK | assumption
    | (extract_lets +onlyGivenNames y; refine keeps_cut (F := F) (S := S) (y := y) ?_ ?_; dsimp -zeta only [y]; clear y; rotate_left; clear_value y; intro hy; rotate_right)
    | (extract_lets +onlyGivenNames y; refine keeps_cut1 (F := F) (S := S) (y := y) ?_ ?_; dsimp -zeta only [y]; clear y; rotate_left; clear_value y; intro hy; rotate_right)
    | (extract_lets +onlyGivenNames y; refine keeps_cutR (F := F) (S := S) (y := y) ?_ ?_; dsimp -zeta only [y]; clear y; rotate_left; clear_value y; intro hy; rotate_right)
    | extract_lets +onlyGivenNames y | apply keepsA_next | apply keepsO_some | exact keepsO_none | exact within_trans hF (by decide)
    | (intro p hp; cases p <;> with_unfolding_all first | exact foot_absurd hF hp (by decide) | exact rfl) | apply State.modLink_keeps | split
    | (apply keeps_of_pair; assumption) | (apply keeps_of_trip; assumption) | refine keeps_of_some (by assumption) ?_ | dsimp -zeta only
    | fail_if_no_progress apply keeps_upd

theorem State.beamFault_keeps (s : State) (n new : Nat) {F : Nat} {S : State} (hK : Keeps F S s)
    (hF : within 2368520 F = true := by exact within_trans hF (by decide)) : Keeps F S (State.beamFault s n new) := by
  unfold State.beamFault
  repeat' with_reducible first
    | exact hK | assumption
    | (extract_lets +onlyGivenNames y; refine keeps_cut (F := F) (S := S) (y := y) ?_ ?_; dsimp -zeta only [y]; clear y; rotate_left; clear_value y; intro hy; rotate_right)
    | (extract_lets +onlyGivenNames y; refine keeps_cut1 (F := F) (S := S) (y := y) ?_ ?_; dsimp -zeta only [y]; clear y; rotate_left; clear_value y; intro hy; rotate_right)
    | (extract_lets +onlyGivenNames y; refine keeps_cutR (F := F) (S := S) (y := y) ?_ ?_; dsimp -zeta only [y]; clear y; rotate_left; clear_value y; intro hy; rotate_right)
    | extract_lets +onlyGivenNames y | apply keepsA_next | apply keepsO_some | exact keepsO_none | exact within_trans hF (by decide)
    | (intro p hp; cases p <;> with_unfolding_all first | exact foot_absurd hF hp (by decide) | exact rfl) | apply State.flagTok_keeps
    | apply State.modStn_keeps | split | (apply keeps_of_pair; assumption) | (apply keeps_of_trip; assumption)
    | refine keeps_of_some (by assumption) ?_ | dsimp -zeta only | fail_if_no_progress apply keeps_upd

theorem State.countFails_keeps (s : State) (n : Nat) (b : List Byte) {F : Nat} {S : State} (hK : Keeps F S s)
    (hF : within 3146760 F = true := by exact within_trans hF (by decide)) : Keeps F S (State.countFails s n b) := by
  unfold State.countFails
  repeat' with_reducible first
    | exact hK | assumption
    | (extract_lets +onlyGivenNames y; refine keeps_cut (F := F) (S := S) (y := y) ?_ ?_; dsimp -zeta only [y]; clear y; rotate_left; clear_value y; intro hy; rotate_right)
    | (extract_lets +onlyGivenNames y; refine keeps_cut1 (F := F) (S := S) (y := y) ?_ ?_; dsimp -zeta only [y]; clear y; rotate_left; clear_value y; intro hy; rotate_right)
    | (extract_lets +onlyGivenNames y; refine keeps_cutR (F := F) (S := S) (y := y) ?_ ?_; dsimp -zeta only [y]; clear y; rotate_left; clear_value y; intro hy; rotate_right)
    | extract_lets +onlyGivenNames y | apply keepsA_next | apply keepsO_some | exact keepsO_none | exact within_trans hF (by decide)
    | (intro p hp; cases p <;> with_unfolding_all first | exact foot_absurd hF hp (by decide) | exact rfl) | apply State.bump_keeps
    | apply State.each_keeps | apply State.modLink_keeps | apply State.raise_keeps | apply State.trainLane_keeps | (apply keeps_each; intro y n hy)
    | apply keeps_getDo | split | (apply keeps_of_pair; assumption) | (apply keeps_of_trip; assumption) | refine keeps_of_some (by assumption) ?_
    | dsimp -zeta only | fail_if_no_progress apply keeps_upd

theorem State.statusFrame_keeps (s : State) (n : Nat) (bytes : List Byte) {F : Nat} {S : State} (hK : Keeps F S s)
    (hF : within 3417096 F = true := by exact within_trans hF (by decide)) : Keeps F S (State.statusFrame s n bytes) := by
  unfold State.statusFrame
  repeat' with_reducible first
    | exact hK | assumption
    | (extract_lets +onlyGivenNames y; refine keeps_cut (F := F) (S := S) (y := y) ?_ ?_; dsimp -zeta only [y]; clear y; rotate_left; clear_value y; intro hy; rotate_right)
    | (extract_lets +onlyGivenNames y; refine keeps_cut1 (F := F) (S := S) (y := y) ?_ ?_; dsimp -zeta only [y]; clear y; rotate_left; clear_value y; intro hy; rotate_right)
    | (extract_lets +onlyGivenNames y; refine keeps_cutR (F := F) (S := S) (y := y) ?_ ?_; dsimp -zeta only [y]; clear y; rotate_left; clear_value y; intro hy; rotate_right)
    | extract_lets +onlyGivenNames y | apply keepsA_next | apply keepsO_some | exact keepsO_none | exact within_trans hF (by decide)
    | (intro p hp; cases p <;> with_unfolding_all first | exact foot_absurd hF hp (by decide) | exact rfl) | apply State.beamFault_keeps
    | apply State.countFails_keeps | apply State.dropLane_keeps | apply State.each_keeps | apply State.modLink_keeps | apply State.raiseIf_keeps
    | apply State.setReg_keeps | (apply keeps_each; intro y n hy) | split | (apply keeps_of_pair; assumption) | (apply keeps_of_trip; assumption)
    | refine keeps_of_some (by assumption) ?_ | dsimp -zeta only | fail_if_no_progress apply keeps_upd

theorem execStatusLost_keeps (n : Nat) (s : State) {F : Nat} {S : State} (hK : Keeps F S s)
    (hF : within 3146760 F = true := by exact within_trans hF (by decide)) : KeepsA F S (execStatusLost n s) := by
  unfold execStatusLost
  repeat' with_reducible first
    | exact hK | assumption
    | (extract_lets +onlyGivenNames y; refine keeps_cut (F := F) (S := S) (y := y) ?_ ?_; dsimp -zeta only [y]; clear y; rotate_left; clear_value y; intro hy; rotate_right)
    | (extract_lets +onlyGivenNames y; refine keeps_cut1 (F := F) (S := S) (y := y) ?_ ?_; dsimp -zeta only [y]; clear y; rotate_left; clear_value y; intro hy; rotate_right)
    | (extract_lets +onlyGivenNames y; refine keeps_cutR (F := F) (S := S) (y := y) ?_ ?_; dsimp -zeta only [y]; clear y; rotate_left; clear_value y; intro hy; rotate_right)
    | extract_lets +onlyGivenNames y | apply keepsA_next | apply keepsO_some | exact keepsO_none | exact within_trans hF (by decide)
    | (intro p hp; cases p <;> with_unfolding_all first | exact foot_absurd hF hp (by decide) | exact rfl) | apply State.modLink_keeps
    | apply State.raise_keeps | split | (apply keeps_of_pair; assumption) | (apply keeps_of_trip; assumption)
    | refine keeps_of_some (by assumption) ?_ | dsimp -zeta only | fail_if_no_progress apply keeps_upd

theorem State.linkOn_keeps (s : State) (n : Nat) {F : Nat} {S : State} (hK : Keeps F S s)
    (hF : within 1048576 F = true := by exact within_trans hF (by decide)) : Keeps F S (State.linkOn s n) := by
  unfold State.linkOn
  repeat' with_reducible first
    | exact hK | assumption
    | (extract_lets +onlyGivenNames y; refine keeps_cut (F := F) (S := S) (y := y) ?_ ?_; dsimp -zeta only [y]; clear y; rotate_left; clear_value y; intro hy; rotate_right)
    | (extract_lets +onlyGivenNames y; refine keeps_cut1 (F := F) (S := S) (y := y) ?_ ?_; dsimp -zeta only [y]; clear y; rotate_left; clear_value y; intro hy; rotate_right)
    | (extract_lets +onlyGivenNames y; refine keeps_cutR (F := F) (S := S) (y := y) ?_ ?_; dsimp -zeta only [y]; clear y; rotate_left; clear_value y; intro hy; rotate_right)
    | extract_lets +onlyGivenNames y | apply keepsA_next | apply keepsO_some | exact keepsO_none | exact within_trans hF (by decide)
    | (intro p hp; cases p <;> with_unfolding_all first | exact foot_absurd hF hp (by decide) | exact rfl) | apply State.modLink_keeps
    | apply status_keeps | split | (apply keeps_of_pair; assumption) | (apply keeps_of_trip; assumption) | refine keeps_of_some (by assumption) ?_
    | dsimp -zeta only | fail_if_no_progress apply keeps_upd

theorem State.linkOff_keeps (s : State) (n : Nat) {F : Nat} {S : State} (hK : Keeps F S s)
    (hF : within 3417096 F = true := by exact within_trans hF (by decide)) : Keeps F S (State.linkOff s n) := by
  unfold State.linkOff
  repeat' with_reducible first
    | exact hK | assumption
    | (extract_lets +onlyGivenNames y; refine keeps_cut (F := F) (S := S) (y := y) ?_ ?_; dsimp -zeta only [y]; clear y; rotate_left; clear_value y; intro hy; rotate_right)
    | (extract_lets +onlyGivenNames y; refine keeps_cut1 (F := F) (S := S) (y := y) ?_ ?_; dsimp -zeta only [y]; clear y; rotate_left; clear_value y; intro hy; rotate_right)
    | (extract_lets +onlyGivenNames y; refine keeps_cutR (F := F) (S := S) (y := y) ?_ ?_; dsimp -zeta only [y]; clear y; rotate_left; clear_value y; intro hy; rotate_right)
    | extract_lets +onlyGivenNames y | apply keepsA_next | apply keepsO_some | exact keepsO_none | exact within_trans hF (by decide)
    | (intro p hp; cases p <;> with_unfolding_all first | exact foot_absurd hF hp (by decide) | exact rfl) | apply State.blankStation_keeps
    | apply State.modLink_keeps | split | (apply keeps_of_pair; assumption) | (apply keeps_of_trip; assumption)
    | refine keeps_of_some (by assumption) ?_ | dsimp -zeta only | fail_if_no_progress apply keeps_upd

theorem execLinkEnable_keeps (n : Nat) (s : State) {F : Nat} {S : State} (hK : Keeps F S s)
    (hF : within 1048584 F = true := by exact within_trans hF (by decide)) : KeepsA F S (execLinkEnable n s) := by
  unfold execLinkEnable
  repeat' with_reducible first
    | exact hK | assumption
    | (extract_lets +onlyGivenNames y; refine keeps_cut (F := F) (S := S) (y := y) ?_ ?_; dsimp -zeta only [y]; clear y; rotate_left; clear_value y; intro hy; rotate_right)
    | (extract_lets +onlyGivenNames y; refine keeps_cut1 (F := F) (S := S) (y := y) ?_ ?_; dsimp -zeta only [y]; clear y; rotate_left; clear_value y; intro hy; rotate_right)
    | (extract_lets +onlyGivenNames y; refine keeps_cutR (F := F) (S := S) (y := y) ?_ ?_; dsimp -zeta only [y]; clear y; rotate_left; clear_value y; intro hy; rotate_right)
    | extract_lets +onlyGivenNames y | apply keepsA_next | apply keepsO_some | exact keepsO_none | exact within_trans hF (by decide)
    | (intro p hp; cases p <;> with_unfolding_all first | exact foot_absurd hF hp (by decide) | exact rfl) | apply State.linkOn_keeps
    | apply State.setF_keeps | split | (apply keeps_of_pair; assumption) | (apply keeps_of_trip; assumption) | refine keeps_of_some (by assumption) ?_
    | dsimp -zeta only

theorem State.linkDisable_keeps (s : State) (n : Nat) {F : Nat} {S : State} (hK : Keeps F S s)
    (hF : within 3417096 F = true := by exact within_trans hF (by decide)) : Keeps F S (State.linkDisable s n) := by
  unfold State.linkDisable
  repeat' with_reducible first
    | exact hK | assumption
    | (extract_lets +onlyGivenNames y; refine keeps_cut (F := F) (S := S) (y := y) ?_ ?_; dsimp -zeta only [y]; clear y; rotate_left; clear_value y; intro hy; rotate_right)
    | (extract_lets +onlyGivenNames y; refine keeps_cut1 (F := F) (S := S) (y := y) ?_ ?_; dsimp -zeta only [y]; clear y; rotate_left; clear_value y; intro hy; rotate_right)
    | (extract_lets +onlyGivenNames y; refine keeps_cutR (F := F) (S := S) (y := y) ?_ ?_; dsimp -zeta only [y]; clear y; rotate_left; clear_value y; intro hy; rotate_right)
    | extract_lets +onlyGivenNames y | apply keepsA_next | apply keepsO_some | exact keepsO_none | exact within_trans hF (by decide)
    | (intro p hp; cases p <;> with_unfolding_all first | exact foot_absurd hF hp (by decide) | exact rfl) | apply State.linkOff_keeps
    | apply State.setF_keeps | split | (apply keeps_of_pair; assumption) | (apply keeps_of_trip; assumption) | refine keeps_of_some (by assumption) ?_
    | dsimp -zeta only

theorem execLanesHalfTimeout_keeps (n : Nat) (s : State) {F : Nat} {S : State} (hK : Keeps F S s)
    (hF : within 1048576 F = true := by exact within_trans hF (by decide)) : KeepsA F S (execLanesHalfTimeout n s) := by
  unfold execLanesHalfTimeout
  repeat' with_reducible first
    | exact hK | assumption
    | (extract_lets +onlyGivenNames y; refine keeps_cut (F := F) (S := S) (y := y) ?_ ?_; dsimp -zeta only [y]; clear y; rotate_left; clear_value y; intro hy; rotate_right)
    | (extract_lets +onlyGivenNames y; refine keeps_cut1 (F := F) (S := S) (y := y) ?_ ?_; dsimp -zeta only [y]; clear y; rotate_left; clear_value y; intro hy; rotate_right)
    | (extract_lets +onlyGivenNames y; refine keeps_cutR (F := F) (S := S) (y := y) ?_ ?_; dsimp -zeta only [y]; clear y; rotate_left; clear_value y; intro hy; rotate_right)
    | extract_lets +onlyGivenNames y | apply keepsA_next | apply keepsO_some | exact keepsO_none | exact within_trans hF (by decide)
    | (intro p hp; cases p <;> with_unfolding_all first | exact foot_absurd hF hp (by decide) | exact rfl) | apply State.modLink_keeps | split
    | (apply keeps_of_pair; assumption) | (apply keeps_of_trip; assumption) | refine keeps_of_some (by assumption) ?_ | dsimp -zeta only
    | fail_if_no_progress apply keeps_upd

theorem execTrainingTimeout_keeps (n : Nat) (s : State) {F : Nat} {S : State} (hK : Keeps F S s)
    (hF : within 3146760 F = true := by exact within_trans hF (by decide)) : KeepsA F S (execTrainingTimeout n s) := by
  unfold execTrainingTimeout
  repeat' with_reducible first
    | exact hK | assumption
    | (extract_lets +onlyGivenNames y; refine keeps_cut (F := F) (S := S) (y := y) ?_ ?_; dsimp -zeta only [y]; clear y; rotate_left; clear_value y; intro hy; rotate_right)
    | (extract_lets +onlyGivenNames y; refine keeps_cut1 (F := F) (S := S) (y := y) ?_ ?_; dsimp -zeta only [y]; clear y; rotate_left; clear_value y; intro hy; rotate_right)
    | (extract_lets +onlyGivenNames y; refine keeps_cutR (F := F) (S := S) (y := y) ?_ ?_; dsimp -zeta only [y]; clear y; rotate_left; clear_value y; intro hy; rotate_right)
    | extract_lets +onlyGivenNames y | apply keepsA_next | apply keepsO_some | exact keepsO_none | exact within_trans hF (by decide)
    | (intro p hp; cases p <;> with_unfolding_all first | exact foot_absurd hF hp (by decide) | exact rfl) | apply State.modLink_keeps
    | apply State.raise_keeps | apply status_keeps | split | (apply keeps_of_pair; assumption) | (apply keeps_of_trip; assumption)
    | refine keeps_of_some (by assumption) ?_ | dsimp -zeta only | fail_if_no_progress apply keeps_upd

theorem execTrainingRetry_keeps (n : Nat) (s : State) {F : Nat} {S : State} (hK : Keeps F S s)
    (hF : within 1048576 F = true := by exact within_trans hF (by decide)) : KeepsA F S (execTrainingRetry n s) := by
  unfold execTrainingRetry
  repeat' with_reducible first
    | exact hK | assumption
    | (extract_lets +onlyGivenNames y; refine keeps_cut (F := F) (S := S) (y := y) ?_ ?_; dsimp -zeta only [y]; clear y; rotate_left; clear_value y; intro hy; rotate_right)
    | (extract_lets +onlyGivenNames y; refine keeps_cut1 (F := F) (S := S) (y := y) ?_ ?_; dsimp -zeta only [y]; clear y; rotate_left; clear_value y; intro hy; rotate_right)
    | (extract_lets +onlyGivenNames y; refine keeps_cutR (F := F) (S := S) (y := y) ?_ ?_; dsimp -zeta only [y]; clear y; rotate_left; clear_value y; intro hy; rotate_right)
    | extract_lets +onlyGivenNames y | apply keepsA_next | apply keepsO_some | exact keepsO_none | exact within_trans hF (by decide)
    | (intro p hp; cases p <;> with_unfolding_all first | exact foot_absurd hF hp (by decide) | exact rfl) | apply State.modLink_keeps
    | apply status_keeps | split | (apply keeps_of_pair; assumption) | (apply keeps_of_trip; assumption) | refine keeps_of_some (by assumption) ?_
    | dsimp -zeta only | fail_if_no_progress apply keeps_upd

theorem execAlignPixclkRestart_keeps (n : Nat) (s : State) {F : Nat} {S : State} (hK : Keeps F S s)
    (hF : within 1048584 F = true := by exact within_trans hF (by decide)) : KeepsA F S (execAlignPixclkRestart n s) := by
  unfold execAlignPixclkRestart
  repeat' with_reducible first
    | exact hK | assumption
    | (extract_lets +onlyGivenNames y; refine keeps_cut (F := F) (S := S) (y := y) ?_ ?_; dsimp -zeta only [y]; clear y; rotate_left; clear_value y; intro hy; rotate_right)
    | (extract_lets +onlyGivenNames y; refine keeps_cut1 (F := F) (S := S) (y := y) ?_ ?_; dsimp -zeta only [y]; clear y; rotate_left; clear_value y; intro hy; rotate_right)
    | (extract_lets +onlyGivenNames y; refine keeps_cutR (F := F) (S := S) (y := y) ?_ ?_; dsimp -zeta only [y]; clear y; rotate_left; clear_value y; intro hy; rotate_right)
    | extract_lets +onlyGivenNames y | apply keepsA_next | apply keepsO_some | exact keepsO_none | exact within_trans hF (by decide)
    | (intro p hp; cases p <;> with_unfolding_all first | exact foot_absurd hF hp (by decide) | exact rfl) | apply State.modLink_keeps
    | apply State.setReg_keeps | split | (apply keeps_of_pair; assumption) | (apply keeps_of_trip; assumption)
    | refine keeps_of_some (by assumption) ?_ | dsimp -zeta only | fail_if_no_progress apply keeps_upd

theorem execLaneRetrainStart_keeps (n lane : Nat) (s : State) {F : Nat} {S : State} (hK : Keeps F S s)
    (hF : within 1048576 F = true := by exact within_trans hF (by decide)) : KeepsA F S (execLaneRetrainStart n lane s) := by
  unfold execLaneRetrainStart
  repeat' with_reducible first
    | exact hK | assumption
    | (extract_lets +onlyGivenNames y; refine keeps_cut (F := F) (S := S) (y := y) ?_ ?_; dsimp -zeta only [y]; clear y; rotate_left; clear_value y; intro hy; rotate_right)
    | (extract_lets +onlyGivenNames y; refine keeps_cut1 (F := F) (S := S) (y := y) ?_ ?_; dsimp -zeta only [y]; clear y; rotate_left; clear_value y; intro hy; rotate_right)
    | (extract_lets +onlyGivenNames y; refine keeps_cutR (F := F) (S := S) (y := y) ?_ ?_; dsimp -zeta only [y]; clear y; rotate_left; clear_value y; intro hy; rotate_right)
    | extract_lets +onlyGivenNames y | apply keepsA_next | apply keepsO_some | exact keepsO_none | exact within_trans hF (by decide)
    | (intro p hp; cases p <;> with_unfolding_all first | exact foot_absurd hF hp (by decide) | exact rfl) | apply State.modLink_keeps | split
    | (apply keeps_of_pair; assumption) | (apply keeps_of_trip; assumption) | refine keeps_of_some (by assumption) ?_ | dsimp -zeta only
    | fail_if_no_progress apply keeps_upd

theorem State.rejoinLanes_keeps (s : State) (n : Nat) {F : Nat} {S : State} (hK : Keeps F S s)
    (hF : within 3146760 F = true := by exact within_trans hF (by decide)) : Keeps F S (State.rejoinLanes s n) := by
  unfold State.rejoinLanes
  repeat' with_reducible first
    | exact hK | assumption
    | (extract_lets +onlyGivenNames y; refine keeps_cut (F := F) (S := S) (y := y) ?_ ?_; dsimp -zeta only [y]; clear y; rotate_left; clear_value y; intro hy; rotate_right)
    | (extract_lets +onlyGivenNames y; refine keeps_cut1 (F := F) (S := S) (y := y) ?_ ?_; dsimp -zeta only [y]; clear y; rotate_left; clear_value y; intro hy; rotate_right)
    | (extract_lets +onlyGivenNames y; refine keeps_cutR (F := F) (S := S) (y := y) ?_ ?_; dsimp -zeta only [y]; clear y; rotate_left; clear_value y; intro hy; rotate_right)
    | extract_lets +onlyGivenNames y | apply keepsA_next | apply keepsO_some | exact keepsO_none | exact within_trans hF (by decide)
    | (intro p hp; cases p <;> with_unfolding_all first | exact foot_absurd hF hp (by decide) | exact rfl) | apply State.each_keeps
    | apply State.modLink_keeps | apply State.raise_keeps | (apply keeps_each; intro y n hy) | split | (apply keeps_of_pair; assumption)
    | (apply keeps_of_trip; assumption) | refine keeps_of_some (by assumption) ?_ | dsimp -zeta only | fail_if_no_progress apply keeps_upd

/-! Patina -/

theorem State.patina_keeps (s : State) (e : Patina) {F : Nat} {S : State} (hK : Keeps F S s)
    (hF : within 35652616 F = true := by exact within_trans hF (by decide)) : Keeps F S (State.patina s e) := by
  unfold State.patina
  repeat' with_reducible first
    | exact hK | assumption
    | (extract_lets +onlyGivenNames y; refine keeps_cut (F := F) (S := S) (y := y) ?_ ?_; dsimp -zeta only [y]; clear y; rotate_left; clear_value y; intro hy; rotate_right)
    | (extract_lets +onlyGivenNames y; refine keeps_cut1 (F := F) (S := S) (y := y) ?_ ?_; dsimp -zeta only [y]; clear y; rotate_left; clear_value y; intro hy; rotate_right)
    | (extract_lets +onlyGivenNames y; refine keeps_cutR (F := F) (S := S) (y := y) ?_ ?_; dsimp -zeta only [y]; clear y; rotate_left; clear_value y; intro hy; rotate_right)
    | extract_lets +onlyGivenNames y | apply keepsA_next | apply keepsO_some | exact keepsO_none | exact within_trans hF (by decide)
    | (intro p hp; cases p <;> with_unfolding_all first | exact foot_absurd hF hp (by decide) | exact rfl) | apply State.bump_keeps
    | apply State.raise_keeps | apply State.raiseIf_keeps | split | (apply keeps_of_pair; assumption) | (apply keeps_of_trip; assumption)
    | refine keeps_of_some (by assumption) ?_ | dsimp -zeta only | fail_if_no_progress apply keeps_mem | fail_if_no_progress apply keeps_upd

theorem State.ceCount_keeps (s : State) (ch : Nat) {F : Nat} {S : State} (hK : Keeps F S s)
    (hF : within 35652616 F = true := by exact within_trans hF (by decide)) : Keeps F S (State.ceCount s ch) := by
  unfold State.ceCount
  repeat' with_reducible first
    | exact hK | assumption
    | (extract_lets +onlyGivenNames y; refine keeps_cut (F := F) (S := S) (y := y) ?_ ?_; dsimp -zeta only [y]; clear y; rotate_left; clear_value y; intro hy; rotate_right)
    | (extract_lets +onlyGivenNames y; refine keeps_cut1 (F := F) (S := S) (y := y) ?_ ?_; dsimp -zeta only [y]; clear y; rotate_left; clear_value y; intro hy; rotate_right)
    | (extract_lets +onlyGivenNames y; refine keeps_cutR (F := F) (S := S) (y := y) ?_ ?_; dsimp -zeta only [y]; clear y; rotate_left; clear_value y; intro hy; rotate_right)
    | extract_lets +onlyGivenNames y | apply keepsA_next | apply keepsO_some | exact keepsO_none | exact within_trans hF (by decide)
    | (intro p hp; cases p <;> with_unfolding_all first | exact foot_absurd hF hp (by decide) | exact rfl) | apply State.raiseIf_keeps
    | apply keeps_getDo | split | (apply keeps_of_pair; assumption) | (apply keeps_of_trip; assumption) | refine keeps_of_some (by assumption) ?_
    | dsimp -zeta only | fail_if_no_progress apply keeps_mem | fail_if_no_progress apply keeps_upd

theorem State.memErr_keeps (s : State) (unit addr : Nat) (ue : Bool) (src synd : Nat) {F : Nat} {S : State} (hK : Keeps F S s)
    (hF : within 35652616 F = true := by exact within_trans hF (by decide)) : Keeps F S (State.memErr s unit addr ue src synd) := by
  unfold State.memErr
  repeat' with_reducible first
    | exact hK | assumption
    | (extract_lets +onlyGivenNames y; refine keeps_cut (F := F) (S := S) (y := y) ?_ ?_; dsimp -zeta only [y]; clear y; rotate_left; clear_value y; intro hy; rotate_right)
    | (extract_lets +onlyGivenNames y; refine keeps_cut1 (F := F) (S := S) (y := y) ?_ ?_; dsimp -zeta only [y]; clear y; rotate_left; clear_value y; intro hy; rotate_right)
    | (extract_lets +onlyGivenNames y; refine keeps_cutR (F := F) (S := S) (y := y) ?_ ?_; dsimp -zeta only [y]; clear y; rotate_left; clear_value y; intro hy; rotate_right)
    | extract_lets +onlyGivenNames y | apply keepsA_next | apply keepsO_some | exact keepsO_none | exact within_trans hF (by decide)
    | (intro p hp; cases p <;> with_unfolding_all first | exact foot_absurd hF hp (by decide) | exact rfl) | apply State.bump_keeps
    | apply State.ceCount_keeps | apply State.patina_keeps | split | (apply keeps_of_pair; assumption) | (apply keeps_of_trip; assumption)
    | refine keeps_of_some (by assumption) ?_ | dsimp -zeta only | fail_if_no_progress apply keeps_mem | fail_if_no_progress apply keeps_upd

theorem State.memHits_keeps (s : State) (l : List MemHit) {F : Nat} {S : State} (hK : Keeps F S s)
    (hF : within 35652616 F = true := by exact within_trans hF (by decide)) : Keeps F S (State.memHits s l) := by
  unfold State.memHits
  repeat' with_reducible first
    | exact hK | assumption
    | (extract_lets +onlyGivenNames y; refine keeps_cut (F := F) (S := S) (y := y) ?_ ?_; dsimp -zeta only [y]; clear y; rotate_left; clear_value y; intro hy; rotate_right)
    | (extract_lets +onlyGivenNames y; refine keeps_cut1 (F := F) (S := S) (y := y) ?_ ?_; dsimp -zeta only [y]; clear y; rotate_left; clear_value y; intro hy; rotate_right)
    | (extract_lets +onlyGivenNames y; refine keeps_cutR (F := F) (S := S) (y := y) ?_ ?_; dsimp -zeta only [y]; clear y; rotate_left; clear_value y; intro hy; rotate_right)
    | extract_lets +onlyGivenNames y | apply keepsA_next | apply keepsO_some | exact keepsO_none | exact within_trans hF (by decide)
    | (intro p hp; cases p <;> with_unfolding_all first | exact foot_absurd hF hp (by decide) | exact rfl) | apply State.memErr_keeps
    | (apply keeps_foldl; intro y n hy) | (apply keeps_foldl1; intro y n hy) | split | (apply keeps_of_pair; assumption)
    | (apply keeps_of_trip; assumption) | refine keeps_of_some (by assumption) ?_ | dsimp -zeta only

theorem State.unitMemBad_keeps (s : State) {F : Nat} {S : State} (hK : Keeps F S s)
    (hF : within 35652620 F = true := by exact within_trans hF (by decide)) : Keeps F S (State.unitMemBad s) := by
  unfold State.unitMemBad
  repeat' with_reducible first
    | exact hK | assumption
    | (extract_lets +onlyGivenNames y; refine keeps_cut (F := F) (S := S) (y := y) ?_ ?_; dsimp -zeta only [y]; clear y; rotate_left; clear_value y; intro hy; rotate_right)
    | (extract_lets +onlyGivenNames y; refine keeps_cut1 (F := F) (S := S) (y := y) ?_ ?_; dsimp -zeta only [y]; clear y; rotate_left; clear_value y; intro hy; rotate_right)
    | (extract_lets +onlyGivenNames y; refine keeps_cutR (F := F) (S := S) (y := y) ?_ ?_; dsimp -zeta only [y]; clear y; rotate_left; clear_value y; intro hy; rotate_right)
    | extract_lets +onlyGivenNames y | apply keepsA_next | apply keepsO_some | exact keepsO_none | exact within_trans hF (by decide)
    | (intro p hp; cases p <;> with_unfolding_all first | exact foot_absurd hF hp (by decide) | exact rfl) | apply State.patina_keeps
    | apply State.tookFree_keeps | split | (apply keeps_of_pair; assumption) | (apply keeps_of_trip; assumption)
    | refine keeps_of_some (by assumption) ?_ | dsimp -zeta only

/-! Sequencer -/

theorem State.seqStart_keeps (s : State) (n : Nat) (u : DmaUse) (len : Nat) {F : Nat} {S : State} (hK : Keeps F S s)
    (hF : within 67108876 F = true := by exact within_trans hF (by decide)) : Keeps F S (State.seqStart s n u len) := by
  unfold State.seqStart
  repeat' with_reducible first
    | exact hK | assumption
    | (extract_lets +onlyGivenNames y; refine keeps_cut (F := F) (S := S) (y := y) ?_ ?_; dsimp -zeta only [y]; clear y; rotate_left; clear_value y; intro hy; rotate_right)
    | (extract_lets +onlyGivenNames y; refine keeps_cut1 (F := F) (S := S) (y := y) ?_ ?_; dsimp -zeta only [y]; clear y; rotate_left; clear_value y; intro hy; rotate_right)
    | (extract_lets +onlyGivenNames y; refine keeps_cutR (F := F) (S := S) (y := y) ?_ ?_; dsimp -zeta only [y]; clear y; rotate_left; clear_value y; intro hy; rotate_right)
    | extract_lets +onlyGivenNames y | apply keepsA_next | apply keepsO_some | exact keepsO_none | exact within_trans hF (by decide)
    | (intro p hp; cases p <;> with_unfolding_all first | exact foot_absurd hF hp (by decide) | exact rfl) | apply State.modDma_keeps
    | apply State.setReg_keeps | apply State.tookFree_keeps | split | (apply keeps_of_pair; assumption) | (apply keeps_of_trip; assumption)
    | refine keeps_of_some (by assumption) ?_ | dsimp -zeta only | fail_if_no_progress apply keeps_upd

theorem State.seqTake_keeps (s : State) (base : Nat) (u : DmaUse) (len : Nat) {F : Nat} {S : State} (hK : Keeps F S s)
    (hF : within 67108876 F = true := by exact within_trans hF (by decide)) : Keeps F S (State.seqTake s base u len) := by
  unfold State.seqTake
  repeat' with_reducible first
    | exact hK | assumption
    | (extract_lets +onlyGivenNames y; refine keeps_cut (F := F) (S := S) (y := y) ?_ ?_; dsimp -zeta only [y]; clear y; rotate_left; clear_value y; intro hy; rotate_right)
    | (extract_lets +onlyGivenNames y; refine keeps_cut1 (F := F) (S := S) (y := y) ?_ ?_; dsimp -zeta only [y]; clear y; rotate_left; clear_value y; intro hy; rotate_right)
    | (extract_lets +onlyGivenNames y; refine keeps_cutR (F := F) (S := S) (y := y) ?_ ?_; dsimp -zeta only [y]; clear y; rotate_left; clear_value y; intro hy; rotate_right)
    | extract_lets +onlyGivenNames y | apply keepsA_next | apply keepsO_some | exact keepsO_none | exact within_trans hF (by decide)
    | (intro p hp; cases p <;> with_unfolding_all first | exact foot_absurd hF hp (by decide) | exact rfl) | apply State.seqStart_keeps | split
    | (apply keeps_of_pair; assumption) | (apply keeps_of_trip; assumption) | refine keeps_of_some (by assumption) ?_ | dsimp -zeta only

theorem State.seqMoved_keeps (s : State) (u : DmaUse) (k : Nat) {F : Nat} {S : State} (hK : Keeps F S s)
    (hF : within 67108864 F = true := by exact within_trans hF (by decide)) : Keeps F S (State.seqMoved s u k) := by
  unfold State.seqMoved
  repeat' with_reducible first
    | exact hK | assumption
    | (extract_lets +onlyGivenNames y; refine keeps_cut (F := F) (S := S) (y := y) ?_ ?_; dsimp -zeta only [y]; clear y; rotate_left; clear_value y; intro hy; rotate_right)
    | (extract_lets +onlyGivenNames y; refine keeps_cut1 (F := F) (S := S) (y := y) ?_ ?_; dsimp -zeta only [y]; clear y; rotate_left; clear_value y; intro hy; rotate_right)
    | (extract_lets +onlyGivenNames y; refine keeps_cutR (F := F) (S := S) (y := y) ?_ ?_; dsimp -zeta only [y]; clear y; rotate_left; clear_value y; intro hy; rotate_right)
    | extract_lets +onlyGivenNames y | apply keepsA_next | apply keepsO_some | exact keepsO_none | exact within_trans hF (by decide)
    | (intro p hp; cases p <;> with_unfolding_all first | exact foot_absurd hF hp (by decide) | exact rfl) | split | (apply keeps_of_pair; assumption)
    | (apply keeps_of_trip; assumption) | refine keeps_of_some (by assumption) ?_ | dsimp -zeta only | fail_if_no_progress apply keeps_upd

theorem State.seqDone_keeps (s : State) (u : DmaUse) {F : Nat} {S : State} (hK : Keeps F S s)
    (hF : within 67108864 F = true := by exact within_trans hF (by decide)) : Keeps F S (State.seqDone s u) := by
  unfold State.seqDone
  repeat' with_reducible first
    | exact hK | assumption
    | (extract_lets +onlyGivenNames y; refine keeps_cut (F := F) (S := S) (y := y) ?_ ?_; dsimp -zeta only [y]; clear y; rotate_left; clear_value y; intro hy; rotate_right)
    | (extract_lets +onlyGivenNames y; refine keeps_cut1 (F := F) (S := S) (y := y) ?_ ?_; dsimp -zeta only [y]; clear y; rotate_left; clear_value y; intro hy; rotate_right)
    | (extract_lets +onlyGivenNames y; refine keeps_cutR (F := F) (S := S) (y := y) ?_ ?_; dsimp -zeta only [y]; clear y; rotate_left; clear_value y; intro hy; rotate_right)
    | extract_lets +onlyGivenNames y | apply keepsA_next | apply keepsO_some | exact keepsO_none | exact within_trans hF (by decide)
    | (intro p hp; cases p <;> with_unfolding_all first | exact foot_absurd hF hp (by decide) | exact rfl) | split | (apply keeps_of_pair; assumption)
    | (apply keeps_of_trip; assumption) | refine keeps_of_some (by assumption) ?_ | dsimp -zeta only | fail_if_no_progress apply keeps_upd

theorem State.seqDrop_keeps (s : State) (u : DmaUse) {F : Nat} {S : State} (hK : Keeps F S s)
    (hF : within 67108864 F = true := by exact within_trans hF (by decide)) : Keeps F S (State.seqDrop s u) := by
  unfold State.seqDrop
  repeat' with_reducible first
    | exact hK | assumption
    | (extract_lets +onlyGivenNames y; refine keeps_cut (F := F) (S := S) (y := y) ?_ ?_; dsimp -zeta only [y]; clear y; rotate_left; clear_value y; intro hy; rotate_right)
    | (extract_lets +onlyGivenNames y; refine keeps_cut1 (F := F) (S := S) (y := y) ?_ ?_; dsimp -zeta only [y]; clear y; rotate_left; clear_value y; intro hy; rotate_right)
    | (extract_lets +onlyGivenNames y; refine keeps_cutR (F := F) (S := S) (y := y) ?_ ?_; dsimp -zeta only [y]; clear y; rotate_left; clear_value y; intro hy; rotate_right)
    | extract_lets +onlyGivenNames y | apply keepsA_next | apply keepsO_some | exact keepsO_none | exact within_trans hF (by decide)
    | (intro p hp; cases p <;> with_unfolding_all first | exact foot_absurd hF hp (by decide) | exact rfl) | split | (apply keeps_of_pair; assumption)
    | (apply keeps_of_trip; assumption) | refine keeps_of_some (by assumption) ?_ | dsimp -zeta only | fail_if_no_progress apply keeps_upd

/-! Bands -/

theorem State.modJob_keeps (s : State) (j : Nat) (f : Job → Job) {F : Nat} {S : State} (hK : Keeps F S s)
    (hF : within 4096 F = true := by exact within_trans hF (by decide)) : Keeps F S (State.modJob s j f) := by
  unfold State.modJob
  repeat' with_reducible first
    | exact hK | assumption
    | (extract_lets +onlyGivenNames y; refine keeps_cut (F := F) (S := S) (y := y) ?_ ?_; dsimp -zeta only [y]; clear y; rotate_left; clear_value y; intro hy; rotate_right)
    | (extract_lets +onlyGivenNames y; refine keeps_cut1 (F := F) (S := S) (y := y) ?_ ?_; dsimp -zeta only [y]; clear y; rotate_left; clear_value y; intro hy; rotate_right)
    | (extract_lets +onlyGivenNames y; refine keeps_cutR (F := F) (S := S) (y := y) ?_ ?_; dsimp -zeta only [y]; clear y; rotate_left; clear_value y; intro hy; rotate_right)
    | extract_lets +onlyGivenNames y | apply keepsA_next | apply keepsO_some | exact keepsO_none | exact within_trans hF (by decide)
    | (intro p hp; cases p <;> with_unfolding_all first | exact foot_absurd hF hp (by decide) | exact rfl) | split | (apply keeps_of_pair; assumption)
    | (apply keeps_of_trip; assumption) | refine keeps_of_some (by assumption) ?_ | dsimp -zeta only | fail_if_no_progress apply keeps_upd

theorem State.modPage_keeps (s : State) (j p : Nat) (f : Page → Page) {F : Nat} {S : State} (hK : Keeps F S s)
    (hF : within 4096 F = true := by exact within_trans hF (by decide)) : Keeps F S (State.modPage s j p f) := by
  unfold State.modPage
  repeat' with_reducible first
    | exact hK | assumption
    | (extract_lets +onlyGivenNames y; refine keeps_cut (F := F) (S := S) (y := y) ?_ ?_; dsimp -zeta only [y]; clear y; rotate_left; clear_value y; intro hy; rotate_right)
    | (extract_lets +onlyGivenNames y; refine keeps_cut1 (F := F) (S := S) (y := y) ?_ ?_; dsimp -zeta only [y]; clear y; rotate_left; clear_value y; intro hy; rotate_right)
    | (extract_lets +onlyGivenNames y; refine keeps_cutR (F := F) (S := S) (y := y) ?_ ?_; dsimp -zeta only [y]; clear y; rotate_left; clear_value y; intro hy; rotate_right)
    | extract_lets +onlyGivenNames y | apply keepsA_next | apply keepsO_some | exact keepsO_none | exact within_trans hF (by decide)
    | (intro p hp; cases p <;> with_unfolding_all first | exact foot_absurd hF hp (by decide) | exact rfl) | apply State.modJob_keeps | split
    | (apply keeps_of_pair; assumption) | (apply keeps_of_trip; assumption) | refine keeps_of_some (by assumption) ?_ | dsimp -zeta only

theorem State.modBand_keeps (s : State) (r : BandRef) (f : Band → Band) {F : Nat} {S : State} (hK : Keeps F S s)
    (hF : within 4096 F = true := by exact within_trans hF (by decide)) : Keeps F S (State.modBand s r f) := by
  unfold State.modBand
  repeat' with_reducible first
    | exact hK | assumption
    | (extract_lets +onlyGivenNames y; refine keeps_cut (F := F) (S := S) (y := y) ?_ ?_; dsimp -zeta only [y]; clear y; rotate_left; clear_value y; intro hy; rotate_right)
    | (extract_lets +onlyGivenNames y; refine keeps_cut1 (F := F) (S := S) (y := y) ?_ ?_; dsimp -zeta only [y]; clear y; rotate_left; clear_value y; intro hy; rotate_right)
    | (extract_lets +onlyGivenNames y; refine keeps_cutR (F := F) (S := S) (y := y) ?_ ?_; dsimp -zeta only [y]; clear y; rotate_left; clear_value y; intro hy; rotate_right)
    | extract_lets +onlyGivenNames y | apply keepsA_next | apply keepsO_some | exact keepsO_none | exact within_trans hF (by decide)
    | (intro p hp; cases p <;> with_unfolding_all first | exact foot_absurd hF hp (by decide) | exact rfl) | apply State.modPage_keeps | split
    | (apply keeps_of_pair; assumption) | (apply keeps_of_trip; assumption) | refine keeps_of_some (by assumption) ?_ | dsimp -zeta only

theorem State.toBridge_keeps (s : State) (vc : Nat) (m : BrBody) {F : Nat} {S : State} (hK : Keeps F S s)
    (hF : within 4194304 F = true := by exact within_trans hF (by decide)) : Keeps F S (State.toBridge s vc m) := by
  unfold State.toBridge
  repeat' with_reducible first
    | exact hK | assumption
    | (extract_lets +onlyGivenNames y; refine keeps_cut (F := F) (S := S) (y := y) ?_ ?_; dsimp -zeta only [y]; clear y; rotate_left; clear_value y; intro hy; rotate_right)
    | (extract_lets +onlyGivenNames y; refine keeps_cut1 (F := F) (S := S) (y := y) ?_ ?_; dsimp -zeta only [y]; clear y; rotate_left; clear_value y; intro hy; rotate_right)
    | (extract_lets +onlyGivenNames y; refine keeps_cutR (F := F) (S := S) (y := y) ?_ ?_; dsimp -zeta only [y]; clear y; rotate_left; clear_value y; intro hy; rotate_right)
    | extract_lets +onlyGivenNames y | apply keepsA_next | apply keepsO_some | exact keepsO_none | exact within_trans hF (by decide)
    | (intro p hp; cases p <;> with_unfolding_all first | exact foot_absurd hF hp (by decide) | exact rfl) | split | (apply keeps_of_pair; assumption)
    | (apply keeps_of_trip; assumption) | refine keeps_of_some (by assumption) ?_ | dsimp -zeta only | fail_if_no_progress apply keeps_upd

theorem State.setRes_keeps (s : State) (r : BandRef) (x : Res) {F : Nat} {S : State} (hK : Keeps F S s)
    (hF : within 4198400 F = true := by exact within_trans hF (by decide)) : Keeps F S (State.setRes s r x) := by
  unfold State.setRes
  repeat' with_reducible first
    | exact hK | assumption
    | (extract_lets +onlyGivenNames y; refine keeps_cut (F := F) (S := S) (y := y) ?_ ?_; dsimp -zeta only [y]; clear y; rotate_left; clear_value y; intro hy; rotate_right)
    | (extract_lets +onlyGivenNames y; refine keeps_cut1 (F := F) (S := S) (y := y) ?_ ?_; dsimp -zeta only [y]; clear y; rotate_left; clear_value y; intro hy; rotate_right)
    | (extract_lets +onlyGivenNames y; refine keeps_cutR (F := F) (S := S) (y := y) ?_ ?_; dsimp -zeta only [y]; clear y; rotate_left; clear_value y; intro hy; rotate_right)
    | extract_lets +onlyGivenNames y | apply keepsA_next | apply keepsO_some | exact keepsO_none | exact within_trans hF (by decide)
    | (intro p hp; cases p <;> with_unfolding_all first | exact foot_absurd hF hp (by decide) | exact rfl) | apply State.modBand_keeps
    | apply State.toBridge_keeps | split | (apply keeps_of_pair; assumption) | (apply keeps_of_trip; assumption)
    | refine keeps_of_some (by assumption) ?_ | dsimp -zeta only | fail_if_no_progress apply keeps_upd

theorem State.freshAhead_keeps (s : State) (r : BandRef) {F : Nat} {S : State} (hK : Keeps F S s)
    (hF : within 131072 F = true := by exact within_trans hF (by decide)) : Keeps F S (State.freshAhead s r) := by
  unfold State.freshAhead
  repeat' with_reducible first
    | exact hK | assumption
    | (extract_lets +onlyGivenNames y; refine keeps_cut (F := F) (S := S) (y := y) ?_ ?_; dsimp -zeta only [y]; clear y; rotate_left; clear_value y; intro hy; rotate_right)
    | (extract_lets +onlyGivenNames y; refine keeps_cut1 (F := F) (S := S) (y := y) ?_ ?_; dsimp -zeta only [y]; clear y; rotate_left; clear_value y; intro hy; rotate_right)
    | (extract_lets +onlyGivenNames y; refine keeps_cutR (F := F) (S := S) (y := y) ?_ ?_; dsimp -zeta only [y]; clear y; rotate_left; clear_value y; intro hy; rotate_right)
    | extract_lets +onlyGivenNames y | apply keepsA_next | apply keepsO_some | exact keepsO_none | exact within_trans hF (by decide)
    | (intro p hp; cases p <;> with_unfolding_all first | exact foot_absurd hF hp (by decide) | exact rfl) | split | (apply keeps_of_pair; assumption)
    | (apply keeps_of_trip; assumption) | refine keeps_of_some (by assumption) ?_ | dsimp -zeta only | fail_if_no_progress apply keeps_upd

theorem State.reuse_keeps (s : State) (r : BandRef) {F : Nat} {S : State} (hK : Keeps F S s)
    (hF : within 4329472 F = true := by exact within_trans hF (by decide)) : Keeps F S (State.reuse s r) := by
  unfold State.reuse
  repeat' with_reducible first
    | exact hK | assumption
    | (extract_lets +onlyGivenNames y; refine keeps_cut (F := F) (S := S) (y := y) ?_ ?_; dsimp -zeta only [y]; clear y; rotate_left; clear_value y; intro hy; rotate_right)
    | (extract_lets +onlyGivenNames y; refine keeps_cut1 (F := F) (S := S) (y := y) ?_ ?_; dsimp -zeta only [y]; clear y; rotate_left; clear_value y; intro hy; rotate_right)
    | (extract_lets +onlyGivenNames y; refine keeps_cutR (F := F) (S := S) (y := y) ?_ ?_; dsimp -zeta only [y]; clear y; rotate_left; clear_value y; intro hy; rotate_right)
    | extract_lets +onlyGivenNames y | apply keepsA_next | apply keepsO_some | exact keepsO_none | exact within_trans hF (by decide)
    | (intro p hp; cases p <;> with_unfolding_all first | exact foot_absurd hF hp (by decide) | exact rfl) | apply State.freshAhead_keeps
    | apply State.modBand_keeps | apply State.setRes_keeps | split | (apply keeps_of_pair; assumption) | (apply keeps_of_trip; assumption)
    | refine keeps_of_some (by assumption) ?_ | dsimp -zeta only | fail_if_no_progress apply keeps_upd

theorem State.endJobs_keeps (s : State) {F : Nat} {S : State} (hK : Keeps F S s)
    (hF : within 4096 F = true := by exact within_trans hF (by decide)) : Keeps F S (State.endJobs s) := by
  unfold State.endJobs
  repeat' with_reducible first
    | exact hK | assumption
    | (extract_lets +onlyGivenNames y; refine keeps_cut (F := F) (S := S) (y := y) ?_ ?_; dsimp -zeta only [y]; clear y; rotate_left; clear_value y; intro hy; rotate_right)
    | (extract_lets +onlyGivenNames y; refine keeps_cut1 (F := F) (S := S) (y := y) ?_ ?_; dsimp -zeta only [y]; clear y; rotate_left; clear_value y; intro hy; rotate_right)
    | (extract_lets +onlyGivenNames y; refine keeps_cutR (F := F) (S := S) (y := y) ?_ ?_; dsimp -zeta only [y]; clear y; rotate_left; clear_value y; intro hy; rotate_right)
    | extract_lets +onlyGivenNames y | apply keepsA_next | apply keepsO_some | exact keepsO_none | exact within_trans hF (by decide)
    | (intro p hp; cases p <;> with_unfolding_all first | exact foot_absurd hF hp (by decide) | exact rfl) | split | (apply keeps_of_pair; assumption)
    | (apply keeps_of_trip; assumption) | refine keeps_of_some (by assumption) ?_ | dsimp -zeta only | fail_if_no_progress apply keeps_upd

theorem State.sweepWins_keeps (s : State) {F : Nat} {S : State} (hK : Keeps F S s)
    (hF : within 131072 F = true := by exact within_trans hF (by decide)) : Keeps F S (State.sweepWins s) := by
  unfold State.sweepWins
  repeat' with_reducible first
    | exact hK | assumption
    | (extract_lets +onlyGivenNames y; refine keeps_cut (F := F) (S := S) (y := y) ?_ ?_; dsimp -zeta only [y]; clear y; rotate_left; clear_value y; intro hy; rotate_right)
    | (extract_lets +onlyGivenNames y; refine keeps_cut1 (F := F) (S := S) (y := y) ?_ ?_; dsimp -zeta only [y]; clear y; rotate_left; clear_value y; intro hy; rotate_right)
    | (extract_lets +onlyGivenNames y; refine keeps_cutR (F := F) (S := S) (y := y) ?_ ?_; dsimp -zeta only [y]; clear y; rotate_left; clear_value y; intro hy; rotate_right)
    | extract_lets +onlyGivenNames y | apply keepsA_next | apply keepsO_some | exact keepsO_none | exact within_trans hF (by decide)
    | (intro p hp; cases p <;> with_unfolding_all first | exact foot_absurd hF hp (by decide) | exact rfl) | split | (apply keeps_of_pair; assumption)
    | (apply keeps_of_trip; assumption) | refine keeps_of_some (by assumption) ?_ | dsimp -zeta only | fail_if_no_progress apply keeps_upd

theorem State.sweepRaw_keeps (s : State) {F : Nat} {S : State} (hK : Keeps F S s)
    (hF : within 4096 F = true := by exact within_trans hF (by decide)) : Keeps F S (State.sweepRaw s) := by
  unfold State.sweepRaw
  repeat' with_reducible first
    | exact hK | assumption
    | (extract_lets +onlyGivenNames y; refine keeps_cut (F := F) (S := S) (y := y) ?_ ?_; dsimp -zeta only [y]; clear y; rotate_left; clear_value y; intro hy; rotate_right)
    | (extract_lets +onlyGivenNames y; refine keeps_cut1 (F := F) (S := S) (y := y) ?_ ?_; dsimp -zeta only [y]; clear y; rotate_left; clear_value y; intro hy; rotate_right)
    | (extract_lets +onlyGivenNames y; refine keeps_cutR (F := F) (S := S) (y := y) ?_ ?_; dsimp -zeta only [y]; clear y; rotate_left; clear_value y; intro hy; rotate_right)
    | extract_lets +onlyGivenNames y | apply keepsA_next | apply keepsO_some | exact keepsO_none | exact within_trans hF (by decide)
    | (intro p hp; cases p <;> with_unfolding_all first | exact foot_absurd hF hp (by decide) | exact rfl) | split | (apply keeps_of_pair; assumption)
    | (apply keeps_of_trip; assumption) | refine keeps_of_some (by assumption) ?_ | dsimp -zeta only | fail_if_no_progress apply keeps_upd

theorem State.releaseEffect_keeps (s : State) (j p : Nat) {F : Nat} {S : State} (hK : Keeps F S s)
    (hF : within 200704 F = true := by exact within_trans hF (by decide)) : Keeps F S (State.releaseEffect s j p) := by
  unfold State.releaseEffect
  repeat' with_reducible first
    | exact hK | assumption
    | (extract_lets +onlyGivenNames y; refine keeps_cut (F := F) (S := S) (y := y) ?_ ?_; dsimp -zeta only [y]; clear y; rotate_left; clear_value y; intro hy; rotate_right)
    | (extract_lets +onlyGivenNames y; refine keeps_cut1 (F := F) (S := S) (y := y) ?_ ?_; dsimp -zeta only [y]; clear y; rotate_left; clear_value y; intro hy; rotate_right)
    | (extract_lets +onlyGivenNames y; refine keeps_cutR (F := F) (S := S) (y := y) ?_ ?_; dsimp -zeta only [y]; clear y; rotate_left; clear_value y; intro hy; rotate_right)
    | extract_lets +onlyGivenNames y | apply keepsA_next | apply keepsO_some | exact keepsO_none | exact within_trans hF (by decide)
    | (intro p hp; cases p <;> with_unfolding_all first | exact foot_absurd hF hp (by decide) | exact rfl) | apply State.endJobs_keeps
    | apply State.modPage_keeps | apply State.sweepRaw_keeps | apply State.sweepWins_keeps | split | (apply keeps_of_pair; assumption)
    | (apply keeps_of_trip; assumption) | refine keeps_of_some (by assumption) ?_ | dsimp -zeta only | fail_if_no_progress apply keeps_upd

theorem State.dueReleases_keeps (s : State) {F : Nat} {S : State} (hK : Keeps F S s)
    (hF : within 200704 F = true := by exact within_trans hF (by decide)) : Keeps F S (State.dueReleases s) := by
  unfold State.dueReleases
  repeat' with_reducible first
    | exact hK | assumption
    | (extract_lets +onlyGivenNames y; refine keeps_cut (F := F) (S := S) (y := y) ?_ ?_; dsimp -zeta only [y]; clear y; rotate_left; clear_value y; intro hy; rotate_right)
    | (extract_lets +onlyGivenNames y; refine keeps_cut1 (F := F) (S := S) (y := y) ?_ ?_; dsimp -zeta only [y]; clear y; rotate_left; clear_value y; intro hy; rotate_right)
    | (extract_lets +onlyGivenNames y; refine keeps_cutR (F := F) (S := S) (y := y) ?_ ?_; dsimp -zeta only [y]; clear y; rotate_left; clear_value y; intro hy; rotate_right)
    | extract_lets +onlyGivenNames y | apply keepsA_next | apply keepsO_some | exact keepsO_none | exact within_trans hF (by decide)
    | (intro p hp; cases p <;> with_unfolding_all first | exact foot_absurd hF hp (by decide) | exact rfl) | apply State.releaseEffect_keeps
    | (apply keeps_foldl; intro y n hy) | (apply keeps_foldl1; intro y n hy) | split | (apply keeps_of_pair; assumption)
    | (apply keeps_of_trip; assumption) | refine keeps_of_some (by assumption) ?_ | dsimp -zeta only

theorem State.startMove_keeps (s : State) (r : BandRef) {F : Nat} {S : State} (hK : Keeps F S s)
    (hF : within 4198400 F = true := by exact within_trans hF (by decide)) : Keeps F S (State.startMove s r) := by
  unfold State.startMove
  repeat' with_reducible first
    | exact hK | assumption
    | (extract_lets +onlyGivenNames y; refine keeps_cut (F := F) (S := S) (y := y) ?_ ?_; dsimp -zeta only [y]; clear y; rotate_left; clear_value y; intro hy; rotate_right)
    | (extract_lets +onlyGivenNames y; refine keeps_cut1 (F := F) (S := S) (y := y) ?_ ?_; dsimp -zeta only [y]; clear y; rotate_left; clear_value y; intro hy; rotate_right)
    | (extract_lets +onlyGivenNames y; refine keeps_cutR (F := F) (S := S) (y := y) ?_ ?_; dsimp -zeta only [y]; clear y; rotate_left; clear_value y; intro hy; rotate_right)
    | extract_lets +onlyGivenNames y | apply keepsA_next | apply keepsO_some | exact keepsO_none | exact within_trans hF (by decide)
    | (intro p hp; cases p <;> with_unfolding_all first | exact foot_absurd hF hp (by decide) | exact rfl) | apply State.modBand_keeps
    | apply State.setRes_keeps | split | (apply keeps_of_pair; assumption) | (apply keeps_of_trip; assumption)
    | refine keeps_of_some (by assumption) ?_ | dsimp -zeta only | fail_if_no_progress apply keeps_upd

theorem State.dropParts_keeps (s : State) (r : BandRef) {F : Nat} {S : State} (hK : Keeps F S s)
    (hF : within 4194304 F = true := by exact within_trans hF (by decide)) : Keeps F S (State.dropParts s r) := by
  unfold State.dropParts
  repeat' with_reducible first
    | exact hK | assumption
    | (extract_lets +onlyGivenNames y; refine keeps_cut (F := F) (S := S) (y := y) ?_ ?_; dsimp -zeta only [y]; clear y; rotate_left; clear_value y; intro hy; rotate_right)
    | (extract_lets +onlyGivenNames y; refine keeps_cut1 (F := F) (S := S) (y := y) ?_ ?_; dsimp -zeta only [y]; clear y; rotate_left; clear_value y; intro hy; rotate_right)
    | (extract_lets +onlyGivenNames y; refine keeps_cutR (F := F) (S := S) (y := y) ?_ ?_; dsimp -zeta only [y]; clear y; rotate_left; clear_value y; intro hy; rotate_right)
    | extract_lets +onlyGivenNames y | apply keepsA_next | apply keepsO_some | exact keepsO_none | exact within_trans hF (by decide)
    | (intro p hp; cases p <;> with_unfolding_all first | exact foot_absurd hF hp (by decide) | exact rfl) | split | (apply keeps_of_pair; assumption)
    | (apply keeps_of_trip; assumption) | refine keeps_of_some (by assumption) ?_ | dsimp -zeta only | fail_if_no_progress apply keeps_upd

theorem execBandMoveStart_keeps (hits : List MemHit) (s : State) {F : Nat} {S : State} (hK : Keeps F S s)
    (hF : within 106959884 F = true := by exact within_trans hF (by decide)) : KeepsA F S (execBandMoveStart s hits) := by
  unfold execBandMoveStart
  repeat' with_reducible first
    | exact hK | assumption
    | (extract_lets +onlyGivenNames y; refine keeps_cut (F := F) (S := S) (y := y) ?_ ?_; dsimp -zeta only [y]; clear y; rotate_left; clear_value y; intro hy; rotate_right)
    | (extract_lets +onlyGivenNames y; refine keeps_cut1 (F := F) (S := S) (y := y) ?_ ?_; dsimp -zeta only [y]; clear y; rotate_left; clear_value y; intro hy; rotate_right)
    | (extract_lets +onlyGivenNames y; refine keeps_cutR (F := F) (S := S) (y := y) ?_ ?_; dsimp -zeta only [y]; clear y; rotate_left; clear_value y; intro hy; rotate_right)
    | extract_lets +onlyGivenNames y | apply keepsA_next | apply keepsO_some | exact keepsO_none | exact within_trans hF (by decide)
    | (intro p hp; cases p <;> with_unfolding_all first | exact foot_absurd hF hp (by decide) | exact rfl) | apply State.memHits_keeps
    | apply State.modBand_keeps | apply State.seqTake_keeps | apply State.startMove_keeps | apply State.toBridge_keeps | apply State.tookFree_keeps
    | split | (apply keeps_of_pair; assumption) | (apply keeps_of_trip; assumption) | refine keeps_of_some (by assumption) ?_ | dsimp -zeta only
    | fail_if_no_progress apply keeps_upd

theorem State.tellRate_keeps (s : State) {F : Nat} {S : State} (hK : Keeps F S s)
    (hF : within 4194304 F = true := by exact within_trans hF (by decide)) : Keeps F S (State.tellRate s) := by
  unfold State.tellRate
  repeat' with_reducible first
    | exact hK | assumption
    | (extract_lets +onlyGivenNames y; refine keeps_cut (F := F) (S := S) (y := y) ?_ ?_; dsimp -zeta only [y]; clear y; rotate_left; clear_value y; intro hy; rotate_right)
    | (extract_lets +onlyGivenNames y; refine keeps_cut1 (F := F) (S := S) (y := y) ?_ ?_; dsimp -zeta only [y]; clear y; rotate_left; clear_value y; intro hy; rotate_right)
    | (extract_lets +onlyGivenNames y; refine keeps_cutR (F := F) (S := S) (y := y) ?_ ?_; dsimp -zeta only [y]; clear y; rotate_left; clear_value y; intro hy; rotate_right)
    | extract_lets +onlyGivenNames y | apply keepsA_next | apply keepsO_some | exact keepsO_none | exact within_trans hF (by decide)
    | (intro p hp; cases p <;> with_unfolding_all first | exact foot_absurd hF hp (by decide) | exact rfl) | apply State.toBridge_keeps | split
    | (apply keeps_of_pair; assumption) | (apply keeps_of_trip; assumption) | refine keeps_of_some (by assumption) ?_ | dsimp -zeta only

theorem State.hostDone_keeps (s : State) (bytes : Nat) {F : Nat} {S : State} (hK : Keeps F S s)
    (hF : within 4210688 F = true := by exact within_trans hF (by decide)) : Keeps F S (State.hostDone s bytes) := by
  unfold State.hostDone
  repeat' with_reducible first
    | exact hK | assumption
    | (extract_lets +onlyGivenNames y; refine keeps_cut (F := F) (S := S) (y := y) ?_ ?_; dsimp -zeta only [y]; clear y; rotate_left; clear_value y; intro hy; rotate_right)
    | (extract_lets +onlyGivenNames y; refine keeps_cut1 (F := F) (S := S) (y := y) ?_ ?_; dsimp -zeta only [y]; clear y; rotate_left; clear_value y; intro hy; rotate_right)
    | (extract_lets +onlyGivenNames y; refine keeps_cutR (F := F) (S := S) (y := y) ?_ ?_; dsimp -zeta only [y]; clear y; rotate_left; clear_value y; intro hy; rotate_right)
    | extract_lets +onlyGivenNames y | apply keepsA_next | apply keepsO_some | exact keepsO_none | exact within_trans hF (by decide)
    | (intro p hp; cases p <;> with_unfolding_all first | exact foot_absurd hF hp (by decide) | exact rfl) | apply State.tellRate_keeps | split
    | (apply keeps_of_pair; assumption) | (apply keeps_of_trip; assumption) | refine keeps_of_some (by assumption) ?_ | dsimp -zeta only
    | fail_if_no_progress apply keeps_sched | fail_if_no_progress apply keeps_upd

theorem State.nowResident_keeps (s : State) (r : BandRef) {F : Nat} {S : State} (hK : Keeps F S s)
    (hF : within 71323648 F = true := by exact within_trans hF (by decide)) : Keeps F S (State.nowResident s r) := by
  unfold State.nowResident
  repeat' with_reducible first
    | exact hK | assumption
    | (extract_lets +onlyGivenNames y; refine keeps_cut (F := F) (S := S) (y := y) ?_ ?_; dsimp -zeta only [y]; clear y; rotate_left; clear_value y; intro hy; rotate_right)
    | (extract_lets +onlyGivenNames y; refine keeps_cut1 (F := F) (S := S) (y := y) ?_ ?_; dsimp -zeta only [y]; clear y; rotate_left; clear_value y; intro hy; rotate_right)
    | (extract_lets +onlyGivenNames y; refine keeps_cutR (F := F) (S := S) (y := y) ?_ ?_; dsimp -zeta only [y]; clear y; rotate_left; clear_value y; intro hy; rotate_right)
    | extract_lets +onlyGivenNames y | apply keepsA_next | apply keepsO_some | exact keepsO_none | exact within_trans hF (by decide)
    | (intro p hp; cases p <;> with_unfolding_all first | exact foot_absurd hF hp (by decide) | exact rfl) | apply State.modBand_keeps
    | apply State.seqDone_keeps | apply State.setRes_keeps | split | (apply keeps_of_pair; assumption) | (apply keeps_of_trip; assumption)
    | refine keeps_of_some (by assumption) ?_ | dsimp -zeta only | fail_if_no_progress apply keeps_sched | fail_if_no_progress apply keeps_upd

/-! Codec -/

theorem State.ctxSeen_keeps (s : State) {F : Nat} {S : State} (hK : Keeps F S s)
    (hF : within 131072 F = true := by exact within_trans hF (by decide)) : Keeps F S (State.ctxSeen s) := by
  unfold State.ctxSeen
  repeat' with_reducible first
    | assumption | (intro p hp; cases p <;> with_unfolding_all first | exact foot_absurd hF hp (by decide) | exact rfl)
    | fail_if_no_progress apply keeps_upd

theorem State.keepWin_keeps (s : State) (job page k : Nat) (win : List Byte) {F : Nat} {S : State} (hK : Keeps F S s)
    (hF : within 131072 F = true := by exact within_trans hF (by decide)) : Keeps F S (State.keepWin s job page k win) := by
  unfold State.keepWin
  repeat' with_reducible first
    | assumption | (intro p hp; cases p <;> with_unfolding_all first | exact foot_absurd hF hp (by decide) | exact rfl) | split
    | fail_if_no_progress apply keeps_upd

theorem State.streamError_keeps (s : State) (n err src band page : Nat) {F : Nat} {S : State} (hK : Keeps F S s)
    (hF : within 2130952 F = true := by exact within_trans hF (by decide)) : Keeps F S (State.streamError s n err src band page) := by
  unfold State.streamError
  repeat' with_reducible first
    | assumption | exact within_trans hF (by decide) | apply State.bump_keeps | apply State.modCast_keeps | apply State.raise_keeps

theorem State.castStep_keeps (old s : State) (n k : Nat) {F : Nat} {S : State} (hK : Keeps F S s)
    (hF : within 35872909344776 F = true := by exact within_trans hF (by decide)) : Keeps F S (old.castStep s n k) := by
  unfold State.castStep
  repeat' with_reducible first
    | assumption | exact within_trans hF (by decide) | apply State.bump_keeps | apply State.modCast_keeps | apply State.modStn_keeps | split

theorem State.castWrite_keeps (s : State) (n k : Nat) {F : Nat} {S : State} (hK : Keeps F S s)
    (hF : within 35872909344776 F = true := by exact within_trans hF (by decide)) : Keeps F S (State.castWrite s n k) := by
  unfold State.castWrite
  repeat' with_reducible first | assumption | apply State.castStep_keeps

theorem State.startBand_keeps (s : State) (r : PlaneRun) {F : Nat} {S : State} (hK : Keeps F S s)
    (hF : within 35184372252672 F = true := by exact within_trans hF (by decide)) : KeepsO F S (State.startBand s r) := by
  unfold State.startBand
  repeat' with_reducible first
    | assumption | extract_lets +onlyGivenNames y | apply keepsO_some | exact keepsO_none | exact within_trans hF (by decide)
    | (intro p hp; cases p <;> with_unfolding_all first | exact foot_absurd hF hp (by decide) | exact rfl) | apply State.modCast_keeps | split
    | fail_if_no_progress apply keeps_upd

theorem State.pump_keeps (s : State) {F : Nat} {S : State} (h : Keeps F S s)
    (hF : within 35184372252672 F = true := by exact within_trans hF (by decide)) : Keeps F S s.pump := by
  have once : ∀ x : State, Keeps F S x → Keeps F S (x.codec.runs.foldl (fun s r => (s.startBand r).getD s) x) := by
    intro x hx
    refine keeps_foldl (fun y r hy => ?_) hx
    exact keeps_getDo (State.startBand_keeps _ _ hy) hy
  exact State.sweepWins_keeps _ (once _ (once _ h))

theorem State.bandIsPrinted_keeps (s : State) (tok : Nat) (r : BandRef) {F : Nat} {S : State} (hK : Keeps F S s)
    (hF : within 4329472 F = true := by exact within_trans hF (by decide)) : Keeps F S (State.bandIsPrinted s tok r) := by
  unfold State.bandIsPrinted
  repeat' with_reducible first
    | assumption | extract_lets +onlyGivenNames y | exact within_trans hF (by decide) | apply State.reuse_keeps | apply State.setRes_keeps | split

theorem State.bandIsDecoded_keeps (s : State) (tok : Nat) (r : BandRef) (first lines : Nat) {F : Nat} {S : State} (hK : Keeps F S s)
    (hF : within 4329472 F = true := by exact within_trans hF (by decide)) : Keeps F S (State.bandIsDecoded s tok r first lines) := by
  unfold State.bandIsDecoded
  repeat' with_reducible first
    | assumption | extract_lets +onlyGivenNames y | exact within_trans hF (by decide) | apply State.bandIsPrinted_keeps | apply State.setRes_keeps
    | split

theorem State.finishBand_keeps (s : State) (n : Nat) (j : CastJob) {F : Nat} {S : State} (hK : Keeps F S s)
    (hF : within 35184378819592 F = true := by exact within_trans hF (by decide)) : Keeps F S (State.finishBand s n j) := by
  unfold State.finishBand
  repeat' with_reducible first
    | assumption | exact within_trans hF (by decide) | apply State.bandIsDecoded_keeps | apply State.bump_keeps | apply State.flagTok_keeps
    | apply State.keepWin_keeps | apply State.modBand_keeps | apply State.modCast_keeps | apply State.modStn_keeps | apply State.pump_keeps
    | apply State.streamError_keeps | split

theorem execBandRelease_keeps (tok station band : Nat) (s : State) {F : Nat} {S : State} (hK : Keeps F S s)
    (hF : within 35184372252680 F = true := by exact within_trans hF (by decide)) : KeepsA F S (execBandRelease tok station band s) := by
  unfold execBandRelease
  repeat' with_reducible first
    | assumption | extract_lets +onlyGivenNames y | apply keepsA_next | exact within_trans hF (by decide)
    | (intro p hp; cases p <;> with_unfolding_all first | exact foot_absurd hF hp (by decide) | exact rfl) | apply State.bump_keeps
    | apply State.ctxSeen_keeps | apply State.pump_keeps | split | fail_if_no_progress apply keeps_upd

theorem execBandResident_keeps (r : BandRef) (s : State) {F : Nat} {S : State} (hK : Keeps F S s)
    (hF : within 35184443576320 F = true := by exact within_trans hF (by decide)) : KeepsA F S (execBandResident r s) := by
  unfold execBandResident
  repeat' with_reducible first
    | assumption | apply keepsA_next | exact within_trans hF (by decide) | apply State.ctxSeen_keeps | apply State.nowResident_keeps
    | apply State.pump_keeps | split

theorem State.stopShort_keeps (s : State) (j : CastJob) {F : Nat} {S : State} (hK : Keeps F S s)
    (hF : within 131072 F = true := by exact within_trans hF (by decide)) : Keeps F S (State.stopShort s j) := by
  unfold State.stopShort
  repeat' with_reducible first
    | assumption | (intro p hp; cases p <;> with_unfolding_all first | exact foot_absurd hF hp (by decide) | exact rfl)
    | fail_if_no_progress apply keeps_upd

theorem execBandDecoded_keeps (n : Nat) (hits : List MemHit) (s : State) {F : Nat} {S : State} (hK : Keeps F S s)
    (hF : within 35872949335048 F = true := by exact within_trans hF (by decide)) : KeepsA F S (execBandDecoded n s hits) := by
  unfold execBandDecoded
  repeat' with_reducible first
    | assumption | extract_lets +onlyGivenNames y | apply keepsA_next | exact within_trans hF (by decide) | apply State.castWrite_keeps
    | apply State.ctxSeen_keeps | apply State.finishBand_keeps | apply State.memHits_keeps | apply State.stopShort_keeps | split

theorem execCheckAheadStart_keeps (r : BandRef) (s : State) {F : Nat} {S : State} (hK : Keeps F S s)
    (hF : within 163840 F = true := by exact within_trans hF (by decide)) : KeepsA F S (execCheckAheadStart r s) := by
  unfold execCheckAheadStart
  repeat' with_reducible first
    | assumption | extract_lets +onlyGivenNames y | apply keepsA_next | exact within_trans hF (by decide)
    | (intro p hp; cases p <;> with_unfolding_all first | exact foot_absurd hF hp (by decide) | exact rfl) | apply State.ctxSeen_keeps
    | apply State.modCast_keeps | split | fail_if_no_progress apply keeps_upd

theorem execCheckAheadEnd_keeps (n : Nat) (hits : List MemHit) (s : State) {F : Nat} {S : State} (hK : Keeps F S s)
    (hF : within 35820552 F = true := by exact within_trans hF (by decide)) : KeepsA F S (execCheckAheadEnd n s hits) := by
  unfold execCheckAheadEnd
  repeat' with_reducible first
    | assumption
    | (extract_lets +onlyGivenNames y; refine keeps_cut (F := F) (S := S) (y := y) ?_ ?_; dsimp -zeta only [y]; clear y; rotate_left; clear_value y; intro hy; rotate_right)
    | extract_lets +onlyGivenNames y | apply keepsA_next | exact within_trans hF (by decide)
    | (intro p hp; cases p <;> with_unfolding_all first | exact foot_absurd hF hp (by decide) | exact rfl) | apply State.memHits_keeps
    | apply State.modBand_keeps | apply State.modCast_keeps | apply State.streamError_keeps | split | fail_if_no_progress apply keeps_upd

theorem execCastStallResume_keeps (n : Nat) (s : State) {F : Nat} {S : State} (hK : Keeps F S s)
    (hF : within 35872909344776 F = true := by exact within_trans hF (by decide)) : KeepsA F S (execCastStallResume n s) := by
  unfold execCastStallResume
  repeat' with_reducible first | assumption | apply keepsA_next | apply State.castWrite_keeps | split

theorem State.lastErrors_keeps (s : State) (k : Nat) {F : Nat} {S : State} (hK : Keeps F S s)
    (hF : within 2139144 F = true := by exact within_trans hF (by decide)) : Keeps F S (State.lastErrors s k) := by
  unfold State.lastErrors
  repeat' with_reducible first
    | assumption | exact within_trans hF (by decide) | apply State.flagTok_keeps | apply State.streamError_keeps | (apply keeps_each; intro y n hy)
    | split

theorem State.castOut_keeps (s0 : State) (n : Nat) {F : Nat} {S : State} (hK : Keeps F S s0)
    (hF : within 35184374359048 F = true := by exact within_trans hF (by decide)) : Keeps F S (State.castOut s0 n) := by
  unfold State.castOut
  repeat' with_reducible first
    | assumption
    | (extract_lets +onlyGivenNames y; refine keeps_cut (F := F) (S := S) (y := y) ?_ ?_; dsimp -zeta only [y]; clear y; rotate_left; clear_value y; intro hy; rotate_right)
    | extract_lets +onlyGivenNames y | exact within_trans hF (by decide)
    | (intro p hp; cases p <;> with_unfolding_all first | exact foot_absurd hF hp (by decide) | exact rfl) | apply State.lastErrors_keeps
    | apply State.modCast_keeps | apply State.raise_keeps | fail_if_no_progress apply keeps_upd

theorem State.endUnbegun_keeps (s : State) (tok station : Nat) {F : Nat} {S : State} (hK : Keeps F S s)
    (hF : within 131072 F = true := by exact within_trans hF (by decide)) : Keeps F S (State.endUnbegun s tok station) := by
  unfold State.endUnbegun
  repeat' with_reducible first | assumption | extract_lets +onlyGivenNames y | apply State.keepWin_keeps | split

theorem State.endPlane_keeps (s : State) (tok station : Nat) {F : Nat} {S : State} (hK : Keeps F S s)
    (hF : within 35184372514816 F = true := by exact within_trans hF (by decide)) : Keeps F S (State.endPlane s tok station) := by
  unfold State.endPlane
  repeat' with_reducible first
    | assumption | exact within_trans hF (by decide)
    | (intro p hp; cases p <;> with_unfolding_all first | exact foot_absurd hF hp (by decide) | exact rfl) | apply State.ctxSeen_keeps
    | apply State.endUnbegun_keeps | apply State.keepWin_keeps | apply State.pump_keeps | split | fail_if_no_progress apply keeps_upd

theorem execChiselAssign_keeps (s : State) {F : Nat} {S : State} (hK : Keeps F S s)
    (hF : within 67309580 F = true := by exact within_trans hF (by decide)) : KeepsA F S (execChiselAssign s) := by
  unfold execChiselAssign
  repeat' with_reducible first
    | assumption | apply keepsA_next | exact within_trans hF (by decide)
    | (intro p hp; cases p <;> with_unfolding_all first | exact foot_absurd hF hp (by decide) | exact rfl) | apply State.modBand_keeps
    | apply State.modChs_keeps | apply State.seqTake_keeps | apply State.sweepRaw_keeps | split | fail_if_no_progress apply keeps_upd

theorem State.primed_keeps (s : State) (r : BandRef) {F : Nat} {S : State} (hK : Keeps F S s)
    (hF : within 4096 F = true := by exact within_trans hF (by decide)) : Keeps F S (State.primed s r) := by
  unfold State.primed
  repeat' with_reducible first | assumption | apply State.modBand_keeps | apply State.sweepRaw_keeps | split

theorem execChiselBandDone_keeps (n : Nat) (s : State) {F : Nat} {S : State} (hK : Keeps F S s)
    (hF : within 71520264 F = true := by exact within_trans hF (by decide)) : KeepsA F S (execChiselBandDone n s) := by
  unfold execChiselBandDone
  repeat' with_reducible first
    | assumption | extract_lets +onlyGivenNames y | apply keepsA_next | exact within_trans hF (by decide)
    | (intro p hp; cases p <;> with_unfolding_all first | exact foot_absurd hF hp (by decide) | exact rfl) | apply State.bump_keeps
    | apply State.hostDone_keeps | apply State.modBand_keeps | apply State.modChs_keeps | apply State.seqDone_keeps | apply State.setRes_keeps
    | apply State.sweepRaw_keeps | split | fail_if_no_progress apply keeps_upd

theorem execChiselResume_keeps (n : Nat) (s : State) {F : Nat} {S : State} (hK : Keeps F S s)
    (hF : within 65536 F = true := by exact within_trans hF (by decide)) : KeepsA F S (execChiselResume n s) := by
  unfold execChiselResume
  repeat' with_reducible first | assumption | apply keepsA_next | apply State.modChs_keeps | split

theorem execChiselContextSave_keeps (n : Nat) (s : State) {F : Nat} {S : State} (hK : Keeps F S s)
    (hF : within 196612 F = true := by exact within_trans hF (by decide)) : KeepsA F S (execChiselContextSave n s) := by
  unfold execChiselContextSave
  repeat' with_reducible first
    | assumption | extract_lets +onlyGivenNames y | apply keepsA_next | exact within_trans hF (by decide)
    | (intro p hp; cases p <;> with_unfolding_all first | exact foot_absurd hF hp (by decide) | exact rfl) | apply State.ctxSeen_keeps
    | apply State.modChs_keeps | apply State.tookFree_keeps | split | fail_if_no_progress apply keeps_upd

theorem execChiselOutOfService_keeps (n : Nat) (s : State) {F : Nat} {S : State} (hK : Keeps F S s)
    (hF : within 102958092 F = true := by exact within_trans hF (by decide)) : KeepsA F S (execChiselOutOfService n s) := by
  unfold execChiselOutOfService
  repeat' with_reducible first
    | assumption | apply keepsA_next | exact within_trans hF (by decide)
    | (intro p hp; cases p <;> with_unfolding_all first | exact foot_absurd hF hp (by decide) | exact rfl) | apply State.modChs_keeps
    | apply State.raise_keeps | apply State.seqDrop_keeps | apply State.unitMemBad_keeps | (apply keeps_foldl; intro y n hy) | split
    | fail_if_no_progress apply keeps_upd

theorem execContextRestore_keeps (ctx : Nat) (s : State) {F : Nat} {S : State} (hK : Keeps F S s)
    (hF : within 196608 F = true := by exact within_trans hF (by decide)) : KeepsA F S (execContextRestore ctx s) := by
  unfold execContextRestore
  repeat' with_reducible first
    | assumption | apply keepsA_next | exact within_trans hF (by decide)
    | (intro p hp; cases p <;> with_unfolding_all first | exact foot_absurd hF hp (by decide) | exact rfl) | apply State.modChs_keeps | split
    | fail_if_no_progress apply keeps_upd

/-! Scan -/

theorem State.chooseSet_keeps (s : State) (n : Nat) {F : Nat} {S : State} (hK : Keeps F S s)
    (hF : within 2360328 F = true := by exact within_trans hF (by decide)) : Keeps F S (State.chooseSet s n) := by
  unfold State.chooseSet
  repeat' with_reducible first | assumption | exact within_trans hF (by decide) | apply State.modStn_keeps | apply State.raiseIf_keeps | split

theorem State.stnBoundary_keeps (s : State) (n : Nat) {F : Nat} {S : State} (hK : Keeps F S s)
    (hF : within 8593867832 F = true := by exact within_trans hF (by decide)) : Keeps F S (State.stnBoundary s n) := by
  unfold State.stnBoundary
  repeat' with_reducible first
    | assumption | exact within_trans hF (by decide) | apply State.applyTab_keeps | apply State.chooseSet_keeps | apply State.modLad_keeps
    | apply State.modLink_keeps | apply State.modPix_keeps | apply State.modStn_keeps | apply State.release_keeps | (apply keeps_each; intro y n hy)
    | split

theorem State.reload_keeps (s : State) (n : Nat) (scale : Int) {F : Nat} {S : State} (hK : Keeps F S s)
    (hF : within 524288 F = true := by exact within_trans hF (by decide)) : Keeps F S (State.reload s n scale) := by
  unfold State.reload
  repeat' with_reducible first | assumption | apply State.modPix_keeps

theorem State.register_keeps (s : State) (n : Nat) (g : Imaging) (h : MaskSet) (j : Int) {F : Nat} {S : State} (hK : Keeps F S s)
    (hF : within 2368520 F = true := by exact within_trans hF (by decide)) : Keeps F S (State.register s n g h j) := by
  unfold State.register
  repeat' with_reducible first
    | assumption | exact within_trans hF (by decide) | apply State.bump_keeps | apply State.flagTok_keeps | apply State.modStn_keeps
    | apply State.raise_keeps | split

theorem State.judge_keeps (s : State) (n : Nat) (g : Imaging) (line : Nat) {F : Nat} {S : State} (hK : Keeps F S s)
    (hF : within 2368520 F = true := by exact within_trans hF (by decide)) : Keeps F S (State.judge s n g line) := by
  unfold State.judge
  repeat' with_reducible first
    | assumption | extract_lets +onlyGivenNames y | exact within_trans hF (by decide)
    | (intro p hp; cases p <;> with_unfolding_all first | exact foot_absurd hF hp (by decide) | exact rfl) | apply State.flagTok_keeps
    | apply State.modStn_keeps | apply State.modTok_keeps | split | fail_if_no_progress apply keeps_upd

theorem State.printBands_keeps (s : State) (n : Nat) (g : Imaging) {F : Nat} {S : State} (hK : Keeps F S s)
    (hF : within 4329472 F = true := by exact within_trans hF (by decide)) : Keeps F S (State.printBands s n g) := by
  unfold State.printBands
  repeat' with_reducible first | assumption | apply State.bandIsPrinted_keeps | (apply keeps_foldl; intro y n hy) | split

theorem State.freePassed_keeps (s : State) (n m p : Nat) (g : Imaging) (base : Int) {F : Nat} {S : State} (hK : Keeps F S s)
    (hF : within 35184413389832 F = true := by exact within_trans hF (by decide)) : Keeps F S (State.freePassed s n m p g base) := by
  unfold State.freePassed
  repeat' with_reducible first | assumption | exact within_trans hF (by decide) | apply State.modStn_keeps | split

theorem State.sendFrame_keeps (s : State) (n facet phase : Nat) (adj : Int) (e : SosEdge) (beams : List (Nat × List Nat)) {F : Nat} {S : State} (hK : Keeps F S s)
    (hF : within 35184373137416 F = true := by exact within_trans hF (by decide)) : Keeps F S (State.sendFrame s n facet phase adj e beams) := by
  unfold State.sendFrame
  repeat' with_reducible first
    | assumption | exact within_trans hF (by decide)
    | (intro p hp; cases p <;> with_unfolding_all first | exact foot_absurd hF hp (by decide) | exact rfl) | apply State.emit_keeps
    | apply State.modLink_keeps | apply State.setReg_keeps | split | fail_if_no_progress apply keeps_upd

theorem State.endImaging_keeps (s : State) (n : Nat) {F : Nat} {S : State} (hK : Keeps F S s)
    (hF : within 35184372523008 F = true := by exact within_trans hF (by decide)) : Keeps F S (State.endImaging s n) := by
  unfold State.endImaging
  repeat' with_reducible first
    | assumption | exact within_trans hF (by decide) | apply State.endPlane_keeps | apply State.modStn_keeps | apply State.moveTok_keeps | split

theorem State.cannotImage_keeps (s : State) (n tok : Nat) {F : Nat} {S : State} (hK : Keeps F S s)
    (hF : within 35184374621192 F = true := by exact within_trans hF (by decide)) : Keeps F S (State.cannotImage s n tok) := by
  unfold State.cannotImage
  repeat' with_reducible first
    | assumption | exact within_trans hF (by decide) | apply State.endPlane_keeps | apply State.moveTok_keeps | apply State.wasteTok_keeps

theorem State.startImaging_keeps (s : State) (n : Nat) {F : Nat} {S : State} (hK : Keeps F S s)
    (hF : within 35184375669768 F = true := by exact within_trans hF (by decide)) : Keeps F S (State.startImaging s n) := by
  unfold State.startImaging
  repeat' with_reducible first
    | assumption | extract_lets +onlyGivenNames y | exact within_trans hF (by decide)
    | (intro p hp; cases p <;> with_unfolding_all first | exact foot_absurd hF hp (by decide) | exact rfl) | apply State.cannotImage_keeps
    | apply State.modLink_keeps | apply State.modStn_keeps | apply State.modTok_keeps | apply State.wasteTok_keeps | split
    | fail_if_no_progress apply keeps_upd

theorem State.nextScan_keeps (s : State) (n : Nat) {F : Nat} {S : State} (hK : Keeps F S s)
    (hF : within 35184413422600 F = true := by exact within_trans hF (by decide)) : Keeps F S (State.nextScan s n) := by
  unfold State.nextScan
  repeat' with_reducible first
    | assumption | extract_lets +onlyGivenNames y | exact within_trans hF (by decide) | apply State.endImaging_keeps | apply State.modStn_keeps
    | split

theorem State.slotHits_keeps (s : State) (n tok : Nat) (hits : List MemHit) {F : Nat} {S : State} (hK : Keeps F S s)
    (hF : within 35660808 F = true := by exact within_trans hF (by decide)) : Keeps F S (State.slotHits s n tok hits) := by
  unfold State.slotHits
  repeat' with_reducible first
    | assumption | exact within_trans hF (by decide) | apply State.flagTok_keeps | apply State.memHits_keeps | apply State.modTok_keeps
    | (apply keeps_foldl; intro y n hy)

theorem State.scan_keeps (s : State) (n facet : Nat) (adj : Int) (e : SosEdge) (fresh : Bool) {F : Nat} {S : State} (hK : Keeps F S s)
    (hF : within 35184413389832 F = true := by exact within_trans hF (by decide)) : Keeps F S (State.scan s n facet adj e fresh) := by
  unfold State.scan
  repeat' with_reducible first
    | assumption | extract_lets +onlyGivenNames y | exact within_trans hF (by decide) | apply State.freePassed_keeps | apply State.judge_keeps
    | apply State.modStn_keeps | apply State.modTok_keeps | apply State.printBands_keeps | apply State.register_keeps | apply State.sendFrame_keeps
    | apply State.slotHits_keeps | (apply keeps_foldl; intro y n hy) | split | refine keeps_of_some (by assumption) ?_ | dsimp -zeta only
    | fail_if_no_progress apply keeps_upd

theorem State.phaseEdge_keeps (s : State) (n : Nat) {F : Nat} {S : State} (hK : Keeps F S s)
    (hF : within 1073741824 F = true := by exact within_trans hF (by decide)) : Keeps F S (State.phaseEdge s n) := by
  unfold State.phaseEdge
  repeat' with_reducible first
    | assumption | (intro p hp; cases p <;> with_unfolding_all first | exact foot_absurd hF hp (by decide) | exact rfl) | apply State.modMot_keeps
    | (apply keeps_each; intro y n hy) | split | fail_if_no_progress apply keeps_upd

theorem State.eosMissed_keeps (s : State) (n : Nat) {F : Nat} {S : State} (hK : Keeps F S s)
    (hF : within 8 F = true := by exact within_trans hF (by decide)) : Keeps F S (State.eosMissed s n) := by
  unfold State.eosMissed
  repeat' with_reducible first | assumption | apply State.bump_keeps | split

theorem State.acceptEdge_keeps (s : State) (n : Nat) (e : SosEdge) (first : Bool) {F : Nat} {S : State} (hK : Keeps F S s)
    (hF : within 35184372350984 F = true := by exact within_trans hF (by decide)) : Keeps F S (State.acceptEdge s n e first) := by
  unfold State.acceptEdge
  repeat' with_reducible first
    | assumption | exact within_trans hF (by decide) | apply State.bump_keeps | apply State.emit_keeps | apply State.eosMissed_keeps
    | apply State.modStn_keeps | split

theorem State.sosAccepted_keeps (s : State) (n : Nat) (e : SosEdge) (first : Bool) {F : Nat} {S : State} (hK : Keeps F S s)
    (hF : within 35194077623352 F = true := by exact within_trans hF (by decide)) : Keeps F S (State.sosAccepted s n e first) := by
  unfold State.sosAccepted
  repeat' with_reducible first
    | assumption
    | (extract_lets +onlyGivenNames y; refine keeps_cut (F := F) (S := S) (y := y) ?_ ?_; dsimp -zeta only [y]; clear y; rotate_left; clear_value y; intro hy; rotate_right)
    | extract_lets +onlyGivenNames y | exact within_trans hF (by decide) | apply State.acceptEdge_keeps | apply State.blankStation_keeps
    | apply State.modStn_keeps | apply State.nextScan_keeps | apply State.phaseEdge_keeps | apply State.rejoinLanes_keeps | apply State.reload_keeps
    | apply State.scan_keeps | apply State.startImaging_keeps | apply State.stnBoundary_keeps | split

theorem State.stopImaging_keeps (s : State) (n : Nat) {F : Nat} {S : State} (hK : Keeps F S s)
    (hF : within 35184374621192 F = true := by exact within_trans hF (by decide)) : Keeps F S (State.stopImaging s n) := by
  unfold State.stopImaging
  repeat' with_reducible first | assumption | exact within_trans hF (by decide) | apply State.blankStation_keeps | apply State.endImaging_keeps

theorem State.sosGone_keeps (s : State) (n : Nat) {F : Nat} {S : State} (hK : Keeps F S s)
    (hF : within 35184374621192 F = true := by exact within_trans hF (by decide)) : Keeps F S (State.sosGone s n) := by
  unfold State.sosGone
  repeat' with_reducible first
    | assumption | exact within_trans hF (by decide) | apply State.bump_keeps | apply State.eosMissed_keeps | apply State.modStn_keeps
    | apply State.raise_keeps | apply State.stopImaging_keeps

theorem State.sosEdge_keeps (s : State) (n : Nat) (e : SosEdge) {F : Nat} {S : State} (hK : Keeps F S s)
    (hF : within 35194077623352 F = true := by exact within_trans hF (by decide)) : Keeps F S (State.sosEdge s n e) := by
  unfold State.sosEdge
  repeat' with_reducible first
    | assumption
    | (extract_lets +onlyGivenNames y; refine keeps_cut (F := F) (S := S) (y := y) ?_ ?_; dsimp -zeta only [y]; clear y; rotate_left; clear_value y; intro hy; rotate_right)
    | exact within_trans hF (by decide) | apply State.bump_keeps | apply State.modStn_keeps | apply State.sosAccepted_keeps
    | apply State.sosGone_keeps | split

theorem execSosEarly_keeps (n : Nat) (s : State) {F : Nat} {S : State} (hK : Keeps F S s)
    (hF : within 8 F = true := by exact within_trans hF (by decide)) : KeepsA F S (execSosEarly n s) := by
  unfold execSosEarly
  repeat' with_reducible first | assumption | apply keepsA_next | apply State.bump_keeps | split

theorem execSosLost_keeps (n : Nat) (s : State) {F : Nat} {S : State} (hK : Keeps F S s)
    (hF : within 35184374621192 F = true := by exact within_trans hF (by decide)) : KeepsA F S (execSosLost n s) := by
  unfold execSosLost
  repeat' with_reducible first | assumption | apply keepsA_next | apply State.sosGone_keeps | split

theorem execSosAcquired_keeps (n : Nat) (s : State) {F : Nat} {S : State} (hK : Keeps F S s)
    (hF : within 262144 F = true := by exact within_trans hF (by decide)) : KeepsA F S (execSosAcquired n s) := by
  unfold execSosAcquired
  repeat' with_reducible first | assumption | apply keepsA_next | apply State.modStn_keeps | split

theorem execEosEdge_keeps (n span : Nat) (s : State) {F : Nat} {S : State} (hK : Keeps F S s)
    (hF : within 262152 F = true := by exact within_trans hF (by decide)) : KeepsA F S (execEosEdge n span s) := by
  unfold execEosEdge
  repeat' with_reducible first
    | assumption | apply keepsA_next | exact within_trans hF (by decide) | apply State.bump_keeps | apply State.modStn_keeps | split

theorem State.stnLocked_keeps (s : State) (n facet : Nat) {F : Nat} {S : State} (hK : Keeps F S s)
    (hF : within 2360328 F = true := by exact within_trans hF (by decide)) : Keeps F S (State.stnLocked s n facet) := by
  unfold State.stnLocked
  repeat' with_reducible first | assumption | exact within_trans hF (by decide) | apply State.modStn_keeps | apply State.raise_keeps

theorem execFacetLearn_keeps (n : Nat) (s : State) {F : Nat} {S : State} (hK : Keeps F S s)
    (hF : within 2360328 F = true := by exact within_trans hF (by decide)) : KeepsA F S (execFacetLearn n s) := by
  unfold execFacetLearn
  repeat' with_reducible first
    | assumption | extract_lets +onlyGivenNames y | apply keepsA_next | exact within_trans hF (by decide) | apply State.modStn_keeps
    | apply State.raise_keeps | apply State.stnLocked_keeps | split

theorem execAutoLearnPeriod_keeps (n : Nat) (s : State) {F : Nat} {S : State} (hK : Keeps F S s)
    (hF : within 262176 F = true := by exact within_trans hF (by decide)) : KeepsA F S (execAutoLearnPeriod n s) := by
  unfold execAutoLearnPeriod
  repeat' with_reducible first
    | assumption | extract_lets +onlyGivenNames y | apply keepsA_next | exact within_trans hF (by decide)
    | (intro p hp; cases p <;> with_unfolding_all first | exact foot_absurd hF hp (by decide) | exact rfl) | apply State.modStn_keeps
    | apply State.putTab_keeps | (apply keeps_each; intro y n hy) | split | fail_if_no_progress apply keeps_upd

theorem State.stnGap_keeps (s : State) (n : Nat) {F : Nat} {S : State} (hK : Keeps F S s)
    (hF : within 262144 F = true := by exact within_trans hF (by decide)) : Keeps F S (State.stnGap s n) := by
  unfold State.stnGap
  repeat' with_reducible first | assumption | apply State.modStn_keeps

end Sys2Proof.Machine
end

