-- ==== Sys2Proof/Laws/KeepsLinks.lean ====
section
/-! SUPPORT. What the operations of the plinth, claims, time and what the line and the host links carry keep (Plinth, Claims, Time, LineOut, HostOut, HostReq). -/
namespace Sys2Proof.Machine
set_option linter.all false
set_option Elab.async false
/-! Plinth -/

theorem State.setEstop_keeps (s : State) (off : Bool) {F : Nat} {S : State} (hK : Keeps F S s)
    (hF : within 2098696 F = true := by exact within_trans hF (by decide)) : Keeps F S (State.setEstop s off) := by
  unfold State.setEstop
  repeat' with_reducible first
    | exact hK | assumption
    | (extract_lets +onlyGivenNames y; refine keeps_cut (F := F) (S := S) (y := y) ?_ ?_; dsimp -zeta only [y]; clear y; rotate_left; clear_value y; intro hy; rotate_right)
    | (extract_lets +onlyGivenNames y; refine keeps_cut1 (F := F) (S := S) (y := y) ?_ ?_; dsimp -zeta only [y]; clear y; rotate_left; clear_value y; intro hy; rotate_right)
    | (extract_lets +onlyGivenNames y; refine keeps_cutR (F := F) (S := S) (y := y) ?_ ?_; dsimp -zeta only [y]; clear y; rotate_left; clear_value y; intro hy; rotate_right)
    | extract_lets +onlyGivenNames y | apply keepsA_next | apply keepsO_some | exact keepsO_none | exact within_trans hF (by decide)
    | (intro p hp; cases p <;> with_unfolding_all first | exact foot_absurd hF hp (by decide) | exact rfl) | apply State.raise_keeps | split
    | (apply keeps_of_pair; assumption) | (apply keeps_of_trip; assumption) | refine keeps_of_some (by assumption) ?_ | dsimp -zeta only
    | fail_if_no_progress apply keeps_upd

theorem State.sendFault_keeps (s : State) {F : Nat} {S : State} (hK : Keeps F S s)
    (hF : within 4194304 F = true := by exact within_trans hF (by decide)) : Keeps F S (State.sendFault s) := by
  unfold State.sendFault
  repeat' with_reducible first
    | exact hK | assumption
    | (extract_lets +onlyGivenNames y; refine keeps_cut (F := F) (S := S) (y := y) ?_ ?_; dsimp -zeta only [y]; clear y; rotate_left; clear_value y; intro hy; rotate_right)
    | (extract_lets +onlyGivenNames y; refine keeps_cut1 (F := F) (S := S) (y := y) ?_ ?_; dsimp -zeta only [y]; clear y; rotate_left; clear_value y; intro hy; rotate_right)
    | (extract_lets +onlyGivenNames y; refine keeps_cutR (F := F) (S := S) (y := y) ?_ ?_; dsimp -zeta only [y]; clear y; rotate_left; clear_value y; intro hy; rotate_right)
    | extract_lets +onlyGivenNames y | apply keepsA_next | apply keepsO_some | exact keepsO_none | exact within_trans hF (by decide)
    | (intro p hp; cases p <;> with_unfolding_all first | exact foot_absurd hF hp (by decide) | exact rfl) | apply State.toBridge_keeps | split
    | (apply keeps_of_pair; assumption) | (apply keeps_of_trip; assumption) | refine keeps_of_some (by assumption) ?_ | dsimp -zeta only

theorem State.plinthCheck_keeps (s : State) {F : Nat} {S : State} (hK : Keeps F S s)
    (hF : within 6293000 F = true := by exact within_trans hF (by decide)) : Keeps F S (State.plinthCheck s) := by
  unfold State.plinthCheck
  repeat' with_reducible first
    | exact hK | assumption
    | (extract_lets +onlyGivenNames y; refine keeps_cut (F := F) (S := S) (y := y) ?_ ?_; dsimp -zeta only [y]; clear y; rotate_left; clear_value y; intro hy; rotate_right)
    | (extract_lets +onlyGivenNames y; refine keeps_cut1 (F := F) (S := S) (y := y) ?_ ?_; dsimp -zeta only [y]; clear y; rotate_left; clear_value y; intro hy; rotate_right)
    | (extract_lets +onlyGivenNames y; refine keeps_cutR (F := F) (S := S) (y := y) ?_ ?_; dsimp -zeta only [y]; clear y; rotate_left; clear_value y; intro hy; rotate_right)
    | extract_lets +onlyGivenNames y | apply keepsA_next | apply keepsO_some | exact keepsO_none | exact within_trans hF (by decide)
    | (intro p hp; cases p <;> with_unfolding_all first | exact foot_absurd hF hp (by decide) | exact rfl) | apply State.raiseIf_keeps
    | apply State.sendFault_keeps | split | (apply keeps_of_pair; assumption) | (apply keeps_of_trip; assumption)
    | refine keeps_of_some (by assumption) ?_ | dsimp -zeta only | fail_if_no_progress apply keeps_upd

/-! Claims -/

theorem State.refuseClaim_keeps (s : State) (cls ix code : Nat) {F : Nat} {S : State} (hK : Keeps F S s)
    (hF : within 2098696 F = true := by exact within_trans hF (by decide)) : Keeps F S (State.refuseClaim s cls ix code) := by
  unfold State.refuseClaim
  repeat' with_reducible first
    | exact hK | assumption
    | (extract_lets +onlyGivenNames y; refine keeps_cut (F := F) (S := S) (y := y) ?_ ?_; dsimp -zeta only [y]; clear y; rotate_left; clear_value y; intro hy; rotate_right)
    | (extract_lets +onlyGivenNames y; refine keeps_cut1 (F := F) (S := S) (y := y) ?_ ?_; dsimp -zeta only [y]; clear y; rotate_left; clear_value y; intro hy; rotate_right)
    | (extract_lets +onlyGivenNames y; refine keeps_cutR (F := F) (S := S) (y := y) ?_ ?_; dsimp -zeta only [y]; clear y; rotate_left; clear_value y; intro hy; rotate_right)
    | extract_lets +onlyGivenNames y | apply keepsA_next | apply keepsO_some | exact keepsO_none | exact within_trans hF (by decide)
    | (intro p hp; cases p <;> with_unfolding_all first | exact foot_absurd hF hp (by decide) | exact rfl) | apply State.raise_keeps | split
    | (apply keeps_of_pair; assumption) | (apply keeps_of_trip; assumption) | refine keeps_of_some (by assumption) ?_ | dsimp -zeta only
    | fail_if_no_progress apply keeps_upd

theorem State.pinClaim_keeps (s : State) (n : Nat) (v : Word) {F : Nat} {S : State} (hK : Keeps F S s)
    (hF : within 2098952 F = true := by exact within_trans hF (by decide)) : Keeps F S (State.pinClaim s n v).1 := by
  unfold State.pinClaim
  repeat' with_reducible first
    | exact hK | assumption
    | (extract_lets +onlyGivenNames y; refine keeps_cut (F := F) (S := S) (y := y) ?_ ?_; dsimp -zeta only [y]; clear y; rotate_left; clear_value y; intro hy; rotate_right)
    | (extract_lets +onlyGivenNames y; refine keeps_cut1 (F := F) (S := S) (y := y) ?_ ?_; dsimp -zeta only [y]; clear y; rotate_left; clear_value y; intro hy; rotate_right)
    | (extract_lets +onlyGivenNames y; refine keeps_cutR (F := F) (S := S) (y := y) ?_ ?_; dsimp -zeta only [y]; clear y; rotate_left; clear_value y; intro hy; rotate_right)
    | extract_lets +onlyGivenNames y | apply keepsA_next | apply keepsO_some | exact keepsO_none | exact within_trans hF (by decide)
    | (intro p hp; cases p <;> with_unfolding_all first | exact foot_absurd hF hp (by decide) | exact rfl) | apply State.refuseClaim_keeps
    | apply State.setReg_keeps | split | (apply keeps_of_pair; assumption) | (apply keeps_of_trip; assumption)
    | refine keeps_of_some (by assumption) ?_ | dsimp -zeta only | fail_if_no_progress apply keeps_upd

theorem State.slotClaim_keeps (s : State) (n count : Nat) {F : Nat} {S : State} (hK : Keeps F S s)
    (hF : within 2360840 F = true := by exact within_trans hF (by decide)) : Keeps F S (State.slotClaim s n count).1 := by
  unfold State.slotClaim
  repeat' with_reducible first
    | exact hK | assumption
    | (extract_lets +onlyGivenNames y; refine keeps_cut (F := F) (S := S) (y := y) ?_ ?_; dsimp -zeta only [y]; clear y; rotate_left; clear_value y; intro hy; rotate_right)
    | (extract_lets +onlyGivenNames y; refine keeps_cut1 (F := F) (S := S) (y := y) ?_ ?_; dsimp -zeta only [y]; clear y; rotate_left; clear_value y; intro hy; rotate_right)
    | (extract_lets +onlyGivenNames y; refine keeps_cutR (F := F) (S := S) (y := y) ?_ ?_; dsimp -zeta only [y]; clear y; rotate_left; clear_value y; intro hy; rotate_right)
    | extract_lets +onlyGivenNames y | apply keepsA_next | apply keepsO_some | exact keepsO_none | exact within_trans hF (by decide)
    | (intro p hp; cases p <;> with_unfolding_all first | exact foot_absurd hF hp (by decide) | exact rfl) | apply State.modStn_keeps
    | apply State.refuseClaim_keeps | split | (apply keeps_of_pair; assumption) | (apply keeps_of_trip; assumption)
    | refine keeps_of_some (by assumption) ?_ | dsimp -zeta only | fail_if_no_progress apply keeps_upd

theorem State.claimEntry_keeps (s : State) (cls ix owner : Nat) {F : Nat} {S : State} (hK : Keeps F S s)
    (hF : within 2361096 F = true := by exact within_trans hF (by decide)) : Keeps F S (State.claimEntry s cls ix owner).1 := by
  unfold State.claimEntry
  repeat' with_reducible first
    | exact hK | assumption
    | (extract_lets +onlyGivenNames y; refine keeps_cut (F := F) (S := S) (y := y) ?_ ?_; dsimp -zeta only [y]; clear y; rotate_left; clear_value y; intro hy; rotate_right)
    | (extract_lets +onlyGivenNames y; refine keeps_cut1 (F := F) (S := S) (y := y) ?_ ?_; dsimp -zeta only [y]; clear y; rotate_left; clear_value y; intro hy; rotate_right)
    | (extract_lets +onlyGivenNames y; refine keeps_cutR (F := F) (S := S) (y := y) ?_ ?_; dsimp -zeta only [y]; clear y; rotate_left; clear_value y; intro hy; rotate_right)
    | extract_lets +onlyGivenNames y | apply keepsA_next | apply keepsO_some | exact keepsO_none | exact within_trans hF (by decide)
    | (intro p hp; cases p <;> with_unfolding_all first | exact foot_absurd hF hp (by decide) | exact rfl) | apply State.pinClaim_keeps
    | apply State.refuseClaim_keeps | apply State.slotClaim_keeps | split | (apply keeps_of_pair; assumption) | (apply keeps_of_trip; assumption)
    | refine keeps_of_some (by assumption) ?_ | dsimp -zeta only | fail_if_no_progress apply keeps_upd

/-! Time -/

theorem State.modWc_keeps (s : State) (w : Nat) (f : Cmp → Cmp) {F : Nat} {S : State} (hK : Keeps F S s)
    (hF : within 274877906944 F = true := by exact within_trans hF (by decide)) : Keeps F S (State.modWc s w f) := by
  unfold State.modWc
  repeat' with_reducible first
    | assumption | (intro p hp; cases p <;> with_unfolding_all first | exact foot_absurd hF hp (by decide) | exact rfl)
    | fail_if_no_progress apply keeps_upd

theorem State.modFc_keeps (s : State) (c : Nat) (f : Cmp → Cmp) {F : Nat} {S : State} (hK : Keeps F S s)
    (hF : within 549755813888 F = true := by exact within_trans hF (by decide)) : Keeps F S (State.modFc s c f) := by
  unfold State.modFc
  repeat' with_reducible first
    | assumption | (intro p hp; cases p <;> with_unfolding_all first | exact foot_absurd hF hp (by decide) | exact rfl)
    | fail_if_no_progress apply keeps_upd

theorem State.setFreq_keeps (s : State) (f : Int) {F : Nat} {S : State} (hK : Keeps F S s)
    (hF : within 137438953480 F = true := by exact within_trans hF (by decide)) : Keeps F S (State.setFreq s f) := by
  unfold State.setFreq
  repeat' with_reducible first
    | assumption | exact within_trans hF (by decide)
    | (intro p hp; cases p <;> with_unfolding_all first | exact foot_absurd hF hp (by decide) | exact rfl) | apply State.retrim_keeps
    | apply State.setReg_keeps | fail_if_no_progress apply keeps_upd

theorem State.setWcTarget_keeps (s : State) (w t : Nat) {F : Nat} {S : State} (hK : Keeps F S s)
    (hF : within 8 F = true := by exact within_trans hF (by decide)) : Keeps F S (State.setWcTarget s w t) := by
  unfold State.setWcTarget
  repeat' with_reducible first | assumption | apply State.setF_keeps | apply State.setReg_keeps

theorem State.wcArm_keeps (s : State) (w : Nat) {F : Nat} {S : State} (hK : Keeps F S s)
    (hF : within 274877906944 F = true := by exact within_trans hF (by decide)) : Keeps F S (State.wcArm s w) := by
  unfold State.wcArm
  repeat' with_reducible first | assumption | apply State.modWc_keeps

theorem State.fcArm_keeps (s : State) (c : Nat) {F : Nat} {S : State} (hK : Keeps F S s)
    (hF : within 549755813888 F = true := by exact within_trans hF (by decide)) : Keeps F S (State.fcArm s c) := by
  unfold State.fcArm
  repeat' with_reducible first | assumption | apply State.modFc_keeps

theorem State.fcScan_keeps (s : State) (c : Nat) {F : Nat} {S : State} (hK : Keeps F S s)
    (hF : within 549755813896 F = true := by exact within_trans hF (by decide)) : Keeps F S (State.fcScan s c) := by
  unfold State.fcScan
  repeat' with_reducible first
    | assumption | exact within_trans hF (by decide)
    | (intro p hp; cases p <;> with_unfolding_all first | exact foot_absurd hF hp (by decide) | exact rfl) | apply State.modFc_keeps
    | apply State.setReg_keeps | split | fail_if_no_progress apply keeps_upd

theorem State.setAnchor_keeps (s : State) (ns : Nat) {F : Nat} {S : State} (hK : Keeps F S s)
    (hF : within 687194767368 F = true := by exact within_trans hF (by decide)) : Keeps F S (State.setAnchor s ns) := by
  unfold State.setAnchor
  repeat' with_reducible first
    | assumption | exact within_trans hF (by decide)
    | (intro p hp; cases p <;> with_unfolding_all first | exact foot_absurd hF hp (by decide) | exact rfl) | apply State.each_keeps
    | apply State.fcScan_keeps | (apply keeps_each; intro y n hy) | fail_if_no_progress apply keeps_upd

theorem State.stepTo_keeps (s : State) (now : Nat) {F : Nat} {S : State} (hK : Keeps F S s)
    (hF : within 962074772488 F = true := by exact within_trans hF (by decide)) : Keeps F S (State.stepTo s now) := by
  unfold State.stepTo
  repeat' with_reducible first
    | assumption | extract_lets +onlyGivenNames y | exact within_trans hF (by decide)
    | (intro p hp; cases p <;> with_unfolding_all first | exact foot_absurd hF hp (by decide) | exact rfl) | apply State.modFc_keeps
    | apply State.modWc_keeps | apply State.raise_keeps | (apply keeps_each; intro y n hy) | split | fail_if_no_progress apply keeps_upd

theorem State.stepBy_keeps (s : State) (d : Int) {F : Nat} {S : State} (hK : Keeps F S s)
    (hF : within 962074772488 F = true := by exact within_trans hF (by decide)) : Keeps F S (State.stepBy s d) := by
  unfold State.stepBy
  repeat' with_reducible first | assumption | extract_lets +onlyGivenNames y | apply State.stepTo_keeps

theorem State.timStep_keeps (s : State) (d : Int) {F : Nat} {S : State} (hK : Keeps F S s)
    (hF : within 962074772488 F = true := by exact within_trans hF (by decide)) : Keeps F S (State.timStep s d).1 := by
  unfold State.timStep
  repeat' with_reducible first | assumption | apply State.stepBy_keeps | split

theorem State.timFreq_keeps (s : State) (v : Word) {F : Nat} {S : State} (hK : Keeps F S s)
    (hF : within 137441052168 F = true := by exact within_trans hF (by decide)) : Keeps F S (State.timFreq s v).1 := by
  unfold State.timFreq
  repeat' with_reducible first | assumption | exact within_trans hF (by decide) | apply State.refuseClaim_keeps | apply State.setFreq_keeps | split

theorem execTimStepWrite_keeps (v : Word) (s : State) {F : Nat} {S : State} (hK : Keeps F S s)
    (hF : within 36146446861320 F = true := by exact within_trans hF (by decide)) : KeepsA F S (execTimStepWrite v s) := by
  unfold execTimStepWrite
  repeat' with_reducible first
    | assumption | apply keepsA_next | exact within_trans hF (by decide) | apply State.answer_keeps | apply State.timStep_keeps | split

theorem execTimFreqWrite_keeps (v : Word) (s : State) {F : Nat} {S : State} (hK : Keeps F S s)
    (hF : within 35321813141000 F = true := by exact within_trans hF (by decide)) : KeepsA F S (execTimFreqWrite v s) := by
  unfold execTimFreqWrite
  repeat' with_reducible first
    | assumption | apply keepsA_next | exact within_trans hF (by decide) | apply State.answer_keeps | apply State.timFreq_keeps | split

theorem State.servo_keeps (s : State) (o : Int) {F : Nat} {S : State} (hK : Keeps F S s)
    (hF : within 962074772488 F = true := by exact within_trans hF (by decide)) : Keeps F S (State.servo s o) := by
  unfold State.servo
  repeat' with_reducible first
    | assumption | exact within_trans hF (by decide)
    | (intro p hp; cases p <;> with_unfolding_all first | exact foot_absurd hF hp (by decide) | exact rfl) | apply State.raiseIf_keeps
    | apply State.setFreq_keeps | apply State.stepBy_keeps | split | fail_if_no_progress apply keeps_upd

theorem execServoSample_keeps (o : Int) (s : State) {F : Nat} {S : State} (hK : Keeps F S s)
    (hF : within 962074772488 F = true := by exact within_trans hF (by decide)) : KeepsA F S (execServoSample o s) := by
  unfold execServoSample
  repeat' with_reducible first | assumption | apply keepsA_next | apply State.servo_keeps | split

theorem execServoLocked_keeps (s : State) {F : Nat} {S : State} (hK : Keeps F S s)
    (hF : within 137441051656 F = true := by exact within_trans hF (by decide)) : KeepsA F S (execServoLocked s) := by
  unfold execServoLocked
  repeat' with_reducible first
    | assumption | apply keepsA_next | exact within_trans hF (by decide)
    | (intro p hp; cases p <;> with_unfolding_all first | exact foot_absurd hF hp (by decide) | exact rfl) | apply State.raise_keeps | split
    | fail_if_no_progress apply keeps_upd

theorem State.holdover_keeps (s : State) {F : Nat} {S : State} (hK : Keeps F S s)
    (hF : within 137441051656 F = true := by exact within_trans hF (by decide)) : Keeps F S (State.holdover s) := by
  unfold State.holdover
  repeat' with_reducible first
    | assumption | exact within_trans hF (by decide)
    | (intro p hp; cases p <;> with_unfolding_all first | exact foot_absurd hF hp (by decide) | exact rfl) | apply State.raise_keeps | split
    | fail_if_no_progress apply keeps_upd

theorem execServoHoldover_keeps (s : State) {F : Nat} {S : State} (hK : Keeps F S s)
    (hF : within 137441051656 F = true := by exact within_trans hF (by decide)) : KeepsA F S (execServoHoldover s) := by
  unfold execServoHoldover
  repeat' with_reducible first | assumption | apply keepsA_next | apply State.holdover_keeps | split

theorem State.wcFire_keeps (s : State) (w : Nat) {F : Nat} {S : State} (hK : Keeps F S s)
    (hF : within 35459252093960 F = true := by exact within_trans hF (by decide)) : Keeps F S (State.wcFire s w) := by
  unfold State.wcFire
  repeat' with_reducible first
    | assumption | exact within_trans hF (by decide) | apply State.emit_keeps | apply State.modWc_keeps | apply State.raise_keeps
    | apply State.raiseIf_keeps | apply State.setF_keeps | apply State.setWcTarget_keeps | split

theorem execWideCompareFire_keeps (w : Nat) (s : State) {F : Nat} {S : State} (hK : Keeps F S s)
    (hF : within 35459252093960 F = true := by exact within_trans hF (by decide)) : KeepsA F S (execWideCompareFire w s) := by
  unfold execWideCompareFire
  repeat' with_reducible first | assumption | apply keepsA_next | apply State.wcFire_keeps | split

theorem State.wcEvent_keeps (s : State) (w t : Nat) {F : Nat} {S : State} (hK : Keeps F S s)
    (hF : within 274877906952 F = true := by exact within_trans hF (by decide)) : Keeps F S (State.wcEvent s w t) := by
  unfold State.wcEvent
  repeat' with_reducible first
    | assumption | exact within_trans hF (by decide) | apply State.setF_keeps | apply State.setWcTarget_keeps | apply State.wcArm_keeps

theorem State.fcFire_keeps (s : State) (c : Nat) {F : Nat} {S : State} (hK : Keeps F S s)
    (hF : within 35734130000904 F = true := by exact within_trans hF (by decide)) : Keeps F S (State.fcFire s c) := by
  unfold State.fcFire
  repeat' with_reducible first
    | assumption | exact within_trans hF (by decide)
    | (intro p hp; cases p <;> with_unfolding_all first | exact foot_absurd hF hp (by decide) | exact rfl) | apply State.emit_keeps
    | apply State.modFc_keeps | apply State.raiseIf_keeps | apply State.setF_keeps | apply State.setReg_keeps | split
    | fail_if_no_progress apply keeps_upd

theorem execFastCompareFire_keeps (c : Nat) (s : State) {F : Nat} {S : State} (hK : Keeps F S s)
    (hF : within 35734130000904 F = true := by exact within_trans hF (by decide)) : KeepsA F S (execFastCompareFire c s) := by
  unfold execFastCompareFire
  repeat' with_reducible first
    | assumption | apply keepsA_next | exact within_trans hF (by decide) | apply State.fcFire_keeps | apply State.fcScan_keeps | split

theorem State.fcEnable_keeps (s : State) (c : Nat) {F : Nat} {S : State} (hK : Keeps F S s)
    (hF : within 687194767368 F = true := by exact within_trans hF (by decide)) : Keeps F S (State.fcEnable s c) := by
  unfold State.fcEnable
  repeat' with_reducible first
    | assumption | extract_lets +onlyGivenNames y | exact within_trans hF (by decide) | apply State.fcArm_keeps | apply State.fcScan_keeps
    | apply State.setAnchor_keeps | split

theorem State.capture_keeps (s : State) (k : Nat) {F : Nat} {S : State} (hK : Keeps F S s)
    (hF : within 137441051656 F = true := by exact within_trans hF (by decide)) : Keeps F S (State.capture s k) := by
  unfold State.capture
  repeat' with_reducible first
    | assumption | exact within_trans hF (by decide)
    | (intro p hp; cases p <;> with_unfolding_all first | exact foot_absurd hF hp (by decide) | exact rfl) | apply State.bump_keeps
    | apply State.raise_keeps | apply State.setF_keeps | apply State.setReg_keeps | split | fail_if_no_progress apply keeps_upd

theorem execCapture_keeps (k : Nat) (s : State) {F : Nat} {S : State} (hK : Keeps F S s)
    (hF : within 137441051656 F = true := by exact within_trans hF (by decide)) : KeepsA F S (execCapture k s) := by
  unfold execCapture
  repeat' with_reducible first | assumption | apply keepsA_next | apply State.capture_keeps | split

theorem execIndexFacetId_keeps (n : Nat) (s : State) {F : Nat} {S : State} (hK : Keeps F S s)
    (hF : within 137441313800 F = true := by exact within_trans hF (by decide)) : KeepsA F S (execIndexFacetId n s) := by
  unfold execIndexFacetId
  repeat' with_reducible first
    | assumption | apply keepsA_next | exact within_trans hF (by decide) | apply State.capture_keeps | apply State.modStn_keeps
    | apply State.stnLocked_keeps | split

theorem State.fcRetarget_keeps (s : State) (c : Nat) {F : Nat} {S : State} (hK : Keeps F S s)
    (hF : within 35734130000904 F = true := by exact within_trans hF (by decide)) : Keeps F S (State.fcRetarget s c) := by
  unfold State.fcRetarget
  repeat' with_reducible first
    | assumption | extract_lets +onlyGivenNames y | exact within_trans hF (by decide) | apply State.fcFire_keeps | apply State.setF_keeps | split

/-! LineOut -/

theorem State.sawFrame_keeps (s : State) (src seq : Nat) {F : Nat} {S : State} (hK : Keeps F S s)
    (hF : within 2199023255552 F = true := by exact within_trans hF (by decide)) : Keeps F S (State.sawFrame s src seq) := by
  unfold State.sawFrame
  repeat' with_reducible first
    | exact hK | assumption
    | (extract_lets +onlyGivenNames y; refine keeps_cut (F := F) (S := S) (y := y) ?_ ?_; dsimp -zeta only [y]; clear y; rotate_left; clear_value y; intro hy; rotate_right)
    | (extract_lets +onlyGivenNames y; refine keeps_cut1 (F := F) (S := S) (y := y) ?_ ?_; dsimp -zeta only [y]; clear y; rotate_left; clear_value y; intro hy; rotate_right)
    | (extract_lets +onlyGivenNames y; refine keeps_cutR (F := F) (S := S) (y := y) ?_ ?_; dsimp -zeta only [y]; clear y; rotate_left; clear_value y; intro hy; rotate_right)
    | extract_lets +onlyGivenNames y | apply keepsA_next | apply keepsO_some | exact keepsO_none | exact within_trans hF (by decide)
    | (intro p hp; cases p <;> with_unfolding_all first | exact foot_absurd hF hp (by decide) | exact rfl) | split | (apply keeps_of_pair; assumption)
    | (apply keeps_of_trip; assumption) | refine keeps_of_some (by assumption) ?_ | dsimp -zeta only | fail_if_no_progress apply keeps_upd

theorem State.sendOuv_keeps (s : State) (dst : Nat) (body : OuvBody) {F : Nat} {S : State} (hK : Keeps F S s)
    (hF : within 37383395344384 F = true := by exact within_trans hF (by decide)) : Keeps F S (State.sendOuv s dst body) := by
  unfold State.sendOuv
  repeat' with_reducible first
    | exact hK | assumption
    | (extract_lets +onlyGivenNames y; refine keeps_cut (F := F) (S := S) (y := y) ?_ ?_; dsimp -zeta only [y]; clear y; rotate_left; clear_value y; intro hy; rotate_right)
    | (extract_lets +onlyGivenNames y; refine keeps_cut1 (F := F) (S := S) (y := y) ?_ ?_; dsimp -zeta only [y]; clear y; rotate_left; clear_value y; intro hy; rotate_right)
    | (extract_lets +onlyGivenNames y; refine keeps_cutR (F := F) (S := S) (y := y) ?_ ?_; dsimp -zeta only [y]; clear y; rotate_left; clear_value y; intro hy; rotate_right)
    | extract_lets +onlyGivenNames y | apply keepsA_next | apply keepsO_some | exact keepsO_none | exact within_trans hF (by decide)
    | (intro p hp; cases p <;> with_unfolding_all first | exact foot_absurd hF hp (by decide) | exact rfl) | apply State.each_keeps
    | apply State.emit_keeps | apply State.sawFrame_keeps | (apply keeps_each; intro y n hy) | split | (apply keeps_of_pair; assumption)
    | (apply keeps_of_trip; assumption) | refine keeps_of_some (by assumption) ?_ | dsimp -zeta only | fail_if_no_progress apply keeps_upd

theorem State.modHeld_keeps (s : State) (id : Nat) (f : HeldOrder → HeldOrder) {F : Nat} {S : State} (hK : Keeps F S s)
    (hF : within 2199023255552 F = true := by exact within_trans hF (by decide)) : Keeps F S (State.modHeld s id f) := by
  unfold State.modHeld
  repeat' with_reducible first
    | exact hK | assumption
    | (extract_lets +onlyGivenNames y; refine keeps_cut (F := F) (S := S) (y := y) ?_ ?_; dsimp -zeta only [y]; clear y; rotate_left; clear_value y; intro hy; rotate_right)
    | (extract_lets +onlyGivenNames y; refine keeps_cut1 (F := F) (S := S) (y := y) ?_ ?_; dsimp -zeta only [y]; clear y; rotate_left; clear_value y; intro hy; rotate_right)
    | (extract_lets +onlyGivenNames y; refine keeps_cutR (F := F) (S := S) (y := y) ?_ ?_; dsimp -zeta only [y]; clear y; rotate_left; clear_value y; intro hy; rotate_right)
    | extract_lets +onlyGivenNames y | apply keepsA_next | apply keepsO_some | exact keepsO_none | exact within_trans hF (by decide)
    | (intro p hp; cases p <;> with_unfolding_all first | exact foot_absurd hF hp (by decide) | exact rfl) | split | (apply keeps_of_pair; assumption)
    | (apply keeps_of_trip; assumption) | refine keeps_of_some (by assumption) ?_ | dsimp -zeta only | fail_if_no_progress apply keeps_upd

theorem State.modIssued_keeps (s : State) (id : Nat) (f : IssuedOrder → IssuedOrder) {F : Nat} {S : State} (hK : Keeps F S s)
    (hF : within 2199023255552 F = true := by exact within_trans hF (by decide)) : Keeps F S (State.modIssued s id f) := by
  unfold State.modIssued
  repeat' with_reducible first
    | exact hK | assumption
    | (extract_lets +onlyGivenNames y; refine keeps_cut (F := F) (S := S) (y := y) ?_ ?_; dsimp -zeta only [y]; clear y; rotate_left; clear_value y; intro hy; rotate_right)
    | (extract_lets +onlyGivenNames y; refine keeps_cut1 (F := F) (S := S) (y := y) ?_ ?_; dsimp -zeta only [y]; clear y; rotate_left; clear_value y; intro hy; rotate_right)
    | (extract_lets +onlyGivenNames y; refine keeps_cutR (F := F) (S := S) (y := y) ?_ ?_; dsimp -zeta only [y]; clear y; rotate_left; clear_value y; intro hy; rotate_right)
    | extract_lets +onlyGivenNames y | apply keepsA_next | apply keepsO_some | exact keepsO_none | exact within_trans hF (by decide)
    | (intro p hp; cases p <;> with_unfolding_all first | exact foot_absurd hF hp (by decide) | exact rfl) | split | (apply keeps_of_pair; assumption)
    | (apply keeps_of_trip; assumption) | refine keeps_of_some (by assumption) ?_ | dsimp -zeta only | fail_if_no_progress apply keeps_upd

/-! HostOut -/

theorem State.ringWrite_keeps (s : State) (vec : Nat) (bytes : List Byte) {F : Nat} {S : State} (hK : Keeps F S s)
    (hF : within 35184372088840 F = true := by exact within_trans hF (by decide)) : Keeps F S (State.ringWrite s vec bytes) := by
  unfold State.ringWrite
  repeat' with_reducible first
    | exact hK | assumption
    | (extract_lets +onlyGivenNames y; refine keeps_cut (F := F) (S := S) (y := y) ?_ ?_; dsimp -zeta only [y]; clear y; rotate_left; clear_value y; intro hy; rotate_right)
    | (extract_lets +onlyGivenNames y; refine keeps_cut1 (F := F) (S := S) (y := y) ?_ ?_; dsimp -zeta only [y]; clear y; rotate_left; clear_value y; intro hy; rotate_right)
    | (extract_lets +onlyGivenNames y; refine keeps_cutR (F := F) (S := S) (y := y) ?_ ?_; dsimp -zeta only [y]; clear y; rotate_left; clear_value y; intro hy; rotate_right)
    | extract_lets +onlyGivenNames y | apply keepsA_next | apply keepsO_some | exact keepsO_none | exact within_trans hF (by decide)
    | (intro p hp; cases p <;> with_unfolding_all first | exact foot_absurd hF hp (by decide) | exact rfl) | apply State.emit_keeps
    | apply State.setReg_keeps | split | (apply keeps_of_pair; assumption) | (apply keeps_of_trip; assumption)
    | refine keeps_of_some (by assumption) ?_ | dsimp -zeta only

theorem State.toHost_keeps (s : State) (d : Dest) (type status seq die vec : Nat) (body : List Byte) {F : Nat} {S : State} (hK : Keeps F S s)
    (hF : within 35184372088840 F = true := by exact within_trans hF (by decide)) : KeepsO F S (State.toHost s d type status seq die vec body) := by
  unfold State.toHost
  repeat' with_reducible first
    | exact hK | assumption
    | (extract_lets +onlyGivenNames y; refine keeps_cut (F := F) (S := S) (y := y) ?_ ?_; dsimp -zeta only [y]; clear y; rotate_left; clear_value y; intro hy; rotate_right)
    | (extract_lets +onlyGivenNames y; refine keeps_cut1 (F := F) (S := S) (y := y) ?_ ?_; dsimp -zeta only [y]; clear y; rotate_left; clear_value y; intro hy; rotate_right)
    | (extract_lets +onlyGivenNames y; refine keeps_cutR (F := F) (S := S) (y := y) ?_ ?_; dsimp -zeta only [y]; clear y; rotate_left; clear_value y; intro hy; rotate_right)
    | extract_lets +onlyGivenNames y | apply keepsA_next | apply keepsO_some | exact keepsO_none | exact within_trans hF (by decide)
    | (intro p hp; cases p <;> with_unfolding_all first | exact foot_absurd hF hp (by decide) | exact rfl) | apply State.emit_keeps
    | apply State.ringWrite_keeps | apply status_keeps | split | (apply keeps_of_pair; assumption) | (apply keeps_of_trip; assumption)
    | refine keeps_of_some (by assumption) ?_ | dsimp -zeta only

theorem State.unasked_keeps (s : State) (type vec : Nat) (body : List Byte) {F : Nat} {S : State} (hK : Keeps F S s)
    (hF : within 35184376283144 F = true := by exact within_trans hF (by decide)) : KeepsO F S (State.unasked s type vec body) := by
  unfold State.unasked
  repeat' with_reducible first
    | exact hK | assumption
    | (extract_lets +onlyGivenNames y; refine keeps_cut (F := F) (S := S) (y := y) ?_ ?_; dsimp -zeta only [y]; clear y; rotate_left; clear_value y; intro hy; rotate_right)
    | (extract_lets +onlyGivenNames y; refine keeps_cut1 (F := F) (S := S) (y := y) ?_ ?_; dsimp -zeta only [y]; clear y; rotate_left; clear_value y; intro hy; rotate_right)
    | (extract_lets +onlyGivenNames y; refine keeps_cutR (F := F) (S := S) (y := y) ?_ ?_; dsimp -zeta only [y]; clear y; rotate_left; clear_value y; intro hy; rotate_right)
    | extract_lets +onlyGivenNames y | apply keepsA_next | apply keepsO_some | exact keepsO_none | exact within_trans hF (by decide)
    | (intro p hp; cases p <;> with_unfolding_all first | exact foot_absurd hF hp (by decide) | exact rfl) | apply State.setReg_keeps
    | apply State.toBridge_keeps | apply State.toHost_keeps | split | (apply keeps_of_pair; assumption) | (apply keeps_of_trip; assumption)
    | refine keeps_of_some (by assumption) ?_ | dsimp -zeta only

/-! HostReq -/

theorem ack_keeps (s : State) (body : List Byte) {F : Nat} {S : State} (hK : Keeps F S s)
    (hF : within 0 F = true := by exact within_trans hF (by decide)) : Keeps F S (ack s body).st := by
  unfold ack
  repeat' with_reducible first
    | exact hK | assumption
    | (extract_lets +onlyGivenNames y; refine keeps_cut (F := F) (S := S) (y := y) ?_ ?_; dsimp -zeta only [y]; clear y; rotate_left; clear_value y; intro hy; rotate_right)
    | (extract_lets +onlyGivenNames y; refine keeps_cut1 (F := F) (S := S) (y := y) ?_ ?_; dsimp -zeta only [y]; clear y; rotate_left; clear_value y; intro hy; rotate_right)
    | (extract_lets +onlyGivenNames y; refine keeps_cutR (F := F) (S := S) (y := y) ?_ ?_; dsimp -zeta only [y]; clear y; rotate_left; clear_value y; intro hy; rotate_right)
    | extract_lets +onlyGivenNames y | apply keepsA_next | apply keepsO_some | exact keepsO_none | exact within_trans hF (by decide)
    | (intro p hp; cases p <;> with_unfolding_all first | exact foot_absurd hF hp (by decide) | exact rfl) | split | (apply keeps_of_pair; assumption)
    | (apply keeps_of_trip; assumption) | refine keeps_of_some (by assumption) ?_ | dsimp -zeta only

theorem nak_keeps (s : State) (code : Nat) {F : Nat} {S : State} (hK : Keeps F S s)
    (hF : within 0 F = true := by exact within_trans hF (by decide)) : Keeps F S (nak s code).st := by
  unfold nak
  repeat' with_reducible first
    | exact hK | assumption
    | (extract_lets +onlyGivenNames y; refine keeps_cut (F := F) (S := S) (y := y) ?_ ?_; dsimp -zeta only [y]; clear y; rotate_left; clear_value y; intro hy; rotate_right)
    | (extract_lets +onlyGivenNames y; refine keeps_cut1 (F := F) (S := S) (y := y) ?_ ?_; dsimp -zeta only [y]; clear y; rotate_left; clear_value y; intro hy; rotate_right)
    | (extract_lets +onlyGivenNames y; refine keeps_cutR (F := F) (S := S) (y := y) ?_ ?_; dsimp -zeta only [y]; clear y; rotate_left; clear_value y; intro hy; rotate_right)
    | extract_lets +onlyGivenNames y | apply keepsA_next | apply keepsO_some | exact keepsO_none | exact within_trans hF (by decide)
    | (intro p hp; cases p <;> with_unfolding_all first | exact foot_absurd hF hp (by decide) | exact rfl) | split | (apply keeps_of_pair; assumption)
    | (apply keeps_of_trip; assumption) | refine keeps_of_some (by assumption) ?_ | dsimp -zeta only

theorem nakAt_keeps (s : State) (code ix addr : Nat) {F : Nat} {S : State} (hK : Keeps F S s)
    (hF : within 0 F = true := by exact within_trans hF (by decide)) : Keeps F S (nakAt s code ix addr).st := by
  unfold nakAt
  repeat' with_reducible first
    | exact hK | assumption
    | (extract_lets +onlyGivenNames y; refine keeps_cut (F := F) (S := S) (y := y) ?_ ?_; dsimp -zeta only [y]; clear y; rotate_left; clear_value y; intro hy; rotate_right)
    | (extract_lets +onlyGivenNames y; refine keeps_cut1 (F := F) (S := S) (y := y) ?_ ?_; dsimp -zeta only [y]; clear y; rotate_left; clear_value y; intro hy; rotate_right)
    | (extract_lets +onlyGivenNames y; refine keeps_cutR (F := F) (S := S) (y := y) ?_ ?_; dsimp -zeta only [y]; clear y; rotate_left; clear_value y; intro hy; rotate_right)
    | extract_lets +onlyGivenNames y | apply keepsA_next | apply keepsO_some | exact keepsO_none | exact within_trans hF (by decide)
    | (intro p hp; cases p <;> with_unfolding_all first | exact foot_absurd hF hp (by decide) | exact rfl) | split | (apply keeps_of_pair; assumption)
    | (apply keeps_of_trip; assumption) | refine keeps_of_some (by assumption) ?_ | dsimp -zeta only

theorem status_keeps (s : State) (body : List Byte) {F : Nat} {S : State} (hK : Keeps F S s)
    (hF : within 0 F = true := by exact within_trans hF (by decide)) : Keeps F S (status s body).st := by
  unfold status
  repeat' with_reducible first
    | exact hK | assumption
    | (extract_lets +onlyGivenNames y; refine keeps_cut (F := F) (S := S) (y := y) ?_ ?_; dsimp -zeta only [y]; clear y; rotate_left; clear_value y; intro hy; rotate_right)
    | (extract_lets +onlyGivenNames y; refine keeps_cut1 (F := F) (S := S) (y := y) ?_ ?_; dsimp -zeta only [y]; clear y; rotate_left; clear_value y; intro hy; rotate_right)
    | (extract_lets +onlyGivenNames y; refine keeps_cutR (F := F) (S := S) (y := y) ?_ ?_; dsimp -zeta only [y]; clear y; rotate_left; clear_value y; intro hy; rotate_right)
    | extract_lets +onlyGivenNames y | apply keepsA_next | apply keepsO_some | exact keepsO_none | exact within_trans hF (by decide)
    | (intro p hp; cases p <;> with_unfolding_all first | exact foot_absurd hF hp (by decide) | exact rfl) | split | (apply keeps_of_pair; assumption)
    | (apply keeps_of_trip; assumption) | refine keeps_of_some (by assumption) ?_ | dsimp -zeta only

theorem State.sendReply_keeps (s : State) (link : Link) (src port seq die : Nat) (msgs : List (Nat × Nat × List Byte)) {F : Nat} {S : State} (hK : Keeps F S s)
    (hF : within 35184376283144 F = true := by exact within_trans hF (by decide)) : Keeps F S (State.sendReply s link src port seq die msgs) := by
  unfold State.sendReply
  repeat' with_reducible first
    | exact hK | assumption
    | (extract_lets +onlyGivenNames y; refine keeps_cut (F := F) (S := S) (y := y) ?_ ?_; dsimp -zeta only [y]; clear y; rotate_left; clear_value y; intro hy; rotate_right)
    | (extract_lets +onlyGivenNames y; refine keeps_cut1 (F := F) (S := S) (y := y) ?_ ?_; dsimp -zeta only [y]; clear y; rotate_left; clear_value y; intro hy; rotate_right)
    | (extract_lets +onlyGivenNames y; refine keeps_cutR (F := F) (S := S) (y := y) ?_ ?_; dsimp -zeta only [y]; clear y; rotate_left; clear_value y; intro hy; rotate_right)
    | extract_lets +onlyGivenNames y | apply keepsA_next | apply keepsO_some | exact keepsO_none | exact within_trans hF (by decide)
    | (intro p hp; cases p <;> with_unfolding_all first | exact foot_absurd hF hp (by decide) | exact rfl) | apply State.toBridge_keeps
    | apply State.toHost_keeps | (apply keeps_foldl; intro y n hy) | (apply keeps_foldl1; intro y n hy) | apply keeps_getDo | split
    | (apply keeps_of_pair; assumption) | (apply keeps_of_trip; assumption) | refine keeps_of_some (by assumption) ?_ | dsimp -zeta only

theorem State.keepSend_keeps (s : State) (h : ReqHdr) (type : Nat) (msgs : List (Nat × Nat × List Byte)) {F : Nat} {S : State} (hK : Keeps F S s)
    (hF : within 35184376285192 F = true := by exact within_trans hF (by decide)) : Keeps F S (State.keepSend s h type msgs) := by
  unfold State.keepSend
  repeat' with_reducible first
    | exact hK | assumption
    | (extract_lets +onlyGivenNames y; refine keeps_cut (F := F) (S := S) (y := y) ?_ ?_; dsimp -zeta only [y]; clear y; rotate_left; clear_value y; intro hy; rotate_right)
    | (extract_lets +onlyGivenNames y; refine keeps_cut1 (F := F) (S := S) (y := y) ?_ ?_; dsimp -zeta only [y]; clear y; rotate_left; clear_value y; intro hy; rotate_right)
    | (extract_lets +onlyGivenNames y; refine keeps_cutR (F := F) (S := S) (y := y) ?_ ?_; dsimp -zeta only [y]; clear y; rotate_left; clear_value y; intro hy; rotate_right)
    | extract_lets +onlyGivenNames y | apply keepsA_next | apply keepsO_some | exact keepsO_none | exact within_trans hF (by decide)
    | (intro p hp; cases p <;> with_unfolding_all first | exact foot_absurd hF hp (by decide) | exact rfl) | apply State.sendReply_keeps | split
    | (apply keeps_of_pair; assumption) | (apply keeps_of_trip; assumption) | refine keeps_of_some (by assumption) ?_ | dsimp -zeta only
    | fail_if_no_progress apply keeps_upd

theorem State.finish_keeps (h : ReqHdr) (type : Nat) (r : Rsp) {F : Nat} {S : State} (hK : Keeps F S r.st)
    (hF : within 35184378383368 F = true := by exact within_trans hF (by decide)) : Keeps F S (State.finish h type r) := by
  unfold State.finish
  split
  · exact hK
  · exact State.raiseIf_keeps _ _ _ _ (State.keepSend_keeps _ _ _ _ hK)

theorem State.countMsg_keeps (s : State) (l : Link) {F : Nat} {S : State} (hK : Keeps F S s)
    (hF : within 8 F = true := by exact within_trans hF (by decide)) : Keeps F S (State.countMsg s l) := by
  unfold State.countMsg
  repeat' with_reducible first
    | exact hK | assumption
    | (extract_lets +onlyGivenNames y; refine keeps_cut (F := F) (S := S) (y := y) ?_ ?_; dsimp -zeta only [y]; clear y; rotate_left; clear_value y; intro hy; rotate_right)
    | (extract_lets +onlyGivenNames y; refine keeps_cut1 (F := F) (S := S) (y := y) ?_ ?_; dsimp -zeta only [y]; clear y; rotate_left; clear_value y; intro hy; rotate_right)
    | (extract_lets +onlyGivenNames y; refine keeps_cutR (F := F) (S := S) (y := y) ?_ ?_; dsimp -zeta only [y]; clear y; rotate_left; clear_value y; intro hy; rotate_right)
    | extract_lets +onlyGivenNames y | apply keepsA_next | apply keepsO_some | exact keepsO_none | exact within_trans hF (by decide)
    | (intro p hp; cases p <;> with_unfolding_all first | exact foot_absurd hF hp (by decide) | exact rfl) | apply State.bump_keeps | split
    | (apply keeps_of_pair; assumption) | (apply keeps_of_trip; assumption) | refine keeps_of_some (by assumption) ?_ | dsimp -zeta only

theorem State.ringHolds_keeps (s : State) (h : ReqHdr) (type : Nat) (body : List Byte) {F : Nat} {S : State} (hK : Keeps F S s)
    (hF : within 2056 F = true := by exact within_trans hF (by decide)) : Keeps F S (State.ringHolds s h type body) := by
  unfold State.ringHolds
  repeat' with_reducible first
    | exact hK | assumption
    | (extract_lets +onlyGivenNames y; refine keeps_cut (F := F) (S := S) (y := y) ?_ ?_; dsimp -zeta only [y]; clear y; rotate_left; clear_value y; intro hy; rotate_right)
    | (extract_lets +onlyGivenNames y; refine keeps_cut1 (F := F) (S := S) (y := y) ?_ ?_; dsimp -zeta only [y]; clear y; rotate_left; clear_value y; intro hy; rotate_right)
    | (extract_lets +onlyGivenNames y; refine keeps_cutR (F := F) (S := S) (y := y) ?_ ?_; dsimp -zeta only [y]; clear y; rotate_left; clear_value y; intro hy; rotate_right)
    | extract_lets +onlyGivenNames y | apply keepsA_next | apply keepsO_some | exact keepsO_none | exact within_trans hF (by decide)
    | (intro p hp; cases p <;> with_unfolding_all first | exact foot_absurd hF hp (by decide) | exact rfl) | apply State.setReg_keeps | split
    | (apply keeps_of_pair; assumption) | (apply keeps_of_trip; assumption) | refine keeps_of_some (by assumption) ?_ | dsimp -zeta only
    | fail_if_no_progress apply keeps_upd

theorem State.requestX_keeps (s : State) (here : Bool) (h : ReqHdr) (type : Nat) (body : List Byte) (run : State → Rsp) {F : Nat} {S : State}
    (hr : ∀ x, Keeps F S x → Keeps F S (run x).st) (hK : Keeps F S s)
    (hF : within 35184378383368 F = true := by exact within_trans hF (by decide)) : Keeps F S (s.requestX here h type body run) := by
  unfold State.requestX
  split
  · exact State.ringHolds_keeps _ _ _ _ hK
  · extract_lets s0
    have h0 : Keeps F S s0 := State.countMsg_keeps _ _ hK
    repeat' with_reducible first
      | exact h0 | exact hr _ h0 | apply State.sendReply_keeps | apply State.finish_keeps | apply nak_keeps | apply State.toBridge_keeps | split
      | exact within_trans hF (by decide) | (intro p hp; cases p <;> with_unfolding_all first | exact foot_absurd hF hp (by decide) | exact rfl)
      | fail_if_no_progress apply keeps_upd

theorem State.request_keeps (s : State) (h : ReqHdr) (type : Nat) (body : List Byte) (run : State → Rsp) {F : Nat} {S : State}
    (hr : ∀ x, Keeps F S x → Keeps F S (run x).st) (hK : Keeps F S s)
    (hF : within 35184378383368 F = true := by exact within_trans hF (by decide)) : Keeps F S (s.request h type body run) := State.requestX_keeps _ _ _ _ _ _ hr hK

theorem State.relayBack_keeps (s : State) (type status seq : Nat) (body : List Byte) {F : Nat} {S : State} (hK : Keeps F S s)
    (hF : within 35184376285192 F = true := by exact within_trans hF (by decide)) : KeepsO F S (State.relayBack s type status seq body) := by
  unfold State.relayBack
  repeat' with_reducible first
    | exact hK | assumption
    | (extract_lets +onlyGivenNames y; refine keeps_cut (F := F) (S := S) (y := y) ?_ ?_; dsimp -zeta only [y]; clear y; rotate_left; clear_value y; intro hy; rotate_right)
    | (extract_lets +onlyGivenNames y; refine keeps_cut1 (F := F) (S := S) (y := y) ?_ ?_; dsimp -zeta only [y]; clear y; rotate_left; clear_value y; intro hy; rotate_right)
    | (extract_lets +onlyGivenNames y; refine keeps_cutR (F := F) (S := S) (y := y) ?_ ?_; dsimp -zeta only [y]; clear y; rotate_left; clear_value y; intro hy; rotate_right)
    | extract_lets +onlyGivenNames y | apply keepsA_next | apply keepsO_some | exact keepsO_none | exact within_trans hF (by decide)
    | (intro p hp; cases p <;> with_unfolding_all first | exact foot_absurd hF hp (by decide) | exact rfl) | apply State.keepSend_keeps
    | apply State.sendReply_keeps | apply status_keeps | split | (apply keeps_of_pair; assumption) | (apply keeps_of_trip; assumption)
    | refine keeps_of_some (by assumption) ?_ | dsimp -zeta only | fail_if_no_progress apply keeps_upd

end Sys2Proof.Machine
end

