-- ==== Sys2Proof/Laws/KeepsMemory.lean ====
section
/-! SUPPORT. What the operations of the memories, DMA, the bridge and PTP keep (Memory, Dma, Bridge, Ptp). -/
namespace Sys2Proof.Machine
set_option linter.all false
set_option Elab.async false
/-! Memory -/

theorem State.setUpset_keeps (s : State) (unit ix v : Nat) {F : Nat} {S : State} (hK : Keeps F S s)
    (hF : within 33554432 F = true := by exact within_trans hF (by decide)) : Keeps F S (State.setUpset s unit ix v) := by
  unfold State.setUpset
  repeat' with_reducible first
    | assumption | (intro p hp; cases p <;> with_unfolding_all first | exact foot_absurd hF hp (by decide) | exact rfl)
    | fail_if_no_progress apply keeps_mem

theorem State.applyUps_keeps (s : State) (l : List Upset) {F : Nat} {S : State} (hK : Keeps F S s)
    (hF : within 33554432 F = true := by exact within_trans hF (by decide)) : Keeps F S (State.applyUps s l) := by
  unfold State.applyUps
  repeat' with_reducible first | assumption | apply State.setUpset_keeps | (apply keeps_foldl; intro y n hy)

theorem State.setDram_keeps (s : State) (a : Nat) (l : List Byte) {F : Nat} {S : State} (h : Keeps F S s)
    (hF : within 8388608 F = true := by exact within_trans hF (by decide)) : Keeps F S (s.setDram a l) :=
  ⟨h.id, h.otp, h.pend, h.regs, fun q => ⟨Mem.setBytes_wf (h.mem q).1, (h.mem q).2⟩, h.toks,
    fun p hp => Part.same.trans' (by cases p <;> first | exact foot_absurd hF hp (by decide) | exact rfl) (h.part p hp)⟩

theorem State.setSram_keeps (s : State) (a : Nat) (l : List Byte) {F : Nat} {S : State} (h : Keeps F S s)
    (hF : within 16777216 F = true := by exact within_trans hF (by decide)) : Keeps F S (s.setSram a l) :=
  ⟨h.id, h.otp, h.pend, h.regs, fun q => ⟨(h.mem q).1, Mem.setBytes_wf (h.mem q).2.1, (h.mem q).2.2⟩, h.toks,
    fun p hp => Part.same.trans' (by cases p <;> first | exact foot_absurd hF hp (by decide) | exact rfl) (h.part p hp)⟩

theorem State.readBeat_keeps (s : State) (a src : Nat) {F : Nat} {S : State} (hK : Keeps F S s)
    (hF : within 44041224 F = true := by exact within_trans hF (by decide)) : Keeps F S (State.readBeat s a src).1 := by
  unfold State.readBeat
  repeat' with_reducible first
    | assumption | extract_lets +onlyGivenNames y | exact within_trans hF (by decide) | apply State.memErr_keeps | apply State.setDram_keeps
    | apply State.setUpset_keeps | split

theorem State.readSword_keeps (s : State) (a src : Nat) {F : Nat} {S : State} (hK : Keeps F S s)
    (hF : within 52429832 F = true := by exact within_trans hF (by decide)) : Keeps F S (State.readSword s a src).1 := by
  unfold State.readSword
  repeat' with_reducible first
    | assumption | extract_lets +onlyGivenNames y | exact within_trans hF (by decide) | apply State.memErr_keeps | apply State.setSram_keeps
    | apply State.setUpset_keeps | split

theorem State.readUnits_keeps (s : State) (sram : Bool) (src n a : Nat) {F : Nat} {S : State} (hK : Keeps F S s)
    (hF : within 60818440 F = true := by exact within_trans hF (by decide)) : Keeps F S (s.readUnits sram src n a).1 := by
  induction n generalizing s a with
  | zero => exact hK
  | succ n ih =>
    unfold State.readUnits
    refine ih _ _ ?_
    split
    · exact State.readSword_keeps _ _ _ hK
    · exact State.readBeat_keeps _ _ _ hK

theorem State.memRead_keeps (s : State) (sram : Bool) (a n : Nat) {F : Nat} {S : State} (hK : Keeps F S s)
    (hF : within 60818440 F = true := by exact within_trans hF (by decide)) : Keeps F S (State.memRead s sram a n).1 := by
  unfold State.memRead
  repeat' with_reducible first | assumption | apply State.readUnits_keeps

theorem State.flushUnits_keeps (s : State) (e : MergeEnt) (sram : Bool) (n o : Nat) {F : Nat} {S : State} (hK : Keeps F S s)
    (hF : within 60818440 F = true := by exact within_trans hF (by decide)) : Keeps F S (s.flushUnits e sram n o) := by
  induction n generalizing s o with
  | zero => exact hK
  | succ n ih =>
    unfold State.flushUnits
    refine ih _ _ ?_
    repeat' with_reducible first
      | assumption
      | (extract_lets +onlyGivenNames y; refine keeps_cut1 (F := F) (S := S) (y := y) ?_ ?_; dsimp -zeta only [y]; clear y; rotate_left; clear_value y; intro hy; rotate_right)
      | exact within_trans hF (by decide) | apply State.readBeat_keeps | apply State.readSword_keeps | apply State.setDram_keeps
      | apply State.setSram_keeps | apply State.setUpset_keeps | split

theorem State.flushEnt_keeps (s : State) (e : MergeEnt) {F : Nat} {S : State} (hK : Keeps F S s)
    (hF : within 60818440 F = true := by exact within_trans hF (by decide)) : Keeps F S (State.flushEnt s e) := by
  unfold State.flushEnt
  repeat' with_reducible first
    | assumption | exact within_trans hF (by decide)
    | (intro p hp; cases p <;> with_unfolding_all first | exact foot_absurd hF hp (by decide) | exact rfl) | apply State.flushUnits_keeps
    | apply State.readBeat_keeps | (apply keeps_each; intro y n hy) | split | fail_if_no_progress apply keeps_mem

theorem State.mergeIn_keeps (s : State) (unit addr : Nat) (bytes : List (Nat × Byte)) {F : Nat} {S : State} (hK : Keeps F S s)
    (hF : within 60818440 F = true := by exact within_trans hF (by decide)) : Keeps F S (State.mergeIn s unit addr bytes) := by
  unfold State.mergeIn
  repeat' with_reducible first
    | assumption | (intro p hp; cases p <;> with_unfolding_all first | exact foot_absurd hF hp (by decide) | exact rfl) | apply State.flushEnt_keeps
    | (apply keeps_foldl; intro y n hy) | split | fail_if_no_progress apply keeps_mem | fail_if_no_progress apply keeps_upd

theorem State.writePart_keeps (s : State) (sram : Bool) (a : Nat) (l : List Byte) {F : Nat} {S : State} (hK : Keeps F S s)
    (hF : within 60818440 F = true := by exact within_trans hF (by decide)) : Keeps F S (State.writePart s sram a l) := by
  unfold State.writePart
  repeat' with_reducible first
    | assumption | exact within_trans hF (by decide)
    | (intro p hp; cases p <;> with_unfolding_all first | exact foot_absurd hF hp (by decide) | exact rfl) | apply State.each_keeps
    | apply State.mergeIn_keeps | apply State.setDram_keeps | apply State.setSram_keeps | apply State.setUpset_keeps
    | (apply keeps_each; intro y n hy) | split | fail_if_no_progress apply keeps_mem

theorem State.memWrite_keeps (s : State) (sram : Bool) (f a : Nat) (l : List Byte) {F : Nat} {S : State} (hK : Keeps F S s)
    (hF : within 60818440 F = true := by exact within_trans hF (by decide)) : Keeps F S (s.memWrite sram f a l) := by
  induction f generalizing s a l with
  | zero => exact hK
  | succ f ih =>
    unfold State.memWrite
    split
    · exact hK
    · exact ih _ _ _ (State.writePart_keeps _ _ _ _ hK)

theorem execMergeFlush_keeps (ch : Nat) (ups : List Upset) (s : State) {F : Nat} {S : State} (hK : Keeps F S s)
    (hF : within 60818440 F = true := by exact within_trans hF (by decide)) : KeepsA F S (execMergeFlush ch ups s) := by
  unfold execMergeFlush
  repeat' with_reducible first
    | assumption | extract_lets +onlyGivenNames y | apply keepsA_next | exact within_trans hF (by decide) | apply State.applyUps_keeps
    | apply State.flushEnt_keeps | split

theorem execSramMergeFlush_keeps (bank : Nat) (ups : List Upset) (s : State) {F : Nat} {S : State} (hK : Keeps F S s)
    (hF : within 60818440 F = true := by exact within_trans hF (by decide)) : KeepsA F S (execSramMergeFlush bank ups s) := by
  unfold execSramMergeFlush
  repeat' with_reducible first
    | assumption | extract_lets +onlyGivenNames y | apply keepsA_next | exact within_trans hF (by decide) | apply State.applyUps_keeps
    | apply State.flushEnt_keeps | split

theorem execScrubRead_keeps (unit : Nat) (ups : List Upset) (s : State) {F : Nat} {S : State} (hK : Keeps F S s)
    (hF : within 60818440 F = true := by exact within_trans hF (by decide)) : KeepsA F S (execScrubRead unit ups s) := by
  unfold execScrubRead
  repeat' with_reducible first
    | assumption | extract_lets +onlyGivenNames y | apply keepsA_next | exact within_trans hF (by decide)
    | (intro p hp; cases p <;> with_unfolding_all first | exact foot_absurd hF hp (by decide) | exact rfl) | apply State.applyUps_keeps
    | apply State.raiseIf_keeps | apply State.readUnits_keeps | split | fail_if_no_progress apply keeps_mem

theorem State.patTail_keeps (s : State) (v : Word) {F : Nat} {S : State} (hK : Keeps F S s)
    (hF : within 33554432 F = true := by exact within_trans hF (by decide)) : Keeps F S (State.patTail s v) := by
  unfold State.patTail
  repeat' with_reducible first
    | assumption | (intro p hp; cases p <;> with_unfolding_all first | exact foot_absurd hF hp (by decide) | exact rfl) | split
    | fail_if_no_progress apply keeps_mem

theorem execPatinaTailWrite_keeps (v : Word) (s : State) {F : Nat} {S : State} (hK : Keeps F S s)
    (hF : within 35184405643264 F = true := by exact within_trans hF (by decide)) : KeepsA F S (execPatinaTailWrite v s) := by
  unfold execPatinaTailWrite
  repeat' with_reducible first
    | assumption | apply keepsA_next | exact within_trans hF (by decide) | apply State.answer_keeps | apply State.patTail_keeps | split

theorem State.dropCopies_keeps (s : State) (ch : Nat) {F : Nat} {S : State} (hK : Keeps F S s)
    (hF : within 4198400 F = true := by exact within_trans hF (by decide)) : Keeps F S (State.dropCopies s ch) := by
  unfold State.dropCopies
  repeat' with_reducible first | assumption | apply State.setRes_keeps | (apply keeps_foldl; intro y n hy) | split

theorem State.chanGone_keeps (s : State) (ch : Nat) {F : Nat} {S : State} (hK : Keeps F S s)
    (hF : within 17592246862856 F = true := by exact within_trans hF (by decide)) : Keeps F S (State.chanGone s ch) := by
  unfold State.chanGone
  repeat' with_reducible first
    | assumption | exact within_trans hF (by decide)
    | (intro p hp; cases p <;> with_unfolding_all first | exact foot_absurd hF hp (by decide) | exact rfl) | apply State.flushEnt_keeps
    | apply State.raise_keeps | (apply keeps_foldl; intro y n hy) | split | fail_if_no_progress apply keeps_mem | fail_if_no_progress apply keeps_upd

theorem State.retRefused_keeps (s : State) (r : Bool) {F : Nat} {S : State} (hK : Keeps F S s)
    (hF : within 33554432 F = true := by exact within_trans hF (by decide)) : Keeps F S (State.retRefused s r) := by
  unfold State.retRefused
  repeat' with_reducible first
    | assumption | (intro p hp; cases p <;> with_unfolding_all first | exact foot_absurd hF hp (by decide) | exact rfl)
    | fail_if_no_progress apply keeps_mem

theorem State.retAdd_keeps (s : State) (ch region : Nat) (whole : Bool) {F : Nat} {S : State} (hK : Keeps F S s)
    (hF : within 100663308 F = true := by exact within_trans hF (by decide)) : Keeps F S (State.retAdd s ch region whole) := by
  unfold State.retAdd
  repeat' with_reducible first
    | assumption | exact within_trans hF (by decide)
    | (intro p hp; cases p <;> with_unfolding_all first | exact foot_absurd hF hp (by decide) | exact rfl) | apply State.seqTake_keeps
    | fail_if_no_progress apply keeps_mem

theorem State.lessRoom_keeps (s : State) {F : Nat} {S : State} (hK : Keeps F S s)
    (hF : within 17592186044416 F = true := by exact within_trans hF (by decide)) : Keeps F S (State.lessRoom s) := by
  unfold State.lessRoom
  repeat' with_reducible first
    | assumption | (intro p hp; cases p <;> with_unfolding_all first | exact foot_absurd hF hp (by decide) | exact rfl) | split
    | fail_if_no_progress apply keeps_upd

theorem State.retRegion_keeps (s : State) (ch region : Nat) {F : Nat} {S : State} (hK : Keeps F S s)
    (hF : within 17592318170124 F = true := by exact within_trans hF (by decide)) : Keeps F S (State.retRegion s ch region).1 := by
  unfold State.retRegion
  repeat' with_reducible first
    | assumption | extract_lets +onlyGivenNames y | exact within_trans hF (by decide) | apply State.lessRoom_keeps | apply State.retAdd_keeps
    | apply State.retRefused_keeps | apply State.toBridge_keeps | split

theorem State.retChannel_keeps (s : State) (ch : Nat) {F : Nat} {S : State} (hK : Keeps F S s)
    (hF : within 17592318170124 F = true := by exact within_trans hF (by decide)) : Keeps F S (State.retChannel s ch).1 := by
  unfold State.retChannel
  repeat' with_reducible first
    | assumption | extract_lets +onlyGivenNames y | exact within_trans hF (by decide) | apply State.chanGone_keeps | apply State.dropCopies_keeps
    | apply State.retAdd_keeps | apply State.retRefused_keeps | apply State.retire_keeps | apply State.toBridge_keeps | split

theorem State.retire_keeps (s : State) (v : Word) {F : Nat} {S : State} (hK : Keeps F S s)
    (hF : within 17592318170124 F = true := by exact within_trans hF (by decide)) : Keeps F S (State.retire s v).1 := by
  unfold State.retire
  repeat' with_reducible first | assumption | apply State.retChannel_keeps | apply State.retRegion_keeps | split

theorem doRetire_keeps (v : Word) (s : State) {F : Nat} {S : State} (hK : Keeps F S s)
    (hF : within 17592318170124 F = true := by exact within_trans hF (by decide)) : Keeps F S (doRetire v s).st := by
  unfold doRetire
  repeat' with_reducible first
    | assumption | extract_lets +onlyGivenNames y | exact within_trans hF (by decide) | apply State.retire_keeps | apply ack_keeps | apply nakAt_keeps
    | split

theorem execRetireRegion_keeps (h : Option ReqHdr) (ch region : Nat) (s : State) {F : Nat} {S : State} (hK : Keeps F S s)
    (hF : within 52776690261004 F = true := by exact within_trans hF (by decide)) : KeepsA F S (execRetireRegion h ch region s) := by
  unfold execRetireRegion
  repeat' with_reducible first
    | assumption | apply keepsA_next | exact within_trans hF (by decide) | apply State.answer_keeps | (apply State.request_keeps; intro y hy)
    | apply State.retire_keeps | apply doRetire_keeps | split

theorem execRetireChannel_keeps (h : Option ReqHdr) (ch : Nat) (s : State) {F : Nat} {S : State} (hK : Keeps F S s)
    (hF : within 52776690261004 F = true := by exact within_trans hF (by decide)) : KeepsA F S (execRetireChannel h ch s) := by
  unfold execRetireChannel
  repeat' with_reducible first
    | assumption | apply keepsA_next | exact within_trans hF (by decide) | apply State.answer_keeps | (apply State.request_keeps; intro y hy)
    | apply State.retire_keeps | apply doRetire_keeps | split

theorem execRetirementCopyDone_keeps (whole : Bool) (ch region : Nat) (s : State) {F : Nat} {S : State} (hK : Keeps F S s)
    (hF : within 17592313971720 F = true := by exact within_trans hF (by decide)) : KeepsA F S (execRetirementCopyDone whole ch region s) := by
  unfold execRetirementCopyDone
  repeat' with_reducible first
    | assumption | apply keepsA_next | exact within_trans hF (by decide)
    | (intro p hp; cases p <;> with_unfolding_all first | exact foot_absurd hF hp (by decide) | exact rfl) | apply State.chanGone_keeps
    | apply State.raise_keeps | apply State.seqDone_keeps | split | fail_if_no_progress apply keeps_mem

theorem execRetirementCopyRetry_keeps (s : State) {F : Nat} {S : State} (hK : Keeps F S s)
    (hF : within 100663308 F = true := by exact within_trans hF (by decide)) : KeepsA F S (execRetirementCopyRetry s) := by
  unfold execRetirementCopyRetry
  repeat' with_reducible first
    | assumption | apply keepsA_next | exact within_trans hF (by decide)
    | (intro p hp; cases p <;> with_unfolding_all first | exact foot_absurd hF hp (by decide) | exact rfl) | apply State.seqTake_keeps
    | (apply keeps_foldl; intro y n hy) | split | fail_if_no_progress apply keeps_mem

/-! Dma -/

theorem State.dmaRead_keeps (s : State) (n : Nat) (l : List (Nat × Nat)) (inp : List Byte) {F : Nat} {S : State} (hK : Keeps F S s)
    (hF : within 60818440 F = true := by exact within_trans hF (by decide)) : Keeps F S (s.dmaRead n l inp).1 := by
  induction l generalizing s inp with
  | nil => exact hK
  | cons e l ih =>
    unfold State.dmaRead
    split
    · exact hK
    · extract_lets sp r m
      have hm : Keeps F S m.1 := State.memRead_keeps _ _ _ _ hK
      split
      · exact ih _ _ hK
      · split
        · split
          · exact ih _ _ hm
          · exact hm
        · exact ih _ _ hm

theorem State.dmaWrite_keeps (s : State) (n f : Nat) (l : List (Nat × List Byte)) {F : Nat} {S : State} (hK : Keeps F S s)
    (hF : within 35184432907272 F = true := by exact within_trans hF (by decide)) : Keeps F S (s.dmaWrite n f l).1 := by
  induction f generalizing s l with
  | zero => unfold State.dmaWrite; exact hK
  | succ f ih =>
    cases l with
    | nil => unfold State.dmaWrite; exact hK
    | cons e l =>
      unfold State.dmaWrite
      split
      · exact ih _ _ hK
      · dsimp only
        split
        · exact hK
        · refine ih _ _ ?_
          split
          · exact State.emit_keeps _ _ hK
          · exact State.memWrite_keeps _ _ _ _ _ hK

theorem State.moveBack_keeps (s : State) (r : BandRef) {F : Nat} {S : State} (hK : Keeps F S s)
    (hF : within 4198400 F = true := by exact within_trans hF (by decide)) : Keeps F S (State.moveBack s r) := by
  unfold State.moveBack
  repeat' with_reducible first
    | exact hK | assumption
    | (extract_lets +onlyGivenNames y; refine keeps_cut (F := F) (S := S) (y := y) ?_ ?_; dsimp -zeta only [y]; clear y; rotate_left; clear_value y; intro hy; rotate_right)
    | (extract_lets +onlyGivenNames y; refine keeps_cut1 (F := F) (S := S) (y := y) ?_ ?_; dsimp -zeta only [y]; clear y; rotate_left; clear_value y; intro hy; rotate_right)
    | (extract_lets +onlyGivenNames y; refine keeps_cutR (F := F) (S := S) (y := y) ?_ ?_; dsimp -zeta only [y]; clear y; rotate_left; clear_value y; intro hy; rotate_right)
    | extract_lets +onlyGivenNames y | apply keepsA_next | apply keepsO_some | exact keepsO_none | exact within_trans hF (by decide)
    | (intro p hp; cases p <;> with_unfolding_all first | exact foot_absurd hF hp (by decide) | exact rfl) | apply State.dropParts_keeps
    | apply State.modBand_keeps | apply State.setRes_keeps | split | (apply keeps_of_pair; assumption) | (apply keeps_of_trip; assumption)
    | refine keeps_of_some (by assumption) ?_ | dsimp -zeta only | fail_if_no_progress apply keeps_upd

theorem State.seqHalted_keeps (s : State) (u : DmaUse) {F : Nat} {S : State} (hK : Keeps F S s)
    (hF : within 104861696 F = true := by exact within_trans hF (by decide)) : Keeps F S (State.seqHalted s u) := by
  unfold State.seqHalted
  repeat' with_reducible first
    | exact hK | assumption
    | (extract_lets +onlyGivenNames y; refine keeps_cut (F := F) (S := S) (y := y) ?_ ?_; dsimp -zeta only [y]; clear y; rotate_left; clear_value y; intro hy; rotate_right)
    | (extract_lets +onlyGivenNames y; refine keeps_cut1 (F := F) (S := S) (y := y) ?_ ?_; dsimp -zeta only [y]; clear y; rotate_left; clear_value y; intro hy; rotate_right)
    | (extract_lets +onlyGivenNames y; refine keeps_cutR (F := F) (S := S) (y := y) ?_ ?_; dsimp -zeta only [y]; clear y; rotate_left; clear_value y; intro hy; rotate_right)
    | extract_lets +onlyGivenNames y | apply keepsA_next | apply keepsO_some | exact keepsO_none | exact within_trans hF (by decide)
    | (intro p hp; cases p <;> with_unfolding_all first | exact foot_absurd hF hp (by decide) | exact rfl) | apply State.moveBack_keeps
    | apply State.seqDrop_keeps | split | (apply keeps_of_pair; assumption) | (apply keeps_of_trip; assumption)
    | refine keeps_of_some (by assumption) ?_ | dsimp -zeta only | fail_if_no_progress apply keeps_mem | fail_if_no_progress apply keeps_upd

theorem State.dmaHalt_keeps (s : State) (n err addr : Nat) (w : Bool) {F : Nat} {S : State} (hK : Keeps F S s)
    (hF : within 106959880 F = true := by exact within_trans hF (by decide)) : Keeps F S (State.dmaHalt s n err addr w) := by
  unfold State.dmaHalt
  repeat' with_reducible first
    | exact hK | assumption
    | (extract_lets +onlyGivenNames y; refine keeps_cut (F := F) (S := S) (y := y) ?_ ?_; dsimp -zeta only [y]; clear y; rotate_left; clear_value y; intro hy; rotate_right)
    | (extract_lets +onlyGivenNames y; refine keeps_cut1 (F := F) (S := S) (y := y) ?_ ?_; dsimp -zeta only [y]; clear y; rotate_left; clear_value y; intro hy; rotate_right)
    | (extract_lets +onlyGivenNames y; refine keeps_cutR (F := F) (S := S) (y := y) ?_ ?_; dsimp -zeta only [y]; clear y; rotate_left; clear_value y; intro hy; rotate_right)
    | extract_lets +onlyGivenNames y | apply keepsA_next | apply keepsO_some | exact keepsO_none | exact within_trans hF (by decide)
    | (intro p hp; cases p <;> with_unfolding_all first | exact foot_absurd hF hp (by decide) | exact rfl) | apply State.modDma_keeps
    | apply State.raise_keeps | apply State.seqHalted_keeps | split | (apply keeps_of_pair; assumption) | (apply keeps_of_trip; assumption)
    | refine keeps_of_some (by assumption) ?_ | dsimp -zeta only | fail_if_no_progress apply keeps_upd

theorem State.dmaHaltDone_keeps (s : State) (n err addr : Nat) {F : Nat} {S : State} (hK : Keeps F S s)
    (hF : within 106959880 F = true := by exact within_trans hF (by decide)) : Keeps F S (State.dmaHaltDone s n err addr) := by
  unfold State.dmaHaltDone
  repeat' with_reducible first
    | exact hK | assumption
    | (extract_lets +onlyGivenNames y; refine keeps_cut (F := F) (S := S) (y := y) ?_ ?_; dsimp -zeta only [y]; clear y; rotate_left; clear_value y; intro hy; rotate_right)
    | (extract_lets +onlyGivenNames y; refine keeps_cut1 (F := F) (S := S) (y := y) ?_ ?_; dsimp -zeta only [y]; clear y; rotate_left; clear_value y; intro hy; rotate_right)
    | (extract_lets +onlyGivenNames y; refine keeps_cutR (F := F) (S := S) (y := y) ?_ ?_; dsimp -zeta only [y]; clear y; rotate_left; clear_value y; intro hy; rotate_right)
    | extract_lets +onlyGivenNames y | apply keepsA_next | apply keepsO_some | exact keepsO_none | exact within_trans hF (by decide)
    | (intro p hp; cases p <;> with_unfolding_all first | exact foot_absurd hF hp (by decide) | exact rfl) | apply State.dmaHalt_keeps
    | apply State.modDma_keeps | split | (apply keeps_of_pair; assumption) | (apply keeps_of_trip; assumption)
    | refine keeps_of_some (by assumption) ?_ | dsimp -zeta only | fail_if_no_progress apply keeps_upd

theorem State.dmaFetch_keeps (s : State) (n a : Nat) (count : Bool) {F : Nat} {S : State} (hK : Keeps F S s)
    (hF : within 132125704 F = true := by exact within_trans hF (by decide)) : Keeps F S (State.dmaFetch s n a count) := by
  unfold State.dmaFetch
  repeat' with_reducible first
    | exact hK | assumption
    | (extract_lets +onlyGivenNames y; refine keeps_cut (F := F) (S := S) (y := y) ?_ ?_; dsimp -zeta only [y]; clear y; rotate_left; clear_value y; intro hy; rotate_right)
    | (extract_lets +onlyGivenNames y; refine keeps_cut1 (F := F) (S := S) (y := y) ?_ ?_; dsimp -zeta only [y]; clear y; rotate_left; clear_value y; intro hy; rotate_right)
    | (extract_lets +onlyGivenNames y; refine keeps_cutR (F := F) (S := S) (y := y) ?_ ?_; dsimp -zeta only [y]; clear y; rotate_left; clear_value y; intro hy; rotate_right)
    | extract_lets +onlyGivenNames y | apply keepsA_next | apply keepsO_some | exact keepsO_none | exact within_trans hF (by decide)
    | (intro p hp; cases p <;> with_unfolding_all first | exact foot_absurd hF hp (by decide) | exact rfl) | apply State.dmaHalt_keeps
    | apply State.memRead_keeps | apply State.modDma_keeps | split | (apply keeps_of_pair; assumption) | (apply keeps_of_trip; assumption)
    | refine keeps_of_some (by assumption) ?_ | dsimp -zeta only | fail_if_no_progress apply keeps_upd

theorem State.dmaFollow_keeps (s : State) (n link : Nat) {F : Nat} {S : State} (hK : Keeps F S s)
    (hF : within 132125704 F = true := by exact within_trans hF (by decide)) : Keeps F S (State.dmaFollow s n link) := by
  unfold State.dmaFollow
  repeat' with_reducible first
    | exact hK | assumption
    | (extract_lets +onlyGivenNames y; refine keeps_cut (F := F) (S := S) (y := y) ?_ ?_; dsimp -zeta only [y]; clear y; rotate_left; clear_value y; intro hy; rotate_right)
    | (extract_lets +onlyGivenNames y; refine keeps_cut1 (F := F) (S := S) (y := y) ?_ ?_; dsimp -zeta only [y]; clear y; rotate_left; clear_value y; intro hy; rotate_right)
    | (extract_lets +onlyGivenNames y; refine keeps_cutR (F := F) (S := S) (y := y) ?_ ?_; dsimp -zeta only [y]; clear y; rotate_left; clear_value y; intro hy; rotate_right)
    | extract_lets +onlyGivenNames y | apply keepsA_next | apply keepsO_some | exact keepsO_none | exact within_trans hF (by decide)
    | (intro p hp; cases p <;> with_unfolding_all first | exact foot_absurd hF hp (by decide) | exact rfl) | apply State.dmaFetch_keeps
    | apply State.dmaHaltDone_keeps | apply State.modDma_keeps | apply State.raiseIf_keeps | split | (apply keeps_of_pair; assumption)
    | (apply keeps_of_trip; assumption) | refine keeps_of_some (by assumption) ?_ | dsimp -zeta only | fail_if_no_progress apply keeps_upd

theorem State.dmaWriteBack_keeps (s : State) (n ctrl : Nat) (failed : Bool) {F : Nat} {S : State} (hK : Keeps F S s)
    (hF : within 127927304 F = true := by exact within_trans hF (by decide)) : Keeps F S (State.dmaWriteBack s n ctrl failed) := by
  unfold State.dmaWriteBack
  repeat' with_reducible first
    | exact hK | assumption
    | (extract_lets +onlyGivenNames y; refine keeps_cut (F := F) (S := S) (y := y) ?_ ?_; dsimp -zeta only [y]; clear y; rotate_left; clear_value y; intro hy; rotate_right)
    | (extract_lets +onlyGivenNames y; refine keeps_cut1 (F := F) (S := S) (y := y) ?_ ?_; dsimp -zeta only [y]; clear y; rotate_left; clear_value y; intro hy; rotate_right)
    | (extract_lets +onlyGivenNames y; refine keeps_cutR (F := F) (S := S) (y := y) ?_ ?_; dsimp -zeta only [y]; clear y; rotate_left; clear_value y; intro hy; rotate_right)
    | extract_lets +onlyGivenNames y | apply keepsA_next | apply keepsO_some | exact keepsO_none | exact within_trans hF (by decide)
    | (intro p hp; cases p <;> with_unfolding_all first | exact foot_absurd hF hp (by decide) | exact rfl) | apply State.memWrite_keeps
    | apply State.modDma_keeps | apply State.raiseIf_keeps | split | (apply keeps_of_pair; assumption) | (apply keeps_of_trip; assumption)
    | refine keeps_of_some (by assumption) ?_ | dsimp -zeta only | fail_if_no_progress apply keeps_upd

theorem State.dmaRelink_keeps (s : State) (n : Nat) {F : Nat} {S : State} (hK : Keeps F S s)
    (hF : within 132125704 F = true := by exact within_trans hF (by decide)) : Keeps F S (State.dmaRelink s n) := by
  unfold State.dmaRelink
  repeat' with_reducible first
    | exact hK | assumption
    | (extract_lets +onlyGivenNames y; refine keeps_cut (F := F) (S := S) (y := y) ?_ ?_; dsimp -zeta only [y]; clear y; rotate_left; clear_value y; intro hy; rotate_right)
    | (extract_lets +onlyGivenNames y; refine keeps_cut1 (F := F) (S := S) (y := y) ?_ ?_; dsimp -zeta only [y]; clear y; rotate_left; clear_value y; intro hy; rotate_right)
    | (extract_lets +onlyGivenNames y; refine keeps_cutR (F := F) (S := S) (y := y) ?_ ?_; dsimp -zeta only [y]; clear y; rotate_left; clear_value y; intro hy; rotate_right)
    | extract_lets +onlyGivenNames y | apply keepsA_next | apply keepsO_some | exact keepsO_none | exact within_trans hF (by decide)
    | (intro p hp; cases p <;> with_unfolding_all first | exact foot_absurd hF hp (by decide) | exact rfl) | apply State.dmaFollow_keeps
    | apply State.dmaHaltDone_keeps | apply State.memRead_keeps | split | (apply keeps_of_pair; assumption) | (apply keeps_of_trip; assumption)
    | refine keeps_of_some (by assumption) ?_ | dsimp -zeta only

theorem State.dmaComplete_keeps (s : State) (n : Nat) (d : Desc) {F : Nat} {S : State} (hK : Keeps F S s)
    (hF : within 132125704 F = true := by exact within_trans hF (by decide)) : Keeps F S (State.dmaComplete s n d) := by
  unfold State.dmaComplete
  repeat' with_reducible first
    | exact hK | assumption
    | (extract_lets +onlyGivenNames y; refine keeps_cut (F := F) (S := S) (y := y) ?_ ?_; dsimp -zeta only [y]; clear y; rotate_left; clear_value y; intro hy; rotate_right)
    | (extract_lets +onlyGivenNames y; refine keeps_cut1 (F := F) (S := S) (y := y) ?_ ?_; dsimp -zeta only [y]; clear y; rotate_left; clear_value y; intro hy; rotate_right)
    | (extract_lets +onlyGivenNames y; refine keeps_cutR (F := F) (S := S) (y := y) ?_ ?_; dsimp -zeta only [y]; clear y; rotate_left; clear_value y; intro hy; rotate_right)
    | extract_lets +onlyGivenNames y | apply keepsA_next | apply keepsO_some | exact keepsO_none | exact within_trans hF (by decide)
    | (intro p hp; cases p <;> with_unfolding_all first | exact foot_absurd hF hp (by decide) | exact rfl) | apply State.dmaFollow_keeps
    | apply State.dmaHalt_keeps | apply State.dmaWriteBack_keeps | apply State.memRead_keeps | split | (apply keeps_of_pair; assumption)
    | (apply keeps_of_trip; assumption) | refine keeps_of_some (by assumption) ?_ | dsimp -zeta only

theorem State.dmaBurst_keeps (s : State) (n : Nat) (inp : List Byte) {F : Nat} {S : State} (hK : Keeps F S s)
    (hF : within 35184638432264 F = true := by exact within_trans hF (by decide)) : Keeps F S (State.dmaBurst s n inp) := by
  unfold State.dmaBurst
  repeat' with_reducible first
    | exact hK | assumption
    | (extract_lets +onlyGivenNames y; refine keeps_cut (F := F) (S := S) (y := y) ?_ ?_; dsimp -zeta only [y]; clear y; rotate_left; clear_value y; intro hy; rotate_right)
    | (extract_lets +onlyGivenNames y; refine keeps_cut1 (F := F) (S := S) (y := y) ?_ ?_; dsimp -zeta only [y]; clear y; rotate_left; clear_value y; intro hy; rotate_right)
    | (extract_lets +onlyGivenNames y; refine keeps_cutR (F := F) (S := S) (y := y) ?_ ?_; dsimp -zeta only [y]; clear y; rotate_left; clear_value y; intro hy; rotate_right)
    | extract_lets +onlyGivenNames y | apply keepsA_next | apply keepsO_some | exact keepsO_none | exact within_trans hF (by decide)
    | (intro p hp; cases p <;> with_unfolding_all first | exact foot_absurd hF hp (by decide) | exact rfl) | apply State.dmaComplete_keeps
    | apply State.dmaHalt_keeps | apply State.dmaRead_keeps | apply State.dmaRelink_keeps | apply State.dmaWrite_keeps | apply State.modDma_keeps
    | apply keeps_getDo | split | (apply keeps_of_pair; assumption) | (apply keeps_of_trip; assumption) | refine keeps_of_some (by assumption) ?_
    | dsimp -zeta only | fail_if_no_progress apply keeps_upd

theorem execDmaBurst_keeps (input : List Byte) (ups : List Upset) (s : State) {F : Nat} {S : State} (hK : Keeps F S s)
    (hF : within 35184638432264 F = true := by exact within_trans hF (by decide)) : KeepsA F S (execDmaBurst input ups s) := by
  unfold execDmaBurst
  repeat' with_reducible first
    | exact hK | assumption
    | (extract_lets +onlyGivenNames y; refine keeps_cut (F := F) (S := S) (y := y) ?_ ?_; dsimp -zeta only [y]; clear y; rotate_left; clear_value y; intro hy; rotate_right)
    | (extract_lets +onlyGivenNames y; refine keeps_cut1 (F := F) (S := S) (y := y) ?_ ?_; dsimp -zeta only [y]; clear y; rotate_left; clear_value y; intro hy; rotate_right)
    | (extract_lets +onlyGivenNames y; refine keeps_cutR (F := F) (S := S) (y := y) ?_ ?_; dsimp -zeta only [y]; clear y; rotate_left; clear_value y; intro hy; rotate_right)
    | extract_lets +onlyGivenNames y | apply keepsA_next | apply keepsO_some | exact keepsO_none | exact within_trans hF (by decide)
    | (intro p hp; cases p <;> with_unfolding_all first | exact foot_absurd hF hp (by decide) | exact rfl) | apply State.applyUps_keeps
    | apply State.dmaBurst_keeps | split | (apply keeps_of_pair; assumption) | (apply keeps_of_trip; assumption)
    | refine keeps_of_some (by assumption) ?_ | dsimp -zeta only

theorem State.dmaStart_keeps (s : State) (n : Nat) {F : Nat} {S : State} (hK : Keeps F S s)
    (hF : within 132125704 F = true := by exact within_trans hF (by decide)) : Keeps F S (State.dmaStart s n) := by
  unfold State.dmaStart
  repeat' with_reducible first
    | exact hK | assumption
    | (extract_lets +onlyGivenNames y; refine keeps_cut (F := F) (S := S) (y := y) ?_ ?_; dsimp -zeta only [y]; clear y; rotate_left; clear_value y; intro hy; rotate_right)
    | (extract_lets +onlyGivenNames y; refine keeps_cut1 (F := F) (S := S) (y := y) ?_ ?_; dsimp -zeta only [y]; clear y; rotate_left; clear_value y; intro hy; rotate_right)
    | (extract_lets +onlyGivenNames y; refine keeps_cutR (F := F) (S := S) (y := y) ?_ ?_; dsimp -zeta only [y]; clear y; rotate_left; clear_value y; intro hy; rotate_right)
    | extract_lets +onlyGivenNames y | apply keepsA_next | apply keepsO_some | exact keepsO_none | exact within_trans hF (by decide)
    | (intro p hp; cases p <;> with_unfolding_all first | exact foot_absurd hF hp (by decide) | exact rfl) | apply State.dmaFetch_keeps
    | apply State.modDma_keeps | split | (apply keeps_of_pair; assumption) | (apply keeps_of_trip; assumption)
    | refine keeps_of_some (by assumption) ?_ | dsimp -zeta only | fail_if_no_progress apply keeps_upd

theorem State.dmaRecheck_keeps (s : State) (n : Nat) {F : Nat} {S : State} (hK : Keeps F S s)
    (hF : within 132125704 F = true := by exact within_trans hF (by decide)) : Keeps F S (State.dmaRecheck s n) := by
  unfold State.dmaRecheck
  repeat' with_reducible first
    | exact hK | assumption
    | (extract_lets +onlyGivenNames y; refine keeps_cut (F := F) (S := S) (y := y) ?_ ?_; dsimp -zeta only [y]; clear y; rotate_left; clear_value y; intro hy; rotate_right)
    | (extract_lets +onlyGivenNames y; refine keeps_cut1 (F := F) (S := S) (y := y) ?_ ?_; dsimp -zeta only [y]; clear y; rotate_left; clear_value y; intro hy; rotate_right)
    | (extract_lets +onlyGivenNames y; refine keeps_cutR (F := F) (S := S) (y := y) ?_ ?_; dsimp -zeta only [y]; clear y; rotate_left; clear_value y; intro hy; rotate_right)
    | extract_lets +onlyGivenNames y | apply keepsA_next | apply keepsO_some | exact keepsO_none | exact within_trans hF (by decide)
    | (intro p hp; cases p <;> with_unfolding_all first | exact foot_absurd hF hp (by decide) | exact rfl) | apply State.dmaFollow_keeps
    | apply State.dmaHaltDone_keeps | apply State.memRead_keeps | split | (apply keeps_of_pair; assumption) | (apply keeps_of_trip; assumption)
    | refine keeps_of_some (by assumption) ?_ | dsimp -zeta only

theorem State.dmaRestart_keeps (s : State) (n : Nat) {F : Nat} {S : State} (hK : Keeps F S s)
    (hF : within 132125704 F = true := by exact within_trans hF (by decide)) : Keeps F S (State.dmaRestart s n) := by
  unfold State.dmaRestart
  repeat' with_reducible first
    | exact hK | assumption
    | (extract_lets +onlyGivenNames y; refine keeps_cut (F := F) (S := S) (y := y) ?_ ?_; dsimp -zeta only [y]; clear y; rotate_left; clear_value y; intro hy; rotate_right)
    | (extract_lets +onlyGivenNames y; refine keeps_cut1 (F := F) (S := S) (y := y) ?_ ?_; dsimp -zeta only [y]; clear y; rotate_left; clear_value y; intro hy; rotate_right)
    | (extract_lets +onlyGivenNames y; refine keeps_cutR (F := F) (S := S) (y := y) ?_ ?_; dsimp -zeta only [y]; clear y; rotate_left; clear_value y; intro hy; rotate_right)
    | extract_lets +onlyGivenNames y | apply keepsA_next | apply keepsO_some | exact keepsO_none | exact within_trans hF (by decide)
    | (intro p hp; cases p <;> with_unfolding_all first | exact foot_absurd hF hp (by decide) | exact rfl) | apply State.dmaFetch_keeps
    | apply State.modDma_keeps | split | (apply keeps_of_pair; assumption) | (apply keeps_of_trip; assumption)
    | refine keeps_of_some (by assumption) ?_ | dsimp -zeta only | fail_if_no_progress apply keeps_upd

theorem State.dmaSkip_keeps (s : State) (n : Nat) {F : Nat} {S : State} (hK : Keeps F S s)
    (hF : within 132125704 F = true := by exact within_trans hF (by decide)) : Keeps F S (State.dmaSkip s n) := by
  unfold State.dmaSkip
  repeat' with_reducible first
    | exact hK | assumption
    | (extract_lets +onlyGivenNames y; refine keeps_cut (F := F) (S := S) (y := y) ?_ ?_; dsimp -zeta only [y]; clear y; rotate_left; clear_value y; intro hy; rotate_right)
    | (extract_lets +onlyGivenNames y; refine keeps_cut1 (F := F) (S := S) (y := y) ?_ ?_; dsimp -zeta only [y]; clear y; rotate_left; clear_value y; intro hy; rotate_right)
    | (extract_lets +onlyGivenNames y; refine keeps_cutR (F := F) (S := S) (y := y) ?_ ?_; dsimp -zeta only [y]; clear y; rotate_left; clear_value y; intro hy; rotate_right)
    | extract_lets +onlyGivenNames y | apply keepsA_next | apply keepsO_some | exact keepsO_none | exact within_trans hF (by decide)
    | (intro p hp; cases p <;> with_unfolding_all first | exact foot_absurd hF hp (by decide) | exact rfl) | apply State.dmaHalt_keeps
    | apply State.dmaRelink_keeps | apply State.dmaWriteBack_keeps | apply State.memRead_keeps | apply State.modDma_keeps | split
    | (apply keeps_of_pair; assumption) | (apply keeps_of_trip; assumption) | refine keeps_of_some (by assumption) ?_ | dsimp -zeta only
    | fail_if_no_progress apply keeps_upd

theorem State.dmaAbort_keeps (s : State) (n : Nat) {F : Nat} {S : State} (hK : Keeps F S s)
    (hF : within 106959880 F = true := by exact within_trans hF (by decide)) : Keeps F S (State.dmaAbort s n) := by
  unfold State.dmaAbort
  repeat' with_reducible first
    | exact hK | assumption
    | (extract_lets +onlyGivenNames y; refine keeps_cut (F := F) (S := S) (y := y) ?_ ?_; dsimp -zeta only [y]; clear y; rotate_left; clear_value y; intro hy; rotate_right)
    | (extract_lets +onlyGivenNames y; refine keeps_cut1 (F := F) (S := S) (y := y) ?_ ?_; dsimp -zeta only [y]; clear y; rotate_left; clear_value y; intro hy; rotate_right)
    | (extract_lets +onlyGivenNames y; refine keeps_cutR (F := F) (S := S) (y := y) ?_ ?_; dsimp -zeta only [y]; clear y; rotate_left; clear_value y; intro hy; rotate_right)
    | extract_lets +onlyGivenNames y | apply keepsA_next | apply keepsO_some | exact keepsO_none | exact within_trans hF (by decide)
    | (intro p hp; cases p <;> with_unfolding_all first | exact foot_absurd hF hp (by decide) | exact rfl) | apply State.dmaHalt_keeps
    | apply State.dmaHaltDone_keeps | split | (apply keeps_of_pair; assumption) | (apply keeps_of_trip; assumption)
    | refine keeps_of_some (by assumption) ?_ | dsimp -zeta only

theorem State.dmaStop_keeps (s : State) (n : Nat) {F : Nat} {S : State} (hK : Keeps F S s)
    (hF : within 67108864 F = true := by exact within_trans hF (by decide)) : Keeps F S (State.dmaStop s n) := by
  unfold State.dmaStop
  repeat' with_reducible first
    | exact hK | assumption
    | (extract_lets +onlyGivenNames y; refine keeps_cut (F := F) (S := S) (y := y) ?_ ?_; dsimp -zeta only [y]; clear y; rotate_left; clear_value y; intro hy; rotate_right)
    | (extract_lets +onlyGivenNames y; refine keeps_cut1 (F := F) (S := S) (y := y) ?_ ?_; dsimp -zeta only [y]; clear y; rotate_left; clear_value y; intro hy; rotate_right)
    | (extract_lets +onlyGivenNames y; refine keeps_cutR (F := F) (S := S) (y := y) ?_ ?_; dsimp -zeta only [y]; clear y; rotate_left; clear_value y; intro hy; rotate_right)
    | extract_lets +onlyGivenNames y | apply keepsA_next | apply keepsO_some | exact keepsO_none | exact within_trans hF (by decide)
    | (intro p hp; cases p <;> with_unfolding_all first | exact foot_absurd hF hp (by decide) | exact rfl) | apply State.modDma_keeps | split
    | (apply keeps_of_pair; assumption) | (apply keeps_of_trip; assumption) | refine keeps_of_some (by assumption) ?_ | dsimp -zeta only
    | fail_if_no_progress apply keeps_upd

theorem State.dmaActs_keeps (s : State) (n : Nat) (v : Nat) {F : Nat} {S : State} (hK : Keeps F S s)
    (hF : within 132125704 F = true := by exact within_trans hF (by decide)) : Keeps F S (State.dmaActs s n v) := by
  unfold State.dmaActs
  repeat' with_reducible first
    | exact hK | assumption
    | (extract_lets +onlyGivenNames y; refine keeps_cut (F := F) (S := S) (y := y) ?_ ?_; dsimp -zeta only [y]; clear y; rotate_left; clear_value y; intro hy; rotate_right)
    | (extract_lets +onlyGivenNames y; refine keeps_cut1 (F := F) (S := S) (y := y) ?_ ?_; dsimp -zeta only [y]; clear y; rotate_left; clear_value y; intro hy; rotate_right)
    | (extract_lets +onlyGivenNames y; refine keeps_cutR (F := F) (S := S) (y := y) ?_ ?_; dsimp -zeta only [y]; clear y; rotate_left; clear_value y; intro hy; rotate_right)
    | extract_lets +onlyGivenNames y | apply keepsA_next | apply keepsO_some | exact keepsO_none | exact within_trans hF (by decide)
    | (intro p hp; cases p <;> with_unfolding_all first | exact foot_absurd hF hp (by decide) | exact rfl) | apply State.dmaAbort_keeps
    | apply State.dmaRecheck_keeps | apply State.dmaRestart_keeps | apply State.dmaSkip_keeps | apply State.dmaStart_keeps | apply State.dmaStop_keeps
    | split | (apply keeps_of_pair; assumption) | (apply keeps_of_trip; assumption) | refine keeps_of_some (by assumption) ?_ | dsimp -zeta only

theorem State.dmaCmd_keeps (s : State) (n : Nat) (f : State → State) {F : Nat} {S : State} (hf : ∀ x, Keeps F S x → Keeps F S (f x)) (hK : Keeps F S s)
    (hF : within 35184372088832 F = true := by exact within_trans hF (by decide)) :
    Keeps F S (s.dmaCmd n f) := by
  unfold State.dmaCmd
  repeat' with_reducible first | exact hK | exact hf _ hK | exact State.answer_keeps _ _ (hf _ hK) | split

theorem execDmaStart_keeps (n : Nat) (s : State) {F : Nat} {S : State} (hK : Keeps F S s)
    (hF : within 35184504214536 F = true := by exact within_trans hF (by decide)) : KeepsA F S (execDmaStart n s) := by
  unfold execDmaStart
  repeat' with_reducible first
    | exact hK | assumption
    | (extract_lets +onlyGivenNames y; refine keeps_cut (F := F) (S := S) (y := y) ?_ ?_; dsimp -zeta only [y]; clear y; rotate_left; clear_value y; intro hy; rotate_right)
    | (extract_lets +onlyGivenNames y; refine keeps_cut1 (F := F) (S := S) (y := y) ?_ ?_; dsimp -zeta only [y]; clear y; rotate_left; clear_value y; intro hy; rotate_right)
    | (extract_lets +onlyGivenNames y; refine keeps_cutR (F := F) (S := S) (y := y) ?_ ?_; dsimp -zeta only [y]; clear y; rotate_left; clear_value y; intro hy; rotate_right)
    | extract_lets +onlyGivenNames y | apply keepsA_next | apply keepsO_some | exact keepsO_none | exact within_trans hF (by decide)
    | (intro p hp; cases p <;> with_unfolding_all first | exact foot_absurd hF hp (by decide) | exact rfl) | (apply State.dmaCmd_keeps; intro y hy)
    | apply State.dmaStart_keeps | split | (apply keeps_of_pair; assumption) | (apply keeps_of_trip; assumption)
    | refine keeps_of_some (by assumption) ?_ | dsimp -zeta only

theorem execDmaTailRecheck_keeps (n : Nat) (s : State) {F : Nat} {S : State} (hK : Keeps F S s)
    (hF : within 35184504214536 F = true := by exact within_trans hF (by decide)) : KeepsA F S (execDmaTailRecheck n s) := by
  unfold execDmaTailRecheck
  repeat' with_reducible first
    | exact hK | assumption
    | (extract_lets +onlyGivenNames y; refine keeps_cut (F := F) (S := S) (y := y) ?_ ?_; dsimp -zeta only [y]; clear y; rotate_left; clear_value y; intro hy; rotate_right)
    | (extract_lets +onlyGivenNames y; refine keeps_cut1 (F := F) (S := S) (y := y) ?_ ?_; dsimp -zeta only [y]; clear y; rotate_left; clear_value y; intro hy; rotate_right)
    | (extract_lets +onlyGivenNames y; refine keeps_cutR (F := F) (S := S) (y := y) ?_ ?_; dsimp -zeta only [y]; clear y; rotate_left; clear_value y; intro hy; rotate_right)
    | extract_lets +onlyGivenNames y | apply keepsA_next | apply keepsO_some | exact keepsO_none | exact within_trans hF (by decide)
    | (intro p hp; cases p <;> with_unfolding_all first | exact foot_absurd hF hp (by decide) | exact rfl) | (apply State.dmaCmd_keeps; intro y hy)
    | apply State.dmaRecheck_keeps | split | (apply keeps_of_pair; assumption) | (apply keeps_of_trip; assumption)
    | refine keeps_of_some (by assumption) ?_ | dsimp -zeta only

theorem execDmaRestart_keeps (n : Nat) (s : State) {F : Nat} {S : State} (hK : Keeps F S s)
    (hF : within 35184504214536 F = true := by exact within_trans hF (by decide)) : KeepsA F S (execDmaRestart n s) := by
  unfold execDmaRestart
  repeat' with_reducible first
    | exact hK | assumption
    | (extract_lets +onlyGivenNames y; refine keeps_cut (F := F) (S := S) (y := y) ?_ ?_; dsimp -zeta only [y]; clear y; rotate_left; clear_value y; intro hy; rotate_right)
    | (extract_lets +onlyGivenNames y; refine keeps_cut1 (F := F) (S := S) (y := y) ?_ ?_; dsimp -zeta only [y]; clear y; rotate_left; clear_value y; intro hy; rotate_right)
    | (extract_lets +onlyGivenNames y; refine keeps_cutR (F := F) (S := S) (y := y) ?_ ?_; dsimp -zeta only [y]; clear y; rotate_left; clear_value y; intro hy; rotate_right)
    | extract_lets +onlyGivenNames y | apply keepsA_next | apply keepsO_some | exact keepsO_none | exact within_trans hF (by decide)
    | (intro p hp; cases p <;> with_unfolding_all first | exact foot_absurd hF hp (by decide) | exact rfl) | (apply State.dmaCmd_keeps; intro y hy)
    | apply State.dmaRestart_keeps | split | (apply keeps_of_pair; assumption) | (apply keeps_of_trip; assumption)
    | refine keeps_of_some (by assumption) ?_ | dsimp -zeta only

theorem execDmaSkip_keeps (n : Nat) (s : State) {F : Nat} {S : State} (hK : Keeps F S s)
    (hF : within 35184504214536 F = true := by exact within_trans hF (by decide)) : KeepsA F S (execDmaSkip n s) := by
  unfold execDmaSkip
  repeat' with_reducible first
    | exact hK | assumption
    | (extract_lets +onlyGivenNames y; refine keeps_cut (F := F) (S := S) (y := y) ?_ ?_; dsimp -zeta only [y]; clear y; rotate_left; clear_value y; intro hy; rotate_right)
    | (extract_lets +onlyGivenNames y; refine keeps_cut1 (F := F) (S := S) (y := y) ?_ ?_; dsimp -zeta only [y]; clear y; rotate_left; clear_value y; intro hy; rotate_right)
    | (extract_lets +onlyGivenNames y; refine keeps_cutR (F := F) (S := S) (y := y) ?_ ?_; dsimp -zeta only [y]; clear y; rotate_left; clear_value y; intro hy; rotate_right)
    | extract_lets +onlyGivenNames y | apply keepsA_next | apply keepsO_some | exact keepsO_none | exact within_trans hF (by decide)
    | (intro p hp; cases p <;> with_unfolding_all first | exact foot_absurd hF hp (by decide) | exact rfl) | (apply State.dmaCmd_keeps; intro y hy)
    | apply State.dmaSkip_keeps | split | (apply keeps_of_pair; assumption) | (apply keeps_of_trip; assumption)
    | refine keeps_of_some (by assumption) ?_ | dsimp -zeta only

theorem execDmaAbort_keeps (n : Nat) (s : State) {F : Nat} {S : State} (hK : Keeps F S s)
    (hF : within 35184479048712 F = true := by exact within_trans hF (by decide)) : KeepsA F S (execDmaAbort n s) := by
  unfold execDmaAbort
  repeat' with_reducible first
    | exact hK | assumption
    | (extract_lets +onlyGivenNames y; refine keeps_cut (F := F) (S := S) (y := y) ?_ ?_; dsimp -zeta only [y]; clear y; rotate_left; clear_value y; intro hy; rotate_right)
    | (extract_lets +onlyGivenNames y; refine keeps_cut1 (F := F) (S := S) (y := y) ?_ ?_; dsimp -zeta only [y]; clear y; rotate_left; clear_value y; intro hy; rotate_right)
    | (extract_lets +onlyGivenNames y; refine keeps_cutR (F := F) (S := S) (y := y) ?_ ?_; dsimp -zeta only [y]; clear y; rotate_left; clear_value y; intro hy; rotate_right)
    | extract_lets +onlyGivenNames y | apply keepsA_next | apply keepsO_some | exact keepsO_none | exact within_trans hF (by decide)
    | (intro p hp; cases p <;> with_unfolding_all first | exact foot_absurd hF hp (by decide) | exact rfl) | apply State.dmaAbort_keeps
    | (apply State.dmaCmd_keeps; intro y hy) | split | (apply keeps_of_pair; assumption) | (apply keeps_of_trip; assumption)
    | refine keeps_of_some (by assumption) ?_ | dsimp -zeta only

theorem execDmaStop_keeps (n : Nat) (s : State) {F : Nat} {S : State} (hK : Keeps F S s)
    (hF : within 35184439197696 F = true := by exact within_trans hF (by decide)) : KeepsA F S (execDmaStop n s) := by
  unfold execDmaStop
  repeat' with_reducible first
    | exact hK | assumption
    | (extract_lets +onlyGivenNames y; refine keeps_cut (F := F) (S := S) (y := y) ?_ ?_; dsimp -zeta only [y]; clear y; rotate_left; clear_value y; intro hy; rotate_right)
    | (extract_lets +onlyGivenNames y; refine keeps_cut1 (F := F) (S := S) (y := y) ?_ ?_; dsimp -zeta only [y]; clear y; rotate_left; clear_value y; intro hy; rotate_right)
    | (extract_lets +onlyGivenNames y; refine keeps_cutR (F := F) (S := S) (y := y) ?_ ?_; dsimp -zeta only [y]; clear y; rotate_left; clear_value y; intro hy; rotate_right)
    | extract_lets +onlyGivenNames y | apply keepsA_next | apply keepsO_some | exact keepsO_none | exact within_trans hF (by decide)
    | (intro p hp; cases p <;> with_unfolding_all first | exact foot_absurd hF hp (by decide) | exact rfl) | (apply State.dmaCmd_keeps; intro y hy)
    | apply State.dmaStop_keeps | split | (apply keeps_of_pair; assumption) | (apply keeps_of_trip; assumption)
    | refine keeps_of_some (by assumption) ?_ | dsimp -zeta only

theorem State.dmaTick_keeps (s : State) {F : Nat} {S : State} (hK : Keeps F S s)
    (hF : within 67108864 F = true := by exact within_trans hF (by decide)) : Keeps F S (State.dmaTick s) := by
  unfold State.dmaTick
  repeat' with_reducible first
    | exact hK | assumption
    | (extract_lets +onlyGivenNames y; refine keeps_cut (F := F) (S := S) (y := y) ?_ ?_; dsimp -zeta only [y]; clear y; rotate_left; clear_value y; intro hy; rotate_right)
    | (extract_lets +onlyGivenNames y; refine keeps_cut1 (F := F) (S := S) (y := y) ?_ ?_; dsimp -zeta only [y]; clear y; rotate_left; clear_value y; intro hy; rotate_right)
    | (extract_lets +onlyGivenNames y; refine keeps_cutR (F := F) (S := S) (y := y) ?_ ?_; dsimp -zeta only [y]; clear y; rotate_left; clear_value y; intro hy; rotate_right)
    | extract_lets +onlyGivenNames y | apply keepsA_next | apply keepsO_some | exact keepsO_none | exact within_trans hF (by decide)
    | (intro p hp; cases p <;> with_unfolding_all first | exact foot_absurd hF hp (by decide) | exact rfl) | split | (apply keeps_of_pair; assumption)
    | (apply keeps_of_trip; assumption) | refine keeps_of_some (by assumption) ?_ | dsimp -zeta only | fail_if_no_progress apply keeps_upd

theorem State.dmaCut_keeps (s : State) (n : Nat) {F : Nat} {S : State} (hK : Keeps F S s)
    (hF : within 67108864 F = true := by exact within_trans hF (by decide)) : Keeps F S (State.dmaCut s n) := by
  unfold State.dmaCut
  repeat' with_reducible first
    | exact hK | assumption
    | (extract_lets +onlyGivenNames y; refine keeps_cut (F := F) (S := S) (y := y) ?_ ?_; dsimp -zeta only [y]; clear y; rotate_left; clear_value y; intro hy; rotate_right)
    | (extract_lets +onlyGivenNames y; refine keeps_cut1 (F := F) (S := S) (y := y) ?_ ?_; dsimp -zeta only [y]; clear y; rotate_left; clear_value y; intro hy; rotate_right)
    | (extract_lets +onlyGivenNames y; refine keeps_cutR (F := F) (S := S) (y := y) ?_ ?_; dsimp -zeta only [y]; clear y; rotate_left; clear_value y; intro hy; rotate_right)
    | extract_lets +onlyGivenNames y | apply keepsA_next | apply keepsO_some | exact keepsO_none | exact within_trans hF (by decide)
    | (intro p hp; cases p <;> with_unfolding_all first | exact foot_absurd hF hp (by decide) | exact rfl) | apply State.modDma_keeps | split
    | (apply keeps_of_pair; assumption) | (apply keeps_of_trip; assumption) | refine keeps_of_some (by assumption) ?_ | dsimp -zeta only
    | fail_if_no_progress apply keeps_upd

/-! Bridge -/

theorem State.modBrg_keeps (s : State) (f : Bridge → Bridge) {F : Nat} {S : State} (hK : Keeps F S s)
    (hF : within 6291456 F = true := by exact within_trans hF (by decide)) : Keeps F S (State.modBrg s f) := by
  unfold State.modBrg
  repeat' with_reducible first
    | assumption | (intro p hp; cases p <;> with_unfolding_all first | exact foot_absurd hF hp (by decide) | exact rfl)
    | fail_if_no_progress apply keeps_upd

theorem State.modVc_keeps (s : State) (v : Nat) (f : VcState → VcState) {F : Nat} {S : State} (hK : Keeps F S s)
    (hF : within 6291456 F = true := by exact within_trans hF (by decide)) : Keeps F S (State.modVc s v f) := by
  unfold State.modVc
  repeat' with_reducible first | assumption | apply State.modBrg_keeps

theorem State.flitOut_keeps (s : State) (f : SentFlit) {F : Nat} {S : State} (hK : Keeps F S s)
    (hF : within 35184378380288 F = true := by exact within_trans hF (by decide)) : Keeps F S (State.flitOut s f) := by
  unfold State.flitOut
  repeat' with_reducible first | assumption | exact within_trans hF (by decide) | apply State.emit_keeps | apply State.modBrg_keeps

theorem State.stampOut_keeps (s : State) {F : Nat} {S : State} (hK : Keeps F S s)
    (hF : within 6291456 F = true := by exact within_trans hF (by decide)) : Keeps F S (State.stampOut s) := by
  unfold State.stampOut
  repeat' with_reducible first | assumption | apply State.modBrg_keeps

theorem State.sendFlit_keeps (s : State) (f : SentFlit) {F : Nat} {S : State} (hK : Keeps F S s)
    (hF : within 35184378380288 F = true := by exact within_trans hF (by decide)) : Keeps F S (State.sendFlit s f) := by
  unfold State.sendFlit
  repeat' with_reducible first
    | assumption | exact within_trans hF (by decide) | apply State.flitOut_keeps | apply State.modBrg_keeps | apply State.stampOut_keeps | split

theorem State.takeRet_keeps (s : State) {F : Nat} {S : State} (hK : Keeps F S s)
    (hF : within 6291456 F = true := by exact within_trans hF (by decide)) : Keeps F S (State.takeRet s).1 := by
  unfold State.takeRet
  repeat' with_reducible first | assumption | apply State.modVc_keeps | split

theorem State.pumpFlits_keeps (s : State) (fuel : Nat) {F : Nat} {S : State} (hK : Keeps F S s)
    (hF : within 35184378380288 F = true := by exact within_trans hF (by decide)) : Keeps F S (s.pumpFlits fuel) := by
  induction fuel generalizing s with
  | zero => exact hK
  | succ n ih =>
    unfold State.pumpFlits
    split
    · exact hK
    · split
      · exact hK
      · split
        · exact hK
        · exact ih _ (State.sendFlit_keeps _ _ (State.takeRet_keeps _ (State.modBrg_keeps _ _ hK)))

theorem State.ctlFlit_keeps (s : State) {F : Nat} {S : State} (hK : Keeps F S s)
    (hF : within 35184378380288 F = true := by exact within_trans hF (by decide)) : Keeps F S (State.ctlFlit s) := by
  unfold State.ctlFlit
  repeat' with_reducible first | assumption | exact within_trans hF (by decide) | apply State.modBrg_keeps | apply State.sendFlit_keeps | split

theorem State.startOne_keeps (s : State) (m : BrMsg) (e : Option EvMsg) {F : Nat} {S : State} (hK : Keeps F S s)
    (hF : within 35184445490184 F = true := by exact within_trans hF (by decide)) : Keeps F S (State.startOne s m e) := by
  unfold State.startOne
  repeat' with_reducible first
    | assumption | exact within_trans hF (by decide)
    | (intro p hp; cases p <;> with_unfolding_all first | exact foot_absurd hF hp (by decide) | exact rfl) | apply State.emit_keeps
    | apply State.modBrg_keeps | apply State.modVc_keeps | apply State.seqDone_keeps | apply State.seqMoved_keeps | apply State.setReg_keeps | split
    | fail_if_no_progress apply keeps_upd

theorem State.startMsg_keeps (s : State) {F : Nat} {S : State} (hK : Keeps F S s)
    (hF : within 35184445490184 F = true := by exact within_trans hF (by decide)) : Keeps F S (State.startMsg s) := by
  unfold State.startMsg
  repeat' with_reducible first
    | assumption | exact within_trans hF (by decide) | apply State.modBrg_keeps | apply State.pumpFlits_keeps | apply State.startOne_keeps
    | apply State.timeMark_keeps | split

theorem State.onDie_keeps (s : State) (m : BrMsg) {F : Nat} {S : State} (hK : Keeps F S s)
    (hF : within 35184445494280 F = true := by exact within_trans hF (by decide)) : Keeps F S (State.onDie s m) := by
  unfold State.onDie
  repeat' with_reducible first
    | assumption | exact within_trans hF (by decide) | apply State.modBand_keeps | apply State.modVc_keeps | apply State.seqMoved_keeps
    | apply State.startOne_keeps | split

theorem execBridgeMessageSend_keeps (s : State) {F : Nat} {S : State} (hK : Keeps F S s)
    (hF : within 35184445494280 F = true := by exact within_trans hF (by decide)) : KeepsA F S (execBridgeMessageSend s) := by
  unfold execBridgeMessageSend
  repeat' with_reducible first
    | assumption | apply keepsA_next | exact within_trans hF (by decide) | apply State.ctlFlit_keeps | apply State.onDie_keeps
    | apply State.startMsg_keeps | split

theorem State.onDieTick_keeps (s : State) {F : Nat} {S : State} (hK : Keeps F S s)
    (hF : within 6291456 F = true := by exact within_trans hF (by decide)) : Keeps F S (State.onDieTick s) := by
  unfold State.onDieTick
  repeat' with_reducible first | assumption | apply State.modBrg_keeps | split

theorem State.retrainStart_keeps (s : State) {F : Nat} {S : State} (hK : Keeps F S s)
    (hF : within 35184378380288 F = true := by exact within_trans hF (by decide)) : Keeps F S (State.retrainStart s) := by
  unfold State.retrainStart
  repeat' with_reducible first | assumption | exact within_trans hF (by decide) | apply State.emit_keeps | apply State.modBrg_keeps | split

theorem State.replayStart_keeps (s : State) {F : Nat} {S : State} (hK : Keeps F S s)
    (hF : within 35184378381320 F = true := by exact within_trans hF (by decide)) : Keeps F S (State.replayStart s) := by
  unfold State.replayStart
  repeat' with_reducible first
    | assumption | exact within_trans hF (by decide)
    | (intro p hp; cases p <;> with_unfolding_all first | exact foot_absurd hF hp (by decide) | exact rfl) | apply State.bump_keeps
    | apply State.modBrg_keeps | apply State.raise_keeps | apply State.retrainStart_keeps | split | fail_if_no_progress apply keeps_upd

theorem State.resendAll_keeps (s : State) {F : Nat} {S : State} (hK : Keeps F S s)
    (hF : within 35184378380288 F = true := by exact within_trans hF (by decide)) : Keeps F S (State.resendAll s) := by
  unfold State.resendAll
  repeat' with_reducible first
    | assumption | exact within_trans hF (by decide) | apply State.flitOut_keeps | apply State.modBrg_keeps | (apply keeps_foldl; intro y n hy)

theorem execReplay_keeps (s : State) {F : Nat} {S : State} (hK : Keeps F S s)
    (hF : within 35184378380288 F = true := by exact within_trans hF (by decide)) : KeepsA F S (execReplay s) := by
  unfold execReplay
  repeat' with_reducible first | assumption | apply keepsA_next | apply State.resendAll_keeps | split

theorem execReplayTimeout_keeps (s : State) {F : Nat} {S : State} (hK : Keeps F S s)
    (hF : within 35184378381320 F = true := by exact within_trans hF (by decide)) : KeepsA F S (execReplayTimeout s) := by
  unfold execReplayTimeout
  repeat' with_reducible first | assumption | apply keepsA_next | apply State.replayStart_keeps | split

theorem State.ackTo_keeps (s : State) (a : Nat) {F : Nat} {S : State} (hK : Keeps F S s)
    (hF : within 6291456 F = true := by exact within_trans hF (by decide)) : Keeps F S (State.ackTo s a) := by
  unfold State.ackTo
  repeat' with_reducible first | assumption | apply State.modBrg_keeps | split

theorem execLaneLockLoss_keeps (lane : Nat) (s : State) {F : Nat} {S : State} (hK : Keeps F S s)
    (hF : within 35184378380288 F = true := by exact within_trans hF (by decide)) : KeepsA F S (execLaneLockLoss lane s) := by
  unfold execLaneLockLoss
  repeat' with_reducible first | assumption | apply keepsA_next | apply State.retrainStart_keeps | split

theorem execSkpErrors_keeps (lane n : Nat) (s : State) {F : Nat} {S : State} (hK : Keeps F S s)
    (hF : within 35184378380288 F = true := by exact within_trans hF (by decide)) : KeepsA F S (execSkpErrors lane n s) := by
  unfold execSkpErrors
  repeat' with_reducible first
    | assumption | extract_lets +onlyGivenNames y | apply keepsA_next | exact within_trans hF (by decide) | apply State.modBrg_keeps
    | apply State.retrainStart_keeps | split

theorem State.rejoinRun_keeps (s : State) {F : Nat} {S : State} (hK : Keeps F S s)
    (hF : within 35184378380288 F = true := by exact within_trans hF (by decide)) : Keeps F S (State.rejoinRun s) := by
  unfold State.rejoinRun
  repeat' with_reducible first | assumption | exact within_trans hF (by decide) | apply State.modBrg_keeps | apply State.retrainStart_keeps | split

theorem execRejoinRetrainDue_keeps (s : State) {F : Nat} {S : State} (hK : Keeps F S s)
    (hF : within 35184378380288 F = true := by exact within_trans hF (by decide)) : KeepsA F S (execRejoinRetrainDue s) := by
  unfold execRejoinRetrainDue
  repeat' with_reducible first
    | assumption | apply keepsA_next | exact within_trans hF (by decide) | apply State.modBrg_keeps | apply State.rejoinRun_keeps | split

theorem State.rejoinTick_keeps (s : State) {F : Nat} {S : State} (hK : Keeps F S s)
    (hF : within 35184378380288 F = true := by exact within_trans hF (by decide)) : Keeps F S (State.rejoinTick s) := by
  unfold State.rejoinTick
  repeat' with_reducible first | assumption | apply State.rejoinRun_keeps | split

theorem State.brgDrop_keeps (s : State) (l : Nat) {F : Nat} {S : State} (hK : Keeps F S s)
    (hF : within 6292488 F = true := by exact within_trans hF (by decide)) : Keeps F S (State.brgDrop s l) := by
  unfold State.brgDrop
  repeat' with_reducible first
    | assumption | exact within_trans hF (by decide) | apply State.modBrg_keeps | apply State.raise_keeps | apply State.setF_keeps

theorem State.brgRejoin_keeps (s : State) (l : Nat) {F : Nat} {S : State} (hK : Keeps F S s)
    (hF : within 6292488 F = true := by exact within_trans hF (by decide)) : Keeps F S (State.brgRejoin s l) := by
  unfold State.brgRejoin
  repeat' with_reducible first | assumption | exact within_trans hF (by decide) | apply State.modBrg_keeps | apply State.raise_keeps

theorem State.bandsBack_keeps (s : State) {F : Nat} {S : State} (hK : Keeps F S s)
    (hF : within 71323648 F = true := by exact within_trans hF (by decide)) : Keeps F S (State.bandsBack s) := by
  unfold State.bandsBack
  repeat' with_reducible first
    | assumption | exact within_trans hF (by decide) | apply State.modBand_keeps | apply State.nowResident_keeps | (apply keeps_foldl; intro y n hy)
    | split

theorem State.relaysBusy_keeps (s : State) {F : Nat} {S : State} (hK : Keeps F S s)
    (hF : within 35184376285192 F = true := by exact within_trans hF (by decide)) : Keeps F S (State.relaysBusy s) := by
  unfold State.relaysBusy
  repeat' with_reducible first
    | assumption | (intro p hp; cases p <;> with_unfolding_all first | exact foot_absurd hF hp (by decide) | exact rfl) | apply State.keepSend_keeps
    | (apply keeps_foldl; intro y n hy) | fail_if_no_progress apply keeps_upd

theorem State.evBack_keeps (s : State) {F : Nat} {S : State} (hK : Keeps F S s)
    (hF : within 1024 F = true := by exact within_trans hF (by decide)) : Keeps F S (State.evBack s) := by
  unfold State.evBack
  repeat' with_reducible first
    | assumption | (intro p hp; cases p <;> with_unfolding_all first | exact foot_absurd hF hp (by decide) | exact rfl)
    | fail_if_no_progress apply keeps_upd

theorem State.movesHalt_keeps (s : State) {F : Nat} {S : State} (hK : Keeps F S s)
    (hF : within 106959880 F = true := by exact within_trans hF (by decide)) : Keeps F S (State.movesHalt s) := by
  unfold State.movesHalt
  repeat' with_reducible first | assumption | apply State.dmaHalt_keeps | (apply keeps_each; intro y n hy) | split

theorem State.linkDown_keeps (s : State) {F : Nat} {S : State} (hK : Keeps F S s)
    (hF : within 35184479067656 F = true := by exact within_trans hF (by decide)) : Keeps F S (State.linkDown s) := by
  unfold State.linkDown
  repeat' with_reducible first
    | assumption | exact within_trans hF (by decide) | apply State.bandsBack_keeps | apply State.evBack_keeps | apply State.modBrg_keeps
    | apply State.movesHalt_keeps | apply State.plinthCheck_keeps | apply State.raise_keeps | apply State.relaysBusy_keeps | split

theorem execBridgeDown_keeps (s : State) {F : Nat} {S : State} (hK : Keeps F S s)
    (hF : within 35184479067656 F = true := by exact within_trans hF (by decide)) : KeepsA F S (execBridgeDown s) := by
  unfold execBridgeDown
  repeat' with_reducible first | assumption | apply keepsA_next | apply State.linkDown_keeps | split

theorem State.retrainDone_keeps (s : State) (pass dur : Nat) (books : List (Nat × Nat × Nat)) {F : Nat} {S : State} (hK : Keeps F S s)
    (hF : within 35184479067656 F = true := by exact within_trans hF (by decide)) : Keeps F S (State.retrainDone s pass dur books) := by
  unfold State.retrainDone
  repeat' with_reducible first
    | assumption
    | (extract_lets +onlyGivenNames y; refine keeps_cut (F := F) (S := S) (y := y) ?_ ?_; dsimp -zeta only [y]; clear y; rotate_left; clear_value y; intro hy; rotate_right)
    | extract_lets +onlyGivenNames y | exact within_trans hF (by decide) | apply State.brgDrop_keeps | apply State.brgRejoin_keeps
    | apply State.bump_keeps | apply State.emit_keeps | apply State.linkDown_keeps | apply State.modBrg_keeps | apply State.pumpFlits_keeps
    | apply State.raise_keeps | apply State.resendAll_keeps | apply State.setF_keeps | (apply keeps_each; intro y n hy) | split

theorem execRetrainEnd_keeps (pass dur : Nat) (books : List (Nat × Nat × Nat)) (s : State) {F : Nat} {S : State} (hK : Keeps F S s)
    (hF : within 35184479067656 F = true := by exact within_trans hF (by decide)) : KeepsA F S (execRetrainEnd pass dur books s) := by
  unfold execRetrainEnd
  repeat' with_reducible first
    | assumption
    | (extract_lets +onlyGivenNames y; refine keeps_cut (F := F) (S := S) (y := y) ?_ ?_; dsimp -zeta only [y]; clear y; rotate_left; clear_value y; intro hy; rotate_right)
    | extract_lets +onlyGivenNames y | apply keepsA_next | apply State.retrainDone_keeps | split

theorem State.governed_keeps (s : State) (w : Word) {F : Nat} {S : State} (hK : Keeps F S s)
    (hF : within 8 F = true := by exact within_trans hF (by decide)) : Keeps F S (State.governed s w) := by
  unfold State.governed
  repeat' with_reducible first | assumption | apply State.setF_keeps | split

theorem State.trainStart_keeps (s : State) {F : Nat} {S : State} (hK : Keeps F S s)
    (hF : within 35184378381320 F = true := by exact within_trans hF (by decide)) : Keeps F S (State.trainStart s) := by
  unfold State.trainStart
  repeat' with_reducible first
    | assumption | exact within_trans hF (by decide) | apply State.emit_keeps | apply State.modBrg_keeps | apply State.raise_keeps

theorem execBridgeTrainingAttempt_keeps (s : State) {F : Nat} {S : State} (hK : Keeps F S s)
    (hF : within 35184378381320 F = true := by exact within_trans hF (by decide)) : KeepsA F S (execBridgeTrainingAttempt s) := by
  unfold execBridgeTrainingAttempt
  repeat' with_reducible first | assumption | apply keepsA_next | apply State.trainStart_keeps | split

theorem State.dirLatch_keeps (s : State) {F : Nat} {S : State} (hK : Keeps F S s)
    (hF : within 6291456 F = true := by exact within_trans hF (by decide)) : Keeps F S (State.dirLatch s) := by
  unfold State.dirLatch
  repeat' with_reducible first | assumption | apply State.modBrg_keeps

theorem State.trained_keeps (s : State) (lanes : Nat) (peer : Option BridgePeer) {F : Nat} {S : State} (hK : Keeps F S s)
    (hF : within 35184479067660 F = true := by exact within_trans hF (by decide)) : Keeps F S (State.trained s lanes peer) := by
  unfold State.trained
  repeat' with_reducible first
    | assumption | extract_lets +onlyGivenNames y | exact within_trans hF (by decide)
    | (intro p hp; cases p <;> with_unfolding_all first | exact foot_absurd hF hp (by decide) | exact rfl) | apply State.dirLatch_keeps
    | apply State.governed_keeps | apply State.linkDown_keeps | apply State.modBrg_keeps | apply State.plinthCheck_keeps | apply State.toBridge_keeps
    | apply State.tookFree_keeps | split | fail_if_no_progress apply keeps_upd

theorem execBridgeTraining_keeps (lanes : Nat) (peer : Option BridgePeer) (s : State) {F : Nat} {S : State} (hK : Keeps F S s)
    (hF : within 35184479067660 F = true := by exact within_trans hF (by decide)) : KeepsA F S (execBridgeTraining lanes peer s) := by
  unfold execBridgeTraining
  repeat' with_reducible first
    | assumption | apply keepsA_next | exact within_trans hF (by decide)
    | (intro p hp; cases p <;> with_unfolding_all first | exact foot_absurd hF hp (by decide) | exact rfl) | apply State.modBrg_keeps
    | apply State.trainStart_keeps | apply State.trained_keeps | split | fail_if_no_progress apply keeps_upd

theorem State.badMsg_keeps (s : State) {F : Nat} {S : State} (hK : Keeps F S s)
    (hF : within 2098184 F = true := by exact within_trans hF (by decide)) : Keeps F S (State.badMsg s) := by
  unfold State.badMsg
  repeat' with_reducible first | assumption | exact within_trans hF (by decide) | apply State.bump_keeps | apply State.raise_keeps

theorem execBrBadMessage_keeps (vc type : Nat) (s : State) {F : Nat} {S : State} (hK : Keeps F S s)
    (hF : within 2098184 F = true := by exact within_trans hF (by decide)) : KeepsA F S (execBrBadMessage vc type s) := by
  unfold execBrBadMessage
  repeat' with_reducible first | assumption | apply keepsA_next | apply State.badMsg_keeps | split

theorem State.timeMark_keeps (s : State) {F : Nat} {S : State} (hK : Keeps F S s)
    (hF : within 6291456 F = true := by exact within_trans hF (by decide)) : Keeps F S (State.timeMark s) := by
  unfold State.timeMark
  repeat' with_reducible first | assumption | exact within_trans hF (by decide) | apply State.modBrg_keeps | apply State.toBridge_keeps | split

theorem execBrTimeMark_keeps (s : State) {F : Nat} {S : State} (hK : Keeps F S s)
    (hF : within 6291456 F = true := by exact within_trans hF (by decide)) : KeepsA F S (execBrTimeMark s) := by
  unfold execBrTimeMark
  repeat' with_reducible first
    | assumption | apply keepsA_next | apply State.dirLatch_keeps | apply State.modBrg_keeps | apply State.timeMark_keeps | split

theorem State.timeSample_keeps (s : State) (o d : Int) {F : Nat} {S : State} (hK : Keeps F S s)
    (hF : within 962078966792 F = true := by exact within_trans hF (by decide)) : Keeps F S (State.timeSample s o d) := by
  unfold State.timeSample
  repeat' with_reducible first
    | assumption | exact within_trans hF (by decide)
    | (intro p hp; cases p <;> with_unfolding_all first | exact foot_absurd hF hp (by decide) | exact rfl) | apply State.modBrg_keeps
    | apply State.raiseIf_keeps | apply State.servo_keeps | apply State.setReg_keeps | split | fail_if_no_progress apply keeps_upd

theorem execBrTimeFollow_keeps (t1 t4 : Nat) (s : State) {F : Nat} {S : State} (hK : Keeps F S s)
    (hF : within 962078966792 F = true := by exact within_trans hF (by decide)) : KeepsA F S (execBrTimeFollow t1 t4 s) := by
  unfold execBrTimeFollow
  repeat' with_reducible first
    | assumption | apply keepsA_next | exact within_trans hF (by decide) | apply State.modBrg_keeps | apply State.timeSample_keeps | split

theorem execTimeExchangeMissed_keeps (s : State) {F : Nat} {S : State} (hK : Keeps F S s)
    (hF : within 137445245960 F = true := by exact within_trans hF (by decide)) : KeepsA F S (execTimeExchangeMissed s) := by
  unfold execTimeExchangeMissed
  repeat' with_reducible first
    | assumption | apply keepsA_next | exact within_trans hF (by decide) | apply State.holdover_keeps | apply State.modBrg_keeps
    | apply State.raiseIf_keeps | split

/-! Ptp -/

theorem execPtpSyncSend_keeps (p : Nat) (s : State) {F : Nat} {S : State} (hK : Keeps F S s)
    (hF : within 36283883716608 F = true := by exact within_trans hF (by decide)) : KeepsA F S (execPtpSyncSend p s) := by
  unfold execPtpSyncSend
  repeat' with_reducible first
    | exact hK | assumption
    | (extract_lets +onlyGivenNames y; refine keeps_cut (F := F) (S := S) (y := y) ?_ ?_; dsimp -zeta only [y]; clear y; rotate_left; clear_value y; intro hy; rotate_right)
    | (extract_lets +onlyGivenNames y; refine keeps_cut1 (F := F) (S := S) (y := y) ?_ ?_; dsimp -zeta only [y]; clear y; rotate_left; clear_value y; intro hy; rotate_right)
    | (extract_lets +onlyGivenNames y; refine keeps_cutR (F := F) (S := S) (y := y) ?_ ?_; dsimp -zeta only [y]; clear y; rotate_left; clear_value y; intro hy; rotate_right)
    | extract_lets +onlyGivenNames y | apply keepsA_next | apply keepsO_some | exact keepsO_none | exact within_trans hF (by decide)
    | (intro p hp; cases p <;> with_unfolding_all first | exact foot_absurd hF hp (by decide) | exact rfl) | apply State.emit_keeps
    | apply State.modPtp_keeps | split | (apply keeps_of_pair; assumption) | (apply keeps_of_trip; assumption)
    | refine keeps_of_some (by assumption) ?_ | dsimp -zeta only | fail_if_no_progress apply keeps_upd

theorem execPtpAnnounceSend_keeps (p : Nat) (s : State) {F : Nat} {S : State} (hK : Keeps F S s)
    (hF : within 36283883716608 F = true := by exact within_trans hF (by decide)) : KeepsA F S (execPtpAnnounceSend p s) := by
  unfold execPtpAnnounceSend
  repeat' with_reducible first
    | exact hK | assumption
    | (extract_lets +onlyGivenNames y; refine keeps_cut (F := F) (S := S) (y := y) ?_ ?_; dsimp -zeta only [y]; clear y; rotate_left; clear_value y; intro hy; rotate_right)
    | (extract_lets +onlyGivenNames y; refine keeps_cut1 (F := F) (S := S) (y := y) ?_ ?_; dsimp -zeta only [y]; clear y; rotate_left; clear_value y; intro hy; rotate_right)
    | (extract_lets +onlyGivenNames y; refine keeps_cutR (F := F) (S := S) (y := y) ?_ ?_; dsimp -zeta only [y]; clear y; rotate_left; clear_value y; intro hy; rotate_right)
    | extract_lets +onlyGivenNames y | apply keepsA_next | apply keepsO_some | exact keepsO_none | exact within_trans hF (by decide)
    | (intro p hp; cases p <;> with_unfolding_all first | exact foot_absurd hF hp (by decide) | exact rfl) | apply State.emit_keeps
    | apply State.modPtp_keeps | split | (apply keeps_of_pair; assumption) | (apply keeps_of_trip; assumption)
    | refine keeps_of_some (by assumption) ?_ | dsimp -zeta only | fail_if_no_progress apply keeps_upd

theorem execPtpDelayReqSend_keeps (p : Nat) (s : State) {F : Nat} {S : State} (hK : Keeps F S s)
    (hF : within 36283883716608 F = true := by exact within_trans hF (by decide)) : KeepsA F S (execPtpDelayReqSend p s) := by
  unfold execPtpDelayReqSend
  repeat' with_reducible first
    | exact hK | assumption
    | (extract_lets +onlyGivenNames y; refine keeps_cut (F := F) (S := S) (y := y) ?_ ?_; dsimp -zeta only [y]; clear y; rotate_left; clear_value y; intro hy; rotate_right)
    | (extract_lets +onlyGivenNames y; refine keeps_cut1 (F := F) (S := S) (y := y) ?_ ?_; dsimp -zeta only [y]; clear y; rotate_left; clear_value y; intro hy; rotate_right)
    | (extract_lets +onlyGivenNames y; refine keeps_cutR (F := F) (S := S) (y := y) ?_ ?_; dsimp -zeta only [y]; clear y; rotate_left; clear_value y; intro hy; rotate_right)
    | extract_lets +onlyGivenNames y | apply keepsA_next | apply keepsO_some | exact keepsO_none | exact within_trans hF (by decide)
    | (intro p hp; cases p <;> with_unfolding_all first | exact foot_absurd hF hp (by decide) | exact rfl) | apply State.emit_keeps
    | apply State.modPtp_keeps | split | (apply keeps_of_pair; assumption) | (apply keeps_of_trip; assumption)
    | refine keeps_of_some (by assumption) ?_ | dsimp -zeta only | fail_if_no_progress apply keeps_upd

theorem State.ptpOffset_keeps (s : State) (p : Nat) {F : Nat} {S : State} (hK : Keeps F S s)
    (hF : within 2061586400264 F = true := by exact within_trans hF (by decide)) : Keeps F S (State.ptpOffset s p) := by
  unfold State.ptpOffset
  repeat' with_reducible first
    | exact hK | assumption
    | (extract_lets +onlyGivenNames y; refine keeps_cut (F := F) (S := S) (y := y) ?_ ?_; dsimp -zeta only [y]; clear y; rotate_left; clear_value y; intro hy; rotate_right)
    | (extract_lets +onlyGivenNames y; refine keeps_cut1 (F := F) (S := S) (y := y) ?_ ?_; dsimp -zeta only [y]; clear y; rotate_left; clear_value y; intro hy; rotate_right)
    | (extract_lets +onlyGivenNames y; refine keeps_cutR (F := F) (S := S) (y := y) ?_ ?_; dsimp -zeta only [y]; clear y; rotate_left; clear_value y; intro hy; rotate_right)
    | extract_lets +onlyGivenNames y | apply keepsA_next | apply keepsO_some | exact keepsO_none | exact within_trans hF (by decide)
    | (intro p hp; cases p <;> with_unfolding_all first | exact foot_absurd hF hp (by decide) | exact rfl) | apply State.modPtp_keeps
    | apply State.servo_keeps | split | (apply keeps_of_pair; assumption) | (apply keeps_of_trip; assumption)
    | refine keeps_of_some (by assumption) ?_ | dsimp -zeta only | fail_if_no_progress apply keeps_upd

theorem execPtpSync_keeps (p : Nat) (m : PtpIn) (s : State) {F : Nat} {S : State} (hK : Keeps F S s)
    (hF : within 2061586400264 F = true := by exact within_trans hF (by decide)) : KeepsA F S (execPtpSync p m s) := by
  unfold execPtpSync
  repeat' with_reducible first
    | exact hK | assumption
    | (extract_lets +onlyGivenNames y; refine keeps_cut (F := F) (S := S) (y := y) ?_ ?_; dsimp -zeta only [y]; clear y; rotate_left; clear_value y; intro hy; rotate_right)
    | (extract_lets +onlyGivenNames y; refine keeps_cut1 (F := F) (S := S) (y := y) ?_ ?_; dsimp -zeta only [y]; clear y; rotate_left; clear_value y; intro hy; rotate_right)
    | (extract_lets +onlyGivenNames y; refine keeps_cutR (F := F) (S := S) (y := y) ?_ ?_; dsimp -zeta only [y]; clear y; rotate_left; clear_value y; intro hy; rotate_right)
    | extract_lets +onlyGivenNames y | apply keepsA_next | apply keepsO_some | exact keepsO_none | exact within_trans hF (by decide)
    | (intro p hp; cases p <;> with_unfolding_all first | exact foot_absurd hF hp (by decide) | exact rfl) | apply State.modPtp_keeps
    | apply State.ptpOffset_keeps | split | (apply keeps_of_pair; assumption) | (apply keeps_of_trip; assumption)
    | refine keeps_of_some (by assumption) ?_ | dsimp -zeta only | fail_if_no_progress apply keeps_upd

theorem execPtpFollowUp_keeps (p : Nat) (m : PtpIn) (s : State) {F : Nat} {S : State} (hK : Keeps F S s)
    (hF : within 2061586400264 F = true := by exact within_trans hF (by decide)) : KeepsA F S (execPtpFollowUp p m s) := by
  unfold execPtpFollowUp
  repeat' with_reducible first
    | exact hK | assumption
    | (extract_lets +onlyGivenNames y; refine keeps_cut (F := F) (S := S) (y := y) ?_ ?_; dsimp -zeta only [y]; clear y; rotate_left; clear_value y; intro hy; rotate_right)
    | (extract_lets +onlyGivenNames y; refine keeps_cut1 (F := F) (S := S) (y := y) ?_ ?_; dsimp -zeta only [y]; clear y; rotate_left; clear_value y; intro hy; rotate_right)
    | (extract_lets +onlyGivenNames y; refine keeps_cutR (F := F) (S := S) (y := y) ?_ ?_; dsimp -zeta only [y]; clear y; rotate_left; clear_value y; intro hy; rotate_right)
    | extract_lets +onlyGivenNames y | apply keepsA_next | apply keepsO_some | exact keepsO_none | exact within_trans hF (by decide)
    | (intro p hp; cases p <;> with_unfolding_all first | exact foot_absurd hF hp (by decide) | exact rfl) | apply State.modPtp_keeps
    | apply State.ptpOffset_keeps | split | (apply keeps_of_pair; assumption) | (apply keeps_of_trip; assumption)
    | refine keeps_of_some (by assumption) ?_ | dsimp -zeta only | fail_if_no_progress apply keeps_upd

theorem execPtpDelayReq_keeps (p : Nat) (m : PtpIn) (s : State) {F : Nat} {S : State} (hK : Keeps F S s)
    (hF : within 35184372088832 F = true := by exact within_trans hF (by decide)) : KeepsA F S (execPtpDelayReq p m s) := by
  unfold execPtpDelayReq
  repeat' with_reducible first
    | exact hK | assumption
    | (extract_lets +onlyGivenNames y; refine keeps_cut (F := F) (S := S) (y := y) ?_ ?_; dsimp -zeta only [y]; clear y; rotate_left; clear_value y; intro hy; rotate_right)
    | (extract_lets +onlyGivenNames y; refine keeps_cut1 (F := F) (S := S) (y := y) ?_ ?_; dsimp -zeta only [y]; clear y; rotate_left; clear_value y; intro hy; rotate_right)
    | (extract_lets +onlyGivenNames y; refine keeps_cutR (F := F) (S := S) (y := y) ?_ ?_; dsimp -zeta only [y]; clear y; rotate_left; clear_value y; intro hy; rotate_right)
    | extract_lets +onlyGivenNames y | apply keepsA_next | apply keepsO_some | exact keepsO_none | exact within_trans hF (by decide)
    | (intro p hp; cases p <;> with_unfolding_all first | exact foot_absurd hF hp (by decide) | exact rfl) | apply State.emit_keeps | split
    | (apply keeps_of_pair; assumption) | (apply keeps_of_trip; assumption) | refine keeps_of_some (by assumption) ?_ | dsimp -zeta only

theorem execPtpDelayResp_keeps (p : Nat) (m : PtpIn) (s : State) {F : Nat} {S : State} (hK : Keeps F S s)
    (hF : within 1099511627784 F = true := by exact within_trans hF (by decide)) : KeepsA F S (execPtpDelayResp p m s) := by
  unfold execPtpDelayResp
  repeat' with_reducible first
    | exact hK | assumption
    | (extract_lets +onlyGivenNames y; refine keeps_cut (F := F) (S := S) (y := y) ?_ ?_; dsimp -zeta only [y]; clear y; rotate_left; clear_value y; intro hy; rotate_right)
    | (extract_lets +onlyGivenNames y; refine keeps_cut1 (F := F) (S := S) (y := y) ?_ ?_; dsimp -zeta only [y]; clear y; rotate_left; clear_value y; intro hy; rotate_right)
    | (extract_lets +onlyGivenNames y; refine keeps_cutR (F := F) (S := S) (y := y) ?_ ?_; dsimp -zeta only [y]; clear y; rotate_left; clear_value y; intro hy; rotate_right)
    | extract_lets +onlyGivenNames y | apply keepsA_next | apply keepsO_some | exact keepsO_none | exact within_trans hF (by decide)
    | (intro p hp; cases p <;> with_unfolding_all first | exact foot_absurd hF hp (by decide) | exact rfl) | apply State.modPtp_keeps
    | apply State.setReg_keeps | split | (apply keeps_of_pair; assumption) | (apply keeps_of_trip; assumption)
    | refine keeps_of_some (by assumption) ?_ | dsimp -zeta only | fail_if_no_progress apply keeps_upd

theorem execPtpAnnounce_keeps (p : Nat) (m : PtpIn) (s : State) {F : Nat} {S : State} (hK : Keeps F S s)
    (hF : within 1099513725960 F = true := by exact within_trans hF (by decide)) : KeepsA F S (execPtpAnnounce p m s) := by
  unfold execPtpAnnounce
  repeat' with_reducible first
    | exact hK | assumption
    | (extract_lets +onlyGivenNames y; refine keeps_cut (F := F) (S := S) (y := y) ?_ ?_; dsimp -zeta only [y]; clear y; rotate_left; clear_value y; intro hy; rotate_right)
    | (extract_lets +onlyGivenNames y; refine keeps_cut1 (F := F) (S := S) (y := y) ?_ ?_; dsimp -zeta only [y]; clear y; rotate_left; clear_value y; intro hy; rotate_right)
    | (extract_lets +onlyGivenNames y; refine keeps_cutR (F := F) (S := S) (y := y) ?_ ?_; dsimp -zeta only [y]; clear y; rotate_left; clear_value y; intro hy; rotate_right)
    | extract_lets +onlyGivenNames y | apply keepsA_next | apply keepsO_some | exact keepsO_none | exact within_trans hF (by decide)
    | (intro p hp; cases p <;> with_unfolding_all first | exact foot_absurd hF hp (by decide) | exact rfl) | apply State.modPtp_keeps
    | apply State.raiseIf_keeps | split | (apply keeps_of_pair; assumption) | (apply keeps_of_trip; assumption)
    | refine keeps_of_some (by assumption) ?_ | dsimp -zeta only | fail_if_no_progress apply keeps_upd

theorem execPtpAnnounceTimeout_keeps (p : Nat) (s : State) {F : Nat} {S : State} (hK : Keeps F S s)
    (hF : within 1236952679432 F = true := by exact within_trans hF (by decide)) : KeepsA F S (execPtpAnnounceTimeout p s) := by
  unfold execPtpAnnounceTimeout
  repeat' with_reducible first
    | exact hK | assumption
    | (extract_lets +onlyGivenNames y; refine keeps_cut (F := F) (S := S) (y := y) ?_ ?_; dsimp -zeta only [y]; clear y; rotate_left; clear_value y; intro hy; rotate_right)
    | (extract_lets +onlyGivenNames y; refine keeps_cut1 (F := F) (S := S) (y := y) ?_ ?_; dsimp -zeta only [y]; clear y; rotate_left; clear_value y; intro hy; rotate_right)
    | (extract_lets +onlyGivenNames y; refine keeps_cutR (F := F) (S := S) (y := y) ?_ ?_; dsimp -zeta only [y]; clear y; rotate_left; clear_value y; intro hy; rotate_right)
    | extract_lets +onlyGivenNames y | apply keepsA_next | apply keepsO_some | exact keepsO_none | exact within_trans hF (by decide)
    | (intro p hp; cases p <;> with_unfolding_all first | exact foot_absurd hF hp (by decide) | exact rfl) | apply State.holdover_keeps
    | apply State.modPtp_keeps | apply State.raise_keeps | split | (apply keeps_of_pair; assumption) | (apply keeps_of_trip; assumption)
    | refine keeps_of_some (by assumption) ?_ | dsimp -zeta only | fail_if_no_progress apply keeps_upd

theorem execTransparentClockForward_keeps (p type : Nat) (m : PtpIn) (s : State) {F : Nat} {S : State} (hK : Keeps F S s)
    (hF : within 35184372088832 F = true := by exact within_trans hF (by decide)) : KeepsA F S (execTransparentClockForward p type m s) := by
  unfold execTransparentClockForward
  repeat' with_reducible first
    | exact hK | assumption
    | (extract_lets +onlyGivenNames y; refine keeps_cut (F := F) (S := S) (y := y) ?_ ?_; dsimp -zeta only [y]; clear y; rotate_left; clear_value y; intro hy; rotate_right)
    | (extract_lets +onlyGivenNames y; refine keeps_cut1 (F := F) (S := S) (y := y) ?_ ?_; dsimp -zeta only [y]; clear y; rotate_left; clear_value y; intro hy; rotate_right)
    | (extract_lets +onlyGivenNames y; refine keeps_cutR (F := F) (S := S) (y := y) ?_ ?_; dsimp -zeta only [y]; clear y; rotate_left; clear_value y; intro hy; rotate_right)
    | extract_lets +onlyGivenNames y | apply keepsA_next | apply keepsO_some | exact keepsO_none | exact within_trans hF (by decide)
    | (intro p hp; cases p <;> with_unfolding_all first | exact foot_absurd hF hp (by decide) | exact rfl) | apply State.each_keeps
    | apply State.emit_keeps | (apply keeps_each; intro y n hy) | split | (apply keeps_of_pair; assumption) | (apply keeps_of_trip; assumption)
    | refine keeps_of_some (by assumption) ?_ | dsimp -zeta only

end Sys2Proof.Machine
end

