-- ==== Sys2Proof/Laws/KeepsMotion.lean ====
section
/-! SUPPORT. What the operations of step and motor channels, the thermal unit and consumables keep (Steppers, Motors, Thermal, Consumables). -/
namespace Sys2Proof.Machine
set_option linter.all false
set_option Elab.async false
/-! Steppers -/

theorem State.stpRefuse_keeps (s : State) (n code : Nat) {F : Nat} {S : State} (hK : Keeps F S s)
    (hF : within 270533640 F = true := by exact within_trans hF (by decide)) : Keeps F S (State.stpRefuse s n code).1 := by
  unfold State.stpRefuse
  repeat' with_reducible first | assumption | exact within_trans hF (by decide) | apply State.modStp_keeps | apply State.raise_keeps

theorem State.stpAccept_keeps (s : State) (n : Nat) (f : Stepper → Stepper) {F : Nat} {S : State} (hK : Keeps F S s)
    (hF : within 268435456 F = true := by exact within_trans hF (by decide)) : Keeps F S (State.stpAccept s n f).1 := by
  unfold State.stpAccept
  repeat' with_reducible first | assumption | apply State.modStp_keeps

theorem State.stpStart_keeps (s : State) (n : Nat) (dir : Bool) {F : Nat} {S : State} (hK : Keeps F S s)
    (hF : within 270533640 F = true := by exact within_trans hF (by decide)) : Keeps F S (State.stpStart s n dir) := by
  unfold State.stpStart
  repeat' with_reducible first
    | assumption | exact within_trans hF (by decide)
    | (intro p hp; cases p <;> with_unfolding_all first | exact foot_absurd hF hp (by decide) | exact rfl) | apply State.modStp_keeps
    | apply State.raise_keeps | split | fail_if_no_progress apply keeps_upd

theorem State.stpMove_keeps (s : State) (n : Nat) {F : Nat} {S : State} (hK : Keeps F S s)
    (hF : within 270533640 F = true := by exact within_trans hF (by decide)) : Keeps F S (State.stpMove s n).1 := by
  unfold State.stpMove
  repeat' with_reducible first | assumption | extract_lets +onlyGivenNames y | apply State.stpRefuse_keeps | apply State.stpStart_keeps | split

theorem State.stpResume_keeps (s : State) (n : Nat) {F : Nat} {S : State} (hK : Keeps F S s)
    (hF : within 270533640 F = true := by exact within_trans hF (by decide)) : Keeps F S (State.stpResume s n).1 := by
  unfold State.stpResume
  repeat' with_reducible first | assumption | apply State.stpRefuse_keeps | apply State.stpStart_keeps | split

theorem State.stpFaultStop_keeps (s : State) (n : Nat) {F : Nat} {S : State} (hK : Keeps F S s)
    (hF : within 268435456 F = true := by exact within_trans hF (by decide)) : Keeps F S (State.stpFaultStop s n) := by
  unfold State.stpFaultStop
  repeat' with_reducible first | assumption | apply State.modStp_keeps

theorem State.stpStep_keeps (s : State) (n : Nat) {F : Nat} {S : State} (hK : Keeps F S s)
    (hF : within 35184640524288 F = true := by exact within_trans hF (by decide)) : Keeps F S (State.stpStep s n) := by
  unfold State.stpStep
  repeat' with_reducible first | assumption | exact within_trans hF (by decide) | apply State.emit_keeps | apply State.modStp_keeps

theorem State.stpFault_keeps (s : State) (n c : Nat) {F : Nat} {S : State} (hK : Keeps F S s)
    (hF : within 35184642622472 F = true := by exact within_trans hF (by decide)) : Keeps F S (State.stpFault s n c) := by
  unfold State.stpFault
  repeat' with_reducible first
    | assumption | exact within_trans hF (by decide)
    | (intro p hp; cases p <;> with_unfolding_all first | exact foot_absurd hF hp (by decide) | exact rfl) | apply State.modStp_keeps
    | apply State.pickOff_keeps | apply State.raise_keeps | apply State.stpFaultStop_keeps | apply State.stpStep_keeps | split
    | fail_if_no_progress apply keeps_upd

theorem State.stpDeferred_keeps (s : State) {F : Nat} {S : State} (hK : Keeps F S s)
    (hF : within 268435456 F = true := by exact within_trans hF (by decide)) : Keeps F S (State.stpDeferred s) := by
  unfold State.stpDeferred
  repeat' with_reducible first
    | assumption | extract_lets +onlyGivenNames y | apply State.stpFaultStop_keeps | (apply keeps_each; intro y n hy) | split

theorem State.stpStopped_keeps (s : State) (n : Nat) {F : Nat} {S : State} (hK : Keeps F S s)
    (hF : within 270533640 F = true := by exact within_trans hF (by decide)) : Keeps F S (State.stpStopped s n) := by
  unfold State.stpStopped
  repeat' with_reducible first | assumption | exact within_trans hF (by decide) | apply State.modStp_keeps | apply State.raise_keeps

theorem State.stpStop_keeps (s : State) (n : Nat) {F : Nat} {S : State} (hK : Keeps F S s)
    (hF : within 270533640 F = true := by exact within_trans hF (by decide)) : Keeps F S (State.stpStop s n).1 := by
  unfold State.stpStop
  repeat' with_reducible first
    | assumption | extract_lets +onlyGivenNames y | exact within_trans hF (by decide) | apply State.modStp_keeps | apply State.stpAccept_keeps
    | apply State.stpRefuse_keeps | apply State.stpStopped_keeps | split

theorem State.stpClear_keeps (s : State) (n : Nat) {F : Nat} {S : State} (hK : Keeps F S s)
    (hF : within 268435456 F = true := by exact within_trans hF (by decide)) : Keeps F S (State.stpClear s n).1 := by
  unfold State.stpClear
  repeat' with_reducible first | assumption | apply State.stpAccept_keeps

theorem State.stpEnable_keeps (s : State) (n : Nat) {F : Nat} {S : State} (hK : Keeps F S s)
    (hF : within 268435456 F = true := by exact within_trans hF (by decide)) : Keeps F S (State.stpEnable s n).1 := by
  unfold State.stpEnable
  repeat' with_reducible first | assumption | apply State.stpAccept_keeps

theorem State.stpDisable_keeps (s : State) (n : Nat) {F : Nat} {S : State} (hK : Keeps F S s)
    (hF : within 270533640 F = true := by exact within_trans hF (by decide)) : Keeps F S (State.stpDisable s n).1 := by
  unfold State.stpDisable
  repeat' with_reducible first | assumption | exact within_trans hF (by decide) | apply State.stpAccept_keeps | apply State.stpRefuse_keeps | split

theorem State.stpTarget_keeps (s : State) (n : Nat) (v : Word) {F : Nat} {S : State} (hK : Keeps F S s)
    (hF : within 270533640 F = true := by exact within_trans hF (by decide)) : Keeps F S (State.stpTarget s n v).1 := by
  unfold State.stpTarget
  repeat' with_reducible first
    | assumption | extract_lets +onlyGivenNames y | exact within_trans hF (by decide) | apply State.stpAccept_keeps | apply State.stpRefuse_keeps
    | split

theorem State.refStage_keeps (s : State) (n stage : Nat) (fromRest : Bool) {F : Nat} {S : State} (hK : Keeps F S s)
    (hF : within 268435456 F = true := by exact within_trans hF (by decide)) : Keeps F S (State.refStage s n stage fromRest) := by
  unfold State.refStage
  repeat' with_reducible first | assumption | apply State.modStp_keeps

theorem State.refSet_keeps (s : State) (n : Nat) {F : Nat} {S : State} (hK : Keeps F S s)
    (hF : within 268435456 F = true := by exact within_trans hF (by decide)) : Keeps F S (State.refSet s n) := by
  unfold State.refSet
  repeat' with_reducible first | assumption | apply State.modStp_keeps

theorem State.refEnd_keeps (s : State) (n : Nat) {F : Nat} {S : State} (hK : Keeps F S s)
    (hF : within 270533640 F = true := by exact within_trans hF (by decide)) : Keeps F S (State.refEnd s n) := by
  unfold State.refEnd
  repeat' with_reducible first
    | assumption | exact within_trans hF (by decide) | apply State.modStp_keeps | apply State.raise_keeps | apply State.refSet_keeps

theorem State.refGo_keeps (s : State) (n f : Nat) {F : Nat} {S : State} (h : Keeps F S s)
    (hF : within 35184642622472 F = true := by exact within_trans hF (by decide)) : Keeps F S (s.refGo n f) := by
  induction f generalizing s with
  | zero => exact h
  | succ f ih =>
    unfold State.refGo
    repeat' with_reducible first
      | exact h | apply ih | apply State.refEnd_keeps | apply State.refSet_keeps | apply State.refStage_keeps | apply State.stpFault_keeps
      | apply State.modStp_keeps | exact within_trans hF (by decide) | extract_lets | split

theorem State.stpReference_keeps (s : State) (n : Nat) {F : Nat} {S : State} (hK : Keeps F S s)
    (hF : within 35184642622472 F = true := by exact within_trans hF (by decide)) : Keeps F S (State.stpReference s n).1 := by
  unfold State.stpReference
  repeat' with_reducible first
    | assumption | extract_lets +onlyGivenNames y | exact within_trans hF (by decide) | apply State.modStp_keeps | apply State.refGo_keeps
    | apply State.refStage_keeps | apply State.stpRefuse_keeps | split

theorem State.stpFollow_keeps (s : State) (n : Nat) {F : Nat} {S : State} (hK : Keeps F S s)
    (hF : within 35184642622472 F = true := by exact within_trans hF (by decide)) : Keeps F S (State.stpFollow s n) := by
  unfold State.stpFollow
  repeat' with_reducible first
    | assumption | extract_lets +onlyGivenNames y | exact within_trans hF (by decide) | apply State.refEnd_keeps | apply State.refStage_keeps
    | apply State.stpFault_keeps | split

theorem State.stpPulse_keeps (s : State) (n : Nat) {F : Nat} {S : State} (hK : Keeps F S s)
    (hF : within 35184642622472 F = true := by exact within_trans hF (by decide)) : Keeps F S (State.stpPulse s n) := by
  unfold State.stpPulse
  repeat' with_reducible first
    | assumption | exact within_trans hF (by decide) | apply State.modStp_keeps | apply State.raise_keeps | apply State.refGo_keeps
    | apply State.stpFollow_keeps | apply State.stpStep_keeps | apply State.stpStopped_keeps | split

theorem State.stpReplan_keeps (s : State) (n : Nat) {F : Nat} {S : State} (hK : Keeps F S s)
    (hF : within 268435456 F = true := by exact within_trans hF (by decide)) : Keeps F S (State.stpReplan s n) := by
  unfold State.stpReplan
  repeat' with_reducible first | assumption | apply State.modStp_keeps

theorem State.stpGap_keeps (s : State) {F : Nat} {S : State} (hK : Keeps F S s)
    (hF : within 268435456 F = true := by exact within_trans hF (by decide)) : Keeps F S (State.stpGap s) := by
  unfold State.stpGap
  repeat' with_reducible first | assumption | apply State.stpReplan_keeps | (apply keeps_each; intro y n hy) | split

theorem execStpMove_keeps (n : Nat) (s : State) {F : Nat} {S : State} (hK : Keeps F S s)
    (hF : within 35184642622472 F = true := by exact within_trans hF (by decide)) : KeepsA F S (execStpMove n s) := by
  unfold execStpMove
  repeat' with_reducible first
    | assumption | apply keepsA_next | exact within_trans hF (by decide) | apply State.answer_keeps | apply State.stpMove_keeps | split

theorem execStpStop_keeps (n : Nat) (s : State) {F : Nat} {S : State} (hK : Keeps F S s)
    (hF : within 35184642622472 F = true := by exact within_trans hF (by decide)) : KeepsA F S (execStpStop n s) := by
  unfold execStpStop
  repeat' with_reducible first
    | assumption | extract_lets +onlyGivenNames y | apply keepsA_next | exact within_trans hF (by decide) | apply State.answer_keeps
    | apply State.stpStop_keeps | split

theorem execStpResume_keeps (n : Nat) (s : State) {F : Nat} {S : State} (hK : Keeps F S s)
    (hF : within 35184642622472 F = true := by exact within_trans hF (by decide)) : KeepsA F S (execStpResume n s) := by
  unfold execStpResume
  repeat' with_reducible first
    | assumption | apply keepsA_next | exact within_trans hF (by decide) | apply State.answer_keeps | apply State.stpResume_keeps | split

theorem execStpReference_keeps (n : Nat) (s : State) {F : Nat} {S : State} (hK : Keeps F S s)
    (hF : within 35184642622472 F = true := by exact within_trans hF (by decide)) : KeepsA F S (execStpReference n s) := by
  unfold execStpReference
  repeat' with_reducible first
    | assumption | extract_lets +onlyGivenNames y | apply keepsA_next | exact within_trans hF (by decide) | apply State.answer_keeps
    | apply State.stpReference_keeps | split

theorem execStpClear_keeps (n : Nat) (s : State) {F : Nat} {S : State} (hK : Keeps F S s)
    (hF : within 35184640524288 F = true := by exact within_trans hF (by decide)) : KeepsA F S (execStpClear n s) := by
  unfold execStpClear
  repeat' with_reducible first
    | assumption | apply keepsA_next | exact within_trans hF (by decide) | apply State.answer_keeps | apply State.stpClear_keeps | split

theorem execStpEnable_keeps (n : Nat) (s : State) {F : Nat} {S : State} (hK : Keeps F S s)
    (hF : within 35184640524288 F = true := by exact within_trans hF (by decide)) : KeepsA F S (execStpEnable n s) := by
  unfold execStpEnable
  repeat' with_reducible first
    | assumption | apply keepsA_next | exact within_trans hF (by decide) | apply State.answer_keeps | apply State.stpEnable_keeps | split

theorem execStpDisable_keeps (n : Nat) (s : State) {F : Nat} {S : State} (hK : Keeps F S s)
    (hF : within 35184642622472 F = true := by exact within_trans hF (by decide)) : KeepsA F S (execStpDisable n s) := by
  unfold execStpDisable
  repeat' with_reducible first
    | assumption | apply keepsA_next | exact within_trans hF (by decide) | apply State.answer_keeps | apply State.stpDisable_keeps | split

theorem execStpTargetWrite_keeps (n : Nat) (v : Word) (s : State) {F : Nat} {S : State} (hK : Keeps F S s)
    (hF : within 35184642622472 F = true := by exact within_trans hF (by decide)) : KeepsA F S (execStpTargetWrite n v s) := by
  unfold execStpTargetWrite
  repeat' with_reducible first
    | assumption | extract_lets +onlyGivenNames y | apply keepsA_next | exact within_trans hF (by decide) | apply State.answer_keeps
    | apply State.stpTarget_keeps | split

theorem execStepPulse_keeps (n : Nat) (s : State) {F : Nat} {S : State} (hK : Keeps F S s)
    (hF : within 35184642622472 F = true := by exact within_trans hF (by decide)) : KeepsA F S (execStepPulse n s) := by
  unfold execStepPulse
  repeat' with_reducible first | assumption | apply keepsA_next | apply State.stpPulse_keeps | split

theorem execStpFault_keeps (n cause : Nat) (s : State) {F : Nat} {S : State} (hK : Keeps F S s)
    (hF : within 35184642622472 F = true := by exact within_trans hF (by decide)) : KeepsA F S (execStpFault n cause s) := by
  unfold execStpFault
  repeat' with_reducible first | assumption | apply keepsA_next | apply State.stpFault_keeps | split

theorem execStallInput_keeps (n : Nat) (level : Bool) (s : State) {F : Nat} {S : State} (hK : Keeps F S s)
    (hF : within 35184642622472 F = true := by exact within_trans hF (by decide)) : KeepsA F S (execStallInput n level s) := by
  unfold execStallInput
  repeat' with_reducible first
    | assumption | apply keepsA_next | exact within_trans hF (by decide) | apply State.modStp_keeps | apply State.refGo_keeps
    | apply State.stpFault_keeps | split

theorem execHomeEdge_keeps (n : Nat) (level : Bool) (s : State) {F : Nat} {S : State} (hK : Keeps F S s)
    (hF : within 35184642622472 F = true := by exact within_trans hF (by decide)) : KeepsA F S (execHomeEdge n level s) := by
  unfold execHomeEdge
  repeat' with_reducible first
    | assumption | apply keepsA_next | exact within_trans hF (by decide) | apply State.modStp_keeps | apply State.refGo_keeps | split

theorem execEncoderEdge_keeps (e : Nat) (a b : Bool) (s : State) {F : Nat} {S : State} (hK : Keeps F S s)
    (hF : within 35185179493388 F = true := by exact within_trans hF (by decide)) : KeepsA F S (execEncoderEdge e a b s) := by
  unfold execEncoderEdge
  repeat' with_reducible first
    | assumption | apply keepsA_next | exact within_trans hF (by decide)
    | (intro p hp; cases p <;> with_unfolding_all first | exact foot_absurd hF hp (by decide) | exact rfl) | apply State.stpFollow_keeps
    | apply State.tookFree_keeps | (apply keeps_each; intro y n hy) | split | fail_if_no_progress apply keeps_upd

/-! Motors -/

theorem State.motRefuse_keeps (s : State) (n code : Nat) {F : Nat} {S : State} (hK : Keeps F S s)
    (hF : within 1075840008 F = true := by exact within_trans hF (by decide)) : Keeps F S (State.motRefuse s n code).1 := by
  unfold State.motRefuse
  repeat' with_reducible first | assumption | exact within_trans hF (by decide) | apply State.modMot_keeps | apply State.raise_keeps

theorem State.motAccept_keeps (s : State) (n : Nat) (f : Motor → Motor) {F : Nat} {S : State} (hK : Keeps F S s)
    (hF : within 1073741824 F = true := by exact within_trans hF (by decide)) : Keeps F S (State.motAccept s n f).1 := by
  unfold State.motAccept
  repeat' with_reducible first | assumption | apply State.modMot_keeps

theorem State.motStopFault_keeps (s : State) (n c : Nat) {F : Nat} {S : State} (hK : Keeps F S s)
    (hF : within 1075840008 F = true := by exact within_trans hF (by decide)) : Keeps F S (State.motStopFault s n c) := by
  unfold State.motStopFault
  repeat' with_reducible first | assumption | exact within_trans hF (by decide) | apply State.modMot_keeps | apply State.raise_keeps

theorem State.motFails_keeps (s : State) (n c : Nat) {F : Nat} {S : State} (hK : Keeps F S s)
    (hF : within 1075848200 F = true := by exact within_trans hF (by decide)) : Keeps F S (State.motFails s n c) := by
  unfold State.motFails
  repeat' with_reducible first
    | assumption | exact within_trans hF (by decide) | apply State.motStopFault_keeps | apply State.pickOff_keeps | apply State.wasteAll_keeps | split

theorem State.motHot_keeps (s : State) (n : Nat) {F : Nat} {S : State} (hK : Keeps F S s)
    (hF : within 1075840008 F = true := by exact within_trans hF (by decide)) : Keeps F S (State.motHot s n) := by
  unfold State.motHot
  repeat' with_reducible first
    | assumption | exact within_trans hF (by decide)
    | (intro p hp; cases p <;> with_unfolding_all first | exact foot_absurd hF hp (by decide) | exact rfl) | apply State.modMot_keeps
    | apply State.motStopFault_keeps | apply State.pickOff_keeps | apply State.raise_keeps | split | fail_if_no_progress apply keeps_upd

theorem State.motDeferred_keeps (s : State) {F : Nat} {S : State} (hK : Keeps F S s)
    (hF : within 1073741824 F = true := by exact within_trans hF (by decide)) : Keeps F S (State.motDeferred s) := by
  unfold State.motDeferred
  repeat' with_reducible first | assumption | apply State.modMot_keeps | (apply keeps_each; intro y n hy) | split

theorem State.motBack_keeps (s : State) (n : Nat) {F : Nat} {S : State} (hK : Keeps F S s)
    (hF : within 262160 F = true := by exact within_trans hF (by decide)) : Keeps F S (State.motBack s n) := by
  unfold State.motBack
  repeat' with_reducible first | assumption | exact within_trans hF (by decide) | apply State.modStn_keeps | split

theorem State.motCatch_keeps (s : State) (n : Nat) {F : Nat} {S : State} (hK : Keeps F S s)
    (hF : within 1074003984 F = true := by exact within_trans hF (by decide)) : Keeps F S (State.motCatch s n) := by
  unfold State.motCatch
  repeat' with_reducible first | assumption | exact within_trans hF (by decide) | apply State.modMot_keeps | apply State.motBack_keeps

theorem State.motStart_keeps (s : State) (n : Nat) {F : Nat} {S : State} (hK : Keeps F S s)
    (hF : within 1076110360 F = true := by exact within_trans hF (by decide)) : Keeps F S (State.motStart s n) := by
  unfold State.motStart
  repeat' with_reducible first
    | assumption | exact within_trans hF (by decide)
    | (intro p hp; cases p <;> with_unfolding_all first | exact foot_absurd hF hp (by decide) | exact rfl) | apply State.modMot_keeps
    | apply State.motBack_keeps | apply State.motFails_keeps | split | fail_if_no_progress apply keeps_upd

theorem State.motRun_keeps (s : State) (n : Nat) {F : Nat} {S : State} (hK : Keeps F S s)
    (hF : within 1075840012 F = true := by exact within_trans hF (by decide)) : Keeps F S (State.motRun s n).1 := by
  unfold State.motRun
  repeat' with_reducible first
    | assumption | exact within_trans hF (by decide) | apply State.motAccept_keeps | apply State.motRefuse_keeps | apply State.tookFree_keeps | split

theorem State.motStop_keeps (s : State) (n : Nat) {F : Nat} {S : State} (hK : Keeps F S s)
    (hF : within 1075840008 F = true := by exact within_trans hF (by decide)) : Keeps F S (State.motStop s n).1 := by
  unfold State.motStop
  repeat' with_reducible first | assumption | exact within_trans hF (by decide) | apply State.motAccept_keeps | apply State.motRefuse_keeps | split

theorem State.motCoast_keeps (s : State) (n : Nat) {F : Nat} {S : State} (hK : Keeps F S s)
    (hF : within 1075840008 F = true := by exact within_trans hF (by decide)) : Keeps F S (State.motCoast s n).1 := by
  unfold State.motCoast
  repeat' with_reducible first | assumption | exact within_trans hF (by decide) | apply State.motAccept_keeps | apply State.motRefuse_keeps | split

theorem State.motClear_keeps (s : State) (n : Nat) {F : Nat} {S : State} (hK : Keeps F S s)
    (hF : within 1075840008 F = true := by exact within_trans hF (by decide)) : Keeps F S (State.motClear s n).1 := by
  unfold State.motClear
  repeat' with_reducible first | assumption | exact within_trans hF (by decide) | apply State.motAccept_keeps | apply State.motRefuse_keeps | split

theorem State.motSpeed_keeps (s : State) (n : Nat) (v : Word) {F : Nat} {S : State} (hK : Keeps F S s)
    (hF : within 1076110360 F = true := by exact within_trans hF (by decide)) : Keeps F S (State.motSpeed s n v).1 := by
  unfold State.motSpeed
  repeat' with_reducible first
    | assumption | extract_lets +onlyGivenNames y | exact within_trans hF (by decide) | apply State.motAccept_keeps | apply State.motRefuse_keeps
    | apply State.motStart_keeps | split | (apply keeps_of_pair; assumption)

theorem State.motLoop_keeps (s : State) (n dt : Nat) {F : Nat} {S : State} (hK : Keeps F S s)
    (hF : within 1073741828 F = true := by exact within_trans hF (by decide)) : Keeps F S (s.motLoop n dt) := by
  have hc : ∀ x : State, Keeps F S x → Keeps F S (x.motCorr n).2 := by
    intro x hx
    unfold State.motCorr
    extract_lets t
    split
    · exact State.tookFree_keeps _ hx
    · exact hx
  unfold State.motLoop
  extract_lets m per goal cmd
  exact State.modMot_keeps _ _ _ (hc _ (State.modMot_keeps _ _ _ hK))

theorem State.motSat_keeps (s : State) (n : Nat) (c : Bool) {F : Nat} {S : State} (hK : Keeps F S s)
    (hF : within 1075840008 F = true := by exact within_trans hF (by decide)) : Keeps F S (State.motSat s n c) := by
  unfold State.motSat
  repeat' with_reducible first | assumption | exact within_trans hF (by decide) | apply State.modMot_keeps | apply State.raise_keeps | split

theorem State.motSector_keeps (s : State) (n : Nat) {F : Nat} {S : State} (hK : Keeps F S s)
    (hF : within 1075840008 F = true := by exact within_trans hF (by decide)) : Keeps F S (State.motSector s n) := by
  unfold State.motSector
  repeat' with_reducible first | assumption | exact within_trans hF (by decide) | apply State.modMot_keeps | apply State.motSat_keeps

theorem State.motTurn_keeps (s : State) (n dt : Nat) {F : Nat} {S : State} (hK : Keeps F S s)
    (hF : within 1075840012 F = true := by exact within_trans hF (by decide)) : Keeps F S (State.motTurn s n dt) := by
  unfold State.motTurn
  repeat' with_reducible first | assumption | exact within_trans hF (by decide) | apply State.motLoop_keeps | apply State.motSat_keeps

theorem State.motSlow_keeps (s : State) (n : Nat) {F : Nat} {S : State} (hK : Keeps F S s)
    (hF : within 1076110360 F = true := by exact within_trans hF (by decide)) : Keeps F S (State.motSlow s n) := by
  unfold State.motSlow
  repeat' with_reducible first
    | assumption | extract_lets +onlyGivenNames y | exact within_trans hF (by decide) | apply State.modMot_keeps | apply State.motStart_keeps | split

theorem execMotRun_keeps (n : Nat) (s : State) {F : Nat} {S : State} (hK : Keeps F S s)
    (hF : within 35185447928844 F = true := by exact within_trans hF (by decide)) : KeepsA F S (execMotRun n s) := by
  unfold execMotRun
  repeat' with_reducible first
    | assumption | apply keepsA_next | exact within_trans hF (by decide) | apply State.answer_keeps | apply State.motRun_keeps | split

theorem execMotStop_keeps (n : Nat) (s : State) {F : Nat} {S : State} (hK : Keeps F S s)
    (hF : within 35185447928840 F = true := by exact within_trans hF (by decide)) : KeepsA F S (execMotStop n s) := by
  unfold execMotStop
  repeat' with_reducible first
    | assumption | apply keepsA_next | exact within_trans hF (by decide) | apply State.answer_keeps | apply State.motStop_keeps | split

theorem execMotCoast_keeps (n : Nat) (s : State) {F : Nat} {S : State} (hK : Keeps F S s)
    (hF : within 35185447928840 F = true := by exact within_trans hF (by decide)) : KeepsA F S (execMotCoast n s) := by
  unfold execMotCoast
  repeat' with_reducible first
    | assumption | apply keepsA_next | exact within_trans hF (by decide) | apply State.answer_keeps | apply State.motCoast_keeps | split

theorem execMotClear_keeps (n : Nat) (s : State) {F : Nat} {S : State} (hK : Keeps F S s)
    (hF : within 35185447928840 F = true := by exact within_trans hF (by decide)) : KeepsA F S (execMotClear n s) := by
  unfold execMotClear
  repeat' with_reducible first
    | assumption | apply keepsA_next | exact within_trans hF (by decide) | apply State.answer_keeps | apply State.motClear_keeps | split

theorem execMotSpeedWrite_keeps (n : Nat) (v : Word) (s : State) {F : Nat} {S : State} (hK : Keeps F S s)
    (hF : within 35185448199192 F = true := by exact within_trans hF (by decide)) : KeepsA F S (execMotSpeedWrite n v s) := by
  unfold execMotSpeedWrite
  repeat' with_reducible first
    | assumption | extract_lets +onlyGivenNames y | apply keepsA_next | exact within_trans hF (by decide) | apply State.answer_keeps
    | apply State.motSpeed_keeps | split | (apply keeps_of_pair; assumption)

theorem execListenTimeout_keeps (n : Nat) (s : State) {F : Nat} {S : State} (hK : Keeps F S s)
    (hF : within 1076110360 F = true := by exact within_trans hF (by decide)) : KeepsA F S (execListenTimeout n s) := by
  unfold execListenTimeout
  repeat' with_reducible first | assumption | apply keepsA_next | apply State.motStart_keeps | split

theorem execAlignEnd_keeps (n : Nat) (s : State) {F : Nat} {S : State} (hK : Keeps F S s)
    (hF : within 1073741824 F = true := by exact within_trans hF (by decide)) : KeepsA F S (execAlignEnd n s) := by
  unfold execAlignEnd
  repeat' with_reducible first | assumption | apply keepsA_next | apply State.modMot_keeps | split

theorem execHandoverTimeout_keeps (n : Nat) (s : State) {F : Nat} {S : State} (hK : Keeps F S s)
    (hF : within 1075848200 F = true := by exact within_trans hF (by decide)) : KeepsA F S (execHandoverTimeout n s) := by
  unfold execHandoverTimeout
  repeat' with_reducible first | assumption | apply keepsA_next | apply State.motFails_keeps | split

theorem execZeroCrossing_keeps (n dt : Nat) (pos : Bool) (s : State) {F : Nat} {S : State} (hK : Keeps F S s)
    (hF : within 1076110360 F = true := by exact within_trans hF (by decide)) : KeepsA F S (execZeroCrossing n dt pos s) := by
  unfold execZeroCrossing
  repeat' with_reducible first
    | assumption | extract_lets +onlyGivenNames y | apply keepsA_next | exact within_trans hF (by decide) | apply State.modMot_keeps
    | apply State.motCatch_keeps | apply State.motSlow_keeps | split

theorem execHallEdge_keeps (n code dt : Nat) (s : State) {F : Nat} {S : State} (hK : Keeps F S s)
    (hF : within 1076110360 F = true := by exact within_trans hF (by decide)) : KeepsA F S (execHallEdge n code dt s) := by
  unfold execHallEdge
  repeat' with_reducible first
    | assumption | extract_lets +onlyGivenNames y | apply keepsA_next | exact within_trans hF (by decide) | apply State.modMot_keeps
    | apply State.motFails_keeps | apply State.motSector_keeps | apply State.motSlow_keeps | split

theorem execMotAtSpeed_keeps (n : Nat) (s : State) {F : Nat} {S : State} (hK : Keeps F S s)
    (hF : within 1075840008 F = true := by exact within_trans hF (by decide)) : KeepsA F S (execMotAtSpeed n s) := by
  unfold execMotAtSpeed
  repeat' with_reducible first
    | assumption | extract_lets +onlyGivenNames y | apply keepsA_next | exact within_trans hF (by decide) | apply State.modMot_keeps
    | apply State.raise_keeps | split

theorem execRotorLost_keeps (n : Nat) (s : State) {F : Nat} {S : State} (hK : Keeps F S s)
    (hF : within 35185448363032 F = true := by exact within_trans hF (by decide)) : KeepsA F S (execRotorLost n s) := by
  unfold execRotorLost
  repeat' with_reducible first
    | assumption | extract_lets +onlyGivenNames y | apply keepsA_next | exact within_trans hF (by decide) | apply State.bump_keeps
    | apply State.modMot_keeps | apply State.modStn_keeps | apply State.raise_keeps | apply State.sosGone_keeps | split

theorem execListenEnd_keeps (n : Nat) (s : State) {F : Nat} {S : State} (hK : Keeps F S s)
    (hF : within 1076110360 F = true := by exact within_trans hF (by decide)) : KeepsA F S (execListenEnd n s) := by
  unfold execListenEnd
  repeat' with_reducible first
    | assumption | extract_lets +onlyGivenNames y | apply keepsA_next | exact within_trans hF (by decide) | apply State.bump_keeps
    | apply State.motCatch_keeps | apply State.motFails_keeps | apply State.raise_keeps | split

theorem execIlimTrip_keeps (n t : Nat) (s : State) {F : Nat} {S : State} (hK : Keeps F S s)
    (hF : within 1073741832 F = true := by exact within_trans hF (by decide)) : KeepsA F S (execIlimTrip n t s) := by
  unfold execIlimTrip
  repeat' with_reducible first
    | assumption | extract_lets +onlyGivenNames y | apply keepsA_next | exact within_trans hF (by decide) | apply State.bump_keeps
    | apply State.modMot_keeps | split

theorem execPhaseLockChange_keeps (n : Nat) (s : State) {F : Nat} {S : State} (hK : Keeps F S s)
    (hF : within 1075840008 F = true := by exact within_trans hF (by decide)) : KeepsA F S (execPhaseLockChange n s) := by
  unfold execPhaseLockChange
  repeat' with_reducible first
    | assumption | extract_lets +onlyGivenNames y | apply keepsA_next | exact within_trans hF (by decide) | apply State.modMot_keeps
    | apply State.raise_keeps | split

theorem execCommutation_keeps (n : Nat) (s : State) {F : Nat} {S : State} (hK : Keeps F S s)
    (hF : within 1075840008 F = true := by exact within_trans hF (by decide)) : KeepsA F S (execCommutation n s) := by
  unfold execCommutation
  repeat' with_reducible first
    | assumption | extract_lets +onlyGivenNames y | apply keepsA_next | exact within_trans hF (by decide) | apply State.modMot_keeps
    | apply State.motSector_keeps | split

theorem execFloatingPhaseSample_keeps (n : Nat) (level : Bool) (s : State) {F : Nat} {S : State} (hK : Keeps F S s)
    (hF : within 1075840012 F = true := by exact within_trans hF (by decide)) : KeepsA F S (execFloatingPhaseSample n level s) := by
  unfold execFloatingPhaseSample
  repeat' with_reducible first
    | assumption | extract_lets +onlyGivenNames y | apply keepsA_next | exact within_trans hF (by decide)
    | (intro p hp; cases p <;> with_unfolding_all first | exact foot_absurd hF hp (by decide) | exact rfl) | apply State.modMot_keeps
    | apply State.motTurn_keeps | apply State.raise_keeps | split | fail_if_no_progress apply keeps_upd

theorem State.overvolt_keeps (s : State) {F : Nat} {S : State} (hK : Keeps F S s)
    (hF : within 35187863856648 F = true := by exact within_trans hF (by decide)) : Keeps F S (State.overvolt s) := by
  unfold State.overvolt
  repeat' with_reducible first
    | assumption | exact within_trans hF (by decide)
    | (intro p hp; cases p <;> with_unfolding_all first | exact foot_absurd hF hp (by decide) | exact rfl) | apply State.motStopFault_keeps
    | apply State.raise_keeps | apply State.setEstop_keeps | apply State.stpFault_keeps | apply State.wasteAll_keeps
    | (apply keeps_each; intro y n hy) | split | fail_if_no_progress apply keeps_upd

theorem execVbusSample_keeps (code : Nat) (s : State) {F : Nat} {S : State} (hK : Keeps F S s)
    (hF : within 35187863856648 F = true := by exact within_trans hF (by decide)) : KeepsA F S (execVbusSample code s) := by
  unfold execVbusSample
  repeat' with_reducible first
    | assumption | apply keepsA_next | exact within_trans hF (by decide)
    | (intro p hp; cases p <;> with_unfolding_all first | exact foot_absurd hF hp (by decide) | exact rfl) | apply State.overvolt_keeps
    | apply State.raiseIf_keeps | apply State.setReg_keeps | split | fail_if_no_progress apply keeps_upd

theorem State.chopFails_keeps (s : State) {F : Nat} {S : State} (hK : Keeps F S s)
    (hF : within 2149581832 F = true := by exact within_trans hF (by decide)) : Keeps F S (State.chopFails s) := by
  unfold State.chopFails
  repeat' with_reducible first
    | assumption | exact within_trans hF (by decide)
    | (intro p hp; cases p <;> with_unfolding_all first | exact foot_absurd hF hp (by decide) | exact rfl) | apply State.raise_keeps
    | fail_if_no_progress apply keeps_upd

theorem execChopperFeedbackFault_keeps (s : State) {F : Nat} {S : State} (hK : Keeps F S s)
    (hF : within 2149581832 F = true := by exact within_trans hF (by decide)) : KeepsA F S (execChopperFeedbackFault s) := by
  unfold execChopperFeedbackFault
  repeat' with_reducible first | assumption | apply keepsA_next | apply State.chopFails_keeps | split

theorem execChopperOnTimeout_keeps (s : State) {F : Nat} {S : State} (hK : Keeps F S s)
    (hF : within 2149581832 F = true := by exact within_trans hF (by decide)) : KeepsA F S (execChopperOnTimeout s) := by
  unfold execChopperOnTimeout
  repeat' with_reducible first | assumption | apply keepsA_next | apply State.chopFails_keeps | split

theorem State.ovAck_keeps (s : State) {F : Nat} {S : State} (hK : Keeps F S s)
    (hF : within 2149582344 F = true := by exact within_trans hF (by decide)) : Keeps F S (State.ovAck s).1 := by
  unfold State.ovAck
  repeat' with_reducible first
    | assumption | exact within_trans hF (by decide)
    | (intro p hp; cases p <;> with_unfolding_all first | exact foot_absurd hF hp (by decide) | exact rfl) | apply State.setEstop_keeps | split
    | fail_if_no_progress apply keeps_upd

theorem State.chopAck_keeps (s : State) {F : Nat} {S : State} (hK : Keeps F S s)
    (hF : within 2147483648 F = true := by exact within_trans hF (by decide)) : Keeps F S (State.chopAck s).1 := by
  unfold State.chopAck
  repeat' with_reducible first
    | assumption | (intro p hp; cases p <;> with_unfolding_all first | exact foot_absurd hF hp (by decide) | exact rfl)
    | fail_if_no_progress apply keeps_upd

theorem execOvAck_keeps (s : State) {F : Nat} {S : State} (hK : Keeps F S s)
    (hF : within 35186521671176 F = true := by exact within_trans hF (by decide)) : KeepsA F S (execOvAck s) := by
  unfold execOvAck
  repeat' with_reducible first
    | assumption | apply keepsA_next | exact within_trans hF (by decide) | apply State.answer_keeps | apply State.ovAck_keeps | split

theorem execChopAck_keeps (s : State) {F : Nat} {S : State} (hK : Keeps F S s)
    (hF : within 35186519572480 F = true := by exact within_trans hF (by decide)) : KeepsA F S (execChopAck s) := by
  unfold execChopAck
  repeat' with_reducible first
    | assumption | apply keepsA_next | exact within_trans hF (by decide) | apply State.answer_keeps | apply State.chopAck_keeps | split

theorem State.motGap_keeps (s : State) {F : Nat} {S : State} (hK : Keeps F S s)
    (hF : within 1073741824 F = true := by exact within_trans hF (by decide)) : Keeps F S (State.motGap s) := by
  unfold State.motGap
  repeat' with_reducible first | assumption | apply State.modMot_keeps | (apply keeps_each; intro y n hy) | split

/-! Thermal -/

theorem State.sensLevels_keeps (s : State) (k : Nat) (t : Int) {F : Nat} {S : State} (hK : Keeps F S s)
    (hF : within 4297065480 F = true := by exact within_trans hF (by decide)) : Keeps F S (State.sensLevels s k t) := by
  unfold State.sensLevels
  repeat' with_reducible first | assumption | exact within_trans hF (by decide) | apply State.modSens_keeps | apply State.raiseIf_keeps

theorem State.sensTick_keeps (s : State) (i : ThermIn) (k : Nat) {F : Nat} {S : State} (hK : Keeps F S s)
    (hF : within 4297065480 F = true := by exact within_trans hF (by decide)) : Keeps F S (State.sensTick s i k) := by
  unfold State.sensTick
  repeat' with_reducible first
    | assumption | exact within_trans hF (by decide)
    | (intro p hp; cases p <;> with_unfolding_all first | exact foot_absurd hF hp (by decide) | exact rfl) | apply State.modSens_keeps
    | apply State.raiseIf_keeps | apply State.sensLevels_keeps | split | fail_if_no_progress apply keeps_upd

theorem State.fuserStat_keeps (s : State) {F : Nat} {S : State} (hK : Keeps F S s)
    (hF : within 8 F = true := by exact within_trans hF (by decide)) : Keeps F S (State.fuserStat s) := by
  unfold State.fuserStat
  repeat' with_reducible first | assumption | apply State.setF_keeps | split

theorem State.ladSet_keeps (s : State) (d tgt : Nat) {F : Nat} {S : State} (hK : Keeps F S s)
    (hF : within 8593081352 F = true := by exact within_trans hF (by decide)) : Keeps F S (State.ladSet s d tgt) := by
  unfold State.ladSet
  repeat' with_reducible first
    | assumption | exact within_trans hF (by decide) | apply State.fuserStat_keeps | apply State.modLad_keeps | apply State.modLink_keeps
    | apply State.raise_keeps | split

theorem State.critAction_keeps (s : State) (d : Nat) {F : Nat} {S : State} (hK : Keeps F S s)
    (hF : within 35185720828936 F = true := by exact within_trans hF (by decide)) : Keeps F S (State.critAction s d) := by
  unfold State.critAction
  repeat' with_reducible first
    | assumption | exact within_trans hF (by decide) | apply State.modStn_keeps | apply State.motHot_keeps | apply State.sendFault_keeps
    | apply State.stpFault_keeps | apply State.wasteAll_keeps | (apply keeps_each; intro y n hy) | split

theorem State.ladCount_keeps (s : State) (d : Nat) {F : Nat} {S : State} (hK : Keeps F S s)
    (hF : within 8589934592 F = true := by exact within_trans hF (by decide)) : Keeps F S (State.ladCount s d) := by
  unfold State.ladCount
  repeat' with_reducible first | assumption | apply State.modLad_keeps

theorem State.domTick_keeps (s : State) (d : Nat) {F : Nat} {S : State} (hK : Keeps F S s)
    (hF : within 35194311812104 F = true := by exact within_trans hF (by decide)) : Keeps F S (State.domTick s d) := by
  unfold State.domTick
  repeat' with_reducible first
    | assumption | exact within_trans hF (by decide)
    | (intro p hp; cases p <;> with_unfolding_all first | exact foot_absurd hF hp (by decide) | exact rfl) | apply State.critAction_keeps
    | apply State.ladCount_keeps | apply State.ladSet_keeps | apply State.modLad_keeps | apply State.raise_keeps | apply State.sendFault_keeps | split
    | fail_if_no_progress apply keeps_upd

theorem State.fuserNote_keeps (s : State) {F : Nat} {S : State} (hK : Keeps F S s)
    (hF : within 68721574920 F = true := by exact within_trans hF (by decide)) : Keeps F S (State.fuserNote s) := by
  unfold State.fuserNote
  repeat' with_reducible first
    | assumption | exact within_trans hF (by decide)
    | (intro p hp; cases p <;> with_unfolding_all first | exact foot_absurd hF hp (by decide) | exact rfl) | apply State.raise_keeps | split
    | fail_if_no_progress apply keeps_upd

theorem State.setPair_keeps (s : State) (h : Nat) (ok : Bool) {F : Nat} {S : State} (hK : Keeps F S s)
    (hF : within 17181967368 F = true := by exact within_trans hF (by decide)) : Keeps F S (State.setPair s h ok) := by
  unfold State.setPair
  repeat' with_reducible first | assumption | exact within_trans hF (by decide) | apply State.modHeat_keeps | apply State.raise_keeps

theorem State.pairTick_keeps (s : State) (h : Nat) {F : Nat} {S : State} (hK : Keeps F S s)
    (hF : within 17181967368 F = true := by exact within_trans hF (by decide)) : Keeps F S (State.pairTick s h) := by
  unfold State.pairTick
  repeat' with_reducible first | assumption | extract_lets +onlyGivenNames y | apply State.setPair_keeps | split

theorem execThermalTick_keeps (i : ThermIn) (s : State) {F : Nat} {S : State} (hK : Keeps F S s)
    (hF : within 35284506125320 F = true := by exact within_trans hF (by decide)) : KeepsA F S (execThermalTick i s) := by
  unfold execThermalTick
  repeat' with_reducible first
    | assumption | apply keepsA_next | exact within_trans hF (by decide) | apply State.domTick_keeps | apply State.each_keeps
    | apply State.fuserNote_keeps | apply State.fuserStat_keeps | apply State.pairTick_keeps | apply State.sensTick_keeps
    | (apply keeps_each; intro y n hy) | split

theorem execLadderDwellStep_keeps (d : Nat) (s : State) {F : Nat} {S : State} (hK : Keeps F S s)
    (hF : within 8593081352 F = true := by exact within_trans hF (by decide)) : KeepsA F S (execLadderDwellStep d s) := by
  unfold execLadderDwellStep
  repeat' with_reducible first
    | assumption | extract_lets +onlyGivenNames y | apply keepsA_next | exact within_trans hF (by decide) | apply State.ladCount_keeps
    | apply State.ladSet_keeps | split

theorem execDigitalSensorRead_keeps (k bits : Nat) (s : State) {F : Nat} {S : State} (hK : Keeps F S s)
    (hF : within 4294967296 F = true := by exact within_trans hF (by decide)) : KeepsA F S (execDigitalSensorRead k bits s) := by
  unfold execDigitalSensorRead
  repeat' with_reducible first | assumption | apply keepsA_next | apply State.modSens_keeps | split

theorem execSensorRecovered_keeps (k : Nat) (s : State) {F : Nat} {S : State} (hK : Keeps F S s)
    (hF : within 4297065480 F = true := by exact within_trans hF (by decide)) : KeepsA F S (execSensorRecovered k s) := by
  unfold execSensorRecovered
  repeat' with_reducible first
    | assumption | apply keepsA_next | exact within_trans hF (by decide) | apply State.modSens_keeps | apply State.sensLevels_keeps | split

theorem State.zcLost_keeps (s : State) {F : Nat} {S : State} (hK : Keeps F S s)
    (hF : within 85901444104 F = true := by exact within_trans hF (by decide)) : Keeps F S (State.zcLost s) := by
  unfold State.zcLost
  repeat' with_reducible first
    | assumption | exact within_trans hF (by decide)
    | (intro p hp; cases p <;> with_unfolding_all first | exact foot_absurd hF hp (by decide) | exact rfl) | apply State.fuserNote_keeps
    | apply State.raiseIf_keeps | fail_if_no_progress apply keeps_upd

theorem State.heatFire_keeps (s : State) (h : Nat) {F : Nat} {S : State} (hK : Keeps F S s)
    (hF : within 35201551958016 F = true := by exact within_trans hF (by decide)) : Keeps F S (State.heatFire s h) := by
  unfold State.heatFire
  repeat' with_reducible first
    | assumption | extract_lets +onlyGivenNames y | exact within_trans hF (by decide) | apply State.emit_keeps | apply State.modHeat_keeps | split

theorem execZeroCrossEdge_keeps (us : Nat) (s : State) {F : Nat} {S : State} (hK : Keeps F S s)
    (hF : within 35270273532936 F = true := by exact within_trans hF (by decide)) : KeepsA F S (execZeroCrossEdge us s) := by
  unfold execZeroCrossEdge
  repeat' with_reducible first
    | assumption | extract_lets +onlyGivenNames y | apply keepsA_next | exact within_trans hF (by decide)
    | (intro p hp; cases p <;> with_unfolding_all first | exact foot_absurd hF hp (by decide) | exact rfl) | apply State.heatFire_keeps
    | apply State.zcLost_keeps | (apply keeps_each; intro y n hy) | split | fail_if_no_progress apply keeps_upd

theorem execZeroCrossLoss_keeps (s : State) {F : Nat} {S : State} (hK : Keeps F S s)
    (hF : within 85901444104 F = true := by exact within_trans hF (by decide)) : KeepsA F S (execZeroCrossLoss s) := by
  unfold execZeroCrossLoss
  repeat' with_reducible first | assumption | apply keepsA_next | apply State.zcLost_keeps | split

theorem execZeroCrossRegained_keeps (s : State) {F : Nat} {S : State} (hK : Keeps F S s)
    (hF : within 68721574920 F = true := by exact within_trans hF (by decide)) : KeepsA F S (execZeroCrossRegained s) := by
  unfold execZeroCrossRegained
  repeat' with_reducible first
    | assumption | apply keepsA_next | exact within_trans hF (by decide)
    | (intro p hp; cases p <;> with_unfolding_all first | exact foot_absurd hF hp (by decide) | exact rfl) | apply State.fuserNote_keeps
    | apply State.raise_keeps | split | fail_if_no_progress apply keeps_upd

theorem State.heatPid_keeps (s : State) (h : Nat) {F : Nat} {S : State} (hK : Keeps F S s)
    (hF : within 17179869184 F = true := by exact within_trans hF (by decide)) : Keeps F S (State.heatPid s h) := by
  unfold State.heatPid
  repeat' with_reducible first | assumption | apply State.modHeat_keeps

theorem execFuserPidUpdate_keeps (s : State) {F : Nat} {S : State} (hK : Keeps F S s)
    (hF : within 85901444104 F = true := by exact within_trans hF (by decide)) : KeepsA F S (execFuserPidUpdate s) := by
  unfold execFuserPidUpdate
  repeat' with_reducible first
    | assumption | apply keepsA_next | exact within_trans hF (by decide) | apply State.fuserNote_keeps | apply State.fuserStat_keeps
    | apply State.heatPid_keeps | (apply keeps_each; intro y n hy) | split

theorem execPairInvalid_keeps (h : Nat) (s : State) {F : Nat} {S : State} (hK : Keeps F S s)
    (hF : within 85901444104 F = true := by exact within_trans hF (by decide)) : KeepsA F S (execPairInvalid h s) := by
  unfold execPairInvalid
  repeat' with_reducible first
    | assumption | apply keepsA_next | exact within_trans hF (by decide) | apply State.fuserNote_keeps | apply State.setPair_keeps | split

theorem execPairValid_keeps (h : Nat) (s : State) {F : Nat} {S : State} (hK : Keeps F S s)
    (hF : within 85901444104 F = true := by exact within_trans hF (by decide)) : KeepsA F S (execPairValid h s) := by
  unfold execPairValid
  repeat' with_reducible first
    | assumption | apply keepsA_next | exact within_trans hF (by decide) | apply State.fuserNote_keeps | apply State.setPair_keeps | split

theorem State.fuserEntry_keeps (s : State) {F : Nat} {S : State} (hK : Keeps F S s)
    (hF : within 17179869184 F = true := by exact within_trans hF (by decide)) : Keeps F S (State.fuserEntry s) := by
  unfold State.fuserEntry
  repeat' with_reducible first
    | assumption | (intro p hp; cases p <;> with_unfolding_all first | exact foot_absurd hF hp (by decide) | exact rfl) | apply State.modHeat_keeps
    | (apply keeps_each; intro y n hy) | split | fail_if_no_progress apply keeps_upd

theorem execFeedForwardEnd_keeps (s : State) {F : Nat} {S : State} (hK : Keeps F S s)
    (hF : within 17179869184 F = true := by exact within_trans hF (by decide)) : KeepsA F S (execFeedForwardEnd s) := by
  unfold execFeedForwardEnd
  repeat' with_reducible first
    | assumption | extract_lets +onlyGivenNames y | apply keepsA_next
    | (intro p hp; cases p <;> with_unfolding_all first | exact foot_absurd hF hp (by decide) | exact rfl) | split
    | fail_if_no_progress apply keeps_upd

theorem State.hvTarget_keeps (s : State) (c v : Nat) {F : Nat} {S : State} (hK : Keeps F S s)
    (hF : within 34359738376 F = true := by exact within_trans hF (by decide)) : Keeps F S (State.hvTarget s c v) := by
  unfold State.hvTarget
  repeat' with_reducible first | assumption | exact within_trans hF (by decide) | apply State.modHv_keeps | apply State.setReg_keeps | split

theorem State.hvEnable_keeps (s : State) (c : Nat) (was now : Bool) {F : Nat} {S : State} (hK : Keeps F S s)
    (hF : within 34359738368 F = true := by exact within_trans hF (by decide)) : Keeps F S (State.hvEnable s c was now) := by
  unfold State.hvEnable
  repeat' with_reducible first | assumption | apply State.modHv_keeps

theorem State.hvSwitch_keeps (s : State) (g p : Nat) {F : Nat} {S : State} (hK : Keeps F S s)
    (hF : within 103079215112 F = true := by exact within_trans hF (by decide)) : Keeps F S (State.hvSwitch s g p) := by
  unfold State.hvSwitch
  repeat' with_reducible first
    | assumption | exact within_trans hF (by decide)
    | (intro p hp; cases p <;> with_unfolding_all first | exact foot_absurd hF hp (by decide) | exact rfl) | apply State.modHv_keeps
    | apply State.setReg_keeps | (apply keeps_each; intro y n hy) | split | fail_if_no_progress apply keeps_upd

theorem State.hvUpdate_keeps (s : State) (fb : List Nat) (c : Nat) {F : Nat} {S : State} (hK : Keeps F S s)
    (hF : within 34359738368 F = true := by exact within_trans hF (by decide)) : Keeps F S (State.hvUpdate s fb c) := by
  unfold State.hvUpdate
  repeat' with_reducible first | assumption | apply State.modHv_keeps

theorem execHvLoopUpdate_keeps (fb : List Nat) (s : State) {F : Nat} {S : State} (hK : Keeps F S s)
    (hF : within 34359738368 F = true := by exact within_trans hF (by decide)) : KeepsA F S (execHvLoopUpdate fb s) := by
  unfold execHvLoopUpdate
  repeat' with_reducible first | assumption | apply keepsA_next | apply State.hvUpdate_keeps | (apply keeps_each; intro y n hy) | split

theorem execHvFault_keeps (c : Nat) (s : State) {F : Nat} {S : State} (hK : Keeps F S s)
    (hF : within 34361844744 F = true := by exact within_trans hF (by decide)) : KeepsA F S (execHvFault c s) := by
  unfold execHvFault
  repeat' with_reducible first
    | assumption | extract_lets +onlyGivenNames y | apply keepsA_next | exact within_trans hF (by decide) | apply State.modHv_keeps
    | apply State.pickOff_keeps | apply State.raise_keeps | apply State.wasteAllSeen_keeps | split

/-! Consumables -/

theorem State.csmSend_keeps (s : State) (p cmd : Nat) {F : Nat} {S : State} (hK : Keeps F S s)
    (hF : within 39582418599936 F = true := by exact within_trans hF (by decide)) : Keeps F S (State.csmSend s p cmd) := by
  unfold State.csmSend
  repeat' with_reducible first | assumption | exact within_trans hF (by decide) | apply State.emit_keeps | apply State.modCsm_keeps

theorem State.newNonce_keeps (s : State) (p : Nat) {F : Nat} {S : State} (hK : Keeps F S s)
    (hF : within 4398046511108 F = true := by exact within_trans hF (by decide)) : Keeps F S (State.newNonce s p) := by
  unfold State.newNonce
  repeat' with_reducible first
    | assumption | exact within_trans hF (by decide) | apply State.modCsm_keeps | apply State.tookFree_keeps | (apply keeps_each; intro y n hy)

theorem State.authEnded_keeps (s : State) (p : Nat) (ok : Bool) {F : Nat} {S : State} (hK : Keeps F S s)
    (hF : within 39582424894472 F = true := by exact within_trans hF (by decide)) : Keeps F S (State.authEnded s p ok) := by
  unfold State.authEnded
  repeat' with_reducible first
    | assumption | exact within_trans hF (by decide)
    | (intro p hp; cases p <;> with_unfolding_all first | exact foot_absurd hF hp (by decide) | exact rfl) | apply State.finish_keeps
    | apply ack_keeps | apply nak_keeps | (apply keeps_foldl; intro y n hy) | split | fail_if_no_progress apply keeps_upd

theorem State.csmHoldSet_keeps (s : State) {F : Nat} {S : State} (hK : Keeps F S s)
    (hF : within 4398048609288 F = true := by exact within_trans hF (by decide)) : Keeps F S (State.csmHoldSet s) := by
  unfold State.csmHoldSet
  repeat' with_reducible first
    | assumption | exact within_trans hF (by decide)
    | (intro p hp; cases p <;> with_unfolding_all first | exact foot_absurd hF hp (by decide) | exact rfl) | apply State.raise_keeps | split
    | fail_if_no_progress apply keeps_upd

theorem State.dropUnits_keeps (s : State) (p : Nat) {F : Nat} {S : State} (hK : Keeps F S s)
    (hF : within 4398048609288 F = true := by exact within_trans hF (by decide)) : Keeps F S (State.dropUnits s p) := by
  unfold State.dropUnits
  repeat' with_reducible first
    | assumption | exact within_trans hF (by decide)
    | (intro p hp; cases p <;> with_unfolding_all first | exact foot_absurd hF hp (by decide) | exact rfl) | apply State.bump_keeps
    | apply State.modCsm_keeps | apply State.raise_keeps | split | fail_if_no_progress apply keeps_upd

theorem State.csmEmpty_keeps (s : State) (p : Nat) {F : Nat} {S : State} (hK : Keeps F S s)
    (hF : within 4398048609288 F = true := by exact within_trans hF (by decide)) : Keeps F S (State.csmEmpty s p) := by
  unfold State.csmEmpty
  repeat' with_reducible first
    | assumption | exact within_trans hF (by decide) | apply State.csmHoldSet_keeps | apply State.dropUnits_keeps | apply State.modCsm_keeps
    | apply State.raise_keeps

theorem State.csmFail_keeps (s : State) (p cause : Nat) {F : Nat} {S : State} (hK : Keeps F S s)
    (hF : within 39582424894472 F = true := by exact within_trans hF (by decide)) : Keeps F S (State.csmFail s p cause) := by
  unfold State.csmFail
  repeat' with_reducible first
    | assumption | exact within_trans hF (by decide)
    | (intro p hp; cases p <;> with_unfolding_all first | exact foot_absurd hF hp (by decide) | exact rfl) | apply State.authEnded_keeps
    | apply State.csmEmpty_keeps | apply State.csmHoldSet_keeps | apply State.modCsm_keeps | apply State.raise_keeps | split
    | fail_if_no_progress apply keeps_upd

theorem State.csmAuth_keeps (s : State) (p : Nat) {F : Nat} {S : State} (hK : Keeps F S s)
    (hF : within 4398046511104 F = true := by exact within_trans hF (by decide)) : Keeps F S (State.csmAuth s p) := by
  unfold State.csmAuth
  repeat' with_reducible first | assumption | apply State.modCsm_keeps | split

theorem State.see_keeps (s : State) (p n : Nat) {F : Nat} {S : State} (hK : Keeps F S s)
    (hF : within 4398046511104 F = true := by exact within_trans hF (by decide)) : Keeps F S (State.see s p n) := by
  unfold State.see
  repeat' with_reducible first
    | assumption | (intro p hp; cases p <;> with_unfolding_all first | exact foot_absurd hF hp (by decide) | exact rfl) | split
    | fail_if_no_progress apply keeps_upd

theorem State.identDone_keeps (s : State) (p : Nat) (body : List Byte) {F : Nat} {S : State} (hK : Keeps F S s)
    (hF : within 4398048609288 F = true := by exact within_trans hF (by decide)) : Keeps F S (State.identDone s p body) := by
  unfold State.identDone
  repeat' with_reducible first | assumption | exact within_trans hF (by decide) | apply State.dropUnits_keeps | apply State.modCsm_keeps | split

theorem State.authDone_keeps (s : State) (p : Nat) (body : List Byte) {F : Nat} {S : State} (hK : Keeps F S s)
    (hF : within 39582424894472 F = true := by exact within_trans hF (by decide)) : Keeps F S (State.authDone s p body) := by
  unfold State.authDone
  repeat' with_reducible first
    | assumption | extract_lets +onlyGivenNames y | exact within_trans hF (by decide) | apply State.authEnded_keeps | apply State.csmFail_keeps
    | apply State.modCsm_keeps | apply State.raise_keeps | apply State.see_keeps | split

theorem State.commitDone_keeps (s : State) (p : Nat) (body : List Byte) {F : Nat} {S : State} (hK : Keeps F S s)
    (hF : within 39582424894472 F = true := by exact within_trans hF (by decide)) : Keeps F S (State.commitDone s p body) := by
  unfold State.commitDone
  repeat' with_reducible first
    | assumption | exact within_trans hF (by decide)
    | (intro p hp; cases p <;> with_unfolding_all first | exact foot_absurd hF hp (by decide) | exact rfl) | apply State.csmFail_keeps
    | apply State.modCsm_keeps | apply State.raise_keeps | apply State.see_keeps | split | fail_if_no_progress apply keeps_upd

theorem State.csmPoll_keeps (s : State) (p : Nat) {F : Nat} {S : State} (hK : Keeps F S s)
    (hF : within 35184372088832 F = true := by exact within_trans hF (by decide)) : Keeps F S (State.csmPoll s p) := by
  unfold State.csmPoll
  repeat' with_reducible first | assumption | apply State.emit_keeps | split

theorem State.csmReply_keeps (s : State) (p : Nat) (reply : Option (List Byte)) {F : Nat} {S : State} (hK : Keeps F S s)
    (hF : within 39582424894472 F = true := by exact within_trans hF (by decide)) : Keeps F S (State.csmReply s p reply) := by
  unfold State.csmReply
  repeat' with_reducible first
    | assumption | exact within_trans hF (by decide) | apply State.authDone_keeps | apply State.commitDone_keeps | apply State.csmFail_keeps
    | apply State.csmPoll_keeps | apply State.identDone_keeps | apply State.modCsm_keeps | split

theorem State.csmBegin_keeps (s : State) (p cmd : Nat) {F : Nat} {S : State} (hK : Keeps F S s)
    (hF : within 39582418599936 F = true := by exact within_trans hF (by decide)) : Keeps F S (State.csmBegin s p cmd) := by
  unfold State.csmBegin
  repeat' with_reducible first | assumption | exact within_trans hF (by decide) | apply State.csmSend_keeps | apply State.modCsm_keeps

theorem execPresenceProbe_keeps (p : Nat) (answered : Bool) (s : State) {F : Nat} {S : State} (hK : Keeps F S s)
    (hF : within 39582418599936 F = true := by exact within_trans hF (by decide)) : KeepsA F S (execPresenceProbe p answered s) := by
  unfold execPresenceProbe
  repeat' with_reducible first
    | assumption | apply keepsA_next | exact within_trans hF (by decide) | apply State.emit_keeps | apply State.modCsm_keeps | split

theorem execPresenceChange_keeps (p : Nat) (s : State) {F : Nat} {S : State} (hK : Keeps F S s)
    (hF : within 39582424894472 F = true := by exact within_trans hF (by decide)) : KeepsA F S (execPresenceChange p s) := by
  unfold execPresenceChange
  repeat' with_reducible first
    | assumption | extract_lets +onlyGivenNames y | apply keepsA_next | exact within_trans hF (by decide) | apply State.authEnded_keeps
    | apply State.csmEmpty_keeps | apply State.csmFail_keeps | apply State.modCsm_keeps | apply State.raise_keeps | split

theorem execIdent_keeps (p : Nat) (reply : Option (List Byte)) (s : State) {F : Nat} {S : State} (hK : Keeps F S s)
    (hF : within 39582424894472 F = true := by exact within_trans hF (by decide)) : KeepsA F S (execIdent p reply s) := by
  unfold execIdent
  repeat' with_reducible first
    | assumption | apply keepsA_next | exact within_trans hF (by decide) | apply State.csmBegin_keeps | apply State.csmReply_keeps | split

theorem execAuth_keeps (p : Nat) (reply : Option (List Byte)) (s : State) {F : Nat} {S : State} (hK : Keeps F S s)
    (hF : within 39582424894476 F = true := by exact within_trans hF (by decide)) : KeepsA F S (execAuth p reply s) := by
  unfold execAuth
  repeat' with_reducible first
    | assumption | apply keepsA_next | exact within_trans hF (by decide) | apply State.csmBegin_keeps | apply State.csmFail_keeps
    | apply State.csmReply_keeps | apply State.newNonce_keeps | split

theorem execCommit_keeps (p : Nat) (reply : Option (List Byte)) (s : State) {F : Nat} {S : State} (hK : Keeps F S s)
    (hF : within 39582424894476 F = true := by exact within_trans hF (by decide)) : KeepsA F S (execCommit p reply s) := by
  unfold execCommit
  repeat' with_reducible first
    | assumption | extract_lets +onlyGivenNames y | apply keepsA_next | exact within_trans hF (by decide) | apply State.csmBegin_keeps
    | apply State.csmReply_keeps | apply State.modCsm_keeps | apply State.newNonce_keeps | split

theorem execReplyPoll_keeps (p : Nat) (reply : Option (List Byte)) (s : State) {F : Nat} {S : State} (hK : Keeps F S s)
    (hF : within 39582424894472 F = true := by exact within_trans hF (by decide)) : KeepsA F S (execReplyPoll p reply s) := by
  unfold execReplyPoll
  repeat' with_reducible first | assumption | apply keepsA_next | apply State.csmReply_keeps | split

theorem execReplyTimeout_keeps (p : Nat) (s : State) {F : Nat} {S : State} (hK : Keeps F S s)
    (hF : within 39582424894472 F = true := by exact within_trans hF (by decide)) : KeepsA F S (execReplyTimeout p s) := by
  unfold execReplyTimeout
  repeat' with_reducible first
    | assumption | apply keepsA_next | exact within_trans hF (by decide) | apply State.csmFail_keeps | apply State.csmSend_keeps
    | apply State.modCsm_keeps | split

theorem State.csmCmd_keeps (s : State) (v : Word) {F : Nat} {S : State} (hK : Keeps F S s)
    (hF : within 4398046511104 F = true := by exact within_trans hF (by decide)) : Keeps F S (State.csmCmd s v) := by
  unfold State.csmCmd
  repeat' with_reducible first | assumption | apply State.csmAuth_keeps | (apply keeps_each; intro y n hy)

theorem execCsmCmdAuth_keeps (v : Word) (s : State) {F : Nat} {S : State} (hK : Keeps F S s)
    (hF : within 39582418599936 F = true := by exact within_trans hF (by decide)) : KeepsA F S (execCsmCmdAuth v s) := by
  unfold execCsmCmdAuth
  repeat' with_reducible first
    | assumption | apply keepsA_next | exact within_trans hF (by decide) | apply State.answer_keeps | apply State.csmCmd_keeps | split

theorem execUsageReportSend_keeps (p : Nat) (s : State) {F : Nat} {S : State} (hK : Keeps F S s)
    (hF : within 39582422794248 F = true := by exact within_trans hF (by decide)) : KeepsA F S (execUsageReportSend p s) := by
  unfold execUsageReportSend
  repeat' with_reducible first
    | assumption | apply keepsA_next | exact within_trans hF (by decide) | apply State.modCsm_keeps | apply State.unasked_keeps | split
    | refine keeps_of_some (by assumption) ?_

theorem doConsReport_keeps (s : State) {F : Nat} {S : State} (hK : Keeps F S s)
    (hF : within 0 F = true := by exact within_trans hF (by decide)) : Keeps F S (doConsReport s).st := by
  unfold doConsReport
  repeat' with_reducible first | assumption

theorem doConsAuth_keeps (h : ReqHdr) (port : Nat) (s : State) {F : Nat} {S : State} (hK : Keeps F S s)
    (hF : within 4398046511104 F = true := by exact within_trans hF (by decide)) : Keeps F S (doConsAuth h port s).st := by
  unfold doConsAuth
  repeat' with_reducible first
    | assumption | extract_lets +onlyGivenNames y | exact within_trans hF (by decide)
    | (intro p hp; cases p <;> with_unfolding_all first | exact foot_absurd hF hp (by decide) | exact rfl) | apply State.csmAuth_keeps
    | apply ack_keeps | apply nak_keeps | (apply keeps_each; intro y n hy) | split | fail_if_no_progress apply keeps_upd

theorem execConsumableReport_keeps (h : ReqHdr) (s : State) {F : Nat} {S : State} (hK : Keeps F S s)
    (hF : within 35184378383368 F = true := by exact within_trans hF (by decide)) : KeepsA F S (execConsumableReport h s) := by
  unfold execConsumableReport
  repeat' with_reducible first
    | assumption | apply keepsA_next | exact within_trans hF (by decide) | (apply State.request_keeps; intro y hy) | apply doConsReport_keeps

theorem execConsumableAuthenticate_keeps (h : ReqHdr) (port : Nat) (s : State) {F : Nat} {S : State} (hK : Keeps F S s)
    (hF : within 39582424894472 F = true := by exact within_trans hF (by decide)) : KeepsA F S (execConsumableAuthenticate h port s) := by
  unfold execConsumableAuthenticate
  repeat' with_reducible first
    | assumption | extract_lets +onlyGivenNames y | apply keepsA_next | exact within_trans hF (by decide) | (apply State.request_keeps; intro y hy)
    | apply doConsAuth_keeps

theorem State.csmAtReady_keeps (s : State) {F : Nat} {S : State} (hK : Keeps F S s)
    (hF : within 4398046511104 F = true := by exact within_trans hF (by decide)) : Keeps F S (State.csmAtReady s) := by
  unfold State.csmAtReady
  repeat' with_reducible first | assumption | apply State.csmAuth_keeps | (apply keeps_each; intro y n hy)

theorem State.csmUsage_keeps (s : State) (t : Token) {F : Nat} {S : State} (hK : Keeps F S s)
    (hF : within 4398046511104 F = true := by exact within_trans hF (by decide)) : Keeps F S (State.csmUsage s t) := by
  unfold State.csmUsage
  repeat' with_reducible first | assumption | apply State.modCsm_keeps | (apply keeps_each; intro y n hy) | split

theorem State.csmHoldEval_keeps (s : State) {F : Nat} {S : State} (hK : Keeps F S s)
    (hF : within 4398048609288 F = true := by exact within_trans hF (by decide)) : Keeps F S (State.csmHoldEval s) := by
  unfold State.csmHoldEval
  repeat' with_reducible first
    | assumption | exact within_trans hF (by decide)
    | (intro p hp; cases p <;> with_unfolding_all first | exact foot_absurd hF hp (by decide) | exact rfl) | apply State.raise_keeps | split
    | fail_if_no_progress apply keeps_upd

end Sys2Proof.Machine
end

