-- ==== Sys2Proof/Laws/KeepsLine.lean ====
section
/-! SUPPORT. What the operations of the schedule, degradation and the line keep (Sched, Degrade, Line). -/
namespace Sys2Proof.Machine
set_option linter.all false
set_option Elab.async false
/-! Sched -/

theorem State.enterGap_keeps (s : State) {F : Nat} {S : State} (hK : Keeps F S s)
    (hF : within 688537223176 F = true := by exact within_trans hF (by decide)) : Keeps F S (State.enterGap s) := by
  unfold State.enterGap
  repeat' with_reducible first
    | assumption | exact within_trans hF (by decide)
    | (intro p hp; cases p <;> with_unfolding_all first | exact foot_absurd hF hp (by decide) | exact rfl) | apply State.motGap_keeps
    | apply State.setAnchor_keeps | apply State.stnGap_keeps | apply State.stpGap_keeps | (apply keeps_each; intro y n hy) | split
    | fail_if_no_progress apply keeps_sched

theorem State.gapDue_keeps (s : State) {F : Nat} {S : State} (hK : Keeps F S s)
    (hF : within 688537223176 F = true := by exact within_trans hF (by decide)) : Keeps F S (State.gapDue s) := by
  unfold State.gapDue
  repeat' with_reducible first | assumption | apply State.enterGap_keeps | split

theorem State.tellStep_keeps (s : State) (j : Nat) {F : Nat} {S : State} (hK : Keeps F S s)
    (hF : within 37383397442568 F = true := by exact within_trans hF (by decide)) : Keeps F S (State.tellStep s j) := by
  unfold State.tellStep
  repeat' with_reducible first
    | assumption | exact within_trans hF (by decide)
    | (intro p hp; cases p <;> with_unfolding_all first | exact foot_absurd hF hp (by decide) | exact rfl) | apply State.raise_keeps
    | apply State.sendOuv_keeps | split | fail_if_no_progress apply keeps_upd

theorem State.drain_keeps (s : State) {F : Nat} {S : State} (hK : Keeps F S s)
    (hF : within 688537223176 F = true := by exact within_trans hF (by decide)) : Keeps F S (State.drain s) := by
  unfold State.drain
  repeat' with_reducible first
    | assumption | (intro p hp; cases p <;> with_unfolding_all first | exact foot_absurd hF hp (by decide) | exact rfl) | apply State.gapDue_keeps
    | fail_if_no_progress apply keeps_sched

theorem State.aim_keeps (s : State) (j : Nat) {F : Nat} {S : State} (hK : Keeps F S s)
    (hF : within 2114568 F = true := by exact within_trans hF (by decide)) : Keeps F S (State.aim s j) := by
  unfold State.aim
  repeat' with_reducible first
    | assumption | exact within_trans hF (by decide)
    | (intro p hp; cases p <;> with_unfolding_all first | exact foot_absurd hF hp (by decide) | exact rfl) | apply State.raise_keeps
    | fail_if_no_progress apply keeps_sched

theorem State.turn_keeps (s : State) {F : Nat} {S : State} (hK : Keeps F S s)
    (hF : within 688537223176 F = true := by exact within_trans hF (by decide)) : Keeps F S (State.turn s) := by
  unfold State.turn
  repeat' with_reducible first | assumption | apply State.drain_keeps | apply State.enterGap_keeps | split

theorem State.setTarget_keeps (s : State) (j : Nat) {F : Nat} {S : State} (hK : Keeps F S s)
    (hF : within 38071934665736 F = true := by exact within_trans hF (by decide)) : Keeps F S (State.setTarget s j) := by
  unfold State.setTarget
  repeat' with_reducible first
    | assumption | exact within_trans hF (by decide) | apply State.aim_keeps | apply State.tellStep_keeps | apply State.turn_keeps

theorem State.stepCheck_keeps (s : State) {F : Nat} {S : State} (hK : Keeps F S s)
    (hF : within 38071934665736 F = true := by exact within_trans hF (by decide)) : Keeps F S (State.stepCheck s) := by
  unfold State.stepCheck
  repeat' with_reducible first | assumption | extract_lets +onlyGivenNames y | apply State.setTarget_keeps | split

theorem State.runForecast_keeps (s : State) (job : Nat) (p : Page) (step pitch : Nat) (reg : Int) {F : Nat} {S : State} (hK : Keeps F S s)
    (hF : within 8 F = true := by exact within_trans hF (by decide)) : Keeps F S (State.runForecast s job p step pitch reg).1 := by
  unfold State.runForecast
  repeat' with_reducible first | assumption | apply State.setReg_keeps

theorem State.pageWhy_keeps (s : State) (job : Nat) (p : Page) (step pitch : Nat) (reg : Int) {F : Nat} {S : State} (hK : Keeps F S s)
    (hF : within 8 F = true := by exact within_trans hF (by decide)) : Keeps F S (State.pageWhy s job p step pitch reg).1 := by
  unfold State.pageWhy
  repeat' with_reducible first | assumption | apply State.runForecast_keeps | split

theorem State.runOn_keeps (s : State) {F : Nat} {S : State} (hK : Keeps F S s)
    (hF : within 16384 F = true := by exact within_trans hF (by decide)) : Keeps F S (State.runOn s) := by
  unfold State.runOn
  repeat' with_reducible first
    | assumption | (intro p hp; cases p <;> with_unfolding_all first | exact foot_absurd hF hp (by decide) | exact rfl)
    | fail_if_no_progress apply keeps_sched

theorem State.slower_keeps (s : State) {F : Nat} {S : State} (hK : Keeps F S s)
    (hF : within 38071934665736 F = true := by exact within_trans hF (by decide)) : Keeps F S (State.slower s) := by
  unfold State.slower
  repeat' with_reducible first | assumption | apply State.setTarget_keeps | split

theorem State.skip_keeps (s : State) (why : Nat) {F : Nat} {S : State} (hK : Keeps F S s)
    (hF : within 38071934665736 F = true := by exact within_trans hF (by decide)) : Keeps F S (State.skip s why) := by
  unfold State.skip
  repeat' with_reducible first
    | assumption | exact within_trans hF (by decide) | apply State.bump_keeps | apply State.raise_keeps | apply State.runOn_keeps
    | apply State.setReg_keeps | apply State.slower_keeps | split

theorem State.ladderAfter_keeps (s : State) (why : Nat) {F : Nat} {S : State} (hK : Keeps F S s)
    (hF : within 2114568 F = true := by exact within_trans hF (by decide)) : Keeps F S (State.ladderAfter s why) := by
  unfold State.ladderAfter
  repeat' with_reducible first
    | assumption | exact within_trans hF (by decide)
    | (intro p hp; cases p <;> with_unfolding_all first | exact foot_absurd hF hp (by decide) | exact rfl) | apply State.raiseIf_keeps | split
    | fail_if_no_progress apply keeps_sched

theorem State.admitBoundary_keeps (s : State) {F : Nat} {S : State} (hK : Keeps F S s)
    (hF : within 16 F = true := by exact within_trans hF (by decide)) : Keeps F S (State.admitBoundary s) := by
  unfold State.admitBoundary
  repeat' with_reducible first | assumption | apply State.release_keeps

theorem State.recheck_keeps (s : State) {F : Nat} {S : State} (hK : Keeps F S s)
    (hF : within 38071934665736 F = true := by exact within_trans hF (by decide)) : Keeps F S (State.recheck s) := by
  unfold State.recheck
  repeat' with_reducible first | assumption | apply State.stepCheck_keeps | split

theorem State.evalStart_keeps (s : State) {F : Nat} {S : State} (hK : Keeps F S s)
    (hF : within 43578087982680 F = true := by exact within_trans hF (by decide)) : Keeps F S (State.evalStart s) := by
  unfold State.evalStart
  repeat' with_reducible first
    | assumption
    | (extract_lets +onlyGivenNames y; refine keeps_cut (F := F) (S := S) (y := y) ?_ ?_; dsimp -zeta only [y]; clear y; rotate_left; clear_value y; intro hy; rotate_right)
    | exact within_trans hF (by decide) | (intro p hp; cases p <;> with_unfolding_all first | exact foot_absurd hF hp (by decide) | exact rfl)
    | apply State.admitBoundary_keeps | apply State.csmHoldEval_keeps | apply State.engineBoundary_keeps | apply State.plinthCheck_keeps
    | apply State.recheck_keeps | split | fail_if_no_progress apply keeps_sched

theorem State.newPitch_keeps (s : State) {F : Nat} {S : State} (hK : Keeps F S s)
    (hF : within 16384 F = true := by exact within_trans hF (by decide)) : Keeps F S (State.newPitch s) := by
  unfold State.newPitch
  repeat' with_reducible first
    | assumption | (intro p hp; cases p <;> with_unfolding_all first | exact foot_absurd hF hp (by decide) | exact rfl)
    | fail_if_no_progress apply keeps_sched

theorem State.admitPage_keeps (s : State) (a : Admitted) {F : Nat} {S : State} (hK : Keeps F S s)
    (hF : within 4345856 F = true := by exact within_trans hF (by decide)) : Keeps F S (State.admitPage s a) := by
  unfold State.admitPage
  repeat' with_reducible first
    | assumption | exact within_trans hF (by decide)
    | (intro p hp; cases p <;> with_unfolding_all first | exact foot_absurd hF hp (by decide) | exact rfl) | apply State.reuse_keeps
    | (apply keeps_foldl; intro y n hy) | split | fail_if_no_progress apply keeps_sched

theorem State.evalPitch_keeps (s : State) (hold pitch : Nat) {F : Nat} {S : State} (hK : Keeps F S s)
    (hF : within 38071938995208 F = true := by exact within_trans hF (by decide)) : Keeps F S (State.evalPitch s hold pitch).1 := by
  unfold State.evalPitch
  repeat' with_reducible first
    | assumption | extract_lets +onlyGivenNames y | exact within_trans hF (by decide) | apply State.admitPage_keeps | apply State.pageWhy_keeps
    | apply State.skip_keeps | split

theorem execAdmissionEvaluation_keeps (s : State) {F : Nat} {S : State} (hK : Keeps F S s)
    (hF : within 43578088117848 F = true := by exact within_trans hF (by decide)) : KeepsA F S (execAdmissionEvaluation s) := by
  unfold execAdmissionEvaluation
  repeat' with_reducible first
    | assumption
    | (extract_lets +onlyGivenNames y; refine keeps_cut (F := F) (S := S) (y := y) ?_ ?_; dsimp -zeta only [y]; clear y; rotate_left; clear_value y; intro hy; rotate_right)
    | apply keepsA_next | exact within_trans hF (by decide) | apply State.evalPitch_keeps | apply State.evalStart_keeps
    | apply State.ladderAfter_keeps | apply State.newPitch_keeps | apply State.recheck_keeps | split

theorem execSpeedChangeGapEnd_keeps (s : State) {F : Nat} {S : State} (hK : Keeps F S s)
    (hF : within 2887562576904 F = true := by exact within_trans hF (by decide)) : KeepsA F S (execSpeedChangeGapEnd s) := by
  unfold execSpeedChangeGapEnd
  repeat' with_reducible first
    | assumption | extract_lets +onlyGivenNames y | apply keepsA_next | exact within_trans hF (by decide)
    | (intro p hp; cases p <;> with_unfolding_all first | exact foot_absurd hF hp (by decide) | exact rfl) | apply State.gapDue_keeps
    | apply State.raise_keeps | split | fail_if_no_progress apply keeps_sched

theorem State.stepUp_keeps (s : State) (pitch : Nat) {F : Nat} {S : State} (hK : Keeps F S s)
    (hF : within 38071934665736 F = true := by exact within_trans hF (by decide)) : Keeps F S (State.stepUp s pitch) := by
  unfold State.stepUp
  repeat' with_reducible first
    | assumption | extract_lets +onlyGivenNames y | exact within_trans hF (by decide) | apply State.runForecast_keeps | apply State.setTarget_keeps
    | split

theorem State.countPick_keeps (s : State) {F : Nat} {S : State} (hK : Keeps F S s)
    (hF : within 16384 F = true := by exact within_trans hF (by decide)) : Keeps F S (State.countPick s) := by
  unfold State.countPick
  repeat' with_reducible first
    | assumption | (intro p hp; cases p <;> with_unfolding_all first | exact foot_absurd hF hp (by decide) | exact rfl)
    | fail_if_no_progress apply keeps_sched

theorem State.dropAdmitted_keeps (s : State) {F : Nat} {S : State} (hK : Keeps F S s)
    (hF : within 16384 F = true := by exact within_trans hF (by decide)) : Keeps F S (State.dropAdmitted s) := by
  unfold State.dropAdmitted
  repeat' with_reducible first
    | assumption | (intro p hp; cases p <;> with_unfolding_all first | exact foot_absurd hF hp (by decide) | exact rfl)
    | fail_if_no_progress apply keeps_sched

theorem execSheetPick_keeps (s : State) {F : Nat} {S : State} (hK : Keeps F S s)
    (hF : within 38071934678024 F = true := by exact within_trans hF (by decide)) : KeepsA F S (execSheetPick s) := by
  unfold execSheetPick
  repeat' with_reducible first
    | assumption | apply keepsA_next | exact within_trans hF (by decide)
    | (intro p hp; cases p <;> with_unfolding_all first | exact foot_absurd hF hp (by decide) | exact rfl) | apply State.countPick_keeps
    | apply State.dropAdmitted_keeps | apply State.emit_keeps | apply State.modPage_keeps | apply State.moveTok_keeps | apply State.raise_keeps
    | apply State.skip_keeps | apply State.stepUp_keeps | split | fail_if_no_progress apply keeps_sched

theorem execRegistrationCapture_keeps (sensor : Nat) (s : State) {F : Nat} {S : State} (hK : Keeps F S s)
    (hF : within 35184372097024 F = true := by exact within_trans hF (by decide)) : KeepsA F S (execRegistrationCapture sensor s) := by
  unfold execRegistrationCapture
  repeat' with_reducible first | assumption | extract_lets +onlyGivenNames y | apply keepsA_next | apply State.moveTok_keeps | split

theorem State.unstation_keeps (s : State) (tok : Nat) {F : Nat} {S : State} (hK : Keeps F S s)
    (hF : within 35184372523008 F = true := by exact within_trans hF (by decide)) : Keeps F S (State.unstation s tok) := by
  unfold State.unstation
  repeat' with_reducible first
    | assumption | exact within_trans hF (by decide) | apply State.endPlane_keeps | apply State.modTok_keeps | (apply keeps_each; intro y n hy)

theorem State.holdPicks_keeps (s : State) {F : Nat} {S : State} (hK : Keeps F S s)
    (hF : within 16384 F = true := by exact within_trans hF (by decide)) : Keeps F S (State.holdPicks s) := by
  unfold State.holdPicks
  repeat' with_reducible first
    | assumption | (intro p hp; cases p <;> with_unfolding_all first | exact foot_absurd hF hp (by decide) | exact rfl)
    | fail_if_no_progress apply keeps_sched

theorem execMisfeedDecision_keeps (tok : Nat) (s : State) {F : Nat} {S : State} (hK : Keeps F S s)
    (hF : within 35184374637576 F = true := by exact within_trans hF (by decide)) : KeepsA F S (execMisfeedDecision tok s) := by
  unfold execMisfeedDecision
  repeat' with_reducible first
    | assumption | extract_lets +onlyGivenNames y | apply keepsA_next | exact within_trans hF (by decide) | apply State.flagTok_keeps
    | apply State.holdPicks_keeps | apply State.unstation_keeps | apply State.wasteTok_keeps | split

theorem State.orderOver_keeps (s : State) (t : Token) {F : Nat} {S : State} (hK : Keeps F S s)
    (hF : within 37383395344384 F = true := by exact within_trans hF (by decide)) : Keeps F S (State.orderOver s t) := by
  unfold State.orderOver
  repeat' with_reducible first
    | assumption | (intro p hp; cases p <;> with_unfolding_all first | exact foot_absurd hF hp (by decide) | exact rfl) | apply State.sendOuv_keeps
    | split | fail_if_no_progress apply keeps_upd

theorem State.lastDone_keeps (s : State) {F : Nat} {S : State} (hK : Keeps F S s)
    (hF : within 1796641932376 F = true := by exact within_trans hF (by decide)) : Keeps F S (State.lastDone s) := by
  unfold State.lastDone
  repeat' with_reducible first
    | assumption | exact within_trans hF (by decide) | apply State.engineBoundary_keeps | apply State.gapDue_keeps | apply State.motDeferred_keeps
    | apply State.stpDeferred_keeps | split

theorem State.tokDone_keeps (s : State) (tok : Nat) {F : Nat} {S : State} (hK : Keeps F S s)
    (hF : within 43578088223832 F = true := by exact within_trans hF (by decide)) : Keeps F S (State.tokDone s tok) := by
  unfold State.tokDone
  repeat' with_reducible first
    | assumption
    | (extract_lets +onlyGivenNames y; refine keeps_cut (F := F) (S := S) (y := y) ?_ ?_; dsimp -zeta only [y]; clear y; rotate_left; clear_value y; intro hy; rotate_right)
    | extract_lets +onlyGivenNames y | exact within_trans hF (by decide)
    | (intro p hp; cases p <;> with_unfolding_all first | exact foot_absurd hF hp (by decide) | exact rfl) | apply State.csmUsage_keeps
    | apply State.dueReleases_keeps | apply State.endPlane_keeps | apply State.lastDone_keeps | apply State.moveTok_keeps
    | apply State.orderOver_keeps | apply State.raiseX_keeps | apply State.setRes_keeps | (apply keeps_each; intro y n hy)
    | (apply keeps_foldl; intro y n hy) | split | dsimp -zeta only | fail_if_no_progress apply keeps_upd

theorem execMisfeedTokenRelease_keeps (tok : Nat) (s : State) {F : Nat} {S : State} (hK : Keeps F S s)
    (hF : within 43578088223832 F = true := by exact within_trans hF (by decide)) : KeepsA F S (execMisfeedTokenRelease tok s) := by
  unfold execMisfeedTokenRelease
  repeat' with_reducible first
    | assumption
    | (extract_lets +onlyGivenNames y; refine keeps_cut (F := F) (S := S) (y := y) ?_ ?_; dsimp -zeta only [y]; clear y; rotate_left; clear_value y; intro hy; rotate_right)
    | extract_lets +onlyGivenNames y | apply keepsA_next | apply State.tokDone_keeps | split | (apply keeps_of_pair; assumption)

theorem State.misfeedAck_keeps (s : State) {F : Nat} {S : State} (hK : Keeps F S s)
    (hF : within 16384 F = true := by exact within_trans hF (by decide)) : Keeps F S (State.misfeedAck s) := by
  unfold State.misfeedAck
  repeat' with_reducible first
    | assumption | (intro p hp; cases p <;> with_unfolding_all first | exact foot_absurd hF hp (by decide) | exact rfl)
    | fail_if_no_progress apply keeps_sched

theorem execMisfeedAck_keeps (s : State) {F : Nat} {S : State} (hK : Keeps F S s)
    (hF : within 35184372105216 F = true := by exact within_trans hF (by decide)) : KeepsA F S (execMisfeedAck s) := by
  unfold execMisfeedAck
  repeat' with_reducible first
    | assumption | apply keepsA_next | exact within_trans hF (by decide) | apply State.answer_keeps | apply State.misfeedAck_keeps | split

theorem execSheetEvent_keeps (tok entry : Nat) (s : State) {F : Nat} {S : State} (hK : Keeps F S s)
    (hF : within 35579511612424 F = true := by exact within_trans hF (by decide)) : KeepsA F S (execSheetEvent tok entry s) := by
  unfold execSheetEvent
  repeat' with_reducible first
    | assumption | extract_lets +onlyGivenNames y | apply keepsA_next | exact within_trans hF (by decide) | apply State.cannotImage_keeps
    | apply State.fuserEntry_keeps | apply State.hvSwitch_keeps | apply State.moveTok_keeps | apply State.wcEvent_keeps | split

theorem execTailLeavesFuser_keeps (tok : Nat) (s : State) {F : Nat} {S : State} (hK : Keeps F S s)
    (hF : within 35184372097024 F = true := by exact within_trans hF (by decide)) : KeepsA F S (execTailLeavesFuser tok s) := by
  unfold execTailLeavesFuser
  repeat' with_reducible first | assumption | extract_lets +onlyGivenNames y | apply keepsA_next | apply State.moveTok_keeps | split

theorem execSheetDone_keeps (tok : Nat) (s : State) {F : Nat} {S : State} (hK : Keeps F S s)
    (hF : within 43578088223832 F = true := by exact within_trans hF (by decide)) : KeepsA F S (execSheetDone tok s) := by
  unfold execSheetDone
  repeat' with_reducible first
    | assumption
    | (extract_lets +onlyGivenNames y; refine keeps_cut (F := F) (S := S) (y := y) ?_ ?_; dsimp -zeta only [y]; clear y; rotate_left; clear_value y; intro hy; rotate_right)
    | extract_lets +onlyGivenNames y | apply keepsA_next | apply State.tokDone_keeps | split | (apply keeps_of_pair; assumption)

theorem State.shtCtrl_keeps (s : State) {F : Nat} {S : State} (hK : Keeps F S s)
    (hF : within 38071934665736 F = true := by exact within_trans hF (by decide)) : Keeps F S (State.shtCtrl s) := by
  unfold State.shtCtrl
  repeat' with_reducible first | assumption | apply State.recheck_keeps

theorem State.schedStart_keeps (s : State) {F : Nat} {S : State} (hK : Keeps F S s)
    (hF : within 16384 F = true := by exact within_trans hF (by decide)) : Keeps F S (State.schedStart s) := by
  unfold State.schedStart
  repeat' with_reducible first
    | assumption | (intro p hp; cases p <;> with_unfolding_all first | exact foot_absurd hF hp (by decide) | exact rfl)
    | fail_if_no_progress apply keeps_sched

theorem State.schedStep_keeps (s : State) {F : Nat} {S : State} (hK : Keeps F S s)
    (hF : within 5506155415128 F = true := by exact within_trans hF (by decide)) : Keeps F S (State.schedStep s).1 := by
  unfold State.schedStep
  repeat' with_reducible first
    | assumption | extract_lets +onlyGivenNames y | exact within_trans hF (by decide) | apply State.admitBoundary_keeps
    | apply State.csmHoldEval_keeps | apply State.engineBoundary_keeps | apply State.pageWhy_keeps | apply State.plinthCheck_keeps | split

/-! Degrade -/

theorem execSosEdge_keeps (n : Nat) (e : SosEdge) (s : State) {F : Nat} {S : State} (hK : Keeps F S s)
    (hF : within 38080564098104 F = true := by exact within_trans hF (by decide)) : KeepsA F S (execSosEdge n e s) := by
  unfold execSosEdge
  repeat' with_reducible first
    | exact hK | assumption
    | (extract_lets +onlyGivenNames y; refine keeps_cut (F := F) (S := S) (y := y) ?_ ?_; dsimp -zeta only [y]; clear y; rotate_left; clear_value y; intro hy; rotate_right)
    | (extract_lets +onlyGivenNames y; refine keeps_cut1 (F := F) (S := S) (y := y) ?_ ?_; dsimp -zeta only [y]; clear y; rotate_left; clear_value y; intro hy; rotate_right)
    | (extract_lets +onlyGivenNames y; refine keeps_cutR (F := F) (S := S) (y := y) ?_ ?_; dsimp -zeta only [y]; clear y; rotate_left; clear_value y; intro hy; rotate_right)
    | extract_lets +onlyGivenNames y | apply keepsA_next | apply keepsO_some | exact keepsO_none | exact within_trans hF (by decide)
    | (intro p hp; cases p <;> with_unfolding_all first | exact foot_absurd hF hp (by decide) | exact rfl) | apply State.recheck_keeps
    | apply State.sosEdge_keeps | split | (apply keeps_of_pair; assumption) | (apply keeps_of_trip; assumption)
    | refine keeps_of_some (by assumption) ?_ | dsimp -zeta only

theorem execShadowApplyIdle_keeps (n : Nat) (s : State) {F : Nat} {S : State} (hK : Keeps F S s)
    (hF : within 38080526173240 F = true := by exact within_trans hF (by decide)) : KeepsA F S (execShadowApplyIdle n s) := by
  unfold execShadowApplyIdle
  repeat' with_reducible first
    | exact hK | assumption
    | (extract_lets +onlyGivenNames y; refine keeps_cut (F := F) (S := S) (y := y) ?_ ?_; dsimp -zeta only [y]; clear y; rotate_left; clear_value y; intro hy; rotate_right)
    | (extract_lets +onlyGivenNames y; refine keeps_cut1 (F := F) (S := S) (y := y) ?_ ?_; dsimp -zeta only [y]; clear y; rotate_left; clear_value y; intro hy; rotate_right)
    | (extract_lets +onlyGivenNames y; refine keeps_cutR (F := F) (S := S) (y := y) ?_ ?_; dsimp -zeta only [y]; clear y; rotate_left; clear_value y; intro hy; rotate_right)
    | extract_lets +onlyGivenNames y | apply keepsA_next | apply keepsO_some | exact keepsO_none | exact within_trans hF (by decide)
    | (intro p hp; cases p <;> with_unfolding_all first | exact foot_absurd hF hp (by decide) | exact rfl) | apply State.recheck_keeps
    | apply State.stnBoundary_keeps | split | (apply keeps_of_pair; assumption) | (apply keeps_of_trip; assumption)
    | refine keeps_of_some (by assumption) ?_ | dsimp -zeta only

theorem execCastOutOfService_keeps (n : Nat) (s : State) {F : Nat} {S : State} (hK : Keeps F S s)
    (hF : within 38071968392204 F = true := by exact within_trans hF (by decide)) : KeepsA F S (execCastOutOfService n s) := by
  unfold execCastOutOfService
  repeat' with_reducible first
    | exact hK | assumption
    | (extract_lets +onlyGivenNames y; refine keeps_cut (F := F) (S := S) (y := y) ?_ ?_; dsimp -zeta only [y]; clear y; rotate_left; clear_value y; intro hy; rotate_right)
    | (extract_lets +onlyGivenNames y; refine keeps_cut1 (F := F) (S := S) (y := y) ?_ ?_; dsimp -zeta only [y]; clear y; rotate_left; clear_value y; intro hy; rotate_right)
    | (extract_lets +onlyGivenNames y; refine keeps_cutR (F := F) (S := S) (y := y) ?_ ?_; dsimp -zeta only [y]; clear y; rotate_left; clear_value y; intro hy; rotate_right)
    | extract_lets +onlyGivenNames y | apply keepsA_next | apply keepsO_some | exact keepsO_none | exact within_trans hF (by decide)
    | (intro p hp; cases p <;> with_unfolding_all first | exact foot_absurd hF hp (by decide) | exact rfl) | apply State.castOut_keeps
    | apply State.recheck_keeps | apply State.stopImaging_keeps | apply State.unitMemBad_keeps | split | (apply keeps_of_pair; assumption)
    | (apply keeps_of_trip; assumption) | refine keeps_of_some (by assumption) ?_ | dsimp -zeta only

theorem execStatusFrame_keeps (n : Nat) (bytes : List Byte) (s : State) {F : Nat} {S : State} (hK : Keeps F S s)
    (hF : within 38071935722504 F = true := by exact within_trans hF (by decide)) : KeepsA F S (execStatusFrame n bytes s) := by
  unfold execStatusFrame
  repeat' with_reducible first
    | exact hK | assumption
    | (extract_lets +onlyGivenNames y; refine keeps_cut (F := F) (S := S) (y := y) ?_ ?_; dsimp -zeta only [y]; clear y; rotate_left; clear_value y; intro hy; rotate_right)
    | (extract_lets +onlyGivenNames y; refine keeps_cut1 (F := F) (S := S) (y := y) ?_ ?_; dsimp -zeta only [y]; clear y; rotate_left; clear_value y; intro hy; rotate_right)
    | (extract_lets +onlyGivenNames y; refine keeps_cutR (F := F) (S := S) (y := y) ?_ ?_; dsimp -zeta only [y]; clear y; rotate_left; clear_value y; intro hy; rotate_right)
    | extract_lets +onlyGivenNames y | apply keepsA_next | apply keepsO_some | exact keepsO_none | exact within_trans hF (by decide)
    | (intro p hp; cases p <;> with_unfolding_all first | exact foot_absurd hF hp (by decide) | exact rfl) | apply State.recheck_keeps
    | apply State.statusFrame_keeps | split | (apply keeps_of_pair; assumption) | (apply keeps_of_trip; assumption)
    | refine keeps_of_some (by assumption) ?_ | dsimp -zeta only

theorem execLinkDisable_keeps (n : Nat) (s : State) {F : Nat} {S : State} (hK : Keeps F S s)
    (hF : within 38071935722504 F = true := by exact within_trans hF (by decide)) : KeepsA F S (execLinkDisable n s) := by
  unfold execLinkDisable
  repeat' with_reducible first
    | exact hK | assumption
    | (extract_lets +onlyGivenNames y; refine keeps_cut (F := F) (S := S) (y := y) ?_ ?_; dsimp -zeta only [y]; clear y; rotate_left; clear_value y; intro hy; rotate_right)
    | (extract_lets +onlyGivenNames y; refine keeps_cut1 (F := F) (S := S) (y := y) ?_ ?_; dsimp -zeta only [y]; clear y; rotate_left; clear_value y; intro hy; rotate_right)
    | (extract_lets +onlyGivenNames y; refine keeps_cutR (F := F) (S := S) (y := y) ?_ ?_; dsimp -zeta only [y]; clear y; rotate_left; clear_value y; intro hy; rotate_right)
    | extract_lets +onlyGivenNames y | apply keepsA_next | apply keepsO_some | exact keepsO_none | exact within_trans hF (by decide)
    | (intro p hp; cases p <;> with_unfolding_all first | exact foot_absurd hF hp (by decide) | exact rfl) | apply State.linkDisable_keeps
    | apply State.recheck_keeps | split | (apply keeps_of_pair; assumption) | (apply keeps_of_trip; assumption)
    | refine keeps_of_some (by assumption) ?_ | dsimp -zeta only

/-! Line -/

theorem execAnnounceSend_keeps (s : State) {F : Nat} {S : State} (hK : Keeps F S s)
    (hF : within 37383395344384 F = true := by exact within_trans hF (by decide)) : KeepsA F S (execAnnounceSend s) := by
  unfold execAnnounceSend
  repeat' with_reducible first | assumption | apply keepsA_next | apply State.sendOuv_keeps | split

theorem State.memberSays_keeps (s : State) (src : Nat) (glb : Word) (floor busy : Nat) (joinReq : Bool) {F : Nat} {S : State} (hK : Keeps F S s)
    (hF : within 37383397442568 F = true := by exact within_trans hF (by decide)) : Keeps F S (State.memberSays s src glb floor busy joinReq) := by
  unfold State.memberSays
  repeat' with_reducible first
    | assumption | exact within_trans hF (by decide)
    | (intro p hp; cases p <;> with_unfolding_all first | exact foot_absurd hF hp (by decide) | exact rfl) | apply State.raise_keeps
    | apply State.sendOuv_keeps | split | fail_if_no_progress apply keeps_upd

theorem State.doAnnounce_keeps (s : State) (src role : Nat) (glb : Word) (floor busy : Nat) (joinReq : Bool) {F : Nat} {S : State} (hK : Keeps F S s)
    (hF : within 37383397442568 F = true := by exact within_trans hF (by decide)) : Keeps F S (State.doAnnounce s src role glb floor busy joinReq) := by
  unfold State.doAnnounce
  repeat' with_reducible first
    | assumption | (intro p hp; cases p <;> with_unfolding_all first | exact foot_absurd hF hp (by decide) | exact rfl) | apply State.memberSays_keeps
    | split | fail_if_no_progress apply keeps_upd

theorem execAnnounce_keeps (src role : Nat) (glbId : Word) (floor busy state : Nat) (joinReq : Bool) (s : State) {F : Nat} {S : State} (hK : Keeps F S s)
    (hF : within 37383397442568 F = true := by exact within_trans hF (by decide)) : KeepsA F S (execAnnounce src role glbId floor busy state joinReq s) := by
  unfold execAnnounce
  repeat' with_reducible first | assumption | apply keepsA_next | apply State.doAnnounce_keeps | split

theorem State.doAdmit_keeps (s : State) (accepted : Bool) (anchor : Nat) {F : Nat} {S : State} (hK : Keeps F S s)
    (hF : within 2886220121096 F = true := by exact within_trans hF (by decide)) : Keeps F S (State.doAdmit s accepted anchor) := by
  unfold State.doAdmit
  repeat' with_reducible first
    | assumption | exact within_trans hF (by decide)
    | (intro p hp; cases p <;> with_unfolding_all first | exact foot_absurd hF hp (by decide) | exact rfl) | apply State.raise_keeps
    | apply State.setAnchor_keeps | split | fail_if_no_progress apply keeps_upd

theorem execAdmitMsg_keeps (accepted : Bool) (anchor : Nat) (s : State) {F : Nat} {S : State} (hK : Keeps F S s)
    (hF : within 2886220121096 F = true := by exact within_trans hF (by decide)) : KeepsA F S (execAdmitMsg accepted anchor s) := by
  unfold execAdmitMsg
  repeat' with_reducible first | assumption | apply keepsA_next | apply State.doAdmit_keeps | split

theorem execJoinAdmit_keeps (id : Nat) (s : State) {F : Nat} {S : State} (hK : Keeps F S s)
    (hF : within 37383397442568 F = true := by exact within_trans hF (by decide)) : KeepsA F S (execJoinAdmit id s) := by
  unfold execJoinAdmit
  repeat' with_reducible first
    | assumption | apply keepsA_next | exact within_trans hF (by decide)
    | (intro p hp; cases p <;> with_unfolding_all first | exact foot_absurd hF hp (by decide) | exact rfl) | apply State.raise_keeps
    | apply State.sendOuv_keeps | split | fail_if_no_progress apply keeps_upd

theorem State.doOrder_keeps (s : State) (o : Order) {F : Nat} {S : State} (hK : Keeps F S s)
    (hF : within 2199023255560 F = true := by exact within_trans hF (by decide)) : Keeps F S (State.doOrder s o) := by
  unfold State.doOrder
  repeat' with_reducible first
    | assumption | exact within_trans hF (by decide)
    | (intro p hp; cases p <;> with_unfolding_all first | exact foot_absurd hF hp (by decide) | exact rfl) | apply State.bump_keeps | split
    | fail_if_no_progress apply keeps_upd

theorem execOrder_keeps (id job page step pickT : Nat) (route : List (Nat × Nat × Nat)) (s : State) {F : Nat} {S : State} (hK : Keeps F S s)
    (hF : within 2199023255560 F = true := by exact within_trans hF (by decide)) : KeepsA F S (execOrder id job page step pickT route s) := by
  unfold execOrder
  repeat' with_reducible first | assumption | apply keepsA_next | apply State.doOrder_keeps | split

theorem execOrderIssue_keeps (job page step pickT : Nat) (route : List (Nat × Nat × Nat)) (s : State) {F : Nat} {S : State} (hK : Keeps F S s)
    (hF : within 37383395344392 F = true := by exact within_trans hF (by decide)) : KeepsA F S (execOrderIssue job page step pickT route s) := by
  unfold execOrderIssue
  repeat' with_reducible first
    | assumption | apply keepsA_next | exact within_trans hF (by decide)
    | (intro p hp; cases p <;> with_unfolding_all first | exact foot_absurd hF hp (by decide) | exact rfl) | apply State.bump_keeps
    | apply State.doOrder_keeps | apply State.sendOuv_keeps | (apply keeps_each; intro y n hy) | split | fail_if_no_progress apply keeps_upd

theorem State.orderWhy_keeps (s : State) (h : HeldOrder) (e : RouteEnt) {F : Nat} {S : State} (hK : Keeps F S s)
    (hF : within 8 F = true := by exact within_trans hF (by decide)) : Keeps F S (State.orderWhy s h e).1 := by
  unfold State.orderWhy
  repeat' with_reducible first | assumption | extract_lets +onlyGivenNames y | apply State.pageWhy_keeps | split

theorem State.lineSkip_keeps (s : State) (code : Nat) {F : Nat} {S : State} (hK : Keeps F S s)
    (hF : within 38071934665736 F = true := by exact within_trans hF (by decide)) : Keeps F S (State.lineSkip s code) := by
  unfold State.lineSkip
  repeat' with_reducible first
    | assumption | (intro p hp; cases p <;> with_unfolding_all first | exact foot_absurd hF hp (by decide) | exact rfl) | apply State.setTarget_keeps
    | split | fail_if_no_progress apply keeps_sched

theorem State.doAck_keeps (s : State) (src id : Nat) {F : Nat} {S : State} (hK : Keeps F S s)
    (hF : within 2199023255552 F = true := by exact within_trans hF (by decide)) : Keeps F S (State.doAck s src id) := by
  unfold State.doAck
  repeat' with_reducible first | assumption | apply State.modIssued_keeps | split

theorem State.doRefused_keeps (s : State) (id code : Nat) {F : Nat} {S : State} (hK : Keeps F S s)
    (hF : within 38071934665736 F = true := by exact within_trans hF (by decide)) : Keeps F S (State.doRefused s id code) := by
  unfold State.doRefused
  repeat' with_reducible first | assumption | exact within_trans hF (by decide) | apply State.lineSkip_keeps | apply State.modIssued_keeps | split

theorem State.admitOrder_keeps (s : State) (o : Order) {F : Nat} {S : State} (hK : Keeps F S s)
    (hF : within 4345856 F = true := by exact within_trans hF (by decide)) : Keeps F S (State.admitOrder s o) := by
  unfold State.admitOrder
  repeat' with_reducible first | assumption | apply State.admitPage_keeps

theorem execOrderEvaluation_keeps (id : Nat) (s : State) {F : Nat} {S : State} (hK : Keeps F S s)
    (hF : within 43578088117848 F = true := by exact within_trans hF (by decide)) : KeepsA F S (execOrderEvaluation id s) := by
  unfold execOrderEvaluation
  repeat' with_reducible first
    | assumption
    | (extract_lets +onlyGivenNames y; refine keeps_cut1 (F := F) (S := S) (y := y) ?_ ?_; dsimp -zeta only [y]; clear y; rotate_left; clear_value y; intro hy; rotate_right)
    | apply keepsA_next | exact within_trans hF (by decide) | apply State.admitOrder_keeps | apply State.bump_keeps | apply State.doAck_keeps
    | apply State.doRefused_keeps | apply State.evalStart_keeps | apply State.modHeld_keeps | apply State.orderWhy_keeps | apply State.raise_keeps
    | apply State.sendOuv_keeps | apply State.setReg_keeps | split

theorem execOrderAck_keeps (src id : Nat) (s : State) {F : Nat} {S : State} (hK : Keeps F S s)
    (hF : within 2199023255552 F = true := by exact within_trans hF (by decide)) : KeepsA F S (execOrderAck src id s) := by
  unfold execOrderAck
  repeat' with_reducible first | assumption | apply keepsA_next | apply State.doAck_keeps | split

theorem execOrderRefused_keeps (src id code : Nat) (s : State) {F : Nat} {S : State} (hK : Keeps F S s)
    (hF : within 38071934665736 F = true := by exact within_trans hF (by decide)) : KeepsA F S (execOrderRefused src id code s) := by
  unfold execOrderRefused
  repeat' with_reducible first | assumption | apply keepsA_next | apply State.doRefused_keeps | split

theorem State.doGo_keeps (s : State) (id : Nat) {F : Nat} {S : State} (hK : Keeps F S s)
    (hF : within 2199023255552 F = true := by exact within_trans hF (by decide)) : Keeps F S (State.doGo s id) := by
  unfold State.doGo
  repeat' with_reducible first | assumption | apply State.modHeld_keeps

theorem execGoMsg_keeps (id : Nat) (s : State) {F : Nat} {S : State} (hK : Keeps F S s)
    (hF : within 2199023255552 F = true := by exact within_trans hF (by decide)) : KeepsA F S (execGoMsg id s) := by
  unfold execGoMsg
  repeat' with_reducible first | assumption | apply keepsA_next | apply State.doGo_keeps | split

theorem execGoDecision_keeps (id : Nat) (s : State) {F : Nat} {S : State} (hK : Keeps F S s)
    (hF : within 38071934665736 F = true := by exact within_trans hF (by decide)) : KeepsA F S (execGoDecision id s) := by
  unfold execGoDecision
  repeat' with_reducible first
    | assumption | apply keepsA_next | exact within_trans hF (by decide) | apply State.countPick_keeps | apply State.doGo_keeps
    | apply State.modIssued_keeps | apply State.sendOuv_keeps | apply State.stepUp_keeps | split

theorem execLinePickCheck_keeps (id : Nat) (s : State) {F : Nat} {S : State} (hK : Keeps F S s)
    (hF : within 38071938995208 F = true := by exact within_trans hF (by decide)) : KeepsA F S (execLinePickCheck id s) := by
  unfold execLinePickCheck
  repeat' with_reducible first
    | assumption | apply keepsA_next | exact within_trans hF (by decide) | apply State.admitOrder_keeps | apply State.orderOver_keeps
    | apply State.skip_keeps | split

theorem State.doReport_keeps (s : State) (src id state flags : Nat) {F : Nat} {S : State} (hK : Keeps F S s)
    (hF : within 1024 F = true := by exact within_trans hF (by decide)) : Keeps F S (State.doReport s src id state flags) := by
  unfold State.doReport
  repeat' with_reducible first
    | assumption | (intro p hp; cases p <;> with_unfolding_all first | exact foot_absurd hF hp (by decide) | exact rfl) | split
    | fail_if_no_progress apply keeps_upd

theorem execReport_keeps (src id state flags : Nat) (s : State) {F : Nat} {S : State} (hK : Keeps F S s)
    (hF : within 1024 F = true := by exact within_trans hF (by decide)) : KeepsA F S (execReport src id state flags s) := by
  unfold execReport
  repeat' with_reducible first | assumption | apply keepsA_next | apply State.doReport_keeps | split

theorem State.doStep_keeps (s : State) (step gapT anchor : Nat) {F : Nat} {S : State} (hK : Keeps F S s)
    (hF : within 38071934665736 F = true := by exact within_trans hF (by decide)) : Keeps F S (State.doStep s step gapT anchor) := by
  unfold State.doStep
  repeat' with_reducible first
    | assumption | exact within_trans hF (by decide)
    | (intro p hp; cases p <;> with_unfolding_all first | exact foot_absurd hF hp (by decide) | exact rfl) | apply State.gapDue_keeps
    | apply State.raise_keeps | apply State.setTarget_keeps | split | fail_if_no_progress apply keeps_upd

theorem execLineStep_keeps (step gapT anchor : Nat) (s : State) {F : Nat} {S : State} (hK : Keeps F S s)
    (hF : within 38071934665736 F = true := by exact within_trans hF (by decide)) : KeepsA F S (execLineStep step gapT anchor s) := by
  unfold execLineStep
  repeat' with_reducible first | assumption | apply keepsA_next | apply State.doStep_keeps | split

theorem State.doStop_keeps (s : State) (begun : Bool) {F : Nat} {S : State} (hK : Keeps F S s)
    (hF : within 2199025353736 F = true := by exact within_trans hF (by decide)) : Keeps F S (State.doStop s begun) := by
  unfold State.doStop
  repeat' with_reducible first
    | assumption | exact within_trans hF (by decide)
    | (intro p hp; cases p <;> with_unfolding_all first | exact foot_absurd hF hp (by decide) | exact rfl) | apply State.raise_keeps | split
    | fail_if_no_progress apply keeps_upd

theorem execLineStopMessage_keeps (begun : Bool) (s : State) {F : Nat} {S : State} (hK : Keeps F S s)
    (hF : within 2199025353736 F = true := by exact within_trans hF (by decide)) : KeepsA F S (execLineStopMessage begun s) := by
  unfold execLineStopMessage
  repeat' with_reducible first | assumption | apply keepsA_next | apply State.doStop_keeps | split

theorem State.flagLost_keeps (s : State) (id : Nat) {F : Nat} {S : State} (hK : Keeps F S s)
    (hF : within 2106376 F = true := by exact within_trans hF (by decide)) : Keeps F S (State.flagLost s id) := by
  unfold State.flagLost
  repeat' with_reducible first
    | assumption | exact within_trans hF (by decide) | apply State.causeTok_keeps | apply State.flagTok_keeps | (apply keeps_each; intro y n hy)
    | split

theorem State.leaveLine_keeps (s : State) {F : Nat} {S : State} (hK : Keeps F S s)
    (hF : within 2199023255552 F = true := by exact within_trans hF (by decide)) : Keeps F S (State.leaveLine s) := by
  unfold State.leaveLine
  repeat' with_reducible first
    | assumption | (intro p hp; cases p <;> with_unfolding_all first | exact foot_absurd hF hp (by decide) | exact rfl)
    | fail_if_no_progress apply keeps_upd

theorem State.doLost_keeps (s : State) (id : Nat) {F : Nat} {S : State} (hK : Keeps F S s)
    (hF : within 2199025361928 F = true := by exact within_trans hF (by decide)) : Keeps F S (State.doLost s id) := by
  unfold State.doLost
  repeat' with_reducible first
    | assumption | exact within_trans hF (by decide) | apply State.flagLost_keeps | apply State.leaveLine_keeps | apply State.raise_keeps | split

theorem execLost_keeps (id : Nat) (s : State) {F : Nat} {S : State} (hK : Keeps F S s)
    (hF : within 2199025361928 F = true := by exact within_trans hF (by decide)) : KeepsA F S (execLost id s) := by
  unfold execLost
  repeat' with_reducible first | assumption | apply keepsA_next | apply State.doLost_keeps | split

theorem State.stopLine_keeps (s : State) {F : Nat} {S : State} (hK : Keeps F S s)
    (hF : within 37383397442568 F = true := by exact within_trans hF (by decide)) : Keeps F S (State.stopLine s) := by
  unfold State.stopLine
  repeat' with_reducible first
    | assumption | exact within_trans hF (by decide)
    | (intro p hp; cases p <;> with_unfolding_all first | exact foot_absurd hF hp (by decide) | exact rfl) | apply State.raise_keeps
    | apply State.sendOuv_keeps | split | fail_if_no_progress apply keeps_upd

theorem State.loseWorker_keeps (s : State) (id : Nat) {F : Nat} {S : State} (hK : Keeps F S s)
    (hF : within 37383397450760 F = true := by exact within_trans hF (by decide)) : Keeps F S (State.loseWorker s id) := by
  unfold State.loseWorker
  repeat' with_reducible first
    | assumption | exact within_trans hF (by decide)
    | (intro p hp; cases p <;> with_unfolding_all first | exact foot_absurd hF hp (by decide) | exact rfl) | apply State.flagLost_keeps
    | apply State.raise_keeps | apply State.sendOuv_keeps | apply State.stopLine_keeps | fail_if_no_progress apply keeps_upd

theorem execWorkerLost_keeps (id : Nat) (s : State) {F : Nat} {S : State} (hK : Keeps F S s)
    (hF : within 37383397450760 F = true := by exact within_trans hF (by decide)) : KeepsA F S (execWorkerLost id s) := by
  unfold execWorkerLost
  repeat' with_reducible first | assumption | apply keepsA_next | apply State.loseWorker_keeps | split

theorem execIsolated_keeps (s : State) {F : Nat} {S : State} (hK : Keeps F S s)
    (hF : within 2336464315400 F = true := by exact within_trans hF (by decide)) : KeepsA F S (execIsolated s) := by
  unfold execIsolated
  repeat' with_reducible first
    | assumption | apply keepsA_next | exact within_trans hF (by decide)
    | (intro p hp; cases p <;> with_unfolding_all first | exact foot_absurd hF hp (by decide) | exact rfl) | apply State.causeTok_keeps
    | apply State.flagTok_keeps | apply State.holdover_keeps | apply State.raise_keeps | (apply keeps_each; intro y n hy) | split
    | fail_if_no_progress apply keeps_upd

theorem State.lnkStop_keeps (s : State) {F : Nat} {S : State} (hK : Keeps F S s)
    (hF : within 37383397442568 F = true := by exact within_trans hF (by decide)) : Keeps F S (State.lnkStop s).1 := by
  unfold State.lnkStop
  repeat' with_reducible first | assumption | apply State.stopLine_keeps | split

theorem State.lnkResume_keeps (s : State) {F : Nat} {S : State} (hK : Keeps F S s)
    (hF : within 37383397442568 F = true := by exact within_trans hF (by decide)) : Keeps F S (State.lnkResume s).1 := by
  unfold State.lnkResume
  repeat' with_reducible first
    | assumption | exact within_trans hF (by decide)
    | (intro p hp; cases p <;> with_unfolding_all first | exact foot_absurd hF hp (by decide) | exact rfl) | apply State.raise_keeps
    | apply State.sendOuv_keeps | split | fail_if_no_progress apply keeps_upd

theorem execLineStop_keeps (s : State) {F : Nat} {S : State} (hK : Keeps F S s)
    (hF : within 37383397442568 F = true := by exact within_trans hF (by decide)) : KeepsA F S (execLineStop s) := by
  unfold execLineStop
  repeat' with_reducible first
    | assumption | apply keepsA_next | exact within_trans hF (by decide) | apply State.answer_keeps | apply State.lnkStop_keeps | split

theorem execLineResume_keeps (s : State) {F : Nat} {S : State} (hK : Keeps F S s)
    (hF : within 37383397442568 F = true := by exact within_trans hF (by decide)) : KeepsA F S (execLineResume s) := by
  unfold execLineResume
  repeat' with_reducible first
    | assumption | apply keepsA_next | exact within_trans hF (by decide) | apply State.answer_keeps | apply State.lnkResume_keeps | split

theorem execLineLinkPortChange_keeps (p : Nat) (up : Bool) (s : State) {F : Nat} {S : State} (hK : Keeps F S s)
    (hF : within 37383397450760 F = true := by exact within_trans hF (by decide)) : KeepsA F S (execLineLinkPortChange p up s) := by
  unfold execLineLinkPortChange
  repeat' with_reducible first
    | assumption | apply keepsA_next | exact within_trans hF (by decide)
    | (intro p hp; cases p <;> with_unfolding_all first | exact foot_absurd hF hp (by decide) | exact rfl) | apply State.loseWorker_keeps
    | apply State.raise_keeps | (apply keeps_each; intro y n hy) | split | fail_if_no_progress apply keeps_upd

theorem State.takeIn_keeps (s : State) (src : Nat) (b : OuvBody) {F : Nat} {S : State} (hK : Keeps F S s)
    (hF : within 38071934673928 F = true := by exact within_trans hF (by decide)) : Keeps F S (State.takeIn s src b) := by
  unfold State.takeIn
  repeat' with_reducible first
    | assumption | exact within_trans hF (by decide) | apply State.doAck_keeps | apply State.doAdmit_keeps | apply State.doAnnounce_keeps
    | apply State.doGo_keeps | apply State.doLost_keeps | apply State.doOrder_keeps | apply State.doRefused_keeps | apply State.doReport_keeps
    | apply State.doStep_keeps | apply State.doStop_keeps | split

theorem execOuvothFrame_keeps (p : Nat) (f : OuvFrame) (s : State) {F : Nat} {S : State} (hK : Keeps F S s)
    (hF : within 38071934673928 F = true := by exact within_trans hF (by decide)) : KeepsA F S (execOuvothFrame p f s) := by
  unfold execOuvothFrame
  repeat' with_reducible first
    | assumption | apply keepsA_next | exact within_trans hF (by decide) | apply State.bump_keeps | apply State.emit_keeps | apply State.raiseIf_keeps
    | apply State.sawFrame_keeps | apply State.takeIn_keeps | (apply keeps_each; intro y n hy) | split

end Sys2Proof.Machine
end

