-- ==== Sys2Proof/Laws/KeepsRegs.lean ====
section
/-! SUPPORT. What the operations of register reads and writes keep (RegRead, RegWrite). -/
namespace Sys2Proof.Machine
set_option linter.all false
set_option Elab.async false
/-! RegRead -/

theorem State.clearRc_keeps (s : State) (a : Nat) {F : Nat} {S : State} (hK : Keeps F S s)
    (hF : within 8 F = true := by exact within_trans hF (by decide)) : Keeps F S (State.clearRc s a) := by
  unfold State.clearRc
  repeat' with_reducible first
    | exact hK | assumption
    | (extract_lets +onlyGivenNames y; refine keeps_cut (F := F) (S := S) (y := y) ?_ ?_; dsimp -zeta only [y]; clear y; rotate_left; clear_value y; intro hy; rotate_right)
    | (extract_lets +onlyGivenNames y; refine keeps_cut1 (F := F) (S := S) (y := y) ?_ ?_; dsimp -zeta only [y]; clear y; rotate_left; clear_value y; intro hy; rotate_right)
    | (extract_lets +onlyGivenNames y; refine keeps_cutR (F := F) (S := S) (y := y) ?_ ?_; dsimp -zeta only [y]; clear y; rotate_left; clear_value y; intro hy; rotate_right)
    | extract_lets +onlyGivenNames y | apply keepsA_next | apply keepsO_some | exact keepsO_none | exact within_trans hF (by decide)
    | (intro p hp; cases p <;> with_unfolding_all first | exact foot_absurd hF hp (by decide) | exact rfl) | apply State.setReg_keeps | split
    | (apply keeps_of_pair; assumption) | (apply keeps_of_trip; assumption) | refine keeps_of_some (by assumption) ?_ | dsimp -zeta only

theorem latched_keeps {F : Nat} {S s : State} {w : Nat} (h : Keeps F S s)
    (hF : within 137438953472 F = true := by exact within_trans hF (by decide)) : Keeps F S { s with time := { s.time with latched := w } } := keeps_upd h (by intro p hp; cases p <;> first | exact foot_absurd hF hp (by decide) | exact rfl)

theorem State.readReg_keeps (s : State) (a : Nat) {F : Nat} {S : State} (hK : Keeps F S s)
    (hF : within 137499771912 F = true := by exact within_trans hF (by decide)) : Keeps F S (s.readReg a).1 := by
  unfold State.readReg
  split
  · exact hK
  · split
    · split
      · exact hK
      · extract_lets o
        refine keeps_fst ?_
        split
        · exact State.clearRc_keeps _ _ hK
        · exact hK
    · split
      · split
        · exact hK
        · extract_lets r
          exact keeps_fst (State.memRead_keeps _ _ _ _ hK)
      · split
        · exact keeps_fst (latched_keeps hK)
        · split
          · exact keeps_fst (State.clearRc_keeps _ _ hK)
          · exact hK

theorem State.readRegs_keeps (s : State) (a n : Nat) {F : Nat} {S : State} (hK : Keeps F S s)
    (hF : within 137499771912 F = true := by exact within_trans hF (by decide)) : Keeps F S (s.readRegs a n).1 := by
  induction n generalizing s a with
  | zero => exact hK
  | succ n ih =>
    unfold State.readRegs
    have h := State.readReg_keeps s a hK
    dsimp only
    split
    · exact h
    · exact ih _ _ h

/-! RegWrite -/

theorem State.setEngine_keeps (s : State) (a : Nat) (w : Word) {F : Nat} {S : State} (hK : Keeps F S s)
    (hF : within 24 F = true := by exact within_trans hF (by decide)) : Keeps F S (State.setEngine s a w) := by
  unfold State.setEngine
  repeat' with_reducible first
    | exact hK | assumption
    | (extract_lets +onlyGivenNames y; refine keeps_cut (F := F) (S := S) (y := y) ?_ ?_; dsimp -zeta only [y]; clear y; rotate_left; clear_value y; intro hy; rotate_right)
    | (extract_lets +onlyGivenNames y; refine keeps_cut1 (F := F) (S := S) (y := y) ?_ ?_; dsimp -zeta only [y]; clear y; rotate_left; clear_value y; intro hy; rotate_right)
    | (extract_lets +onlyGivenNames y; refine keeps_cutR (F := F) (S := S) (y := y) ?_ ?_; dsimp -zeta only [y]; clear y; rotate_left; clear_value y; intro hy; rotate_right)
    | extract_lets +onlyGivenNames y | apply keepsA_next | apply keepsO_some | exact keepsO_none | exact within_trans hF (by decide)
    | (intro p hp; cases p <;> with_unfolding_all first | exact foot_absurd hF hp (by decide) | exact rfl) | apply State.setLater_keeps | split
    | (apply keeps_of_pair; assumption) | (apply keeps_of_trip; assumption) | refine keeps_of_some (by assumption) ?_ | dsimp -zeta only
    | fail_if_no_progress apply keeps_upd

theorem State.storeReg_keeps (s : State) (r : RegRow) (a : Nat) (w : Word) {F : Nat} {S : State} (hK : Keeps F S s)
    (hF : within 24 F = true := by exact within_trans hF (by decide)) : Keeps F S (State.storeReg s r a w) := by
  unfold State.storeReg
  repeat' with_reducible first
    | exact hK | assumption
    | (extract_lets +onlyGivenNames y; refine keeps_cut (F := F) (S := S) (y := y) ?_ ?_; dsimp -zeta only [y]; clear y; rotate_left; clear_value y; intro hy; rotate_right)
    | (extract_lets +onlyGivenNames y; refine keeps_cut1 (F := F) (S := S) (y := y) ?_ ?_; dsimp -zeta only [y]; clear y; rotate_left; clear_value y; intro hy; rotate_right)
    | (extract_lets +onlyGivenNames y; refine keeps_cutR (F := F) (S := S) (y := y) ?_ ?_; dsimp -zeta only [y]; clear y; rotate_left; clear_value y; intro hy; rotate_right)
    | extract_lets +onlyGivenNames y | apply keepsA_next | apply keepsO_some | exact keepsO_none | exact within_trans hF (by decide)
    | (intro p hp; cases p <;> with_unfolding_all first | exact foot_absurd hF hp (by decide) | exact rfl) | apply State.setEngine_keeps
    | apply State.setLater_keeps | apply State.setReg_keeps | split | (apply keeps_of_pair; assumption) | (apply keeps_of_trip; assumption)
    | refine keeps_of_some (by assumption) ?_ | dsimp -zeta only

theorem State.put_keeps (s : State) (r : RegRow) (a : Nat) (v : Word) (m : Nat) {F : Nat} {S : State} (hK : Keeps F S s)
    (hF : within 24 F = true := by exact within_trans hF (by decide)) : Keeps F S (State.put s r a v m) := by
  unfold State.put
  repeat' with_reducible first
    | exact hK | assumption
    | (extract_lets +onlyGivenNames y; refine keeps_cut (F := F) (S := S) (y := y) ?_ ?_; dsimp -zeta only [y]; clear y; rotate_left; clear_value y; intro hy; rotate_right)
    | (extract_lets +onlyGivenNames y; refine keeps_cut1 (F := F) (S := S) (y := y) ?_ ?_; dsimp -zeta only [y]; clear y; rotate_left; clear_value y; intro hy; rotate_right)
    | (extract_lets +onlyGivenNames y; refine keeps_cutR (F := F) (S := S) (y := y) ?_ ?_; dsimp -zeta only [y]; clear y; rotate_left; clear_value y; intro hy; rotate_right)
    | extract_lets +onlyGivenNames y | apply keepsA_next | apply keepsO_some | exact keepsO_none | exact within_trans hF (by decide)
    | (intro p hp; cases p <;> with_unfolding_all first | exact foot_absurd hF hp (by decide) | exact rfl) | apply State.storeReg_keeps | split
    | (apply keeps_of_pair; assumption) | (apply keeps_of_trip; assumption) | refine keeps_of_some (by assumption) ?_ | dsimp -zeta only

theorem runOps_keeps (l : List (State → State × Nat)) (s : State) {F : Nat} {S : State} (hl : ∀ f ∈ l, ∀ x, Keeps F S x → Keeps F S (f x).1) (hK : Keeps F S s)
    (hF : within 0 F = true := by exact within_trans hF (by decide)) :
    Keeps F S (runOps l s).1 := by
  induction l generalizing s with
  | nil => exact hK
  | cons f l ih =>
    unfold runOps
    have h := hl f List.mem_cons_self s hK
    dsimp only
    split
    · exact ih _ (fun g hg => hl g (List.mem_cons_of_mem _ hg)) h
    · exact h

theorem cmdOps_keeps {v : Nat} {l : List (Nat × (State → State × Nat))} {F : Nat} {S : State} (hl : ∀ e ∈ l, ∀ x, Keeps F S x → Keeps F S (e.2 x).1) :
    ∀ f ∈ cmdOps v l, ∀ x, Keeps F S x → Keeps F S (f x).1 := by
  intro f hf
  obtain ⟨e, he, rfl⟩ := List.mem_map.mp hf
  exact hl e (List.mem_filter.mp he).1

theorem keeps_all_nil {F : Nat} {S : State} : ∀ e ∈ ([] : List (Nat × (State → State × Nat))), ∀ x, Keeps F S x → Keeps F S (e.2 x).1 := by
  intro e he; cases he

theorem keeps_all_cons {F : Nat} {S : State} {k : Nat} {f : State → State × Nat} {l : List (Nat × (State → State × Nat))}
    (hf : ∀ x, Keeps F S x → Keeps F S (f x).1) (hl : ∀ e ∈ l, ∀ x, Keeps F S x → Keeps F S (e.2 x).1) : ∀ e ∈ (k, f) :: l, ∀ x, Keeps F S x → Keeps F S (e.2 x).1 := by
  intro e he
  cases he with
  | head => exact hf
  | tail _ h => exact hl e h

theorem keeps_all_append {F : Nat} {S : State} {l m : List (Nat × (State → State × Nat))} (hl : ∀ e ∈ l, ∀ x, Keeps F S x → Keeps F S (e.2 x).1)
    (hm : ∀ e ∈ m, ∀ x, Keeps F S x → Keeps F S (e.2 x).1) : ∀ e ∈ l ++ m, ∀ x, Keeps F S x → Keeps F S (e.2 x).1 := by
  intro e he
  rcases List.mem_append.mp he with h | h
  · exact hl e h
  · exact hm e h

theorem keeps_all_map {α : Type} {F : Nat} {S : State} {l : List α} {g : α → State → State × Nat} (hg : ∀ a x, Keeps F S x → Keeps F S (g a x).1) :
    ∀ f ∈ l.map g, ∀ x, Keeps F S x → Keeps F S (f x).1 := by
  intro f hf
  obtain ⟨a, _, rfl⟩ := List.mem_map.mp hf
  exact hg a

theorem State.stpCmd_keeps (s : State) (n v : Nat) {F : Nat} {S : State} (hK : Keeps F S s)
    (hF : within 35184642622472 F = true := by exact within_trans hF (by decide)) : Keeps F S (s.stpCmd n v).1 := by
  unfold State.stpCmd
  refine runOps_keeps _ _ (cmdOps_keeps (keeps_all_append (keeps_all_append ?_ ?_) ?_)) hK
  · exact keeps_all_cons (fun x h => State.stpClear_keeps _ _ h) (keeps_all_cons (fun x h => State.stpEnable_keeps _ _ h) keeps_all_nil)
  · split
    · exact keeps_all_cons (fun x h => State.stpStop_keeps _ _ h) keeps_all_nil
    · exact keeps_all_cons (fun x h => State.stpMove_keeps _ _ h) (keeps_all_cons (fun x h => State.stpResume_keeps _ _ h)
        (keeps_all_cons (fun x h => State.stpReference_keeps _ _ h) keeps_all_nil))
  · exact keeps_all_cons (fun x h => State.stpDisable_keeps _ _ h) keeps_all_nil

theorem State.motCmd_keeps (s : State) (n v : Nat) {F : Nat} {S : State} (hK : Keeps F S s)
    (hF : within 1075840012 F = true := by exact within_trans hF (by decide)) : Keeps F S (s.motCmd n v).1 := by
  unfold State.motCmd
  refine runOps_keeps _ _ (cmdOps_keeps (keeps_all_append ?_ ?_)) hK
  · exact keeps_all_cons (fun x h => State.motClear_keeps _ _ h) keeps_all_nil
  · split
    · exact keeps_all_cons (fun x h => State.motCoast_keeps _ _ h) keeps_all_nil
    · split
      · exact keeps_all_cons (fun x h => State.motStop_keeps _ _ h) keeps_all_nil
      · exact keeps_all_cons (fun x h => State.motRun_keeps _ _ h) keeps_all_nil

theorem State.clearFlags_keeps (s : State) (k : Nat) (v : Nat) {F : Nat} {S : State} (hK : Keeps F S s)
    (hF : within 8 F = true := by exact within_trans hF (by decide)) : Keeps F S (State.clearFlags s k v) := by
  unfold State.clearFlags
  repeat' with_reducible first
    | exact hK | assumption
    | (extract_lets +onlyGivenNames y; refine keeps_cut (F := F) (S := S) (y := y) ?_ ?_; dsimp -zeta only [y]; clear y; rotate_left; clear_value y; intro hy; rotate_right)
    | (extract_lets +onlyGivenNames y; refine keeps_cut1 (F := F) (S := S) (y := y) ?_ ?_; dsimp -zeta only [y]; clear y; rotate_left; clear_value y; intro hy; rotate_right)
    | (extract_lets +onlyGivenNames y; refine keeps_cutR (F := F) (S := S) (y := y) ?_ ?_; dsimp -zeta only [y]; clear y; rotate_left; clear_value y; intro hy; rotate_right)
    | extract_lets +onlyGivenNames y | apply keepsA_next | apply keepsO_some | exact keepsO_none | exact within_trans hF (by decide)
    | (intro p hp; cases p <;> with_unfolding_all first | exact foot_absurd hF hp (by decide) | exact rfl) | apply State.setReg_keeps | split
    | (apply keeps_of_pair; assumption) | (apply keeps_of_trip; assumption) | refine keeps_of_some (by assumption) ?_ | dsimp -zeta only

theorem State.sendLatest_keeps (s : State) (n : Nat) {F : Nat} {S : State} (hK : Keeps F S s)
    (hF : within 2098184 F = true := by exact within_trans hF (by decide)) : Keeps F S (State.sendLatest s n) := by
  unfold State.sendLatest
  repeat' with_reducible first
    | exact hK | assumption
    | (extract_lets +onlyGivenNames y; refine keeps_cut (F := F) (S := S) (y := y) ?_ ?_; dsimp -zeta only [y]; clear y; rotate_left; clear_value y; intro hy; rotate_right)
    | (extract_lets +onlyGivenNames y; refine keeps_cut1 (F := F) (S := S) (y := y) ?_ ?_; dsimp -zeta only [y]; clear y; rotate_left; clear_value y; intro hy; rotate_right)
    | (extract_lets +onlyGivenNames y; refine keeps_cutR (F := F) (S := S) (y := y) ?_ ?_; dsimp -zeta only [y]; clear y; rotate_left; clear_value y; intro hy; rotate_right)
    | extract_lets +onlyGivenNames y | apply keepsA_next | apply keepsO_some | exact keepsO_none | exact within_trans hF (by decide)
    | (intro p hp; cases p <;> with_unfolding_all first | exact foot_absurd hF hp (by decide) | exact rfl) | apply State.sendEv_keeps
    | apply keeps_getDo | split | (apply keeps_of_pair; assumption) | (apply keeps_of_trip; assumption) | refine keeps_of_some (by assumption) ?_
    | dsimp -zeta only

theorem State.setEnables_keeps (s : State) (k : Nat) (w : Word) {F : Nat} {S : State} (hK : Keeps F S s)
    (hF : within 2098184 F = true := by exact within_trans hF (by decide)) : Keeps F S (State.setEnables s k w) := by
  unfold State.setEnables
  repeat' with_reducible first
    | exact hK | assumption
    | (extract_lets +onlyGivenNames y; refine keeps_cut (F := F) (S := S) (y := y) ?_ ?_; dsimp -zeta only [y]; clear y; rotate_left; clear_value y; intro hy; rotate_right)
    | (extract_lets +onlyGivenNames y; refine keeps_cut1 (F := F) (S := S) (y := y) ?_ ?_; dsimp -zeta only [y]; clear y; rotate_left; clear_value y; intro hy; rotate_right)
    | (extract_lets +onlyGivenNames y; refine keeps_cutR (F := F) (S := S) (y := y) ?_ ?_; dsimp -zeta only [y]; clear y; rotate_left; clear_value y; intro hy; rotate_right)
    | extract_lets +onlyGivenNames y | apply keepsA_next | apply keepsO_some | exact keepsO_none | exact within_trans hF (by decide)
    | (intro p hp; cases p <;> with_unfolding_all first | exact foot_absurd hF hp (by decide) | exact rfl) | apply State.each_keeps
    | apply State.sendLatest_keeps | apply State.setReg_keeps | (apply keeps_each; intro y n hy) | split | (apply keeps_of_pair; assumption)
    | (apply keeps_of_trip; assumption) | refine keeps_of_some (by assumption) ?_ | dsimp -zeta only

theorem State.setRoute_keeps (s : State) (n : Nat) (w : Word) {F : Nat} {S : State} (hK : Keeps F S s)
    (hF : within 2098184 F = true := by exact within_trans hF (by decide)) : Keeps F S (State.setRoute s n w) := by
  unfold State.setRoute
  repeat' with_reducible first
    | exact hK | assumption
    | (extract_lets +onlyGivenNames y; refine keeps_cut (F := F) (S := S) (y := y) ?_ ?_; dsimp -zeta only [y]; clear y; rotate_left; clear_value y; intro hy; rotate_right)
    | (extract_lets +onlyGivenNames y; refine keeps_cut1 (F := F) (S := S) (y := y) ?_ ?_; dsimp -zeta only [y]; clear y; rotate_left; clear_value y; intro hy; rotate_right)
    | (extract_lets +onlyGivenNames y; refine keeps_cutR (F := F) (S := S) (y := y) ?_ ?_; dsimp -zeta only [y]; clear y; rotate_left; clear_value y; intro hy; rotate_right)
    | extract_lets +onlyGivenNames y | apply keepsA_next | apply keepsO_some | exact keepsO_none | exact within_trans hF (by decide)
    | (intro p hp; cases p <;> with_unfolding_all first | exact foot_absurd hF hp (by decide) | exact rfl) | apply State.sendLatest_keeps
    | apply State.setReg_keeps | split | (apply keeps_of_pair; assumption) | (apply keeps_of_trip; assumption)
    | refine keeps_of_some (by assumption) ?_ | dsimp -zeta only | fail_if_no_progress apply keeps_upd

theorem State.orderThr_keeps (s : State) (r : RegRow) (k : Nat) {F : Nat} {S : State} (hK : Keeps F S s)
    (hF : within 24 F = true := by exact within_trans hF (by decide)) : Keeps F S (State.orderThr s r k) := by
  unfold State.orderThr
  repeat' with_reducible first
    | exact hK | assumption
    | (extract_lets +onlyGivenNames y; refine keeps_cut (F := F) (S := S) (y := y) ?_ ?_; dsimp -zeta only [y]; clear y; rotate_left; clear_value y; intro hy; rotate_right)
    | (extract_lets +onlyGivenNames y; refine keeps_cut1 (F := F) (S := S) (y := y) ?_ ?_; dsimp -zeta only [y]; clear y; rotate_left; clear_value y; intro hy; rotate_right)
    | (extract_lets +onlyGivenNames y; refine keeps_cutR (F := F) (S := S) (y := y) ?_ ?_; dsimp -zeta only [y]; clear y; rotate_left; clear_value y; intro hy; rotate_right)
    | extract_lets +onlyGivenNames y | apply keepsA_next | apply keepsO_some | exact keepsO_none | exact within_trans hF (by decide)
    | (intro p hp; cases p <;> with_unfolding_all first | exact foot_absurd hF hp (by decide) | exact rfl) | apply State.storeReg_keeps | split
    | (apply keeps_of_pair; assumption) | (apply keeps_of_trip; assumption) | refine keeps_of_some (by assumption) ?_ | dsimp -zeta only

theorem State.orderBus_keeps (s : State) (r : RegRow) {F : Nat} {S : State} (hK : Keeps F S s)
    (hF : within 24 F = true := by exact within_trans hF (by decide)) : Keeps F S (State.orderBus s r) := by
  unfold State.orderBus
  repeat' with_reducible first
    | exact hK | assumption
    | (extract_lets +onlyGivenNames y; refine keeps_cut (F := F) (S := S) (y := y) ?_ ?_; dsimp -zeta only [y]; clear y; rotate_left; clear_value y; intro hy; rotate_right)
    | (extract_lets +onlyGivenNames y; refine keeps_cut1 (F := F) (S := S) (y := y) ?_ ?_; dsimp -zeta only [y]; clear y; rotate_left; clear_value y; intro hy; rotate_right)
    | (extract_lets +onlyGivenNames y; refine keeps_cutR (F := F) (S := S) (y := y) ?_ ?_; dsimp -zeta only [y]; clear y; rotate_left; clear_value y; intro hy; rotate_right)
    | extract_lets +onlyGivenNames y | apply keepsA_next | apply keepsO_some | exact keepsO_none | exact within_trans hF (by decide)
    | (intro p hp; cases p <;> with_unfolding_all first | exact foot_absurd hF hp (by decide) | exact rfl) | apply State.storeReg_keeps | split
    | (apply keeps_of_pair; assumption) | (apply keeps_of_trip; assumption) | refine keeps_of_some (by assumption) ?_ | dsimp -zeta only

theorem State.lockMon_keeps (s : State) {F : Nat} {S : State} (hK : Keeps F S s)
    (hF : within 8796095120392 F = true := by exact within_trans hF (by decide)) : Keeps F S (State.lockMon s) := by
  unfold State.lockMon
  repeat' with_reducible first
    | exact hK | assumption
    | (extract_lets +onlyGivenNames y; refine keeps_cut (F := F) (S := S) (y := y) ?_ ?_; dsimp -zeta only [y]; clear y; rotate_left; clear_value y; intro hy; rotate_right)
    | (extract_lets +onlyGivenNames y; refine keeps_cut1 (F := F) (S := S) (y := y) ?_ ?_; dsimp -zeta only [y]; clear y; rotate_left; clear_value y; intro hy; rotate_right)
    | (extract_lets +onlyGivenNames y; refine keeps_cutR (F := F) (S := S) (y := y) ?_ ?_; dsimp -zeta only [y]; clear y; rotate_left; clear_value y; intro hy; rotate_right)
    | extract_lets +onlyGivenNames y | apply keepsA_next | apply keepsO_some | exact keepsO_none | exact within_trans hF (by decide)
    | (intro p hp; cases p <;> with_unfolding_all first | exact foot_absurd hF hp (by decide) | exact rfl) | apply State.raise_keeps | split
    | (apply keeps_of_pair; assumption) | (apply keeps_of_trip; assumption) | refine keeps_of_some (by assumption) ?_ | dsimp -zeta only
    | fail_if_no_progress apply keeps_upd

theorem State.blkCtrl_keeps (s : State) (r : RegRow) (n : Nat) (v : Word) (m : Nat) {F : Nat} {S : State} (hK : Keeps F S s)
    (hF : within 3417112 F = true := by exact within_trans hF (by decide)) : Keeps F S (State.blkCtrl s r n v m) := by
  unfold State.blkCtrl
  repeat' with_reducible first
    | exact hK | assumption
    | (extract_lets +onlyGivenNames y; refine keeps_cut (F := F) (S := S) (y := y) ?_ ?_; dsimp -zeta only [y]; clear y; rotate_left; clear_value y; intro hy; rotate_right)
    | (extract_lets +onlyGivenNames y; refine keeps_cut1 (F := F) (S := S) (y := y) ?_ ?_; dsimp -zeta only [y]; clear y; rotate_left; clear_value y; intro hy; rotate_right)
    | (extract_lets +onlyGivenNames y; refine keeps_cutR (F := F) (S := S) (y := y) ?_ ?_; dsimp -zeta only [y]; clear y; rotate_left; clear_value y; intro hy; rotate_right)
    | extract_lets +onlyGivenNames y | apply keepsA_next | apply keepsO_some | exact keepsO_none | exact within_trans hF (by decide)
    | (intro p hp; cases p <;> with_unfolding_all first | exact foot_absurd hF hp (by decide) | exact rfl) | apply State.linkOff_keeps
    | apply State.linkOn_keeps | apply State.put_keeps | apply State.setF_keeps | split | (apply keeps_of_pair; assumption)
    | (apply keeps_of_trip; assumption) | refine keeps_of_some (by assumption) ?_ | dsimp -zeta only

theorem State.unitWrite_keeps (s : State) (r : RegRow) (a : Nat) (v : Word) (m : Nat) {F : Nat} {S : State} (hK : Keeps F S s)
    (hF : within 70269288085276 F = true := by exact within_trans hF (by decide)) : Keeps F S (s.unitWrite r a v m).1 := by
  have hl : ∀ c : Nat, Keeps F S (runOps (cmdOps c [(16, fun s => s.lnkStop), (17, fun s => s.lnkResume)]) s).1 := fun c =>
    runOps_keeps _ _ (cmdOps_keeps (keeps_all_cons (fun x h => State.lnkStop_keeps _ h) (keeps_all_cons (fun x h => State.lnkResume_keeps _ h) keeps_all_nil))) hK
  have hm : ∀ c : Nat, Keeps F S (runOps (cmdOps c [(1, fun s => s.ovAck), (2, fun s => s.chopAck)]) s).1 := fun c =>
    runOps_keeps _ _ (cmdOps_keeps (keeps_all_cons (fun x h => State.ovAck_keeps _ h) (keeps_all_cons (fun x h => State.chopAck_keeps _ h) keeps_all_nil))) hK
  unfold State.unitWrite
  repeat' with_reducible first
    | exact hl _ | exact hm _ | exact hK | assumption
    | (extract_lets +onlyGivenNames y; refine keeps_cut (F := F) (S := S) (y := y) ?_ ?_; dsimp -zeta only [y]; clear y; rotate_left; clear_value y; intro hy; rotate_right)
    | (extract_lets +onlyGivenNames y; refine keeps_cut1 (F := F) (S := S) (y := y) ?_ ?_; dsimp -zeta only [y]; clear y; rotate_left; clear_value y; intro hy; rotate_right)
    | (extract_lets +onlyGivenNames y; refine keeps_cutR (F := F) (S := S) (y := y) ?_ ?_; dsimp -zeta only [y]; clear y; rotate_left; clear_value y; intro hy; rotate_right)
    | extract_lets +onlyGivenNames y | apply keepsA_next | apply keepsO_some | exact keepsO_none | exact within_trans hF (by decide)
    | (intro p hp; cases p <;> with_unfolding_all first | exact foot_absurd hF hp (by decide) | exact rfl) | apply State.blkCtrl_keeps
    | apply State.chopAck_keeps | apply State.clearFlags_keeps | apply State.csmCmd_keeps | apply State.dmaActs_keeps | apply State.dmaCut_keeps
    | apply State.fcArm_keeps | apply State.fcEnable_keeps | apply State.fcRetarget_keeps | apply State.hvEnable_keeps | apply State.hvTarget_keeps
    | apply State.lnkResume_keeps | apply State.lnkStop_keeps | apply State.lockMon_keeps | apply State.misfeedAck_keeps | apply State.motCmd_keeps
    | apply State.motSpeed_keeps | apply State.orderBus_keeps | apply State.orderThr_keeps | apply State.ovAck_keeps | apply State.patTail_keeps
    | apply State.pinClaim_keeps | apply State.ptpRoleSet_keeps | apply State.put_keeps | apply State.refuseClaim_keeps | apply State.retire_keeps
    | apply State.setEnables_keeps | apply State.setReg_keeps | apply State.setRoute_keeps | apply State.shtCtrl_keeps | apply State.stpCmd_keeps
    | apply State.stpReplan_keeps | apply State.stpTarget_keeps | apply State.timFreq_keeps | apply State.timStep_keeps | apply State.toBridge_keeps
    | apply State.wcArm_keeps | apply cmdOps_keeps | apply runOps_keeps | split | (apply keeps_of_pair; assumption)
    | (apply keeps_of_trip; assumption) | refine keeps_of_some (by assumption) ?_ | dsimp -zeta only

theorem State.blockWrite_keeps (s : State) (a : Nat) (v mask : Word) {F : Nat} {S : State} (hK : Keeps F S s)
    (hF : within 70269288609564 F = true := by exact within_trans hF (by decide)) : Keeps F S (State.blockWrite s a v mask).1 := by
  unfold State.blockWrite
  repeat' with_reducible first
    | exact hK | assumption
    | (extract_lets +onlyGivenNames y; refine keeps_cut (F := F) (S := S) (y := y) ?_ ?_; dsimp -zeta only [y]; clear y; rotate_left; clear_value y; intro hy; rotate_right)
    | (extract_lets +onlyGivenNames y; refine keeps_cut1 (F := F) (S := S) (y := y) ?_ ?_; dsimp -zeta only [y]; clear y; rotate_left; clear_value y; intro hy; rotate_right)
    | (extract_lets +onlyGivenNames y; refine keeps_cutR (F := F) (S := S) (y := y) ?_ ?_; dsimp -zeta only [y]; clear y; rotate_left; clear_value y; intro hy; rotate_right)
    | extract_lets +onlyGivenNames y | apply keepsA_next | apply keepsO_some | exact keepsO_none | exact within_trans hF (by decide)
    | (intro p hp; cases p <;> with_unfolding_all first | exact foot_absurd hF hp (by decide) | exact rfl) | apply State.refuseClaim_keeps
    | apply State.unitWrite_keeps | split | (apply keeps_of_pair; assumption) | (apply keeps_of_trip; assumption)
    | refine keeps_of_some (by assumption) ?_ | dsimp -zeta only | fail_if_no_progress apply keeps_upd

theorem State.windowWrite_keeps (s : State) (a : Nat) (v mask : Word) {F : Nat} {S : State} (hK : Keeps F S s)
    (hF : within 8591245408 F = true := by exact within_trans hF (by decide)) : Keeps F S (State.windowWrite s a v mask).1 := by
  unfold State.windowWrite
  repeat' with_reducible first
    | exact hK | assumption
    | (extract_lets +onlyGivenNames y; refine keeps_cut (F := F) (S := S) (y := y) ?_ ?_; dsimp -zeta only [y]; clear y; rotate_left; clear_value y; intro hy; rotate_right)
    | (extract_lets +onlyGivenNames y; refine keeps_cut1 (F := F) (S := S) (y := y) ?_ ?_; dsimp -zeta only [y]; clear y; rotate_left; clear_value y; intro hy; rotate_right)
    | (extract_lets +onlyGivenNames y; refine keeps_cutR (F := F) (S := S) (y := y) ?_ ?_; dsimp -zeta only [y]; clear y; rotate_left; clear_value y; intro hy; rotate_right)
    | extract_lets +onlyGivenNames y | apply keepsA_next | apply keepsO_some | exact keepsO_none | exact within_trans hF (by decide)
    | (intro p hp; cases p <;> with_unfolding_all first | exact foot_absurd hF hp (by decide) | exact rfl) | apply State.loadTab_keeps
    | apply State.setTabRun_keeps | split | (apply keeps_of_pair; assumption) | (apply keeps_of_trip; assumption)
    | refine keeps_of_some (by assumption) ?_ | dsimp -zeta only

theorem State.dmaWinWrite_keeps (s : State) (a : Nat) (l : List Byte) {F : Nat} {S : State} (hK : Keeps F S s)
    (hF : within 60818440 F = true := by exact within_trans hF (by decide)) : Keeps F S (State.dmaWinWrite s a l).1 := by
  unfold State.dmaWinWrite
  repeat' with_reducible first
    | exact hK | assumption
    | (extract_lets +onlyGivenNames y; refine keeps_cut (F := F) (S := S) (y := y) ?_ ?_; dsimp -zeta only [y]; clear y; rotate_left; clear_value y; intro hy; rotate_right)
    | (extract_lets +onlyGivenNames y; refine keeps_cut1 (F := F) (S := S) (y := y) ?_ ?_; dsimp -zeta only [y]; clear y; rotate_left; clear_value y; intro hy; rotate_right)
    | (extract_lets +onlyGivenNames y; refine keeps_cutR (F := F) (S := S) (y := y) ?_ ?_; dsimp -zeta only [y]; clear y; rotate_left; clear_value y; intro hy; rotate_right)
    | extract_lets +onlyGivenNames y | apply keepsA_next | apply keepsO_some | exact keepsO_none | exact within_trans hF (by decide)
    | (intro p hp; cases p <;> with_unfolding_all first | exact foot_absurd hF hp (by decide) | exact rfl) | apply State.memWrite_keeps | split
    | (apply keeps_of_pair; assumption) | (apply keeps_of_trip; assumption) | refine keeps_of_some (by assumption) ?_ | dsimp -zeta only

theorem State.writeList_keeps (s : State) (ws : List RegEntry) {F : Nat} {S : State} (hK : Keeps F S s)
    (hF : within 70269288609564 F = true := by exact within_trans hF (by decide)) : Keeps F S (s.writeList ws).1 := by
  have hr := runOps_keeps (ws.map (fun w => fun s => State.blockWrite s w.addr w.val w.mask)) s
    (keeps_all_map (fun w x h => State.blockWrite_keeps _ _ _ _ h)) hK
  unfold State.writeList
  extract_lets r
  split
  · exact hr
  · split
    · exact State.blockWrite_keeps _ _ _ _ hK
    · exact hK

theorem State.writeEntry_keeps (s : State) (e : RegEntry) {F : Nat} {S : State} (hK : Keeps F S s)
    (hF : within 70277878544252 F = true := by exact within_trans hF (by decide)) : Keeps F S (s.writeEntry e).1 := by
  unfold State.writeEntry
  split
  · exact State.windowWrite_keeps _ _ _ _ hK
  · split
    · split
      · exact hK
      · exact State.writeList_keeps _ _ hK
    · split
      · split
        · exact hK
        · extract_lets old
          exact State.dmaWinWrite_keeps _ _ _ hK
      · exact State.blockWrite_keeps _ _ _ _ hK

theorem execStpLimitWrite_keeps (n which : Nat) (v : Word) (s : State) {F : Nat} {S : State} (hK : Keeps F S s)
    (hF : within 70277878544252 F = true := by exact within_trans hF (by decide)) : KeepsA F S (execStpLimitWrite n which v s) := by
  unfold execStpLimitWrite
  repeat' with_reducible first
    | exact hK | assumption
    | (extract_lets +onlyGivenNames y; refine keeps_cut (F := F) (S := S) (y := y) ?_ ?_; dsimp -zeta only [y]; clear y; rotate_left; clear_value y; intro hy; rotate_right)
    | (extract_lets +onlyGivenNames y; refine keeps_cut1 (F := F) (S := S) (y := y) ?_ ?_; dsimp -zeta only [y]; clear y; rotate_left; clear_value y; intro hy; rotate_right)
    | (extract_lets +onlyGivenNames y; refine keeps_cutR (F := F) (S := S) (y := y) ?_ ?_; dsimp -zeta only [y]; clear y; rotate_left; clear_value y; intro hy; rotate_right)
    | extract_lets +onlyGivenNames y | apply keepsA_next | apply keepsO_some | exact keepsO_none | exact within_trans hF (by decide)
    | (intro p hp; cases p <;> with_unfolding_all first | exact foot_absurd hF hp (by decide) | exact rfl) | apply State.answer_keeps
    | apply State.writeEntry_keeps | split | (apply keeps_of_pair; assumption) | (apply keeps_of_trip; assumption)
    | refine keeps_of_some (by assumption) ?_ | dsimp -zeta only

theorem execApertureWrite_keeps (off : Nat) (v mask : Word) (s : State) {F : Nat} {S : State} (hK : Keeps F S s)
    (hF : within 70277878544252 F = true := by exact within_trans hF (by decide)) : KeepsA F S (execApertureWrite off v mask s) := by
  unfold execApertureWrite
  repeat' with_reducible first
    | exact hK | assumption
    | (extract_lets +onlyGivenNames y; refine keeps_cut (F := F) (S := S) (y := y) ?_ ?_; dsimp -zeta only [y]; clear y; rotate_left; clear_value y; intro hy; rotate_right)
    | (extract_lets +onlyGivenNames y; refine keeps_cut1 (F := F) (S := S) (y := y) ?_ ?_; dsimp -zeta only [y]; clear y; rotate_left; clear_value y; intro hy; rotate_right)
    | (extract_lets +onlyGivenNames y; refine keeps_cutR (F := F) (S := S) (y := y) ?_ ?_; dsimp -zeta only [y]; clear y; rotate_left; clear_value y; intro hy; rotate_right)
    | extract_lets +onlyGivenNames y | apply keepsA_next | apply keepsO_some | exact keepsO_none | exact within_trans hF (by decide)
    | (intro p hp; cases p <;> with_unfolding_all first | exact foot_absurd hF hp (by decide) | exact rfl) | apply State.answer_keeps
    | apply State.writeEntry_keeps | split | (apply keeps_of_pair; assumption) | (apply keeps_of_trip; assumption)
    | refine keeps_of_some (by assumption) ?_ | dsimp -zeta only

theorem execPinSelWrite_keeps (n : Nat) (v mask : Word) (s : State) {F : Nat} {S : State} (hK : Keeps F S s)
    (hF : within 70277878544252 F = true := by exact within_trans hF (by decide)) : KeepsA F S (execPinSelWrite n v mask s) := by
  unfold execPinSelWrite
  repeat' with_reducible first
    | exact hK | assumption
    | (extract_lets +onlyGivenNames y; refine keeps_cut (F := F) (S := S) (y := y) ?_ ?_; dsimp -zeta only [y]; clear y; rotate_left; clear_value y; intro hy; rotate_right)
    | (extract_lets +onlyGivenNames y; refine keeps_cut1 (F := F) (S := S) (y := y) ?_ ?_; dsimp -zeta only [y]; clear y; rotate_left; clear_value y; intro hy; rotate_right)
    | (extract_lets +onlyGivenNames y; refine keeps_cutR (F := F) (S := S) (y := y) ?_ ?_; dsimp -zeta only [y]; clear y; rotate_left; clear_value y; intro hy; rotate_right)
    | extract_lets +onlyGivenNames y | apply keepsA_next | apply keepsO_some | exact keepsO_none | exact within_trans hF (by decide)
    | (intro p hp; cases p <;> with_unfolding_all first | exact foot_absurd hF hp (by decide) | exact rfl) | apply State.answer_keeps
    | apply State.writeEntry_keeps | split | (apply keeps_of_pair; assumption) | (apply keeps_of_trip; assumption)
    | refine keeps_of_some (by assumption) ?_ | dsimp -zeta only

theorem execPinRelease_keeps (n : Nat) (s : State) {F : Nat} {S : State} (hK : Keeps F S s)
    (hF : within 70277878544252 F = true := by exact within_trans hF (by decide)) : KeepsA F S (execPinRelease n s) := by
  unfold execPinRelease
  repeat' with_reducible first
    | exact hK | assumption
    | (extract_lets +onlyGivenNames y; refine keeps_cut (F := F) (S := S) (y := y) ?_ ?_; dsimp -zeta only [y]; clear y; rotate_left; clear_value y; intro hy; rotate_right)
    | (extract_lets +onlyGivenNames y; refine keeps_cut1 (F := F) (S := S) (y := y) ?_ ?_; dsimp -zeta only [y]; clear y; rotate_left; clear_value y; intro hy; rotate_right)
    | (extract_lets +onlyGivenNames y; refine keeps_cutR (F := F) (S := S) (y := y) ?_ ?_; dsimp -zeta only [y]; clear y; rotate_left; clear_value y; intro hy; rotate_right)
    | extract_lets +onlyGivenNames y | apply keepsA_next | apply keepsO_some | exact keepsO_none | exact within_trans hF (by decide)
    | (intro p hp; cases p <;> with_unfolding_all first | exact foot_absurd hF hp (by decide) | exact rfl) | apply State.answer_keeps
    | apply State.writeEntry_keeps | split | (apply keeps_of_pair; assumption) | (apply keeps_of_trip; assumption)
    | refine keeps_of_some (by assumption) ?_ | dsimp -zeta only

theorem execEventFlagClear_keeps (k : Nat) (v : Word) (s : State) {F : Nat} {S : State} (hK : Keeps F S s)
    (hF : within 70277878544252 F = true := by exact within_trans hF (by decide)) : KeepsA F S (execEventFlagClear k v s) := by
  unfold execEventFlagClear
  repeat' with_reducible first
    | exact hK | assumption
    | (extract_lets +onlyGivenNames y; refine keeps_cut (F := F) (S := S) (y := y) ?_ ?_; dsimp -zeta only [y]; clear y; rotate_left; clear_value y; intro hy; rotate_right)
    | (extract_lets +onlyGivenNames y; refine keeps_cut1 (F := F) (S := S) (y := y) ?_ ?_; dsimp -zeta only [y]; clear y; rotate_left; clear_value y; intro hy; rotate_right)
    | (extract_lets +onlyGivenNames y; refine keeps_cutR (F := F) (S := S) (y := y) ?_ ?_; dsimp -zeta only [y]; clear y; rotate_left; clear_value y; intro hy; rotate_right)
    | extract_lets +onlyGivenNames y | apply keepsA_next | apply keepsO_some | exact keepsO_none | exact within_trans hF (by decide)
    | (intro p hp; cases p <;> with_unfolding_all first | exact foot_absurd hF hp (by decide) | exact rfl) | apply State.answer_keeps
    | apply State.writeEntry_keeps | split | (apply keeps_of_pair; assumption) | (apply keeps_of_trip; assumption)
    | refine keeps_of_some (by assumption) ?_ | dsimp -zeta only

theorem execEventEnableWrite_keeps (k : Nat) (v mask : Word) (s : State) {F : Nat} {S : State} (hK : Keeps F S s)
    (hF : within 70277878544252 F = true := by exact within_trans hF (by decide)) : KeepsA F S (execEventEnableWrite k v mask s) := by
  unfold execEventEnableWrite
  repeat' with_reducible first
    | exact hK | assumption
    | (extract_lets +onlyGivenNames y; refine keeps_cut (F := F) (S := S) (y := y) ?_ ?_; dsimp -zeta only [y]; clear y; rotate_left; clear_value y; intro hy; rotate_right)
    | (extract_lets +onlyGivenNames y; refine keeps_cut1 (F := F) (S := S) (y := y) ?_ ?_; dsimp -zeta only [y]; clear y; rotate_left; clear_value y; intro hy; rotate_right)
    | (extract_lets +onlyGivenNames y; refine keeps_cutR (F := F) (S := S) (y := y) ?_ ?_; dsimp -zeta only [y]; clear y; rotate_left; clear_value y; intro hy; rotate_right)
    | extract_lets +onlyGivenNames y | apply keepsA_next | apply keepsO_some | exact keepsO_none | exact within_trans hF (by decide)
    | (intro p hp; cases p <;> with_unfolding_all first | exact foot_absurd hF hp (by decide) | exact rfl) | apply State.answer_keeps
    | apply State.writeEntry_keeps | split | (apply keeps_of_pair; assumption) | (apply keeps_of_trip; assumption)
    | refine keeps_of_some (by assumption) ?_ | dsimp -zeta only

theorem execEventRouteWrite_keeps (n : Nat) (v mask : Word) (s : State) {F : Nat} {S : State} (hK : Keeps F S s)
    (hF : within 70277878544252 F = true := by exact within_trans hF (by decide)) : KeepsA F S (execEventRouteWrite n v mask s) := by
  unfold execEventRouteWrite
  repeat' with_reducible first
    | exact hK | assumption
    | (extract_lets +onlyGivenNames y; refine keeps_cut (F := F) (S := S) (y := y) ?_ ?_; dsimp -zeta only [y]; clear y; rotate_left; clear_value y; intro hy; rotate_right)
    | (extract_lets +onlyGivenNames y; refine keeps_cut1 (F := F) (S := S) (y := y) ?_ ?_; dsimp -zeta only [y]; clear y; rotate_left; clear_value y; intro hy; rotate_right)
    | (extract_lets +onlyGivenNames y; refine keeps_cutR (F := F) (S := S) (y := y) ?_ ?_; dsimp -zeta only [y]; clear y; rotate_left; clear_value y; intro hy; rotate_right)
    | extract_lets +onlyGivenNames y | apply keepsA_next | apply keepsO_some | exact keepsO_none | exact within_trans hF (by decide)
    | (intro p hp; cases p <;> with_unfolding_all first | exact foot_absurd hF hp (by decide) | exact rfl) | apply State.answer_keeps
    | apply State.writeEntry_keeps | split | (apply keeps_of_pair; assumption) | (apply keeps_of_trip; assumption)
    | refine keeps_of_some (by assumption) ?_ | dsimp -zeta only

end Sys2Proof.Machine
end

