-- ==== Sys2Proof/Laws/KeepsBoot.lean ====
section
/-! SUPPORT. What the operations of reset, start-up, the monitor and the tick keep (Boot, Monitor, Tick). -/
namespace Sys2Proof.Machine
set_option linter.all false
set_option Elab.async false
/-! Boot -/

theorem State.resetDie_keeps (s : State) (rst brown : Bool) {F : Nat} {S : State} (hK : Keeps F S s)
    (hF : within 70368744177663 F = true := by exact within_trans hF (by decide)) : Keeps F S (s.resetDie rst brown) :=
  ⟨hK.id, hK.otp, hK.pend, fun _ => rfl, fun _ => ⟨rfl, rfl, rfl⟩, fun _ => rfl,
    fun p hp => by cases p <;> exact foot_absurd hF hp (by decide)⟩

theorem State.leaveReset_keeps (s : State) {F : Nat} {S : State} (hK : Keeps F S s)
    (hF : within 513 F = true := by exact within_trans hF (by decide)) : Keeps F S (State.leaveReset s) := by
  unfold State.leaveReset
  repeat' with_reducible first
    | exact hK | assumption
    | (extract_lets +onlyGivenNames y; refine keeps_cut (F := F) (S := S) (y := y) ?_ ?_; dsimp -zeta only [y]; clear y; rotate_left; clear_value y; intro hy; rotate_right)
    | (extract_lets +onlyGivenNames y; refine keeps_cut1 (F := F) (S := S) (y := y) ?_ ?_; dsimp -zeta only [y]; clear y; rotate_left; clear_value y; intro hy; rotate_right)
    | (extract_lets +onlyGivenNames y; refine keeps_cutR (F := F) (S := S) (y := y) ?_ ?_; dsimp -zeta only [y]; clear y; rotate_left; clear_value y; intro hy; rotate_right)
    | extract_lets +onlyGivenNames y | apply keepsA_next | apply keepsO_some | exact keepsO_none | exact within_trans hF (by decide)
    | (intro p hp; cases p <;> with_unfolding_all first | exact foot_absurd hF hp (by decide) | exact rfl) | split | (apply keeps_of_pair; assumption)
    | (apply keeps_of_trip; assumption) | refine keeps_of_some (by assumption) ?_ | dsimp -zeta only | fail_if_no_progress apply keeps_upd

theorem execRstNAssert_keeps (s : State) {F : Nat} {S : State} (hK : Keeps F S s)
    (hF : within 70368744177663 F = true := by exact within_trans hF (by decide)) : KeepsA F S (execRstNAssert s) := by
  unfold execRstNAssert
  repeat' with_reducible first
    | exact hK | assumption
    | (extract_lets +onlyGivenNames y; refine keeps_cut (F := F) (S := S) (y := y) ?_ ?_; dsimp -zeta only [y]; clear y; rotate_left; clear_value y; intro hy; rotate_right)
    | (extract_lets +onlyGivenNames y; refine keeps_cut1 (F := F) (S := S) (y := y) ?_ ?_; dsimp -zeta only [y]; clear y; rotate_left; clear_value y; intro hy; rotate_right)
    | (extract_lets +onlyGivenNames y; refine keeps_cutR (F := F) (S := S) (y := y) ?_ ?_; dsimp -zeta only [y]; clear y; rotate_left; clear_value y; intro hy; rotate_right)
    | extract_lets +onlyGivenNames y | apply keepsA_next | apply keepsO_some | exact keepsO_none | exact within_trans hF (by decide)
    | (intro p hp; cases p <;> with_unfolding_all first | exact foot_absurd hF hp (by decide) | exact rfl) | apply State.resetDie_keeps | split
    | (apply keeps_of_pair; assumption) | (apply keeps_of_trip; assumption) | refine keeps_of_some (by assumption) ?_ | dsimp -zeta only
    | fail_if_no_progress apply keeps_upd

theorem execRstNRelease_keeps (s : State) {F : Nat} {S : State} (hK : Keeps F S s)
    (hF : within 513 F = true := by exact within_trans hF (by decide)) : KeepsA F S (execRstNRelease s) := by
  unfold execRstNRelease
  repeat' with_reducible first
    | exact hK | assumption
    | (extract_lets +onlyGivenNames y; refine keeps_cut (F := F) (S := S) (y := y) ?_ ?_; dsimp -zeta only [y]; clear y; rotate_left; clear_value y; intro hy; rotate_right)
    | (extract_lets +onlyGivenNames y; refine keeps_cut1 (F := F) (S := S) (y := y) ?_ ?_; dsimp -zeta only [y]; clear y; rotate_left; clear_value y; intro hy; rotate_right)
    | (extract_lets +onlyGivenNames y; refine keeps_cutR (F := F) (S := S) (y := y) ?_ ?_; dsimp -zeta only [y]; clear y; rotate_left; clear_value y; intro hy; rotate_right)
    | extract_lets +onlyGivenNames y | apply keepsA_next | apply keepsO_some | exact keepsO_none | exact within_trans hF (by decide)
    | (intro p hp; cases p <;> with_unfolding_all first | exact foot_absurd hF hp (by decide) | exact rfl) | apply State.leaveReset_keeps | split
    | (apply keeps_of_pair; assumption) | (apply keeps_of_trip; assumption) | refine keeps_of_some (by assumption) ?_ | dsimp -zeta only
    | fail_if_no_progress apply keeps_upd

theorem execBrownout_keeps (ns : Nat) (s : State) {F : Nat} {S : State} (hK : Keeps F S s)
    (hF : within 70368744177663 F = true := by exact within_trans hF (by decide)) : KeepsA F S (execBrownout ns s) := by
  unfold execBrownout
  repeat' with_reducible first
    | exact hK | assumption
    | (extract_lets +onlyGivenNames y; refine keeps_cut (F := F) (S := S) (y := y) ?_ ?_; dsimp -zeta only [y]; clear y; rotate_left; clear_value y; intro hy; rotate_right)
    | (extract_lets +onlyGivenNames y; refine keeps_cut1 (F := F) (S := S) (y := y) ?_ ?_; dsimp -zeta only [y]; clear y; rotate_left; clear_value y; intro hy; rotate_right)
    | (extract_lets +onlyGivenNames y; refine keeps_cutR (F := F) (S := S) (y := y) ?_ ?_; dsimp -zeta only [y]; clear y; rotate_left; clear_value y; intro hy; rotate_right)
    | extract_lets +onlyGivenNames y | apply keepsA_next | apply keepsO_some | exact keepsO_none | exact within_trans hF (by decide)
    | (intro p hp; cases p <;> with_unfolding_all first | exact foot_absurd hF hp (by decide) | exact rfl) | apply State.resetDie_keeps | split
    | (apply keeps_of_pair; assumption) | (apply keeps_of_trip; assumption) | refine keeps_of_some (by assumption) ?_ | dsimp -zeta only
    | fail_if_no_progress apply keeps_upd

theorem execBrownoutRecovery_keeps (s : State) {F : Nat} {S : State} (hK : Keeps F S s)
    (hF : within 513 F = true := by exact within_trans hF (by decide)) : KeepsA F S (execBrownoutRecovery s) := by
  unfold execBrownoutRecovery
  repeat' with_reducible first
    | exact hK | assumption
    | (extract_lets +onlyGivenNames y; refine keeps_cut (F := F) (S := S) (y := y) ?_ ?_; dsimp -zeta only [y]; clear y; rotate_left; clear_value y; intro hy; rotate_right)
    | (extract_lets +onlyGivenNames y; refine keeps_cut1 (F := F) (S := S) (y := y) ?_ ?_; dsimp -zeta only [y]; clear y; rotate_left; clear_value y; intro hy; rotate_right)
    | (extract_lets +onlyGivenNames y; refine keeps_cutR (F := F) (S := S) (y := y) ?_ ?_; dsimp -zeta only [y]; clear y; rotate_left; clear_value y; intro hy; rotate_right)
    | extract_lets +onlyGivenNames y | apply keepsA_next | apply keepsO_some | exact keepsO_none | exact within_trans hF (by decide)
    | (intro p hp; cases p <;> with_unfolding_all first | exact foot_absurd hF hp (by decide) | exact rfl) | apply State.leaveReset_keeps | split
    | (apply keeps_of_pair; assumption) | (apply keeps_of_trip; assumption) | refine keeps_of_some (by assumption) ?_ | dsimp -zeta only
    | fail_if_no_progress apply keeps_upd

theorem execFlashDiscovery_keeps (dev : Option FlashDev) (s : State) {F : Nat} {S : State} (hK : Keeps F S s)
    (hF : within 512 F = true := by exact within_trans hF (by decide)) : KeepsA F S (execFlashDiscovery dev s) := by
  unfold execFlashDiscovery
  repeat' with_reducible first
    | exact hK | assumption
    | (extract_lets +onlyGivenNames y; refine keeps_cut (F := F) (S := S) (y := y) ?_ ?_; dsimp -zeta only [y]; clear y; rotate_left; clear_value y; intro hy; rotate_right)
    | (extract_lets +onlyGivenNames y; refine keeps_cut1 (F := F) (S := S) (y := y) ?_ ?_; dsimp -zeta only [y]; clear y; rotate_left; clear_value y; intro hy; rotate_right)
    | (extract_lets +onlyGivenNames y; refine keeps_cutR (F := F) (S := S) (y := y) ?_ ?_; dsimp -zeta only [y]; clear y; rotate_left; clear_value y; intro hy; rotate_right)
    | extract_lets +onlyGivenNames y | apply keepsA_next | apply keepsO_some | exact keepsO_none | exact within_trans hF (by decide)
    | (intro p hp; cases p <;> with_unfolding_all first | exact foot_absurd hF hp (by decide) | exact rfl) | split | (apply keeps_of_pair; assumption)
    | (apply keeps_of_trip; assumption) | refine keeps_of_some (by assumption) ?_ | dsimp -zeta only | fail_if_no_progress apply keeps_upd

theorem State.copyErr_keeps (s : State) (c code : Nat) {F : Nat} {S : State} (hK : Keeps F S s)
    (hF : within 512 F = true := by exact within_trans hF (by decide)) : Keeps F S (State.copyErr s c code) := by
  unfold State.copyErr
  repeat' with_reducible first
    | exact hK | assumption
    | (extract_lets +onlyGivenNames y; refine keeps_cut (F := F) (S := S) (y := y) ?_ ?_; dsimp -zeta only [y]; clear y; rotate_left; clear_value y; intro hy; rotate_right)
    | (extract_lets +onlyGivenNames y; refine keeps_cut1 (F := F) (S := S) (y := y) ?_ ?_; dsimp -zeta only [y]; clear y; rotate_left; clear_value y; intro hy; rotate_right)
    | (extract_lets +onlyGivenNames y; refine keeps_cutR (F := F) (S := S) (y := y) ?_ ?_; dsimp -zeta only [y]; clear y; rotate_left; clear_value y; intro hy; rotate_right)
    | extract_lets +onlyGivenNames y | apply keepsA_next | apply keepsO_some | exact keepsO_none | exact within_trans hF (by decide)
    | (intro p hp; cases p <;> with_unfolding_all first | exact foot_absurd hF hp (by decide) | exact rfl) | split | (apply keeps_of_pair; assumption)
    | (apply keeps_of_trip; assumption) | refine keeps_of_some (by assumption) ?_ | dsimp -zeta only | fail_if_no_progress apply keeps_upd

theorem State.tryCopies_keeps (s : State) (d : FlashDev) (n : Nat) {F : Nat} {S : State} (hK : Keeps F S s)
    (hF : within 512 F = true := by exact within_trans hF (by decide)) : Keeps F S (s.tryCopies d n) := by
  induction n generalizing s with
  | zero => exact hK
  | succ n ih =>
    unfold State.tryCopies
    split
    · exact keeps_upd hK (by intro p hp; cases p <;> first | exact foot_absurd hF hp (by decide) | exact rfl)
    · rename_i c rest _
      extract_lets j b s1
      have h1 : Keeps F S s1 := State.copyErr_keeps _ _ _ (keeps_upd hK (by intro p hp; cases p <;> first | exact foot_absurd hF hp (by decide) | exact rfl))
      clear_value s1
      split
      · exact keeps_upd h1 (by intro p hp; cases p <;> first | exact foot_absurd hF hp (by decide) | exact rfl)
      · exact ih _ h1

theorem execCopySelection_keeps (s : State) {F : Nat} {S : State} (hK : Keeps F S s)
    (hF : within 512 F = true := by exact within_trans hF (by decide)) : KeepsA F S (execCopySelection s) := by
  unfold execCopySelection
  repeat' with_reducible first
    | exact hK | assumption
    | (extract_lets +onlyGivenNames y; refine keeps_cut (F := F) (S := S) (y := y) ?_ ?_; dsimp -zeta only [y]; clear y; rotate_left; clear_value y; intro hy; rotate_right)
    | (extract_lets +onlyGivenNames y; refine keeps_cut1 (F := F) (S := S) (y := y) ?_ ?_; dsimp -zeta only [y]; clear y; rotate_left; clear_value y; intro hy; rotate_right)
    | (extract_lets +onlyGivenNames y; refine keeps_cutR (F := F) (S := S) (y := y) ?_ ?_; dsimp -zeta only [y]; clear y; rotate_left; clear_value y; intro hy; rotate_right)
    | extract_lets +onlyGivenNames y | apply keepsA_next | apply keepsO_some | exact keepsO_none | exact within_trans hF (by decide)
    | (intro p hp; cases p <;> with_unfolding_all first | exact foot_absurd hF hp (by decide) | exact rfl) | apply State.copyErr_keeps
    | apply State.tryCopies_keeps | split | (apply keeps_of_pair; assumption) | (apply keeps_of_trip; assumption)
    | refine keeps_of_some (by assumption) ?_ | dsimp -zeta only | fail_if_no_progress apply keeps_upd

theorem State.signed_keeps (s : State) (n : Nat) {F : Nat} {S : State} (hK : Keeps F S s)
    (hF : within 2098696 F = true := by exact within_trans hF (by decide)) : Keeps F S (s.signed n) := by
  induction n generalizing s with
  | zero => exact hK
  | succ n ih =>
    unfold State.signed
    split
    · exact State.raise_keeps _ _ _ (keeps_upd hK (by intro p hp; cases p <;> first | exact foot_absurd hF hp (by decide) | exact rfl))
    · split
      · exact State.raiseIf_keeps _ _ _ _ (keeps_upd hK (by intro p hp; cases p <;> first | exact foot_absurd hF hp (by decide) | exact rfl))
      · split
        · exact hK
        · exact ih _ (State.tryCopies_keeps _ _ _ (State.copyErr_keeps _ _ _ hK))

theorem execSignatureCheck_keeps (s : State) {F : Nat} {S : State} (hK : Keeps F S s)
    (hF : within 2098696 F = true := by exact within_trans hF (by decide)) : KeepsA F S (execSignatureCheck s) := by
  unfold execSignatureCheck
  repeat' with_reducible first
    | exact hK | assumption
    | (extract_lets +onlyGivenNames y; refine keeps_cut (F := F) (S := S) (y := y) ?_ ?_; dsimp -zeta only [y]; clear y; rotate_left; clear_value y; intro hy; rotate_right)
    | (extract_lets +onlyGivenNames y; refine keeps_cut1 (F := F) (S := S) (y := y) ?_ ?_; dsimp -zeta only [y]; clear y; rotate_left; clear_value y; intro hy; rotate_right)
    | (extract_lets +onlyGivenNames y; refine keeps_cutR (F := F) (S := S) (y := y) ?_ ?_; dsimp -zeta only [y]; clear y; rotate_left; clear_value y; intro hy; rotate_right)
    | extract_lets +onlyGivenNames y | apply keepsA_next | apply keepsO_some | exact keepsO_none | exact within_trans hF (by decide)
    | (intro p hp; cases p <;> with_unfolding_all first | exact foot_absurd hF hp (by decide) | exact rfl) | apply State.signed_keeps | split
    | (apply keeps_of_pair; assumption) | (apply keeps_of_trip; assumption) | refine keeps_of_some (by assumption) ?_ | dsimp -zeta only

theorem State.imgClaim_keeps (s : State) (off w0 owner : Nat) {F : Nat} {S : State} (hK : Keeps F S s)
    (hF : within 2361096 F = true := by exact within_trans hF (by decide)) : Keeps F S (State.imgClaim s off w0 owner) := by
  unfold State.imgClaim
  repeat' with_reducible first
    | exact hK | assumption
    | (extract_lets +onlyGivenNames y; refine keeps_cut (F := F) (S := S) (y := y) ?_ ?_; dsimp -zeta only [y]; clear y; rotate_left; clear_value y; intro hy; rotate_right)
    | (extract_lets +onlyGivenNames y; refine keeps_cut1 (F := F) (S := S) (y := y) ?_ ?_; dsimp -zeta only [y]; clear y; rotate_left; clear_value y; intro hy; rotate_right)
    | (extract_lets +onlyGivenNames y; refine keeps_cutR (F := F) (S := S) (y := y) ?_ ?_; dsimp -zeta only [y]; clear y; rotate_left; clear_value y; intro hy; rotate_right)
    | extract_lets +onlyGivenNames y | apply keepsA_next | apply keepsO_some | exact keepsO_none | exact within_trans hF (by decide)
    | (intro p hp; cases p <;> with_unfolding_all first | exact foot_absurd hF hp (by decide) | exact rfl) | apply State.claimEntry_keeps
    | apply keeps_getDo | split | (apply keeps_of_pair; assumption) | (apply keeps_of_trip; assumption) | refine keeps_of_some (by assumption) ?_
    | dsimp -zeta only | fail_if_no_progress apply keeps_upd

theorem State.applyRec_keeps (s : State) (v1 : Bool) (r : ImgRec) {F : Nat} {S : State} (hK : Keeps F S s)
    (hF : within 70277878544380 F = true := by exact within_trans hF (by decide)) : Keeps F S (State.applyRec s v1 r) := by
  unfold State.applyRec
  repeat' with_reducible first
    | exact hK | assumption
    | (extract_lets +onlyGivenNames y; refine keeps_cut (F := F) (S := S) (y := y) ?_ ?_; dsimp -zeta only [y]; clear y; rotate_left; clear_value y; intro hy; rotate_right)
    | (extract_lets +onlyGivenNames y; refine keeps_cut1 (F := F) (S := S) (y := y) ?_ ?_; dsimp -zeta only [y]; clear y; rotate_left; clear_value y; intro hy; rotate_right)
    | (extract_lets +onlyGivenNames y; refine keeps_cutR (F := F) (S := S) (y := y) ?_ ?_; dsimp -zeta only [y]; clear y; rotate_left; clear_value y; intro hy; rotate_right)
    | extract_lets +onlyGivenNames y | apply keepsA_next | apply keepsO_some | exact keepsO_none | exact within_trans hF (by decide)
    | (intro p hp; cases p <;> with_unfolding_all first | exact foot_absurd hF hp (by decide) | exact rfl) | apply State.imgClaim_keeps
    | apply State.loadTab_keeps | apply State.writeEntry_keeps | (apply keeps_foldl; intro y n hy) | (apply keeps_foldl1; intro y n hy) | split
    | (apply keeps_of_pair; assumption) | (apply keeps_of_trip; assumption) | refine keeps_of_some (by assumption) ?_ | dsimp -zeta only
    | fail_if_no_progress apply keeps_upd

theorem State.v1Start_keeps (s : State) {F : Nat} {S : State} (hK : Keeps F S s)
    (hF : within 2099080 F = true := by exact within_trans hF (by decide)) : Keeps F S (State.v1Start s) := by
  unfold State.v1Start
  repeat' with_reducible first
    | exact hK | assumption
    | (extract_lets +onlyGivenNames y; refine keeps_cut (F := F) (S := S) (y := y) ?_ ?_; dsimp -zeta only [y]; clear y; rotate_left; clear_value y; intro hy; rotate_right)
    | (extract_lets +onlyGivenNames y; refine keeps_cut1 (F := F) (S := S) (y := y) ?_ ?_; dsimp -zeta only [y]; clear y; rotate_left; clear_value y; intro hy; rotate_right)
    | (extract_lets +onlyGivenNames y; refine keeps_cutR (F := F) (S := S) (y := y) ?_ ?_; dsimp -zeta only [y]; clear y; rotate_left; clear_value y; intro hy; rotate_right)
    | extract_lets +onlyGivenNames y | apply keepsA_next | apply keepsO_some | exact keepsO_none | exact within_trans hF (by decide)
    | (intro p hp; cases p <;> with_unfolding_all first | exact foot_absurd hF hp (by decide) | exact rfl) | apply State.pinClaim_keeps
    | (apply keeps_foldl; intro y n hy) | (apply keeps_foldl1; intro y n hy) | split | (apply keeps_of_pair; assumption)
    | (apply keeps_of_trip; assumption) | refine keeps_of_some (by assumption) ?_ | dsimp -zeta only | fail_if_no_progress apply keeps_upd

theorem State.imageInForce_keeps (s : State) {F : Nat} {S : State} (hK : Keeps F S s)
    (hF : within 8593867832 F = true := by exact within_trans hF (by decide)) : Keeps F S (State.imageInForce s) := by
  unfold State.imageInForce
  repeat' with_reducible first
    | exact hK | assumption
    | (extract_lets +onlyGivenNames y; refine keeps_cut (F := F) (S := S) (y := y) ?_ ?_; dsimp -zeta only [y]; clear y; rotate_left; clear_value y; intro hy; rotate_right)
    | (extract_lets +onlyGivenNames y; refine keeps_cut1 (F := F) (S := S) (y := y) ?_ ?_; dsimp -zeta only [y]; clear y; rotate_left; clear_value y; intro hy; rotate_right)
    | (extract_lets +onlyGivenNames y; refine keeps_cutR (F := F) (S := S) (y := y) ?_ ?_; dsimp -zeta only [y]; clear y; rotate_left; clear_value y; intro hy; rotate_right)
    | extract_lets +onlyGivenNames y | apply keepsA_next | apply keepsO_some | exact keepsO_none | exact within_trans hF (by decide)
    | (intro p hp; cases p <;> with_unfolding_all first | exact foot_absurd hF hp (by decide) | exact rfl) | apply State.each_keeps
    | apply State.modLad_keeps | apply State.modLink_keeps | apply State.modStn_keeps | apply State.stnBoundary_keeps
    | (apply keeps_each; intro y n hy) | split | (apply keeps_of_pair; assumption) | (apply keeps_of_trip; assumption)
    | refine keeps_of_some (by assumption) ?_ | dsimp -zeta only | fail_if_no_progress apply keeps_upd

theorem execImageApply_keeps (castFail : Nat) (s : State) {F : Nat} {S : State} (hK : Keeps F S s)
    (hF : within 70277878708220 F = true := by exact within_trans hF (by decide)) : KeepsA F S (execImageApply castFail s) := by
  unfold execImageApply
  repeat' with_reducible first
    | exact hK | assumption
    | (extract_lets +onlyGivenNames y; refine keeps_cut (F := F) (S := S) (y := y) ?_ ?_; dsimp -zeta only [y]; clear y; rotate_left; clear_value y; intro hy; rotate_right)
    | (extract_lets +onlyGivenNames y; refine keeps_cut1 (F := F) (S := S) (y := y) ?_ ?_; dsimp -zeta only [y]; clear y; rotate_left; clear_value y; intro hy; rotate_right)
    | (extract_lets +onlyGivenNames y; refine keeps_cutR (F := F) (S := S) (y := y) ?_ ?_; dsimp -zeta only [y]; clear y; rotate_left; clear_value y; intro hy; rotate_right)
    | extract_lets +onlyGivenNames y | apply keepsA_next | apply keepsO_some | exact keepsO_none | exact within_trans hF (by decide)
    | (intro p hp; cases p <;> with_unfolding_all first | exact foot_absurd hF hp (by decide) | exact rfl) | apply State.applyRec_keeps
    | apply State.castOut_keeps | apply State.each_keeps | apply State.imageInForce_keeps | apply State.v1Start_keeps
    | (apply keeps_each; intro y n hy) | (apply keeps_foldl; intro y n hy) | (apply keeps_foldl1; intro y n hy) | split
    | (apply keeps_of_pair; assumption) | (apply keeps_of_trip; assumption) | refine keeps_of_some (by assumption) ?_ | dsimp -zeta only
    | fail_if_no_progress apply keeps_upd

theorem execDramTraining_keeps (pass : Nat) (s : State) {F : Nat} {S : State} (hK : Keeps F S s)
    (hF : within 17592221697544 F = true := by exact within_trans hF (by decide)) : KeepsA F S (execDramTraining pass s) := by
  unfold execDramTraining
  repeat' with_reducible first
    | exact hK | assumption
    | (extract_lets +onlyGivenNames y; refine keeps_cut (F := F) (S := S) (y := y) ?_ ?_; dsimp -zeta only [y]; clear y; rotate_left; clear_value y; intro hy; rotate_right)
    | (extract_lets +onlyGivenNames y; refine keeps_cut1 (F := F) (S := S) (y := y) ?_ ?_; dsimp -zeta only [y]; clear y; rotate_left; clear_value y; intro hy; rotate_right)
    | (extract_lets +onlyGivenNames y; refine keeps_cutR (F := F) (S := S) (y := y) ?_ ?_; dsimp -zeta only [y]; clear y; rotate_left; clear_value y; intro hy; rotate_right)
    | extract_lets +onlyGivenNames y | apply keepsA_next | apply keepsO_some | exact keepsO_none | exact within_trans hF (by decide)
    | (intro p hp; cases p <;> with_unfolding_all first | exact foot_absurd hF hp (by decide) | exact rfl) | apply State.each_keeps
    | apply State.raise_keeps | apply State.setReg_keeps | (apply keeps_each; intro y n hy) | split | (apply keeps_of_pair; assumption)
    | (apply keeps_of_trip; assumption) | refine keeps_of_some (by assumption) ?_ | dsimp -zeta only | fail_if_no_progress apply keeps_mem
    | fail_if_no_progress apply keeps_upd

theorem State.estopCheck_keeps (s : State) {F : Nat} {S : State} (hK : Keeps F S s)
    (hF : within 2098696 F = true := by exact within_trans hF (by decide)) : Keeps F S (State.estopCheck s) := by
  unfold State.estopCheck
  repeat' with_reducible first
    | exact hK | assumption
    | (extract_lets +onlyGivenNames y; refine keeps_cut (F := F) (S := S) (y := y) ?_ ?_; dsimp -zeta only [y]; clear y; rotate_left; clear_value y; intro hy; rotate_right)
    | (extract_lets +onlyGivenNames y; refine keeps_cut1 (F := F) (S := S) (y := y) ?_ ?_; dsimp -zeta only [y]; clear y; rotate_left; clear_value y; intro hy; rotate_right)
    | (extract_lets +onlyGivenNames y; refine keeps_cutR (F := F) (S := S) (y := y) ?_ ?_; dsimp -zeta only [y]; clear y; rotate_left; clear_value y; intro hy; rotate_right)
    | extract_lets +onlyGivenNames y | apply keepsA_next | apply keepsO_some | exact keepsO_none | exact within_trans hF (by decide)
    | (intro p hp; cases p <;> with_unfolding_all first | exact foot_absurd hF hp (by decide) | exact rfl) | apply State.setEstop_keeps | split
    | (apply keeps_of_pair; assumption) | (apply keeps_of_trip; assumption) | refine keeps_of_some (by assumption) ?_ | dsimp -zeta only

theorem State.raiseReady_keeps (s : State) {F : Nat} {S : State} (hK : Keeps F S s)
    (hF : within 4398052820488 F = true := by exact within_trans hF (by decide)) : Keeps F S (State.raiseReady s) := by
  unfold State.raiseReady
  repeat' with_reducible first
    | exact hK | assumption
    | (extract_lets +onlyGivenNames y; refine keeps_cut (F := F) (S := S) (y := y) ?_ ?_; dsimp -zeta only [y]; clear y; rotate_left; clear_value y; intro hy; rotate_right)
    | (extract_lets +onlyGivenNames y; refine keeps_cut1 (F := F) (S := S) (y := y) ?_ ?_; dsimp -zeta only [y]; clear y; rotate_left; clear_value y; intro hy; rotate_right)
    | (extract_lets +onlyGivenNames y; refine keeps_cutR (F := F) (S := S) (y := y) ?_ ?_; dsimp -zeta only [y]; clear y; rotate_left; clear_value y; intro hy; rotate_right)
    | extract_lets +onlyGivenNames y | apply keepsA_next | apply keepsO_some | exact keepsO_none | exact within_trans hF (by decide)
    | (intro p hp; cases p <;> with_unfolding_all first | exact foot_absurd hF hp (by decide) | exact rfl) | apply State.csmAtReady_keeps
    | apply State.estopCheck_keeps | apply State.raise_keeps | apply State.schedStart_keeps | apply State.sendFault_keeps | apply State.toBridge_keeps
    | split | (apply keeps_of_pair; assumption) | (apply keeps_of_trip; assumption) | refine keeps_of_some (by assumption) ?_ | dsimp -zeta only
    | fail_if_no_progress apply keeps_upd

theorem execReady_keeps (s : State) {F : Nat} {S : State} (hK : Keeps F S s)
    (hF : within 4398052820488 F = true := by exact within_trans hF (by decide)) : KeepsA F S (execReady s) := by
  unfold execReady
  repeat' with_reducible first
    | exact hK | assumption
    | (extract_lets +onlyGivenNames y; refine keeps_cut (F := F) (S := S) (y := y) ?_ ?_; dsimp -zeta only [y]; clear y; rotate_left; clear_value y; intro hy; rotate_right)
    | (extract_lets +onlyGivenNames y; refine keeps_cut1 (F := F) (S := S) (y := y) ?_ ?_; dsimp -zeta only [y]; clear y; rotate_left; clear_value y; intro hy; rotate_right)
    | (extract_lets +onlyGivenNames y; refine keeps_cutR (F := F) (S := S) (y := y) ?_ ?_; dsimp -zeta only [y]; clear y; rotate_left; clear_value y; intro hy; rotate_right)
    | extract_lets +onlyGivenNames y | apply keepsA_next | apply keepsO_some | exact keepsO_none | exact within_trans hF (by decide)
    | (intro p hp; cases p <;> with_unfolding_all first | exact foot_absurd hF hp (by decide) | exact rfl) | apply State.raiseReady_keeps | split
    | (apply keeps_of_pair; assumption) | (apply keeps_of_trip; assumption) | refine keeps_of_some (by assumption) ?_ | dsimp -zeta only

theorem execEstopReleaseCheck_keeps (s : State) {F : Nat} {S : State} (hK : Keeps F S s)
    (hF : within 2098696 F = true := by exact within_trans hF (by decide)) : KeepsA F S (execEstopReleaseCheck s) := by
  unfold execEstopReleaseCheck
  repeat' with_reducible first
    | exact hK | assumption
    | (extract_lets +onlyGivenNames y; refine keeps_cut (F := F) (S := S) (y := y) ?_ ?_; dsimp -zeta only [y]; clear y; rotate_left; clear_value y; intro hy; rotate_right)
    | (extract_lets +onlyGivenNames y; refine keeps_cut1 (F := F) (S := S) (y := y) ?_ ?_; dsimp -zeta only [y]; clear y; rotate_left; clear_value y; intro hy; rotate_right)
    | (extract_lets +onlyGivenNames y; refine keeps_cutR (F := F) (S := S) (y := y) ?_ ?_; dsimp -zeta only [y]; clear y; rotate_left; clear_value y; intro hy; rotate_right)
    | extract_lets +onlyGivenNames y | apply keepsA_next | apply keepsO_some | exact keepsO_none | exact within_trans hF (by decide)
    | (intro p hp; cases p <;> with_unfolding_all first | exact foot_absurd hF hp (by decide) | exact rfl) | apply State.estopCheck_keeps | split
    | (apply keeps_of_pair; assumption) | (apply keeps_of_trip; assumption) | refine keeps_of_some (by assumption) ?_ | dsimp -zeta only

theorem execEngineReadyTimeout_keeps (s : State) {F : Nat} {S : State} (hK : Keeps F S s)
    (hF : within 4398052820488 F = true := by exact within_trans hF (by decide)) : KeepsA F S (execEngineReadyTimeout s) := by
  unfold execEngineReadyTimeout
  repeat' with_reducible first
    | exact hK | assumption
    | (extract_lets +onlyGivenNames y; refine keeps_cut (F := F) (S := S) (y := y) ?_ ?_; dsimp -zeta only [y]; clear y; rotate_left; clear_value y; intro hy; rotate_right)
    | (extract_lets +onlyGivenNames y; refine keeps_cut1 (F := F) (S := S) (y := y) ?_ ?_; dsimp -zeta only [y]; clear y; rotate_left; clear_value y; intro hy; rotate_right)
    | (extract_lets +onlyGivenNames y; refine keeps_cutR (F := F) (S := S) (y := y) ?_ ?_; dsimp -zeta only [y]; clear y; rotate_left; clear_value y; intro hy; rotate_right)
    | extract_lets +onlyGivenNames y | apply keepsA_next | apply keepsO_some | exact keepsO_none | exact within_trans hF (by decide)
    | (intro p hp; cases p <;> with_unfolding_all first | exact foot_absurd hF hp (by decide) | exact rfl) | apply State.raiseReady_keeps | split
    | (apply keeps_of_pair; assumption) | (apply keeps_of_trip; assumption) | refine keeps_of_some (by assumption) ?_ | dsimp -zeta only

theorem execBrReady_keeps (zboot : Word) (s : State) {F : Nat} {S : State} (hK : Keeps F S s)
    (hF : within 4398052824584 F = true := by exact within_trans hF (by decide)) : KeepsA F S (execBrReady zboot s) := by
  unfold execBrReady
  repeat' with_reducible first
    | exact hK | assumption
    | (extract_lets +onlyGivenNames y; refine keeps_cut (F := F) (S := S) (y := y) ?_ ?_; dsimp -zeta only [y]; clear y; rotate_left; clear_value y; intro hy; rotate_right)
    | (extract_lets +onlyGivenNames y; refine keeps_cut1 (F := F) (S := S) (y := y) ?_ ?_; dsimp -zeta only [y]; clear y; rotate_left; clear_value y; intro hy; rotate_right)
    | (extract_lets +onlyGivenNames y; refine keeps_cutR (F := F) (S := S) (y := y) ?_ ?_; dsimp -zeta only [y]; clear y; rotate_left; clear_value y; intro hy; rotate_right)
    | extract_lets +onlyGivenNames y | apply keepsA_next | apply keepsO_some | exact keepsO_none | exact within_trans hF (by decide)
    | (intro p hp; cases p <;> with_unfolding_all first | exact foot_absurd hF hp (by decide) | exact rfl) | apply State.badMsg_keeps
    | apply State.modBand_keeps | apply State.plinthCheck_keeps | apply State.raiseReady_keeps | (apply keeps_foldl; intro y n hy)
    | (apply keeps_foldl1; intro y n hy) | split | (apply keeps_of_pair; assumption) | (apply keeps_of_trip; assumption)
    | refine keeps_of_some (by assumption) ?_ | dsimp -zeta only | fail_if_no_progress apply keeps_upd

/-! Monitor -/

theorem monOk_keeps (s : State) (l : List String) {F : Nat} {S : State} (hK : Keeps F S s)
    (hF : within 0 F = true := by exact within_trans hF (by decide)) : Keeps F S (monOk s l).1 := by
  unfold monOk
  repeat' with_reducible first | assumption

theorem monErr_keeps (s : State) (code : Nat) {F : Nat} {S : State} (hK : Keeps F S s)
    (hF : within 0 F = true := by exact within_trans hF (by decide)) : Keeps F S (monErr s code).1 := by
  unfold monErr
  repeat' with_reducible first | assumption

theorem State.monRun_keeps (s : State) (isOpen : Bool) (run : State → MonAns) {F : Nat} {S : State} (hr : ∀ x, Keeps F S x → Keeps F S (run x).1) (hK : Keeps F S s)
    (hF : within 8 F = true := by exact within_trans hF (by decide)) :
    Keeps F S (s.monRun isOpen run).1 := by
  unfold State.monRun
  extract_lets r
  have h1 : Keeps F S r.1 := by
    show Keeps F S (if _ then _ else _ : MonAns).1
    split
    · exact monErr_keeps _ _ hK
    · exact hr _ hK
  split
  · exact h1
  · exact State.bump_keeps _ _ _ _ _ h1

theorem State.monPrint_keeps (s : State) (l : List String) {F : Nat} {S : State} (hK : Keeps F S s)
    (hF : within 35184372088832 F = true := by exact within_trans hF (by decide)) : Keeps F S (State.monPrint s l) := by
  unfold State.monPrint
  repeat' with_reducible first | assumption | apply State.emit_keeps | (apply keeps_foldl; intro y n hy)

theorem State.monitor_keeps (s : State) (isOpen : Bool) (run : State → MonAns) {F : Nat} {S : State} (hr : ∀ x, Keeps F S x → Keeps F S (run x).1) (hK : Keeps F S s)
    (hF : within 35184372088840 F = true := by exact within_trans hF (by decide)) :
    KeepsA F S (s.monitor isOpen run) := by
  unfold State.monitor
  split
  · exact keepsA_next hK
  · exact keepsA_next (State.monPrint_keeps _ _ (State.monRun_keeps _ _ _ hr hK))

theorem doMonId_keeps (s : State) {F : Nat} {S : State} (hK : Keeps F S s)
    (hF : within 0 F = true := by exact within_trans hF (by decide)) : Keeps F S (doMonId s).1 := by
  unfold doMonId
  repeat' with_reducible first | assumption | apply monOk_keeps

theorem doMonHelp_keeps (s : State) {F : Nat} {S : State} (hK : Keeps F S s)
    (hF : within 0 F = true := by exact within_trans hF (by decide)) : Keeps F S (doMonHelp s).1 := by
  unfold doMonHelp
  repeat' with_reducible first | assumption | apply monOk_keeps

theorem doMonUnlock_keeps (s : State) {F : Nat} {S : State} (hK : Keeps F S s)
    (hF : within 8796093022212 F = true := by exact within_trans hF (by decide)) : Keeps F S (doMonUnlock s).1 := by
  unfold doMonUnlock
  repeat' with_reducible first
    | assumption | exact within_trans hF (by decide)
    | (intro p hp; cases p <;> with_unfolding_all first | exact foot_absurd hF hp (by decide) | exact rfl) | apply monErr_keeps | apply monOk_keeps
    | split | fail_if_no_progress apply keeps_upd

theorem State.unlockFail_keeps (s : State) {F : Nat} {S : State} (hK : Keeps F S s)
    (hF : within 8796095120392 F = true := by exact within_trans hF (by decide)) : Keeps F S (State.unlockFail s) := by
  unfold State.unlockFail
  repeat' with_reducible first
    | assumption | exact within_trans hF (by decide)
    | (intro p hp; cases p <;> with_unfolding_all first | exact foot_absurd hF hp (by decide) | exact rfl) | apply State.raise_keeps
    | fail_if_no_progress apply keeps_upd

theorem doMonUnlockResponse_keeps (r : List Byte) (s : State) {F : Nat} {S : State} (hK : Keeps F S s)
    (hF : within 8796095120392 F = true := by exact within_trans hF (by decide)) : Keeps F S (doMonUnlockResponse r s).1 := by
  unfold doMonUnlockResponse
  repeat' with_reducible first
    | assumption | exact within_trans hF (by decide)
    | (intro p hp; cases p <;> with_unfolding_all first | exact foot_absurd hF hp (by decide) | exact rfl) | apply State.raise_keeps
    | apply State.unlockFail_keeps | apply monErr_keeps | apply monOk_keeps | split | fail_if_no_progress apply keeps_upd

theorem doMonLock_keeps (s : State) {F : Nat} {S : State} (hK : Keeps F S s)
    (hF : within 8796095120392 F = true := by exact within_trans hF (by decide)) : Keeps F S (doMonLock s).1 := by
  unfold doMonLock
  repeat' with_reducible first | assumption | exact within_trans hF (by decide) | apply State.lockMon_keeps | apply monOk_keeps

theorem doMonBaud_keeps (rate : Nat) (s : State) {F : Nat} {S : State} (hK : Keeps F S s)
    (hF : within 8796093022208 F = true := by exact within_trans hF (by decide)) : Keeps F S (doMonBaud rate s).1 := by
  unfold doMonBaud
  repeat' with_reducible first
    | assumption | exact within_trans hF (by decide)
    | (intro p hp; cases p <;> with_unfolding_all first | exact foot_absurd hF hp (by decide) | exact rfl) | apply monOk_keeps
    | fail_if_no_progress apply keeps_upd

theorem doMonRr_keeps (addr count : Nat) (s : State) {F : Nat} {S : State} (hK : Keeps F S s)
    (hF : within 137499771912 F = true := by exact within_trans hF (by decide)) : Keeps F S (doMonRr addr count s).1 := by
  unfold doMonRr
  repeat' with_reducible first | assumption | exact within_trans hF (by decide) | apply State.readRegs_keeps | apply monErr_keeps | split

theorem doMonWr_keeps (addr : Nat) (v mask : Word) (s : State) {F : Nat} {S : State} (hK : Keeps F S s)
    (hF : within 70277878544252 F = true := by exact within_trans hF (by decide)) : Keeps F S (doMonWr addr v mask s).1 := by
  unfold doMonWr
  repeat' with_reducible first
    | assumption | extract_lets +onlyGivenNames y | exact within_trans hF (by decide) | apply State.raise_keeps | apply State.writeEntry_keeps
    | apply monErr_keeps | apply monOk_keeps | split

theorem doMonRm_keeps (addr count : Nat) (s : State) {F : Nat} {S : State} (hK : Keeps F S s)
    (hF : within 60818440 F = true := by exact within_trans hF (by decide)) : Keeps F S (doMonRm addr count s).1 := by
  unfold doMonRm
  repeat' with_reducible first
    | assumption | extract_lets +onlyGivenNames y | exact within_trans hF (by decide) | apply State.memRead_keeps | apply monErr_keeps | split

theorem doMonWm_keeps (addr : Nat) (v : Word) (s : State) {F : Nat} {S : State} (hK : Keeps F S s)
    (hF : within 60818440 F = true := by exact within_trans hF (by decide)) : Keeps F S (doMonWm addr v s).1 := by
  unfold doMonWm
  repeat' with_reducible first
    | assumption | extract_lets +onlyGivenNames y | exact within_trans hF (by decide) | apply State.memWrite_keeps | apply State.raise_keeps
    | apply monErr_keeps | apply monOk_keeps | split

theorem doMonEv_keeps (n : Option Nat) (s : State) {F : Nat} {S : State} (hK : Keeps F S s)
    (hF : within 0 F = true := by exact within_trans hF (by decide)) : Keeps F S (doMonEv n s).1 := by
  unfold doMonEv
  repeat' with_reducible first | assumption | apply monErr_keeps | apply monOk_keeps | split

theorem doMonPat_keeps (s : State) {F : Nat} {S : State} (hK : Keeps F S s)
    (hF : within 0 F = true := by exact within_trans hF (by decide)) : Keeps F S (doMonPat s).1 := by
  unfold doMonPat
  repeat' with_reducible first | assumption | apply monOk_keeps

theorem doMonMaq_keeps (off count : Nat) (s : State) {F : Nat} {S : State} (hK : Keeps F S s)
    (hF : within 0 F = true := by exact within_trans hF (by decide)) : Keeps F S (doMonMaq off count s).1 := by
  unfold doMonMaq
  repeat' with_reducible first | assumption | apply monErr_keeps | apply monOk_keeps | split

theorem doMonTrace_keeps (on : Bool) (s : State) {F : Nat} {S : State} (hK : Keeps F S s)
    (hF : within 8 F = true := by exact within_trans hF (by decide)) : Keeps F S (doMonTrace on s).1 := by
  unfold doMonTrace
  repeat' with_reducible first | assumption | exact within_trans hF (by decide) | apply State.setF_keeps | apply monOk_keeps

theorem doSchedStep_keeps (s : State) {F : Nat} {S : State} (hK : Keeps F S s)
    (hF : within 5506155415128 F = true := by exact within_trans hF (by decide)) : Keeps F S (doSchedStep s).1 := by
  unfold doSchedStep
  repeat' with_reducible first
    | assumption | exact within_trans hF (by decide) | apply State.schedStep_keeps | apply monErr_keeps | apply monOk_keeps | split

theorem doEngineRelay_keeps (cmd : List Byte) (s : State) {F : Nat} {S : State} (hK : Keeps F S s)
    (hF : within 4194304 F = true := by exact within_trans hF (by decide)) : Keeps F S (doEngineRelay cmd s).1 := by
  unfold doEngineRelay
  repeat' with_reducible first
    | assumption | exact within_trans hF (by decide) | apply State.toBridge_keeps | apply monErr_keeps | apply monOk_keeps | split

theorem execMonId_keeps (s : State) {F : Nat} {S : State} (hK : Keeps F S s)
    (hF : within 35184372088840 F = true := by exact within_trans hF (by decide)) : KeepsA F S (execMonId s) := by
  unfold execMonId
  repeat' with_reducible first | assumption | exact within_trans hF (by decide) | (apply State.monitor_keeps; intro y hy) | apply doMonId_keeps

theorem execMonHelp_keeps (s : State) {F : Nat} {S : State} (hK : Keeps F S s)
    (hF : within 35184372088840 F = true := by exact within_trans hF (by decide)) : KeepsA F S (execMonHelp s) := by
  unfold execMonHelp
  repeat' with_reducible first | assumption | exact within_trans hF (by decide) | (apply State.monitor_keeps; intro y hy) | apply doMonHelp_keeps

theorem execMonUnlock_keeps (s : State) {F : Nat} {S : State} (hK : Keeps F S s)
    (hF : within 43980465111052 F = true := by exact within_trans hF (by decide)) : KeepsA F S (execMonUnlock s) := by
  unfold execMonUnlock
  repeat' with_reducible first | assumption | exact within_trans hF (by decide) | (apply State.monitor_keeps; intro y hy) | apply doMonUnlock_keeps

theorem execMonUnlockResponse_keeps (r : List Byte) (s : State) {F : Nat} {S : State} (hK : Keeps F S s)
    (hF : within 43980467209224 F = true := by exact within_trans hF (by decide)) : KeepsA F S (execMonUnlockResponse r s) := by
  unfold execMonUnlockResponse
  repeat' with_reducible first
    | assumption | exact within_trans hF (by decide) | (apply State.monitor_keeps; intro y hy) | apply doMonUnlockResponse_keeps

theorem execMonUnlockTimeout_keeps (s : State) {F : Nat} {S : State} (hK : Keeps F S s)
    (hF : within 8796095120392 F = true := by exact within_trans hF (by decide)) : KeepsA F S (execMonUnlockTimeout s) := by
  unfold execMonUnlockTimeout
  repeat' with_reducible first | assumption | apply keepsA_next | apply State.unlockFail_keeps | split

theorem execLockoutEnd_keeps (s : State) {F : Nat} {S : State} (hK : Keeps F S s)
    (hF : within 8796093022208 F = true := by exact within_trans hF (by decide)) : KeepsA F S (execLockoutEnd s) := by
  unfold execLockoutEnd
  repeat' with_reducible first
    | assumption | apply keepsA_next | (intro p hp; cases p <;> with_unfolding_all first | exact foot_absurd hF hp (by decide) | exact rfl) | split
    | fail_if_no_progress apply keeps_upd

theorem execMonLock_keeps (s : State) {F : Nat} {S : State} (hK : Keeps F S s)
    (hF : within 43980467209224 F = true := by exact within_trans hF (by decide)) : KeepsA F S (execMonLock s) := by
  unfold execMonLock
  repeat' with_reducible first | assumption | exact within_trans hF (by decide) | (apply State.monitor_keeps; intro y hy) | apply doMonLock_keeps

theorem execMonBaud_keeps (rate : Nat) (s : State) {F : Nat} {S : State} (hK : Keeps F S s)
    (hF : within 43980465111048 F = true := by exact within_trans hF (by decide)) : KeepsA F S (execMonBaud rate s) := by
  unfold execMonBaud
  repeat' with_reducible first | assumption | exact within_trans hF (by decide) | (apply State.monitor_keeps; intro y hy) | apply doMonBaud_keeps

theorem execMonitorRr_keeps (addr count : Nat) (s : State) {F : Nat} {S : State} (hK : Keeps F S s)
    (hF : within 35321871860744 F = true := by exact within_trans hF (by decide)) : KeepsA F S (execMonitorRr addr count s) := by
  unfold execMonitorRr
  repeat' with_reducible first | assumption | exact within_trans hF (by decide) | (apply State.monitor_keeps; intro y hy) | apply doMonRr_keeps

theorem execMonitorWr_keeps (addr : Nat) (v mask : Word) (s : State) {F : Nat} {S : State} (hK : Keeps F S s)
    (hF : within 70277878544252 F = true := by exact within_trans hF (by decide)) : KeepsA F S (execMonitorWr addr v mask s) := by
  unfold execMonitorWr
  repeat' with_reducible first | assumption | exact within_trans hF (by decide) | (apply State.monitor_keeps; intro y hy) | apply doMonWr_keeps

theorem execMonitorRm_keeps (addr count : Nat) (s : State) {F : Nat} {S : State} (hK : Keeps F S s)
    (hF : within 35184432907272 F = true := by exact within_trans hF (by decide)) : KeepsA F S (execMonitorRm addr count s) := by
  unfold execMonitorRm
  repeat' with_reducible first | assumption | exact within_trans hF (by decide) | (apply State.monitor_keeps; intro y hy) | apply doMonRm_keeps

theorem execMonitorWm_keeps (addr : Nat) (v : Word) (s : State) {F : Nat} {S : State} (hK : Keeps F S s)
    (hF : within 35184432907272 F = true := by exact within_trans hF (by decide)) : KeepsA F S (execMonitorWm addr v s) := by
  unfold execMonitorWm
  repeat' with_reducible first | assumption | exact within_trans hF (by decide) | (apply State.monitor_keeps; intro y hy) | apply doMonWm_keeps

theorem execMonEv_keeps (n : Option Nat) (s : State) {F : Nat} {S : State} (hK : Keeps F S s)
    (hF : within 35184372088840 F = true := by exact within_trans hF (by decide)) : KeepsA F S (execMonEv n s) := by
  unfold execMonEv
  repeat' with_reducible first | assumption | exact within_trans hF (by decide) | (apply State.monitor_keeps; intro y hy) | apply doMonEv_keeps

theorem execMonPat_keeps (s : State) {F : Nat} {S : State} (hK : Keeps F S s)
    (hF : within 35184372088840 F = true := by exact within_trans hF (by decide)) : KeepsA F S (execMonPat s) := by
  unfold execMonPat
  repeat' with_reducible first | assumption | exact within_trans hF (by decide) | (apply State.monitor_keeps; intro y hy) | apply doMonPat_keeps

theorem execMonMaq_keeps (off count : Nat) (s : State) {F : Nat} {S : State} (hK : Keeps F S s)
    (hF : within 35184372088840 F = true := by exact within_trans hF (by decide)) : KeepsA F S (execMonMaq off count s) := by
  unfold execMonMaq
  repeat' with_reducible first | assumption | exact within_trans hF (by decide) | (apply State.monitor_keeps; intro y hy) | apply doMonMaq_keeps

theorem execMonTrace_keeps (on : Bool) (s : State) {F : Nat} {S : State} (hK : Keeps F S s)
    (hF : within 35184372088840 F = true := by exact within_trans hF (by decide)) : KeepsA F S (execMonTrace on s) := by
  unfold execMonTrace
  repeat' with_reducible first | assumption | exact within_trans hF (by decide) | (apply State.monitor_keeps; intro y hy) | apply doMonTrace_keeps

theorem execSchedStep_keeps (s : State) {F : Nat} {S : State} (hK : Keeps F S s)
    (hF : within 40690527503960 F = true := by exact within_trans hF (by decide)) : KeepsA F S (execSchedStep s) := by
  unfold execSchedStep
  repeat' with_reducible first | assumption | exact within_trans hF (by decide) | (apply State.monitor_keeps; intro y hy) | apply doSchedStep_keeps

theorem monVerb0_keeps (v : String) (c : Bool × (State → MonAns)) (e : monVerb0 v = some c) {F : Nat} {S : State} (x : State) (hK : Keeps F S x)
    (hF : within 8796095120396 F = true := by exact within_trans hF (by decide)) : Keeps F S (c.2 x).1 := by
  unfold monVerb0 at e
  repeat' split at e
  all_goals cases e
  · exact doMonId_keeps _ hK
  · exact doMonHelp_keeps _ hK
  · exact doMonUnlock_keeps _ hK
  · exact doMonLock_keeps _ hK
  · exact doMonEv_keeps _ _ hK
  · exact doMonPat_keeps _ hK

theorem monVerb1_keeps (v : String) (w : List Char) (c : Bool × (State → MonAns)) (e : monVerb1 v w = some c) {F : Nat} {S : State} (x : State) (hK : Keeps F S x)
    (hF : within 14439746111064 F = true := by exact within_trans hF (by decide)) :
    Keeps F S (c.2 x).1 := by
  unfold monVerb1 at e
  split at e
  · obtain ⟨r, _, rfl⟩ := Option.map_eq_some_iff.mp e
    exact doMonUnlockResponse_keeps _ _ hK
  · repeat' split at e
    all_goals cases e
    · exact doMonBaud_keeps _ _ hK
    · exact doMonRr_keeps _ _ _ hK
    · exact doMonEv_keeps _ _ hK
    · exact doMonTrace_keeps _ _ hK
    · exact doMonTrace_keeps _ _ hK
    · exact doSchedStep_keeps _ hK

theorem monVerb2_keeps (v : String) (a b : Nat) (c : Bool × (State → MonAns)) (e : monVerb2 v a b = some c) {F : Nat} {S : State} (x : State) (hK : Keeps F S x)
    (hF : within 70277878544252 F = true := by exact within_trans hF (by decide)) :
    Keeps F S (c.2 x).1 := by
  unfold monVerb2 at e
  repeat' split at e
  all_goals cases e
  · exact doMonRr_keeps _ _ _ hK
  · exact doMonWr_keeps _ _ _ _ hK
  · exact doMonRm_keeps _ _ _ hK
  · exact doMonWm_keeps _ _ _ hK
  · exact doMonMaq_keeps _ _ _ hK

theorem monCommand_keeps (l : List Byte) (c : Bool × (State → MonAns)) (e : monCommand l = some c) {F : Nat} {S : State} (x : State) (hK : Keeps F S x)
    (hF : within 70277878544252 F = true := by exact within_trans hF (by decide)) :
    Keeps F S (c.2 x).1 := by
  unfold monCommand at e
  repeat' split at e
  all_goals first
    | exact monVerb0_keeps _ _ e _ hK
    | exact monVerb1_keeps _ _ _ e _ hK
    | exact monVerb2_keeps _ _ _ _ e _ hK
    | cases e
  exact doMonWr_keeps _ _ _ _ hK

theorem execEngineRelay_keeps (cmd : List Byte) (s : State) {F : Nat} {S : State} (hK : Keeps F S s)
    (hF : within 70277878544252 F = true := by exact within_trans hF (by decide)) : KeepsA F S (execEngineRelay cmd s) := by
  unfold execEngineRelay
  repeat' with_reducible first
    | assumption | apply keepsA_next | exact within_trans hF (by decide) | apply State.monPrint_keeps | (apply State.monRun_keeps; intro y hy)
    | apply doEngineRelay_keeps | split

theorem keeps_bridgeAll (s : State) (l : List String) {F : Nat} {S : State} (hK : Keeps F S s)
    (hF : within 70277878544252 F = true := by exact within_trans hF (by decide)) :
    Keeps F S (l.foldl (fun s t => s.toBridge 0 (.mon (textBytes t))) s) :=
  keeps_foldl (fun _ _ h => State.toBridge_keeps _ _ _ h) hK

theorem execBrMon_keeps (text : List Byte) (s : State) {F : Nat} {S : State} (hK : Keeps F S s)
    (hF : within 70277878544252 F = true := by exact within_trans hF (by decide)) : KeepsA F S (execBrMon text s) := by
  unfold execBrMon
  split
  · exact keepsA_next hK
  · split
    · refine keepsA_next (keeps_bridgeAll _ _ ?_)
      split
      · rename_i c e
        exact State.monRun_keeps _ _ _ (fun x hx => monCommand_keeps _ _ e x hx) hK
      · exact State.monRun_keeps _ _ _ (fun x hx => monErr_keeps _ _ hx) hK
    · exact keepsA_next (State.emit_keeps _ _ hK)

/-! Tick -/

theorem State.ditherTick_keeps (s : State) {F : Nat} {S : State} (hK : Keeps F S s)
    (hF : within 524288 F = true := by exact within_trans hF (by decide)) : Keeps F S (State.ditherTick s) := by
  unfold State.ditherTick
  repeat' with_reducible first
    | exact hK | assumption
    | (extract_lets +onlyGivenNames y; refine keeps_cut (F := F) (S := S) (y := y) ?_ ?_; dsimp -zeta only [y]; clear y; rotate_left; clear_value y; intro hy; rotate_right)
    | (extract_lets +onlyGivenNames y; refine keeps_cut1 (F := F) (S := S) (y := y) ?_ ?_; dsimp -zeta only [y]; clear y; rotate_left; clear_value y; intro hy; rotate_right)
    | (extract_lets +onlyGivenNames y; refine keeps_cutR (F := F) (S := S) (y := y) ?_ ?_; dsimp -zeta only [y]; clear y; rotate_left; clear_value y; intro hy; rotate_right)
    | extract_lets +onlyGivenNames y | apply keepsA_next | apply keepsO_some | exact keepsO_none | exact within_trans hF (by decide)
    | (intro p hp; cases p <;> with_unfolding_all first | exact foot_absurd hF hp (by decide) | exact rfl) | apply State.each_keeps
    | apply State.modPix_keeps | (apply keeps_each; intro y n hy) | split | (apply keeps_of_pair; assumption) | (apply keeps_of_trip; assumption)
    | refine keeps_of_some (by assumption) ?_ | dsimp -zeta only | fail_if_no_progress apply keeps_upd

theorem State.castTick_keeps (old s : State) (n : Nat) {F : Nat} {S : State} (hK : Keeps F S s)
    (hF : within 35872909344780 F = true := by exact within_trans hF (by decide)) : Keeps F S (old.castTick s n) := by
  unfold State.castTick
  repeat' with_reducible first
    | exact hK | assumption
    | (extract_lets +onlyGivenNames y; refine keeps_cut (F := F) (S := S) (y := y) ?_ ?_; dsimp -zeta only [y]; clear y; rotate_left; clear_value y; intro hy; rotate_right)
    | (extract_lets +onlyGivenNames y; refine keeps_cut1 (F := F) (S := S) (y := y) ?_ ?_; dsimp -zeta only [y]; clear y; rotate_left; clear_value y; intro hy; rotate_right)
    | (extract_lets +onlyGivenNames y; refine keeps_cutR (F := F) (S := S) (y := y) ?_ ?_; dsimp -zeta only [y]; clear y; rotate_left; clear_value y; intro hy; rotate_right)
    | extract_lets +onlyGivenNames y | apply keepsA_next | apply keepsO_some | exact keepsO_none | exact within_trans hF (by decide)
    | (intro p hp; cases p <;> with_unfolding_all first | exact foot_absurd hF hp (by decide) | exact rfl) | apply State.castStep_keeps
    | apply State.tookFree_keeps | split | (apply keeps_of_pair; assumption) | (apply keeps_of_trip; assumption)
    | refine keeps_of_some (by assumption) ?_ | dsimp -zeta only

theorem State.chsTick_keeps (s : State) (n : Nat) {F : Nat} {S : State} (hK : Keeps F S s)
    (hF : within 69636 F = true := by exact within_trans hF (by decide)) : Keeps F S (State.chsTick s n) := by
  unfold State.chsTick
  repeat' with_reducible first
    | exact hK | assumption
    | (extract_lets +onlyGivenNames y; refine keeps_cut (F := F) (S := S) (y := y) ?_ ?_; dsimp -zeta only [y]; clear y; rotate_left; clear_value y; intro hy; rotate_right)
    | (extract_lets +onlyGivenNames y; refine keeps_cut1 (F := F) (S := S) (y := y) ?_ ?_; dsimp -zeta only [y]; clear y; rotate_left; clear_value y; intro hy; rotate_right)
    | (extract_lets +onlyGivenNames y; refine keeps_cutR (F := F) (S := S) (y := y) ?_ ?_; dsimp -zeta only [y]; clear y; rotate_left; clear_value y; intro hy; rotate_right)
    | extract_lets +onlyGivenNames y | apply keepsA_next | apply keepsO_some | exact keepsO_none | exact within_trans hF (by decide)
    | (intro p hp; cases p <;> with_unfolding_all first | exact foot_absurd hF hp (by decide) | exact rfl) | apply State.modChs_keeps
    | apply State.primed_keeps | apply State.tookFree_keeps | split | (apply keeps_of_pair; assumption) | (apply keeps_of_trip; assumption)
    | refine keeps_of_some (by assumption) ?_ | dsimp -zeta only | fail_if_no_progress apply keeps_upd

theorem State.fcFollow_keeps (s : State) (c : Nat) {F : Nat} {S : State} (hK : Keeps F S s)
    (hF : within 549755813896 F = true := by exact within_trans hF (by decide)) : Keeps F S (State.fcFollow s c) := by
  unfold State.fcFollow
  repeat' with_reducible first
    | exact hK | assumption
    | (extract_lets +onlyGivenNames y; refine keeps_cut (F := F) (S := S) (y := y) ?_ ?_; dsimp -zeta only [y]; clear y; rotate_left; clear_value y; intro hy; rotate_right)
    | (extract_lets +onlyGivenNames y; refine keeps_cut1 (F := F) (S := S) (y := y) ?_ ?_; dsimp -zeta only [y]; clear y; rotate_left; clear_value y; intro hy; rotate_right)
    | (extract_lets +onlyGivenNames y; refine keeps_cutR (F := F) (S := S) (y := y) ?_ ?_; dsimp -zeta only [y]; clear y; rotate_left; clear_value y; intro hy; rotate_right)
    | extract_lets +onlyGivenNames y | apply keepsA_next | apply keepsO_some | exact keepsO_none | exact within_trans hF (by decide)
    | (intro p hp; cases p <;> with_unfolding_all first | exact foot_absurd hF hp (by decide) | exact rfl) | apply State.fcScan_keeps | split
    | (apply keeps_of_pair; assumption) | (apply keeps_of_trip; assumption) | refine keeps_of_some (by assumption) ?_ | dsimp -zeta only

theorem State.tick_keeps (s : State) {F : Nat} {S : State} (hK : Keeps F S s)
    (hF : within 35872983339022 F = true := by exact within_trans hF (by decide)) : Keeps F S (State.tick s) := by
  unfold State.tick
  repeat' with_reducible first
    | exact hK | assumption
    | (extract_lets +onlyGivenNames y; refine keeps_cut (F := F) (S := S) (y := y) ?_ ?_; dsimp -zeta only [y]; clear y; rotate_left; clear_value y; intro hy; rotate_right)
    | (extract_lets +onlyGivenNames y; refine keeps_cut1 (F := F) (S := S) (y := y) ?_ ?_; dsimp -zeta only [y]; clear y; rotate_left; clear_value y; intro hy; rotate_right)
    | (extract_lets +onlyGivenNames y; refine keeps_cutR (F := F) (S := S) (y := y) ?_ ?_; dsimp -zeta only [y]; clear y; rotate_left; clear_value y; intro hy; rotate_right)
    | extract_lets +onlyGivenNames y | apply keepsA_next | apply keepsO_some | exact keepsO_none | exact within_trans hF (by decide)
    | (intro p hp; cases p <;> with_unfolding_all first | exact foot_absurd hF hp (by decide) | exact rfl) | apply State.castTick_keeps
    | apply State.chsTick_keeps | apply State.ditherTick_keeps | apply State.dmaTick_keeps | apply State.each_keeps | apply State.fcFollow_keeps
    | apply State.gapDue_keeps | apply State.onDieTick_keeps | apply State.rejoinTick_keeps | (apply keeps_each; intro y n hy) | split
    | (apply keeps_of_pair; assumption) | (apply keeps_of_trip; assumption) | refine keeps_of_some (by assumption) ?_ | dsimp -zeta only
    | fail_if_no_progress apply keeps_upd

end Sys2Proof.Machine
end

