-- ==== Sys2Proof/Laws/State.lean ====
section
/-! SUPPORT. What each update of State leaves as it is and what it changes: one lemma a field and update, so that no proof unfolds a record update. -/
namespace Sys2Proof.Machine

/-! State.setReg -/

section
variable (s : State) (a : Nat) (w : Word)
@[simp] theorem State.setReg_id : (s.setReg a w).id = s.id := rfl
@[simp] theorem State.setReg_otp : (s.setReg a w).otp = s.otp := rfl
@[simp] theorem State.setReg_inReset : (s.setReg a w).inReset = s.inReset := rfl
@[simp] theorem State.setReg_rstLow : (s.setReg a w).rstLow = s.rstLow := rfl
@[simp] theorem State.setReg_brown : (s.setReg a w).brown = s.brown := rfl
@[simp] theorem State.setReg_clk : (s.setReg a w).clk = s.clk := rfl
@[simp] theorem State.setReg_free : (s.setReg a w).free = s.free := rfl
@[simp] theorem State.setReg_regs : (s.setReg a w).regs = Sys2Proof.Machine.put s.regs a (resetOf s.id a) w := rfl
@[simp] theorem State.setReg_held : (s.setReg a w).held = s.held := rfl
@[simp] theorem State.setReg_tab : (s.setReg a w).tab = s.tab := rfl
@[simp] theorem State.setReg_heldTab : (s.setReg a w).heldTab = s.heldTab := rfl
@[simp] theorem State.setReg_adjRegs : (s.setReg a w).adjRegs = s.adjRegs := rfl
@[simp] theorem State.setReg_adjTabs : (s.setReg a w).adjTabs = s.adjTabs := rfl
@[simp] theorem State.setReg_claims : (s.setReg a w).claims = s.claims := rfl
@[simp] theorem State.setReg_boot : (s.setReg a w).boot = s.boot := rfl
@[simp] theorem State.setReg_host : (s.setReg a w).host = s.host := rfl
@[simp] theorem State.setReg_jobs : (s.setReg a w).jobs = s.jobs := rfl
@[simp] theorem State.setReg_sched : (s.setReg a w).sched = s.sched := rfl
@[simp] theorem State.setReg_codec : (s.setReg a w).codec = s.codec := rfl
@[simp] theorem State.setReg_stn : (s.setReg a w).stn = s.stn := rfl
@[simp] theorem State.setReg_clks : (s.setReg a w).clks = s.clks := rfl
@[simp] theorem State.setReg_links : (s.setReg a w).links = s.links := rfl
@[simp] theorem State.setReg_brg : (s.setReg a w).brg = s.brg := rfl
@[simp] theorem State.setReg_mem : (s.setReg a w).mem = s.mem := rfl
@[simp] theorem State.setReg_dma : (s.setReg a w).dma = s.dma := rfl
@[simp] theorem State.setReg_rr : (s.setReg a w).rr = s.rr := rfl
@[simp] theorem State.setReg_stp : (s.setReg a w).stp = s.stp := rfl
@[simp] theorem State.setReg_enc : (s.setReg a w).enc = s.enc := rfl
@[simp] theorem State.setReg_encPin : (s.setReg a w).encPin = s.encPin := rfl
@[simp] theorem State.setReg_mot : (s.setReg a w).mot = s.mot := rfl
@[simp] theorem State.setReg_bus : (s.setReg a w).bus = s.bus := rfl
@[simp] theorem State.setReg_thm : (s.setReg a w).thm = s.thm := rfl
@[simp] theorem State.setReg_time : (s.setReg a w).time = s.time := rfl
@[simp] theorem State.setReg_wcmp : (s.setReg a w).wcmp = s.wcmp := rfl
@[simp] theorem State.setReg_fcmp : (s.setReg a w).fcmp = s.fcmp := rfl
@[simp] theorem State.setReg_ptp : (s.setReg a w).ptp = s.ptp := rfl
@[simp] theorem State.setReg_line : (s.setReg a w).line = s.line := rfl
@[simp] theorem State.setReg_csm : (s.setReg a w).csm = s.csm := rfl
@[simp] theorem State.setReg_mon : (s.setReg a w).mon = s.mon := rfl
@[simp] theorem State.setReg_pageCap : (s.setReg a w).pageCap = s.pageCap := rfl
@[simp] theorem State.setReg_bandCap : (s.setReg a w).bandCap = s.bandCap := rfl
@[simp] theorem State.setReg_out : (s.setReg a w).out = s.out := rfl
@[simp] theorem State.setReg_pending : (s.setReg a w).pending = s.pending := rfl
end

/-! State.setLater -/

section
variable (s : State) (a : Nat) (w : Word)
@[simp] theorem State.setLater_id : (s.setLater a w).id = s.id := rfl
@[simp] theorem State.setLater_otp : (s.setLater a w).otp = s.otp := rfl
@[simp] theorem State.setLater_inReset : (s.setLater a w).inReset = s.inReset := rfl
@[simp] theorem State.setLater_rstLow : (s.setLater a w).rstLow = s.rstLow := rfl
@[simp] theorem State.setLater_brown : (s.setLater a w).brown = s.brown := rfl
@[simp] theorem State.setLater_clk : (s.setLater a w).clk = s.clk := rfl
@[simp] theorem State.setLater_free : (s.setLater a w).free = s.free := rfl
@[simp] theorem State.setLater_regs : (s.setLater a w).regs = Sys2Proof.Machine.put s.regs a (resetOf s.id a) w := rfl
@[simp] theorem State.setLater_held : (s.setLater a w).held = ins s.held a (s.act a) := rfl
@[simp] theorem State.setLater_tab : (s.setLater a w).tab = s.tab := rfl
@[simp] theorem State.setLater_heldTab : (s.setLater a w).heldTab = s.heldTab := rfl
@[simp] theorem State.setLater_adjRegs : (s.setLater a w).adjRegs = s.adjRegs := rfl
@[simp] theorem State.setLater_adjTabs : (s.setLater a w).adjTabs = s.adjTabs := rfl
@[simp] theorem State.setLater_claims : (s.setLater a w).claims = s.claims := rfl
@[simp] theorem State.setLater_boot : (s.setLater a w).boot = s.boot := rfl
@[simp] theorem State.setLater_host : (s.setLater a w).host = s.host := rfl
@[simp] theorem State.setLater_jobs : (s.setLater a w).jobs = s.jobs := rfl
@[simp] theorem State.setLater_sched : (s.setLater a w).sched = s.sched := rfl
@[simp] theorem State.setLater_codec : (s.setLater a w).codec = s.codec := rfl
@[simp] theorem State.setLater_stn : (s.setLater a w).stn = s.stn := rfl
@[simp] theorem State.setLater_clks : (s.setLater a w).clks = s.clks := rfl
@[simp] theorem State.setLater_links : (s.setLater a w).links = s.links := rfl
@[simp] theorem State.setLater_brg : (s.setLater a w).brg = s.brg := rfl
@[simp] theorem State.setLater_mem : (s.setLater a w).mem = s.mem := rfl
@[simp] theorem State.setLater_dma : (s.setLater a w).dma = s.dma := rfl
@[simp] theorem State.setLater_rr : (s.setLater a w).rr = s.rr := rfl
@[simp] theorem State.setLater_stp : (s.setLater a w).stp = s.stp := rfl
@[simp] theorem State.setLater_enc : (s.setLater a w).enc = s.enc := rfl
@[simp] theorem State.setLater_encPin : (s.setLater a w).encPin = s.encPin := rfl
@[simp] theorem State.setLater_mot : (s.setLater a w).mot = s.mot := rfl
@[simp] theorem State.setLater_bus : (s.setLater a w).bus = s.bus := rfl
@[simp] theorem State.setLater_thm : (s.setLater a w).thm = s.thm := rfl
@[simp] theorem State.setLater_time : (s.setLater a w).time = s.time := rfl
@[simp] theorem State.setLater_wcmp : (s.setLater a w).wcmp = s.wcmp := rfl
@[simp] theorem State.setLater_fcmp : (s.setLater a w).fcmp = s.fcmp := rfl
@[simp] theorem State.setLater_ptp : (s.setLater a w).ptp = s.ptp := rfl
@[simp] theorem State.setLater_line : (s.setLater a w).line = s.line := rfl
@[simp] theorem State.setLater_csm : (s.setLater a w).csm = s.csm := rfl
@[simp] theorem State.setLater_mon : (s.setLater a w).mon = s.mon := rfl
@[simp] theorem State.setLater_pageCap : (s.setLater a w).pageCap = s.pageCap := rfl
@[simp] theorem State.setLater_bandCap : (s.setLater a w).bandCap = s.bandCap := rfl
@[simp] theorem State.setLater_out : (s.setLater a w).out = s.out := rfl
@[simp] theorem State.setLater_pending : (s.setLater a w).pending = s.pending := rfl
end

/-! State.setF -/

section
variable (s : State) (a lo n v : Nat)
@[simp] theorem State.setF_id : (s.setF a lo n v).id = s.id := rfl
@[simp] theorem State.setF_otp : (s.setF a lo n v).otp = s.otp := rfl
@[simp] theorem State.setF_inReset : (s.setF a lo n v).inReset = s.inReset := rfl
@[simp] theorem State.setF_rstLow : (s.setF a lo n v).rstLow = s.rstLow := rfl
@[simp] theorem State.setF_brown : (s.setF a lo n v).brown = s.brown := rfl
@[simp] theorem State.setF_clk : (s.setF a lo n v).clk = s.clk := rfl
@[simp] theorem State.setF_free : (s.setF a lo n v).free = s.free := rfl
@[simp] theorem State.setF_regs : (s.setF a lo n v).regs = Sys2Proof.Machine.put s.regs a (resetOf s.id a) (setFld (s.reg a) lo n v) := rfl
@[simp] theorem State.setF_held : (s.setF a lo n v).held = s.held := rfl
@[simp] theorem State.setF_tab : (s.setF a lo n v).tab = s.tab := rfl
@[simp] theorem State.setF_heldTab : (s.setF a lo n v).heldTab = s.heldTab := rfl
@[simp] theorem State.setF_adjRegs : (s.setF a lo n v).adjRegs = s.adjRegs := rfl
@[simp] theorem State.setF_adjTabs : (s.setF a lo n v).adjTabs = s.adjTabs := rfl
@[simp] theorem State.setF_claims : (s.setF a lo n v).claims = s.claims := rfl
@[simp] theorem State.setF_boot : (s.setF a lo n v).boot = s.boot := rfl
@[simp] theorem State.setF_host : (s.setF a lo n v).host = s.host := rfl
@[simp] theorem State.setF_jobs : (s.setF a lo n v).jobs = s.jobs := rfl
@[simp] theorem State.setF_sched : (s.setF a lo n v).sched = s.sched := rfl
@[simp] theorem State.setF_codec : (s.setF a lo n v).codec = s.codec := rfl
@[simp] theorem State.setF_stn : (s.setF a lo n v).stn = s.stn := rfl
@[simp] theorem State.setF_clks : (s.setF a lo n v).clks = s.clks := rfl
@[simp] theorem State.setF_links : (s.setF a lo n v).links = s.links := rfl
@[simp] theorem State.setF_brg : (s.setF a lo n v).brg = s.brg := rfl
@[simp] theorem State.setF_mem : (s.setF a lo n v).mem = s.mem := rfl
@[simp] theorem State.setF_dma : (s.setF a lo n v).dma = s.dma := rfl
@[simp] theorem State.setF_rr : (s.setF a lo n v).rr = s.rr := rfl
@[simp] theorem State.setF_stp : (s.setF a lo n v).stp = s.stp := rfl
@[simp] theorem State.setF_enc : (s.setF a lo n v).enc = s.enc := rfl
@[simp] theorem State.setF_encPin : (s.setF a lo n v).encPin = s.encPin := rfl
@[simp] theorem State.setF_mot : (s.setF a lo n v).mot = s.mot := rfl
@[simp] theorem State.setF_bus : (s.setF a lo n v).bus = s.bus := rfl
@[simp] theorem State.setF_thm : (s.setF a lo n v).thm = s.thm := rfl
@[simp] theorem State.setF_time : (s.setF a lo n v).time = s.time := rfl
@[simp] theorem State.setF_wcmp : (s.setF a lo n v).wcmp = s.wcmp := rfl
@[simp] theorem State.setF_fcmp : (s.setF a lo n v).fcmp = s.fcmp := rfl
@[simp] theorem State.setF_ptp : (s.setF a lo n v).ptp = s.ptp := rfl
@[simp] theorem State.setF_line : (s.setF a lo n v).line = s.line := rfl
@[simp] theorem State.setF_csm : (s.setF a lo n v).csm = s.csm := rfl
@[simp] theorem State.setF_mon : (s.setF a lo n v).mon = s.mon := rfl
@[simp] theorem State.setF_pageCap : (s.setF a lo n v).pageCap = s.pageCap := rfl
@[simp] theorem State.setF_bandCap : (s.setF a lo n v).bandCap = s.bandCap := rfl
@[simp] theorem State.setF_out : (s.setF a lo n v).out = s.out := rfl
@[simp] theorem State.setF_pending : (s.setF a lo n v).pending = s.pending := rfl
end

/-! State.emit -/

section
variable (s : State) (o : Out)
@[simp] theorem State.emit_id : (s.emit o).id = s.id := rfl
@[simp] theorem State.emit_otp : (s.emit o).otp = s.otp := rfl
@[simp] theorem State.emit_inReset : (s.emit o).inReset = s.inReset := rfl
@[simp] theorem State.emit_rstLow : (s.emit o).rstLow = s.rstLow := rfl
@[simp] theorem State.emit_brown : (s.emit o).brown = s.brown := rfl
@[simp] theorem State.emit_clk : (s.emit o).clk = s.clk := rfl
@[simp] theorem State.emit_free : (s.emit o).free = s.free := rfl
@[simp] theorem State.emit_regs : (s.emit o).regs = s.regs := rfl
@[simp] theorem State.emit_held : (s.emit o).held = s.held := rfl
@[simp] theorem State.emit_tab : (s.emit o).tab = s.tab := rfl
@[simp] theorem State.emit_heldTab : (s.emit o).heldTab = s.heldTab := rfl
@[simp] theorem State.emit_adjRegs : (s.emit o).adjRegs = s.adjRegs := rfl
@[simp] theorem State.emit_adjTabs : (s.emit o).adjTabs = s.adjTabs := rfl
@[simp] theorem State.emit_claims : (s.emit o).claims = s.claims := rfl
@[simp] theorem State.emit_boot : (s.emit o).boot = s.boot := rfl
@[simp] theorem State.emit_host : (s.emit o).host = s.host := rfl
@[simp] theorem State.emit_jobs : (s.emit o).jobs = s.jobs := rfl
@[simp] theorem State.emit_sched : (s.emit o).sched = s.sched := rfl
@[simp] theorem State.emit_codec : (s.emit o).codec = s.codec := rfl
@[simp] theorem State.emit_stn : (s.emit o).stn = s.stn := rfl
@[simp] theorem State.emit_clks : (s.emit o).clks = s.clks := rfl
@[simp] theorem State.emit_links : (s.emit o).links = s.links := rfl
@[simp] theorem State.emit_brg : (s.emit o).brg = s.brg := rfl
@[simp] theorem State.emit_mem : (s.emit o).mem = s.mem := rfl
@[simp] theorem State.emit_dma : (s.emit o).dma = s.dma := rfl
@[simp] theorem State.emit_rr : (s.emit o).rr = s.rr := rfl
@[simp] theorem State.emit_stp : (s.emit o).stp = s.stp := rfl
@[simp] theorem State.emit_enc : (s.emit o).enc = s.enc := rfl
@[simp] theorem State.emit_encPin : (s.emit o).encPin = s.encPin := rfl
@[simp] theorem State.emit_mot : (s.emit o).mot = s.mot := rfl
@[simp] theorem State.emit_bus : (s.emit o).bus = s.bus := rfl
@[simp] theorem State.emit_thm : (s.emit o).thm = s.thm := rfl
@[simp] theorem State.emit_time : (s.emit o).time = s.time := rfl
@[simp] theorem State.emit_wcmp : (s.emit o).wcmp = s.wcmp := rfl
@[simp] theorem State.emit_fcmp : (s.emit o).fcmp = s.fcmp := rfl
@[simp] theorem State.emit_ptp : (s.emit o).ptp = s.ptp := rfl
@[simp] theorem State.emit_line : (s.emit o).line = s.line := rfl
@[simp] theorem State.emit_csm : (s.emit o).csm = s.csm := rfl
@[simp] theorem State.emit_mon : (s.emit o).mon = s.mon := rfl
@[simp] theorem State.emit_pageCap : (s.emit o).pageCap = s.pageCap := rfl
@[simp] theorem State.emit_bandCap : (s.emit o).bandCap = s.bandCap := rfl
@[simp] theorem State.emit_out : (s.emit o).out = s.out ++ [o] := rfl
@[simp] theorem State.emit_pending : (s.emit o).pending = s.pending := rfl
end

/-! State.tookFree -/

section
variable (s : State)
@[simp] theorem State.tookFree_id : (s.tookFree).id = s.id := rfl
@[simp] theorem State.tookFree_otp : (s.tookFree).otp = s.otp := rfl
@[simp] theorem State.tookFree_inReset : (s.tookFree).inReset = s.inReset := rfl
@[simp] theorem State.tookFree_rstLow : (s.tookFree).rstLow = s.rstLow := rfl
@[simp] theorem State.tookFree_brown : (s.tookFree).brown = s.brown := rfl
@[simp] theorem State.tookFree_clk : (s.tookFree).clk = s.clk := rfl
@[simp] theorem State.tookFree_free : (s.tookFree).free = s.free + 1 := rfl
@[simp] theorem State.tookFree_regs : (s.tookFree).regs = s.regs := rfl
@[simp] theorem State.tookFree_held : (s.tookFree).held = s.held := rfl
@[simp] theorem State.tookFree_tab : (s.tookFree).tab = s.tab := rfl
@[simp] theorem State.tookFree_heldTab : (s.tookFree).heldTab = s.heldTab := rfl
@[simp] theorem State.tookFree_adjRegs : (s.tookFree).adjRegs = s.adjRegs := rfl
@[simp] theorem State.tookFree_adjTabs : (s.tookFree).adjTabs = s.adjTabs := rfl
@[simp] theorem State.tookFree_claims : (s.tookFree).claims = s.claims := rfl
@[simp] theorem State.tookFree_boot : (s.tookFree).boot = s.boot := rfl
@[simp] theorem State.tookFree_host : (s.tookFree).host = s.host := rfl
@[simp] theorem State.tookFree_jobs : (s.tookFree).jobs = s.jobs := rfl
@[simp] theorem State.tookFree_sched : (s.tookFree).sched = s.sched := rfl
@[simp] theorem State.tookFree_codec : (s.tookFree).codec = s.codec := rfl
@[simp] theorem State.tookFree_stn : (s.tookFree).stn = s.stn := rfl
@[simp] theorem State.tookFree_clks : (s.tookFree).clks = s.clks := rfl
@[simp] theorem State.tookFree_links : (s.tookFree).links = s.links := rfl
@[simp] theorem State.tookFree_brg : (s.tookFree).brg = s.brg := rfl
@[simp] theorem State.tookFree_mem : (s.tookFree).mem = s.mem := rfl
@[simp] theorem State.tookFree_dma : (s.tookFree).dma = s.dma := rfl
@[simp] theorem State.tookFree_rr : (s.tookFree).rr = s.rr := rfl
@[simp] theorem State.tookFree_stp : (s.tookFree).stp = s.stp := rfl
@[simp] theorem State.tookFree_enc : (s.tookFree).enc = s.enc := rfl
@[simp] theorem State.tookFree_encPin : (s.tookFree).encPin = s.encPin := rfl
@[simp] theorem State.tookFree_mot : (s.tookFree).mot = s.mot := rfl
@[simp] theorem State.tookFree_bus : (s.tookFree).bus = s.bus := rfl
@[simp] theorem State.tookFree_thm : (s.tookFree).thm = s.thm := rfl
@[simp] theorem State.tookFree_time : (s.tookFree).time = s.time := rfl
@[simp] theorem State.tookFree_wcmp : (s.tookFree).wcmp = s.wcmp := rfl
@[simp] theorem State.tookFree_fcmp : (s.tookFree).fcmp = s.fcmp := rfl
@[simp] theorem State.tookFree_ptp : (s.tookFree).ptp = s.ptp := rfl
@[simp] theorem State.tookFree_line : (s.tookFree).line = s.line := rfl
@[simp] theorem State.tookFree_csm : (s.tookFree).csm = s.csm := rfl
@[simp] theorem State.tookFree_mon : (s.tookFree).mon = s.mon := rfl
@[simp] theorem State.tookFree_pageCap : (s.tookFree).pageCap = s.pageCap := rfl
@[simp] theorem State.tookFree_bandCap : (s.tookFree).bandCap = s.bandCap := rfl
@[simp] theorem State.tookFree_out : (s.tookFree).out = s.out := rfl
@[simp] theorem State.tookFree_pending : (s.tookFree).pending = s.pending := rfl
end

/-! State.modJob -/

section
variable (s : State) (j : Nat) (f : Job → Job)
@[simp] theorem State.modJob_id : (s.modJob j f).id = s.id := rfl
@[simp] theorem State.modJob_otp : (s.modJob j f).otp = s.otp := rfl
@[simp] theorem State.modJob_inReset : (s.modJob j f).inReset = s.inReset := rfl
@[simp] theorem State.modJob_rstLow : (s.modJob j f).rstLow = s.rstLow := rfl
@[simp] theorem State.modJob_brown : (s.modJob j f).brown = s.brown := rfl
@[simp] theorem State.modJob_clk : (s.modJob j f).clk = s.clk := rfl
@[simp] theorem State.modJob_free : (s.modJob j f).free = s.free := rfl
@[simp] theorem State.modJob_regs : (s.modJob j f).regs = s.regs := rfl
@[simp] theorem State.modJob_held : (s.modJob j f).held = s.held := rfl
@[simp] theorem State.modJob_tab : (s.modJob j f).tab = s.tab := rfl
@[simp] theorem State.modJob_heldTab : (s.modJob j f).heldTab = s.heldTab := rfl
@[simp] theorem State.modJob_adjRegs : (s.modJob j f).adjRegs = s.adjRegs := rfl
@[simp] theorem State.modJob_adjTabs : (s.modJob j f).adjTabs = s.adjTabs := rfl
@[simp] theorem State.modJob_claims : (s.modJob j f).claims = s.claims := rfl
@[simp] theorem State.modJob_boot : (s.modJob j f).boot = s.boot := rfl
@[simp] theorem State.modJob_host : (s.modJob j f).host = s.host := rfl
@[simp] theorem State.modJob_jobs : (s.modJob j f).jobs = s.jobs.map (fun x => if x.id == j then f x else x) := rfl
@[simp] theorem State.modJob_sched : (s.modJob j f).sched = s.sched := rfl
@[simp] theorem State.modJob_codec : (s.modJob j f).codec = s.codec := rfl
@[simp] theorem State.modJob_stn : (s.modJob j f).stn = s.stn := rfl
@[simp] theorem State.modJob_clks : (s.modJob j f).clks = s.clks := rfl
@[simp] theorem State.modJob_links : (s.modJob j f).links = s.links := rfl
@[simp] theorem State.modJob_brg : (s.modJob j f).brg = s.brg := rfl
@[simp] theorem State.modJob_mem : (s.modJob j f).mem = s.mem := rfl
@[simp] theorem State.modJob_dma : (s.modJob j f).dma = s.dma := rfl
@[simp] theorem State.modJob_rr : (s.modJob j f).rr = s.rr := rfl
@[simp] theorem State.modJob_stp : (s.modJob j f).stp = s.stp := rfl
@[simp] theorem State.modJob_enc : (s.modJob j f).enc = s.enc := rfl
@[simp] theorem State.modJob_encPin : (s.modJob j f).encPin = s.encPin := rfl
@[simp] theorem State.modJob_mot : (s.modJob j f).mot = s.mot := rfl
@[simp] theorem State.modJob_bus : (s.modJob j f).bus = s.bus := rfl
@[simp] theorem State.modJob_thm : (s.modJob j f).thm = s.thm := rfl
@[simp] theorem State.modJob_time : (s.modJob j f).time = s.time := rfl
@[simp] theorem State.modJob_wcmp : (s.modJob j f).wcmp = s.wcmp := rfl
@[simp] theorem State.modJob_fcmp : (s.modJob j f).fcmp = s.fcmp := rfl
@[simp] theorem State.modJob_ptp : (s.modJob j f).ptp = s.ptp := rfl
@[simp] theorem State.modJob_line : (s.modJob j f).line = s.line := rfl
@[simp] theorem State.modJob_csm : (s.modJob j f).csm = s.csm := rfl
@[simp] theorem State.modJob_mon : (s.modJob j f).mon = s.mon := rfl
@[simp] theorem State.modJob_pageCap : (s.modJob j f).pageCap = s.pageCap := rfl
@[simp] theorem State.modJob_bandCap : (s.modJob j f).bandCap = s.bandCap := rfl
@[simp] theorem State.modJob_out : (s.modJob j f).out = s.out := rfl
@[simp] theorem State.modJob_pending : (s.modJob j f).pending = s.pending := rfl
end

/-! State.modTok -/

section
variable (s : State) (t : Nat) (f : Token → Token)
@[simp] theorem State.modTok_id : (s.modTok t f).id = s.id := rfl
@[simp] theorem State.modTok_otp : (s.modTok t f).otp = s.otp := rfl
@[simp] theorem State.modTok_inReset : (s.modTok t f).inReset = s.inReset := rfl
@[simp] theorem State.modTok_rstLow : (s.modTok t f).rstLow = s.rstLow := rfl
@[simp] theorem State.modTok_brown : (s.modTok t f).brown = s.brown := rfl
@[simp] theorem State.modTok_clk : (s.modTok t f).clk = s.clk := rfl
@[simp] theorem State.modTok_free : (s.modTok t f).free = s.free := rfl
@[simp] theorem State.modTok_regs : (s.modTok t f).regs = s.regs := rfl
@[simp] theorem State.modTok_held : (s.modTok t f).held = s.held := rfl
@[simp] theorem State.modTok_tab : (s.modTok t f).tab = s.tab := rfl
@[simp] theorem State.modTok_heldTab : (s.modTok t f).heldTab = s.heldTab := rfl
@[simp] theorem State.modTok_adjRegs : (s.modTok t f).adjRegs = s.adjRegs := rfl
@[simp] theorem State.modTok_adjTabs : (s.modTok t f).adjTabs = s.adjTabs := rfl
@[simp] theorem State.modTok_claims : (s.modTok t f).claims = s.claims := rfl
@[simp] theorem State.modTok_boot : (s.modTok t f).boot = s.boot := rfl
@[simp] theorem State.modTok_host : (s.modTok t f).host = s.host := rfl
@[simp] theorem State.modTok_jobs : (s.modTok t f).jobs = s.jobs := rfl
@[simp] theorem State.modTok_sched : (s.modTok t f).sched = { s.sched with toks := updAt s.sched.toks t f } := rfl
@[simp] theorem State.modTok_codec : (s.modTok t f).codec = s.codec := rfl
@[simp] theorem State.modTok_stn : (s.modTok t f).stn = s.stn := rfl
@[simp] theorem State.modTok_clks : (s.modTok t f).clks = s.clks := rfl
@[simp] theorem State.modTok_links : (s.modTok t f).links = s.links := rfl
@[simp] theorem State.modTok_brg : (s.modTok t f).brg = s.brg := rfl
@[simp] theorem State.modTok_mem : (s.modTok t f).mem = s.mem := rfl
@[simp] theorem State.modTok_dma : (s.modTok t f).dma = s.dma := rfl
@[simp] theorem State.modTok_rr : (s.modTok t f).rr = s.rr := rfl
@[simp] theorem State.modTok_stp : (s.modTok t f).stp = s.stp := rfl
@[simp] theorem State.modTok_enc : (s.modTok t f).enc = s.enc := rfl
@[simp] theorem State.modTok_encPin : (s.modTok t f).encPin = s.encPin := rfl
@[simp] theorem State.modTok_mot : (s.modTok t f).mot = s.mot := rfl
@[simp] theorem State.modTok_bus : (s.modTok t f).bus = s.bus := rfl
@[simp] theorem State.modTok_thm : (s.modTok t f).thm = s.thm := rfl
@[simp] theorem State.modTok_time : (s.modTok t f).time = s.time := rfl
@[simp] theorem State.modTok_wcmp : (s.modTok t f).wcmp = s.wcmp := rfl
@[simp] theorem State.modTok_fcmp : (s.modTok t f).fcmp = s.fcmp := rfl
@[simp] theorem State.modTok_ptp : (s.modTok t f).ptp = s.ptp := rfl
@[simp] theorem State.modTok_line : (s.modTok t f).line = s.line := rfl
@[simp] theorem State.modTok_csm : (s.modTok t f).csm = s.csm := rfl
@[simp] theorem State.modTok_mon : (s.modTok t f).mon = s.mon := rfl
@[simp] theorem State.modTok_pageCap : (s.modTok t f).pageCap = s.pageCap := rfl
@[simp] theorem State.modTok_bandCap : (s.modTok t f).bandCap = s.bandCap := rfl
@[simp] theorem State.modTok_out : (s.modTok t f).out = s.out := rfl
@[simp] theorem State.modTok_pending : (s.modTok t f).pending = s.pending := rfl
end

/-! State.modStn -/

section
variable (s : State) (n : Nat) (f : Station → Station)
@[simp] theorem State.modStn_id : (s.modStn n f).id = s.id := rfl
@[simp] theorem State.modStn_otp : (s.modStn n f).otp = s.otp := rfl
@[simp] theorem State.modStn_inReset : (s.modStn n f).inReset = s.inReset := rfl
@[simp] theorem State.modStn_rstLow : (s.modStn n f).rstLow = s.rstLow := rfl
@[simp] theorem State.modStn_brown : (s.modStn n f).brown = s.brown := rfl
@[simp] theorem State.modStn_clk : (s.modStn n f).clk = s.clk := rfl
@[simp] theorem State.modStn_free : (s.modStn n f).free = s.free := rfl
@[simp] theorem State.modStn_regs : (s.modStn n f).regs = s.regs := rfl
@[simp] theorem State.modStn_held : (s.modStn n f).held = s.held := rfl
@[simp] theorem State.modStn_tab : (s.modStn n f).tab = s.tab := rfl
@[simp] theorem State.modStn_heldTab : (s.modStn n f).heldTab = s.heldTab := rfl
@[simp] theorem State.modStn_adjRegs : (s.modStn n f).adjRegs = s.adjRegs := rfl
@[simp] theorem State.modStn_adjTabs : (s.modStn n f).adjTabs = s.adjTabs := rfl
@[simp] theorem State.modStn_claims : (s.modStn n f).claims = s.claims := rfl
@[simp] theorem State.modStn_boot : (s.modStn n f).boot = s.boot := rfl
@[simp] theorem State.modStn_host : (s.modStn n f).host = s.host := rfl
@[simp] theorem State.modStn_jobs : (s.modStn n f).jobs = s.jobs := rfl
@[simp] theorem State.modStn_sched : (s.modStn n f).sched = s.sched := rfl
@[simp] theorem State.modStn_codec : (s.modStn n f).codec = s.codec := rfl
@[simp] theorem State.modStn_stn : (s.modStn n f).stn = updAt s.stn n f := rfl
@[simp] theorem State.modStn_clks : (s.modStn n f).clks = s.clks := rfl
@[simp] theorem State.modStn_links : (s.modStn n f).links = s.links := rfl
@[simp] theorem State.modStn_brg : (s.modStn n f).brg = s.brg := rfl
@[simp] theorem State.modStn_mem : (s.modStn n f).mem = s.mem := rfl
@[simp] theorem State.modStn_dma : (s.modStn n f).dma = s.dma := rfl
@[simp] theorem State.modStn_rr : (s.modStn n f).rr = s.rr := rfl
@[simp] theorem State.modStn_stp : (s.modStn n f).stp = s.stp := rfl
@[simp] theorem State.modStn_enc : (s.modStn n f).enc = s.enc := rfl
@[simp] theorem State.modStn_encPin : (s.modStn n f).encPin = s.encPin := rfl
@[simp] theorem State.modStn_mot : (s.modStn n f).mot = s.mot := rfl
@[simp] theorem State.modStn_bus : (s.modStn n f).bus = s.bus := rfl
@[simp] theorem State.modStn_thm : (s.modStn n f).thm = s.thm := rfl
@[simp] theorem State.modStn_time : (s.modStn n f).time = s.time := rfl
@[simp] theorem State.modStn_wcmp : (s.modStn n f).wcmp = s.wcmp := rfl
@[simp] theorem State.modStn_fcmp : (s.modStn n f).fcmp = s.fcmp := rfl
@[simp] theorem State.modStn_ptp : (s.modStn n f).ptp = s.ptp := rfl
@[simp] theorem State.modStn_line : (s.modStn n f).line = s.line := rfl
@[simp] theorem State.modStn_csm : (s.modStn n f).csm = s.csm := rfl
@[simp] theorem State.modStn_mon : (s.modStn n f).mon = s.mon := rfl
@[simp] theorem State.modStn_pageCap : (s.modStn n f).pageCap = s.pageCap := rfl
@[simp] theorem State.modStn_bandCap : (s.modStn n f).bandCap = s.bandCap := rfl
@[simp] theorem State.modStn_out : (s.modStn n f).out = s.out := rfl
@[simp] theorem State.modStn_pending : (s.modStn n f).pending = s.pending := rfl
end

/-! State.modLink -/

section
variable (s : State) (n : Nat) (f : BeamLink → BeamLink)
@[simp] theorem State.modLink_id : (s.modLink n f).id = s.id := rfl
@[simp] theorem State.modLink_otp : (s.modLink n f).otp = s.otp := rfl
@[simp] theorem State.modLink_inReset : (s.modLink n f).inReset = s.inReset := rfl
@[simp] theorem State.modLink_rstLow : (s.modLink n f).rstLow = s.rstLow := rfl
@[simp] theorem State.modLink_brown : (s.modLink n f).brown = s.brown := rfl
@[simp] theorem State.modLink_clk : (s.modLink n f).clk = s.clk := rfl
@[simp] theorem State.modLink_free : (s.modLink n f).free = s.free := rfl
@[simp] theorem State.modLink_regs : (s.modLink n f).regs = s.regs := rfl
@[simp] theorem State.modLink_held : (s.modLink n f).held = s.held := rfl
@[simp] theorem State.modLink_tab : (s.modLink n f).tab = s.tab := rfl
@[simp] theorem State.modLink_heldTab : (s.modLink n f).heldTab = s.heldTab := rfl
@[simp] theorem State.modLink_adjRegs : (s.modLink n f).adjRegs = s.adjRegs := rfl
@[simp] theorem State.modLink_adjTabs : (s.modLink n f).adjTabs = s.adjTabs := rfl
@[simp] theorem State.modLink_claims : (s.modLink n f).claims = s.claims := rfl
@[simp] theorem State.modLink_boot : (s.modLink n f).boot = s.boot := rfl
@[simp] theorem State.modLink_host : (s.modLink n f).host = s.host := rfl
@[simp] theorem State.modLink_jobs : (s.modLink n f).jobs = s.jobs := rfl
@[simp] theorem State.modLink_sched : (s.modLink n f).sched = s.sched := rfl
@[simp] theorem State.modLink_codec : (s.modLink n f).codec = s.codec := rfl
@[simp] theorem State.modLink_stn : (s.modLink n f).stn = s.stn := rfl
@[simp] theorem State.modLink_clks : (s.modLink n f).clks = s.clks := rfl
@[simp] theorem State.modLink_links : (s.modLink n f).links = updAt s.links n f := rfl
@[simp] theorem State.modLink_brg : (s.modLink n f).brg = s.brg := rfl
@[simp] theorem State.modLink_mem : (s.modLink n f).mem = s.mem := rfl
@[simp] theorem State.modLink_dma : (s.modLink n f).dma = s.dma := rfl
@[simp] theorem State.modLink_rr : (s.modLink n f).rr = s.rr := rfl
@[simp] theorem State.modLink_stp : (s.modLink n f).stp = s.stp := rfl
@[simp] theorem State.modLink_enc : (s.modLink n f).enc = s.enc := rfl
@[simp] theorem State.modLink_encPin : (s.modLink n f).encPin = s.encPin := rfl
@[simp] theorem State.modLink_mot : (s.modLink n f).mot = s.mot := rfl
@[simp] theorem State.modLink_bus : (s.modLink n f).bus = s.bus := rfl
@[simp] theorem State.modLink_thm : (s.modLink n f).thm = s.thm := rfl
@[simp] theorem State.modLink_time : (s.modLink n f).time = s.time := rfl
@[simp] theorem State.modLink_wcmp : (s.modLink n f).wcmp = s.wcmp := rfl
@[simp] theorem State.modLink_fcmp : (s.modLink n f).fcmp = s.fcmp := rfl
@[simp] theorem State.modLink_ptp : (s.modLink n f).ptp = s.ptp := rfl
@[simp] theorem State.modLink_line : (s.modLink n f).line = s.line := rfl
@[simp] theorem State.modLink_csm : (s.modLink n f).csm = s.csm := rfl
@[simp] theorem State.modLink_mon : (s.modLink n f).mon = s.mon := rfl
@[simp] theorem State.modLink_pageCap : (s.modLink n f).pageCap = s.pageCap := rfl
@[simp] theorem State.modLink_bandCap : (s.modLink n f).bandCap = s.bandCap := rfl
@[simp] theorem State.modLink_out : (s.modLink n f).out = s.out := rfl
@[simp] theorem State.modLink_pending : (s.modLink n f).pending = s.pending := rfl
end

/-! State.modPix -/

section
variable (s : State) (n : Nat) (f : PixSynth → PixSynth)
@[simp] theorem State.modPix_id : (s.modPix n f).id = s.id := rfl
@[simp] theorem State.modPix_otp : (s.modPix n f).otp = s.otp := rfl
@[simp] theorem State.modPix_inReset : (s.modPix n f).inReset = s.inReset := rfl
@[simp] theorem State.modPix_rstLow : (s.modPix n f).rstLow = s.rstLow := rfl
@[simp] theorem State.modPix_brown : (s.modPix n f).brown = s.brown := rfl
@[simp] theorem State.modPix_clk : (s.modPix n f).clk = s.clk := rfl
@[simp] theorem State.modPix_free : (s.modPix n f).free = s.free := rfl
@[simp] theorem State.modPix_regs : (s.modPix n f).regs = s.regs := rfl
@[simp] theorem State.modPix_held : (s.modPix n f).held = s.held := rfl
@[simp] theorem State.modPix_tab : (s.modPix n f).tab = s.tab := rfl
@[simp] theorem State.modPix_heldTab : (s.modPix n f).heldTab = s.heldTab := rfl
@[simp] theorem State.modPix_adjRegs : (s.modPix n f).adjRegs = s.adjRegs := rfl
@[simp] theorem State.modPix_adjTabs : (s.modPix n f).adjTabs = s.adjTabs := rfl
@[simp] theorem State.modPix_claims : (s.modPix n f).claims = s.claims := rfl
@[simp] theorem State.modPix_boot : (s.modPix n f).boot = s.boot := rfl
@[simp] theorem State.modPix_host : (s.modPix n f).host = s.host := rfl
@[simp] theorem State.modPix_jobs : (s.modPix n f).jobs = s.jobs := rfl
@[simp] theorem State.modPix_sched : (s.modPix n f).sched = s.sched := rfl
@[simp] theorem State.modPix_codec : (s.modPix n f).codec = s.codec := rfl
@[simp] theorem State.modPix_stn : (s.modPix n f).stn = s.stn := rfl
@[simp] theorem State.modPix_clks : (s.modPix n f).clks = { s.clks with pix := updAt s.clks.pix n f } := rfl
@[simp] theorem State.modPix_links : (s.modPix n f).links = s.links := rfl
@[simp] theorem State.modPix_brg : (s.modPix n f).brg = s.brg := rfl
@[simp] theorem State.modPix_mem : (s.modPix n f).mem = s.mem := rfl
@[simp] theorem State.modPix_dma : (s.modPix n f).dma = s.dma := rfl
@[simp] theorem State.modPix_rr : (s.modPix n f).rr = s.rr := rfl
@[simp] theorem State.modPix_stp : (s.modPix n f).stp = s.stp := rfl
@[simp] theorem State.modPix_enc : (s.modPix n f).enc = s.enc := rfl
@[simp] theorem State.modPix_encPin : (s.modPix n f).encPin = s.encPin := rfl
@[simp] theorem State.modPix_mot : (s.modPix n f).mot = s.mot := rfl
@[simp] theorem State.modPix_bus : (s.modPix n f).bus = s.bus := rfl
@[simp] theorem State.modPix_thm : (s.modPix n f).thm = s.thm := rfl
@[simp] theorem State.modPix_time : (s.modPix n f).time = s.time := rfl
@[simp] theorem State.modPix_wcmp : (s.modPix n f).wcmp = s.wcmp := rfl
@[simp] theorem State.modPix_fcmp : (s.modPix n f).fcmp = s.fcmp := rfl
@[simp] theorem State.modPix_ptp : (s.modPix n f).ptp = s.ptp := rfl
@[simp] theorem State.modPix_line : (s.modPix n f).line = s.line := rfl
@[simp] theorem State.modPix_csm : (s.modPix n f).csm = s.csm := rfl
@[simp] theorem State.modPix_mon : (s.modPix n f).mon = s.mon := rfl
@[simp] theorem State.modPix_pageCap : (s.modPix n f).pageCap = s.pageCap := rfl
@[simp] theorem State.modPix_bandCap : (s.modPix n f).bandCap = s.bandCap := rfl
@[simp] theorem State.modPix_out : (s.modPix n f).out = s.out := rfl
@[simp] theorem State.modPix_pending : (s.modPix n f).pending = s.pending := rfl
end

/-! State.modCast -/

section
variable (s : State) (n : Nat) (f : Cast → Cast)
@[simp] theorem State.modCast_id : (s.modCast n f).id = s.id := rfl
@[simp] theorem State.modCast_otp : (s.modCast n f).otp = s.otp := rfl
@[simp] theorem State.modCast_inReset : (s.modCast n f).inReset = s.inReset := rfl
@[simp] theorem State.modCast_rstLow : (s.modCast n f).rstLow = s.rstLow := rfl
@[simp] theorem State.modCast_brown : (s.modCast n f).brown = s.brown := rfl
@[simp] theorem State.modCast_clk : (s.modCast n f).clk = s.clk := rfl
@[simp] theorem State.modCast_free : (s.modCast n f).free = s.free := rfl
@[simp] theorem State.modCast_regs : (s.modCast n f).regs = s.regs := rfl
@[simp] theorem State.modCast_held : (s.modCast n f).held = s.held := rfl
@[simp] theorem State.modCast_tab : (s.modCast n f).tab = s.tab := rfl
@[simp] theorem State.modCast_heldTab : (s.modCast n f).heldTab = s.heldTab := rfl
@[simp] theorem State.modCast_adjRegs : (s.modCast n f).adjRegs = s.adjRegs := rfl
@[simp] theorem State.modCast_adjTabs : (s.modCast n f).adjTabs = s.adjTabs := rfl
@[simp] theorem State.modCast_claims : (s.modCast n f).claims = s.claims := rfl
@[simp] theorem State.modCast_boot : (s.modCast n f).boot = s.boot := rfl
@[simp] theorem State.modCast_host : (s.modCast n f).host = s.host := rfl
@[simp] theorem State.modCast_jobs : (s.modCast n f).jobs = s.jobs := rfl
@[simp] theorem State.modCast_sched : (s.modCast n f).sched = s.sched := rfl
@[simp] theorem State.modCast_codec : (s.modCast n f).codec = { s.codec with casts := updAt s.codec.casts n f } := rfl
@[simp] theorem State.modCast_stn : (s.modCast n f).stn = s.stn := rfl
@[simp] theorem State.modCast_clks : (s.modCast n f).clks = s.clks := rfl
@[simp] theorem State.modCast_links : (s.modCast n f).links = s.links := rfl
@[simp] theorem State.modCast_brg : (s.modCast n f).brg = s.brg := rfl
@[simp] theorem State.modCast_mem : (s.modCast n f).mem = s.mem := rfl
@[simp] theorem State.modCast_dma : (s.modCast n f).dma = s.dma := rfl
@[simp] theorem State.modCast_rr : (s.modCast n f).rr = s.rr := rfl
@[simp] theorem State.modCast_stp : (s.modCast n f).stp = s.stp := rfl
@[simp] theorem State.modCast_enc : (s.modCast n f).enc = s.enc := rfl
@[simp] theorem State.modCast_encPin : (s.modCast n f).encPin = s.encPin := rfl
@[simp] theorem State.modCast_mot : (s.modCast n f).mot = s.mot := rfl
@[simp] theorem State.modCast_bus : (s.modCast n f).bus = s.bus := rfl
@[simp] theorem State.modCast_thm : (s.modCast n f).thm = s.thm := rfl
@[simp] theorem State.modCast_time : (s.modCast n f).time = s.time := rfl
@[simp] theorem State.modCast_wcmp : (s.modCast n f).wcmp = s.wcmp := rfl
@[simp] theorem State.modCast_fcmp : (s.modCast n f).fcmp = s.fcmp := rfl
@[simp] theorem State.modCast_ptp : (s.modCast n f).ptp = s.ptp := rfl
@[simp] theorem State.modCast_line : (s.modCast n f).line = s.line := rfl
@[simp] theorem State.modCast_csm : (s.modCast n f).csm = s.csm := rfl
@[simp] theorem State.modCast_mon : (s.modCast n f).mon = s.mon := rfl
@[simp] theorem State.modCast_pageCap : (s.modCast n f).pageCap = s.pageCap := rfl
@[simp] theorem State.modCast_bandCap : (s.modCast n f).bandCap = s.bandCap := rfl
@[simp] theorem State.modCast_out : (s.modCast n f).out = s.out := rfl
@[simp] theorem State.modCast_pending : (s.modCast n f).pending = s.pending := rfl
end

/-! State.modChs -/

section
variable (s : State) (n : Nat) (f : Chisel → Chisel)
@[simp] theorem State.modChs_id : (s.modChs n f).id = s.id := rfl
@[simp] theorem State.modChs_otp : (s.modChs n f).otp = s.otp := rfl
@[simp] theorem State.modChs_inReset : (s.modChs n f).inReset = s.inReset := rfl
@[simp] theorem State.modChs_rstLow : (s.modChs n f).rstLow = s.rstLow := rfl
@[simp] theorem State.modChs_brown : (s.modChs n f).brown = s.brown := rfl
@[simp] theorem State.modChs_clk : (s.modChs n f).clk = s.clk := rfl
@[simp] theorem State.modChs_free : (s.modChs n f).free = s.free := rfl
@[simp] theorem State.modChs_regs : (s.modChs n f).regs = s.regs := rfl
@[simp] theorem State.modChs_held : (s.modChs n f).held = s.held := rfl
@[simp] theorem State.modChs_tab : (s.modChs n f).tab = s.tab := rfl
@[simp] theorem State.modChs_heldTab : (s.modChs n f).heldTab = s.heldTab := rfl
@[simp] theorem State.modChs_adjRegs : (s.modChs n f).adjRegs = s.adjRegs := rfl
@[simp] theorem State.modChs_adjTabs : (s.modChs n f).adjTabs = s.adjTabs := rfl
@[simp] theorem State.modChs_claims : (s.modChs n f).claims = s.claims := rfl
@[simp] theorem State.modChs_boot : (s.modChs n f).boot = s.boot := rfl
@[simp] theorem State.modChs_host : (s.modChs n f).host = s.host := rfl
@[simp] theorem State.modChs_jobs : (s.modChs n f).jobs = s.jobs := rfl
@[simp] theorem State.modChs_sched : (s.modChs n f).sched = s.sched := rfl
@[simp] theorem State.modChs_codec : (s.modChs n f).codec = { s.codec with chisels := updAt s.codec.chisels n f } := rfl
@[simp] theorem State.modChs_stn : (s.modChs n f).stn = s.stn := rfl
@[simp] theorem State.modChs_clks : (s.modChs n f).clks = s.clks := rfl
@[simp] theorem State.modChs_links : (s.modChs n f).links = s.links := rfl
@[simp] theorem State.modChs_brg : (s.modChs n f).brg = s.brg := rfl
@[simp] theorem State.modChs_mem : (s.modChs n f).mem = s.mem := rfl
@[simp] theorem State.modChs_dma : (s.modChs n f).dma = s.dma := rfl
@[simp] theorem State.modChs_rr : (s.modChs n f).rr = s.rr := rfl
@[simp] theorem State.modChs_stp : (s.modChs n f).stp = s.stp := rfl
@[simp] theorem State.modChs_enc : (s.modChs n f).enc = s.enc := rfl
@[simp] theorem State.modChs_encPin : (s.modChs n f).encPin = s.encPin := rfl
@[simp] theorem State.modChs_mot : (s.modChs n f).mot = s.mot := rfl
@[simp] theorem State.modChs_bus : (s.modChs n f).bus = s.bus := rfl
@[simp] theorem State.modChs_thm : (s.modChs n f).thm = s.thm := rfl
@[simp] theorem State.modChs_time : (s.modChs n f).time = s.time := rfl
@[simp] theorem State.modChs_wcmp : (s.modChs n f).wcmp = s.wcmp := rfl
@[simp] theorem State.modChs_fcmp : (s.modChs n f).fcmp = s.fcmp := rfl
@[simp] theorem State.modChs_ptp : (s.modChs n f).ptp = s.ptp := rfl
@[simp] theorem State.modChs_line : (s.modChs n f).line = s.line := rfl
@[simp] theorem State.modChs_csm : (s.modChs n f).csm = s.csm := rfl
@[simp] theorem State.modChs_mon : (s.modChs n f).mon = s.mon := rfl
@[simp] theorem State.modChs_pageCap : (s.modChs n f).pageCap = s.pageCap := rfl
@[simp] theorem State.modChs_bandCap : (s.modChs n f).bandCap = s.bandCap := rfl
@[simp] theorem State.modChs_out : (s.modChs n f).out = s.out := rfl
@[simp] theorem State.modChs_pending : (s.modChs n f).pending = s.pending := rfl
end

/-! State.modDma -/

section
variable (s : State) (n : Nat) (f : DmaCh → DmaCh)
@[simp] theorem State.modDma_id : (s.modDma n f).id = s.id := rfl
@[simp] theorem State.modDma_otp : (s.modDma n f).otp = s.otp := rfl
@[simp] theorem State.modDma_inReset : (s.modDma n f).inReset = s.inReset := rfl
@[simp] theorem State.modDma_rstLow : (s.modDma n f).rstLow = s.rstLow := rfl
@[simp] theorem State.modDma_brown : (s.modDma n f).brown = s.brown := rfl
@[simp] theorem State.modDma_clk : (s.modDma n f).clk = s.clk := rfl
@[simp] theorem State.modDma_free : (s.modDma n f).free = s.free := rfl
@[simp] theorem State.modDma_regs : (s.modDma n f).regs = s.regs := rfl
@[simp] theorem State.modDma_held : (s.modDma n f).held = s.held := rfl
@[simp] theorem State.modDma_tab : (s.modDma n f).tab = s.tab := rfl
@[simp] theorem State.modDma_heldTab : (s.modDma n f).heldTab = s.heldTab := rfl
@[simp] theorem State.modDma_adjRegs : (s.modDma n f).adjRegs = s.adjRegs := rfl
@[simp] theorem State.modDma_adjTabs : (s.modDma n f).adjTabs = s.adjTabs := rfl
@[simp] theorem State.modDma_claims : (s.modDma n f).claims = s.claims := rfl
@[simp] theorem State.modDma_boot : (s.modDma n f).boot = s.boot := rfl
@[simp] theorem State.modDma_host : (s.modDma n f).host = s.host := rfl
@[simp] theorem State.modDma_jobs : (s.modDma n f).jobs = s.jobs := rfl
@[simp] theorem State.modDma_sched : (s.modDma n f).sched = s.sched := rfl
@[simp] theorem State.modDma_codec : (s.modDma n f).codec = s.codec := rfl
@[simp] theorem State.modDma_stn : (s.modDma n f).stn = s.stn := rfl
@[simp] theorem State.modDma_clks : (s.modDma n f).clks = s.clks := rfl
@[simp] theorem State.modDma_links : (s.modDma n f).links = s.links := rfl
@[simp] theorem State.modDma_brg : (s.modDma n f).brg = s.brg := rfl
@[simp] theorem State.modDma_mem : (s.modDma n f).mem = s.mem := rfl
@[simp] theorem State.modDma_dma : (s.modDma n f).dma = updAt s.dma n f := rfl
@[simp] theorem State.modDma_rr : (s.modDma n f).rr = s.rr := rfl
@[simp] theorem State.modDma_stp : (s.modDma n f).stp = s.stp := rfl
@[simp] theorem State.modDma_enc : (s.modDma n f).enc = s.enc := rfl
@[simp] theorem State.modDma_encPin : (s.modDma n f).encPin = s.encPin := rfl
@[simp] theorem State.modDma_mot : (s.modDma n f).mot = s.mot := rfl
@[simp] theorem State.modDma_bus : (s.modDma n f).bus = s.bus := rfl
@[simp] theorem State.modDma_thm : (s.modDma n f).thm = s.thm := rfl
@[simp] theorem State.modDma_time : (s.modDma n f).time = s.time := rfl
@[simp] theorem State.modDma_wcmp : (s.modDma n f).wcmp = s.wcmp := rfl
@[simp] theorem State.modDma_fcmp : (s.modDma n f).fcmp = s.fcmp := rfl
@[simp] theorem State.modDma_ptp : (s.modDma n f).ptp = s.ptp := rfl
@[simp] theorem State.modDma_line : (s.modDma n f).line = s.line := rfl
@[simp] theorem State.modDma_csm : (s.modDma n f).csm = s.csm := rfl
@[simp] theorem State.modDma_mon : (s.modDma n f).mon = s.mon := rfl
@[simp] theorem State.modDma_pageCap : (s.modDma n f).pageCap = s.pageCap := rfl
@[simp] theorem State.modDma_bandCap : (s.modDma n f).bandCap = s.bandCap := rfl
@[simp] theorem State.modDma_out : (s.modDma n f).out = s.out := rfl
@[simp] theorem State.modDma_pending : (s.modDma n f).pending = s.pending := rfl
end

/-! State.modStp -/

section
variable (s : State) (n : Nat) (f : Stepper → Stepper)
@[simp] theorem State.modStp_id : (s.modStp n f).id = s.id := rfl
@[simp] theorem State.modStp_otp : (s.modStp n f).otp = s.otp := rfl
@[simp] theorem State.modStp_inReset : (s.modStp n f).inReset = s.inReset := rfl
@[simp] theorem State.modStp_rstLow : (s.modStp n f).rstLow = s.rstLow := rfl
@[simp] theorem State.modStp_brown : (s.modStp n f).brown = s.brown := rfl
@[simp] theorem State.modStp_clk : (s.modStp n f).clk = s.clk := rfl
@[simp] theorem State.modStp_free : (s.modStp n f).free = s.free := rfl
@[simp] theorem State.modStp_regs : (s.modStp n f).regs = s.regs := rfl
@[simp] theorem State.modStp_held : (s.modStp n f).held = s.held := rfl
@[simp] theorem State.modStp_tab : (s.modStp n f).tab = s.tab := rfl
@[simp] theorem State.modStp_heldTab : (s.modStp n f).heldTab = s.heldTab := rfl
@[simp] theorem State.modStp_adjRegs : (s.modStp n f).adjRegs = s.adjRegs := rfl
@[simp] theorem State.modStp_adjTabs : (s.modStp n f).adjTabs = s.adjTabs := rfl
@[simp] theorem State.modStp_claims : (s.modStp n f).claims = s.claims := rfl
@[simp] theorem State.modStp_boot : (s.modStp n f).boot = s.boot := rfl
@[simp] theorem State.modStp_host : (s.modStp n f).host = s.host := rfl
@[simp] theorem State.modStp_jobs : (s.modStp n f).jobs = s.jobs := rfl
@[simp] theorem State.modStp_sched : (s.modStp n f).sched = s.sched := rfl
@[simp] theorem State.modStp_codec : (s.modStp n f).codec = s.codec := rfl
@[simp] theorem State.modStp_stn : (s.modStp n f).stn = s.stn := rfl
@[simp] theorem State.modStp_clks : (s.modStp n f).clks = s.clks := rfl
@[simp] theorem State.modStp_links : (s.modStp n f).links = s.links := rfl
@[simp] theorem State.modStp_brg : (s.modStp n f).brg = s.brg := rfl
@[simp] theorem State.modStp_mem : (s.modStp n f).mem = s.mem := rfl
@[simp] theorem State.modStp_dma : (s.modStp n f).dma = s.dma := rfl
@[simp] theorem State.modStp_rr : (s.modStp n f).rr = s.rr := rfl
@[simp] theorem State.modStp_stp : (s.modStp n f).stp = updAt s.stp n f := rfl
@[simp] theorem State.modStp_enc : (s.modStp n f).enc = s.enc := rfl
@[simp] theorem State.modStp_encPin : (s.modStp n f).encPin = s.encPin := rfl
@[simp] theorem State.modStp_mot : (s.modStp n f).mot = s.mot := rfl
@[simp] theorem State.modStp_bus : (s.modStp n f).bus = s.bus := rfl
@[simp] theorem State.modStp_thm : (s.modStp n f).thm = s.thm := rfl
@[simp] theorem State.modStp_time : (s.modStp n f).time = s.time := rfl
@[simp] theorem State.modStp_wcmp : (s.modStp n f).wcmp = s.wcmp := rfl
@[simp] theorem State.modStp_fcmp : (s.modStp n f).fcmp = s.fcmp := rfl
@[simp] theorem State.modStp_ptp : (s.modStp n f).ptp = s.ptp := rfl
@[simp] theorem State.modStp_line : (s.modStp n f).line = s.line := rfl
@[simp] theorem State.modStp_csm : (s.modStp n f).csm = s.csm := rfl
@[simp] theorem State.modStp_mon : (s.modStp n f).mon = s.mon := rfl
@[simp] theorem State.modStp_pageCap : (s.modStp n f).pageCap = s.pageCap := rfl
@[simp] theorem State.modStp_bandCap : (s.modStp n f).bandCap = s.bandCap := rfl
@[simp] theorem State.modStp_out : (s.modStp n f).out = s.out := rfl
@[simp] theorem State.modStp_pending : (s.modStp n f).pending = s.pending := rfl
end

/-! State.modMot -/

section
variable (s : State) (n : Nat) (f : Motor → Motor)
@[simp] theorem State.modMot_id : (s.modMot n f).id = s.id := rfl
@[simp] theorem State.modMot_otp : (s.modMot n f).otp = s.otp := rfl
@[simp] theorem State.modMot_inReset : (s.modMot n f).inReset = s.inReset := rfl
@[simp] theorem State.modMot_rstLow : (s.modMot n f).rstLow = s.rstLow := rfl
@[simp] theorem State.modMot_brown : (s.modMot n f).brown = s.brown := rfl
@[simp] theorem State.modMot_clk : (s.modMot n f).clk = s.clk := rfl
@[simp] theorem State.modMot_free : (s.modMot n f).free = s.free := rfl
@[simp] theorem State.modMot_regs : (s.modMot n f).regs = s.regs := rfl
@[simp] theorem State.modMot_held : (s.modMot n f).held = s.held := rfl
@[simp] theorem State.modMot_tab : (s.modMot n f).tab = s.tab := rfl
@[simp] theorem State.modMot_heldTab : (s.modMot n f).heldTab = s.heldTab := rfl
@[simp] theorem State.modMot_adjRegs : (s.modMot n f).adjRegs = s.adjRegs := rfl
@[simp] theorem State.modMot_adjTabs : (s.modMot n f).adjTabs = s.adjTabs := rfl
@[simp] theorem State.modMot_claims : (s.modMot n f).claims = s.claims := rfl
@[simp] theorem State.modMot_boot : (s.modMot n f).boot = s.boot := rfl
@[simp] theorem State.modMot_host : (s.modMot n f).host = s.host := rfl
@[simp] theorem State.modMot_jobs : (s.modMot n f).jobs = s.jobs := rfl
@[simp] theorem State.modMot_sched : (s.modMot n f).sched = s.sched := rfl
@[simp] theorem State.modMot_codec : (s.modMot n f).codec = s.codec := rfl
@[simp] theorem State.modMot_stn : (s.modMot n f).stn = s.stn := rfl
@[simp] theorem State.modMot_clks : (s.modMot n f).clks = s.clks := rfl
@[simp] theorem State.modMot_links : (s.modMot n f).links = s.links := rfl
@[simp] theorem State.modMot_brg : (s.modMot n f).brg = s.brg := rfl
@[simp] theorem State.modMot_mem : (s.modMot n f).mem = s.mem := rfl
@[simp] theorem State.modMot_dma : (s.modMot n f).dma = s.dma := rfl
@[simp] theorem State.modMot_rr : (s.modMot n f).rr = s.rr := rfl
@[simp] theorem State.modMot_stp : (s.modMot n f).stp = s.stp := rfl
@[simp] theorem State.modMot_enc : (s.modMot n f).enc = s.enc := rfl
@[simp] theorem State.modMot_encPin : (s.modMot n f).encPin = s.encPin := rfl
@[simp] theorem State.modMot_mot : (s.modMot n f).mot = updAt s.mot n f := rfl
@[simp] theorem State.modMot_bus : (s.modMot n f).bus = s.bus := rfl
@[simp] theorem State.modMot_thm : (s.modMot n f).thm = s.thm := rfl
@[simp] theorem State.modMot_time : (s.modMot n f).time = s.time := rfl
@[simp] theorem State.modMot_wcmp : (s.modMot n f).wcmp = s.wcmp := rfl
@[simp] theorem State.modMot_fcmp : (s.modMot n f).fcmp = s.fcmp := rfl
@[simp] theorem State.modMot_ptp : (s.modMot n f).ptp = s.ptp := rfl
@[simp] theorem State.modMot_line : (s.modMot n f).line = s.line := rfl
@[simp] theorem State.modMot_csm : (s.modMot n f).csm = s.csm := rfl
@[simp] theorem State.modMot_mon : (s.modMot n f).mon = s.mon := rfl
@[simp] theorem State.modMot_pageCap : (s.modMot n f).pageCap = s.pageCap := rfl
@[simp] theorem State.modMot_bandCap : (s.modMot n f).bandCap = s.bandCap := rfl
@[simp] theorem State.modMot_out : (s.modMot n f).out = s.out := rfl
@[simp] theorem State.modMot_pending : (s.modMot n f).pending = s.pending := rfl
end

/-! State.modSens -/

section
variable (s : State) (k : Nat) (f : Sensor → Sensor)
@[simp] theorem State.modSens_id : (s.modSens k f).id = s.id := rfl
@[simp] theorem State.modSens_otp : (s.modSens k f).otp = s.otp := rfl
@[simp] theorem State.modSens_inReset : (s.modSens k f).inReset = s.inReset := rfl
@[simp] theorem State.modSens_rstLow : (s.modSens k f).rstLow = s.rstLow := rfl
@[simp] theorem State.modSens_brown : (s.modSens k f).brown = s.brown := rfl
@[simp] theorem State.modSens_clk : (s.modSens k f).clk = s.clk := rfl
@[simp] theorem State.modSens_free : (s.modSens k f).free = s.free := rfl
@[simp] theorem State.modSens_regs : (s.modSens k f).regs = s.regs := rfl
@[simp] theorem State.modSens_held : (s.modSens k f).held = s.held := rfl
@[simp] theorem State.modSens_tab : (s.modSens k f).tab = s.tab := rfl
@[simp] theorem State.modSens_heldTab : (s.modSens k f).heldTab = s.heldTab := rfl
@[simp] theorem State.modSens_adjRegs : (s.modSens k f).adjRegs = s.adjRegs := rfl
@[simp] theorem State.modSens_adjTabs : (s.modSens k f).adjTabs = s.adjTabs := rfl
@[simp] theorem State.modSens_claims : (s.modSens k f).claims = s.claims := rfl
@[simp] theorem State.modSens_boot : (s.modSens k f).boot = s.boot := rfl
@[simp] theorem State.modSens_host : (s.modSens k f).host = s.host := rfl
@[simp] theorem State.modSens_jobs : (s.modSens k f).jobs = s.jobs := rfl
@[simp] theorem State.modSens_sched : (s.modSens k f).sched = s.sched := rfl
@[simp] theorem State.modSens_codec : (s.modSens k f).codec = s.codec := rfl
@[simp] theorem State.modSens_stn : (s.modSens k f).stn = s.stn := rfl
@[simp] theorem State.modSens_clks : (s.modSens k f).clks = s.clks := rfl
@[simp] theorem State.modSens_links : (s.modSens k f).links = s.links := rfl
@[simp] theorem State.modSens_brg : (s.modSens k f).brg = s.brg := rfl
@[simp] theorem State.modSens_mem : (s.modSens k f).mem = s.mem := rfl
@[simp] theorem State.modSens_dma : (s.modSens k f).dma = s.dma := rfl
@[simp] theorem State.modSens_rr : (s.modSens k f).rr = s.rr := rfl
@[simp] theorem State.modSens_stp : (s.modSens k f).stp = s.stp := rfl
@[simp] theorem State.modSens_enc : (s.modSens k f).enc = s.enc := rfl
@[simp] theorem State.modSens_encPin : (s.modSens k f).encPin = s.encPin := rfl
@[simp] theorem State.modSens_mot : (s.modSens k f).mot = s.mot := rfl
@[simp] theorem State.modSens_bus : (s.modSens k f).bus = s.bus := rfl
@[simp] theorem State.modSens_thm : (s.modSens k f).thm = { s.thm with sensors := updAt s.thm.sensors k f } := rfl
@[simp] theorem State.modSens_time : (s.modSens k f).time = s.time := rfl
@[simp] theorem State.modSens_wcmp : (s.modSens k f).wcmp = s.wcmp := rfl
@[simp] theorem State.modSens_fcmp : (s.modSens k f).fcmp = s.fcmp := rfl
@[simp] theorem State.modSens_ptp : (s.modSens k f).ptp = s.ptp := rfl
@[simp] theorem State.modSens_line : (s.modSens k f).line = s.line := rfl
@[simp] theorem State.modSens_csm : (s.modSens k f).csm = s.csm := rfl
@[simp] theorem State.modSens_mon : (s.modSens k f).mon = s.mon := rfl
@[simp] theorem State.modSens_pageCap : (s.modSens k f).pageCap = s.pageCap := rfl
@[simp] theorem State.modSens_bandCap : (s.modSens k f).bandCap = s.bandCap := rfl
@[simp] theorem State.modSens_out : (s.modSens k f).out = s.out := rfl
@[simp] theorem State.modSens_pending : (s.modSens k f).pending = s.pending := rfl
end

/-! State.modLad -/

section
variable (s : State) (d : Nat) (f : Ladder → Ladder)
@[simp] theorem State.modLad_id : (s.modLad d f).id = s.id := rfl
@[simp] theorem State.modLad_otp : (s.modLad d f).otp = s.otp := rfl
@[simp] theorem State.modLad_inReset : (s.modLad d f).inReset = s.inReset := rfl
@[simp] theorem State.modLad_rstLow : (s.modLad d f).rstLow = s.rstLow := rfl
@[simp] theorem State.modLad_brown : (s.modLad d f).brown = s.brown := rfl
@[simp] theorem State.modLad_clk : (s.modLad d f).clk = s.clk := rfl
@[simp] theorem State.modLad_free : (s.modLad d f).free = s.free := rfl
@[simp] theorem State.modLad_regs : (s.modLad d f).regs = s.regs := rfl
@[simp] theorem State.modLad_held : (s.modLad d f).held = s.held := rfl
@[simp] theorem State.modLad_tab : (s.modLad d f).tab = s.tab := rfl
@[simp] theorem State.modLad_heldTab : (s.modLad d f).heldTab = s.heldTab := rfl
@[simp] theorem State.modLad_adjRegs : (s.modLad d f).adjRegs = s.adjRegs := rfl
@[simp] theorem State.modLad_adjTabs : (s.modLad d f).adjTabs = s.adjTabs := rfl
@[simp] theorem State.modLad_claims : (s.modLad d f).claims = s.claims := rfl
@[simp] theorem State.modLad_boot : (s.modLad d f).boot = s.boot := rfl
@[simp] theorem State.modLad_host : (s.modLad d f).host = s.host := rfl
@[simp] theorem State.modLad_jobs : (s.modLad d f).jobs = s.jobs := rfl
@[simp] theorem State.modLad_sched : (s.modLad d f).sched = s.sched := rfl
@[simp] theorem State.modLad_codec : (s.modLad d f).codec = s.codec := rfl
@[simp] theorem State.modLad_stn : (s.modLad d f).stn = s.stn := rfl
@[simp] theorem State.modLad_clks : (s.modLad d f).clks = s.clks := rfl
@[simp] theorem State.modLad_links : (s.modLad d f).links = s.links := rfl
@[simp] theorem State.modLad_brg : (s.modLad d f).brg = s.brg := rfl
@[simp] theorem State.modLad_mem : (s.modLad d f).mem = s.mem := rfl
@[simp] theorem State.modLad_dma : (s.modLad d f).dma = s.dma := rfl
@[simp] theorem State.modLad_rr : (s.modLad d f).rr = s.rr := rfl
@[simp] theorem State.modLad_stp : (s.modLad d f).stp = s.stp := rfl
@[simp] theorem State.modLad_enc : (s.modLad d f).enc = s.enc := rfl
@[simp] theorem State.modLad_encPin : (s.modLad d f).encPin = s.encPin := rfl
@[simp] theorem State.modLad_mot : (s.modLad d f).mot = s.mot := rfl
@[simp] theorem State.modLad_bus : (s.modLad d f).bus = s.bus := rfl
@[simp] theorem State.modLad_thm : (s.modLad d f).thm = { s.thm with ladders := updAt s.thm.ladders d f } := rfl
@[simp] theorem State.modLad_time : (s.modLad d f).time = s.time := rfl
@[simp] theorem State.modLad_wcmp : (s.modLad d f).wcmp = s.wcmp := rfl
@[simp] theorem State.modLad_fcmp : (s.modLad d f).fcmp = s.fcmp := rfl
@[simp] theorem State.modLad_ptp : (s.modLad d f).ptp = s.ptp := rfl
@[simp] theorem State.modLad_line : (s.modLad d f).line = s.line := rfl
@[simp] theorem State.modLad_csm : (s.modLad d f).csm = s.csm := rfl
@[simp] theorem State.modLad_mon : (s.modLad d f).mon = s.mon := rfl
@[simp] theorem State.modLad_pageCap : (s.modLad d f).pageCap = s.pageCap := rfl
@[simp] theorem State.modLad_bandCap : (s.modLad d f).bandCap = s.bandCap := rfl
@[simp] theorem State.modLad_out : (s.modLad d f).out = s.out := rfl
@[simp] theorem State.modLad_pending : (s.modLad d f).pending = s.pending := rfl
end

/-! State.modHeat -/

section
variable (s : State) (h : Nat) (f : Heater → Heater)
@[simp] theorem State.modHeat_id : (s.modHeat h f).id = s.id := rfl
@[simp] theorem State.modHeat_otp : (s.modHeat h f).otp = s.otp := rfl
@[simp] theorem State.modHeat_inReset : (s.modHeat h f).inReset = s.inReset := rfl
@[simp] theorem State.modHeat_rstLow : (s.modHeat h f).rstLow = s.rstLow := rfl
@[simp] theorem State.modHeat_brown : (s.modHeat h f).brown = s.brown := rfl
@[simp] theorem State.modHeat_clk : (s.modHeat h f).clk = s.clk := rfl
@[simp] theorem State.modHeat_free : (s.modHeat h f).free = s.free := rfl
@[simp] theorem State.modHeat_regs : (s.modHeat h f).regs = s.regs := rfl
@[simp] theorem State.modHeat_held : (s.modHeat h f).held = s.held := rfl
@[simp] theorem State.modHeat_tab : (s.modHeat h f).tab = s.tab := rfl
@[simp] theorem State.modHeat_heldTab : (s.modHeat h f).heldTab = s.heldTab := rfl
@[simp] theorem State.modHeat_adjRegs : (s.modHeat h f).adjRegs = s.adjRegs := rfl
@[simp] theorem State.modHeat_adjTabs : (s.modHeat h f).adjTabs = s.adjTabs := rfl
@[simp] theorem State.modHeat_claims : (s.modHeat h f).claims = s.claims := rfl
@[simp] theorem State.modHeat_boot : (s.modHeat h f).boot = s.boot := rfl
@[simp] theorem State.modHeat_host : (s.modHeat h f).host = s.host := rfl
@[simp] theorem State.modHeat_jobs : (s.modHeat h f).jobs = s.jobs := rfl
@[simp] theorem State.modHeat_sched : (s.modHeat h f).sched = s.sched := rfl
@[simp] theorem State.modHeat_codec : (s.modHeat h f).codec = s.codec := rfl
@[simp] theorem State.modHeat_stn : (s.modHeat h f).stn = s.stn := rfl
@[simp] theorem State.modHeat_clks : (s.modHeat h f).clks = s.clks := rfl
@[simp] theorem State.modHeat_links : (s.modHeat h f).links = s.links := rfl
@[simp] theorem State.modHeat_brg : (s.modHeat h f).brg = s.brg := rfl
@[simp] theorem State.modHeat_mem : (s.modHeat h f).mem = s.mem := rfl
@[simp] theorem State.modHeat_dma : (s.modHeat h f).dma = s.dma := rfl
@[simp] theorem State.modHeat_rr : (s.modHeat h f).rr = s.rr := rfl
@[simp] theorem State.modHeat_stp : (s.modHeat h f).stp = s.stp := rfl
@[simp] theorem State.modHeat_enc : (s.modHeat h f).enc = s.enc := rfl
@[simp] theorem State.modHeat_encPin : (s.modHeat h f).encPin = s.encPin := rfl
@[simp] theorem State.modHeat_mot : (s.modHeat h f).mot = s.mot := rfl
@[simp] theorem State.modHeat_bus : (s.modHeat h f).bus = s.bus := rfl
@[simp] theorem State.modHeat_thm : (s.modHeat h f).thm = { s.thm with heaters := updAt s.thm.heaters h f } := rfl
@[simp] theorem State.modHeat_time : (s.modHeat h f).time = s.time := rfl
@[simp] theorem State.modHeat_wcmp : (s.modHeat h f).wcmp = s.wcmp := rfl
@[simp] theorem State.modHeat_fcmp : (s.modHeat h f).fcmp = s.fcmp := rfl
@[simp] theorem State.modHeat_ptp : (s.modHeat h f).ptp = s.ptp := rfl
@[simp] theorem State.modHeat_line : (s.modHeat h f).line = s.line := rfl
@[simp] theorem State.modHeat_csm : (s.modHeat h f).csm = s.csm := rfl
@[simp] theorem State.modHeat_mon : (s.modHeat h f).mon = s.mon := rfl
@[simp] theorem State.modHeat_pageCap : (s.modHeat h f).pageCap = s.pageCap := rfl
@[simp] theorem State.modHeat_bandCap : (s.modHeat h f).bandCap = s.bandCap := rfl
@[simp] theorem State.modHeat_out : (s.modHeat h f).out = s.out := rfl
@[simp] theorem State.modHeat_pending : (s.modHeat h f).pending = s.pending := rfl
end

/-! State.modHv -/

section
variable (s : State) (c : Nat) (f : HvCh → HvCh)
@[simp] theorem State.modHv_id : (s.modHv c f).id = s.id := rfl
@[simp] theorem State.modHv_otp : (s.modHv c f).otp = s.otp := rfl
@[simp] theorem State.modHv_inReset : (s.modHv c f).inReset = s.inReset := rfl
@[simp] theorem State.modHv_rstLow : (s.modHv c f).rstLow = s.rstLow := rfl
@[simp] theorem State.modHv_brown : (s.modHv c f).brown = s.brown := rfl
@[simp] theorem State.modHv_clk : (s.modHv c f).clk = s.clk := rfl
@[simp] theorem State.modHv_free : (s.modHv c f).free = s.free := rfl
@[simp] theorem State.modHv_regs : (s.modHv c f).regs = s.regs := rfl
@[simp] theorem State.modHv_held : (s.modHv c f).held = s.held := rfl
@[simp] theorem State.modHv_tab : (s.modHv c f).tab = s.tab := rfl
@[simp] theorem State.modHv_heldTab : (s.modHv c f).heldTab = s.heldTab := rfl
@[simp] theorem State.modHv_adjRegs : (s.modHv c f).adjRegs = s.adjRegs := rfl
@[simp] theorem State.modHv_adjTabs : (s.modHv c f).adjTabs = s.adjTabs := rfl
@[simp] theorem State.modHv_claims : (s.modHv c f).claims = s.claims := rfl
@[simp] theorem State.modHv_boot : (s.modHv c f).boot = s.boot := rfl
@[simp] theorem State.modHv_host : (s.modHv c f).host = s.host := rfl
@[simp] theorem State.modHv_jobs : (s.modHv c f).jobs = s.jobs := rfl
@[simp] theorem State.modHv_sched : (s.modHv c f).sched = s.sched := rfl
@[simp] theorem State.modHv_codec : (s.modHv c f).codec = s.codec := rfl
@[simp] theorem State.modHv_stn : (s.modHv c f).stn = s.stn := rfl
@[simp] theorem State.modHv_clks : (s.modHv c f).clks = s.clks := rfl
@[simp] theorem State.modHv_links : (s.modHv c f).links = s.links := rfl
@[simp] theorem State.modHv_brg : (s.modHv c f).brg = s.brg := rfl
@[simp] theorem State.modHv_mem : (s.modHv c f).mem = s.mem := rfl
@[simp] theorem State.modHv_dma : (s.modHv c f).dma = s.dma := rfl
@[simp] theorem State.modHv_rr : (s.modHv c f).rr = s.rr := rfl
@[simp] theorem State.modHv_stp : (s.modHv c f).stp = s.stp := rfl
@[simp] theorem State.modHv_enc : (s.modHv c f).enc = s.enc := rfl
@[simp] theorem State.modHv_encPin : (s.modHv c f).encPin = s.encPin := rfl
@[simp] theorem State.modHv_mot : (s.modHv c f).mot = s.mot := rfl
@[simp] theorem State.modHv_bus : (s.modHv c f).bus = s.bus := rfl
@[simp] theorem State.modHv_thm : (s.modHv c f).thm = { s.thm with hv := updAt s.thm.hv c f } := rfl
@[simp] theorem State.modHv_time : (s.modHv c f).time = s.time := rfl
@[simp] theorem State.modHv_wcmp : (s.modHv c f).wcmp = s.wcmp := rfl
@[simp] theorem State.modHv_fcmp : (s.modHv c f).fcmp = s.fcmp := rfl
@[simp] theorem State.modHv_ptp : (s.modHv c f).ptp = s.ptp := rfl
@[simp] theorem State.modHv_line : (s.modHv c f).line = s.line := rfl
@[simp] theorem State.modHv_csm : (s.modHv c f).csm = s.csm := rfl
@[simp] theorem State.modHv_mon : (s.modHv c f).mon = s.mon := rfl
@[simp] theorem State.modHv_pageCap : (s.modHv c f).pageCap = s.pageCap := rfl
@[simp] theorem State.modHv_bandCap : (s.modHv c f).bandCap = s.bandCap := rfl
@[simp] theorem State.modHv_out : (s.modHv c f).out = s.out := rfl
@[simp] theorem State.modHv_pending : (s.modHv c f).pending = s.pending := rfl
end

/-! State.modPtp -/

section
variable (s : State) (p : Nat) (f : PtpPort → PtpPort)
@[simp] theorem State.modPtp_id : (s.modPtp p f).id = s.id := rfl
@[simp] theorem State.modPtp_otp : (s.modPtp p f).otp = s.otp := rfl
@[simp] theorem State.modPtp_inReset : (s.modPtp p f).inReset = s.inReset := rfl
@[simp] theorem State.modPtp_rstLow : (s.modPtp p f).rstLow = s.rstLow := rfl
@[simp] theorem State.modPtp_brown : (s.modPtp p f).brown = s.brown := rfl
@[simp] theorem State.modPtp_clk : (s.modPtp p f).clk = s.clk := rfl
@[simp] theorem State.modPtp_free : (s.modPtp p f).free = s.free := rfl
@[simp] theorem State.modPtp_regs : (s.modPtp p f).regs = s.regs := rfl
@[simp] theorem State.modPtp_held : (s.modPtp p f).held = s.held := rfl
@[simp] theorem State.modPtp_tab : (s.modPtp p f).tab = s.tab := rfl
@[simp] theorem State.modPtp_heldTab : (s.modPtp p f).heldTab = s.heldTab := rfl
@[simp] theorem State.modPtp_adjRegs : (s.modPtp p f).adjRegs = s.adjRegs := rfl
@[simp] theorem State.modPtp_adjTabs : (s.modPtp p f).adjTabs = s.adjTabs := rfl
@[simp] theorem State.modPtp_claims : (s.modPtp p f).claims = s.claims := rfl
@[simp] theorem State.modPtp_boot : (s.modPtp p f).boot = s.boot := rfl
@[simp] theorem State.modPtp_host : (s.modPtp p f).host = s.host := rfl
@[simp] theorem State.modPtp_jobs : (s.modPtp p f).jobs = s.jobs := rfl
@[simp] theorem State.modPtp_sched : (s.modPtp p f).sched = s.sched := rfl
@[simp] theorem State.modPtp_codec : (s.modPtp p f).codec = s.codec := rfl
@[simp] theorem State.modPtp_stn : (s.modPtp p f).stn = s.stn := rfl
@[simp] theorem State.modPtp_clks : (s.modPtp p f).clks = s.clks := rfl
@[simp] theorem State.modPtp_links : (s.modPtp p f).links = s.links := rfl
@[simp] theorem State.modPtp_brg : (s.modPtp p f).brg = s.brg := rfl
@[simp] theorem State.modPtp_mem : (s.modPtp p f).mem = s.mem := rfl
@[simp] theorem State.modPtp_dma : (s.modPtp p f).dma = s.dma := rfl
@[simp] theorem State.modPtp_rr : (s.modPtp p f).rr = s.rr := rfl
@[simp] theorem State.modPtp_stp : (s.modPtp p f).stp = s.stp := rfl
@[simp] theorem State.modPtp_enc : (s.modPtp p f).enc = s.enc := rfl
@[simp] theorem State.modPtp_encPin : (s.modPtp p f).encPin = s.encPin := rfl
@[simp] theorem State.modPtp_mot : (s.modPtp p f).mot = s.mot := rfl
@[simp] theorem State.modPtp_bus : (s.modPtp p f).bus = s.bus := rfl
@[simp] theorem State.modPtp_thm : (s.modPtp p f).thm = s.thm := rfl
@[simp] theorem State.modPtp_time : (s.modPtp p f).time = s.time := rfl
@[simp] theorem State.modPtp_wcmp : (s.modPtp p f).wcmp = s.wcmp := rfl
@[simp] theorem State.modPtp_fcmp : (s.modPtp p f).fcmp = s.fcmp := rfl
@[simp] theorem State.modPtp_ptp : (s.modPtp p f).ptp = updAt s.ptp p f := rfl
@[simp] theorem State.modPtp_line : (s.modPtp p f).line = s.line := rfl
@[simp] theorem State.modPtp_csm : (s.modPtp p f).csm = s.csm := rfl
@[simp] theorem State.modPtp_mon : (s.modPtp p f).mon = s.mon := rfl
@[simp] theorem State.modPtp_pageCap : (s.modPtp p f).pageCap = s.pageCap := rfl
@[simp] theorem State.modPtp_bandCap : (s.modPtp p f).bandCap = s.bandCap := rfl
@[simp] theorem State.modPtp_out : (s.modPtp p f).out = s.out := rfl
@[simp] theorem State.modPtp_pending : (s.modPtp p f).pending = s.pending := rfl
end

/-! State.modCsm -/

section
variable (s : State) (p : Nat) (f : CsmPort → CsmPort)
@[simp] theorem State.modCsm_id : (s.modCsm p f).id = s.id := rfl
@[simp] theorem State.modCsm_otp : (s.modCsm p f).otp = s.otp := rfl
@[simp] theorem State.modCsm_inReset : (s.modCsm p f).inReset = s.inReset := rfl
@[simp] theorem State.modCsm_rstLow : (s.modCsm p f).rstLow = s.rstLow := rfl
@[simp] theorem State.modCsm_brown : (s.modCsm p f).brown = s.brown := rfl
@[simp] theorem State.modCsm_clk : (s.modCsm p f).clk = s.clk := rfl
@[simp] theorem State.modCsm_free : (s.modCsm p f).free = s.free := rfl
@[simp] theorem State.modCsm_regs : (s.modCsm p f).regs = s.regs := rfl
@[simp] theorem State.modCsm_held : (s.modCsm p f).held = s.held := rfl
@[simp] theorem State.modCsm_tab : (s.modCsm p f).tab = s.tab := rfl
@[simp] theorem State.modCsm_heldTab : (s.modCsm p f).heldTab = s.heldTab := rfl
@[simp] theorem State.modCsm_adjRegs : (s.modCsm p f).adjRegs = s.adjRegs := rfl
@[simp] theorem State.modCsm_adjTabs : (s.modCsm p f).adjTabs = s.adjTabs := rfl
@[simp] theorem State.modCsm_claims : (s.modCsm p f).claims = s.claims := rfl
@[simp] theorem State.modCsm_boot : (s.modCsm p f).boot = s.boot := rfl
@[simp] theorem State.modCsm_host : (s.modCsm p f).host = s.host := rfl
@[simp] theorem State.modCsm_jobs : (s.modCsm p f).jobs = s.jobs := rfl
@[simp] theorem State.modCsm_sched : (s.modCsm p f).sched = s.sched := rfl
@[simp] theorem State.modCsm_codec : (s.modCsm p f).codec = s.codec := rfl
@[simp] theorem State.modCsm_stn : (s.modCsm p f).stn = s.stn := rfl
@[simp] theorem State.modCsm_clks : (s.modCsm p f).clks = s.clks := rfl
@[simp] theorem State.modCsm_links : (s.modCsm p f).links = s.links := rfl
@[simp] theorem State.modCsm_brg : (s.modCsm p f).brg = s.brg := rfl
@[simp] theorem State.modCsm_mem : (s.modCsm p f).mem = s.mem := rfl
@[simp] theorem State.modCsm_dma : (s.modCsm p f).dma = s.dma := rfl
@[simp] theorem State.modCsm_rr : (s.modCsm p f).rr = s.rr := rfl
@[simp] theorem State.modCsm_stp : (s.modCsm p f).stp = s.stp := rfl
@[simp] theorem State.modCsm_enc : (s.modCsm p f).enc = s.enc := rfl
@[simp] theorem State.modCsm_encPin : (s.modCsm p f).encPin = s.encPin := rfl
@[simp] theorem State.modCsm_mot : (s.modCsm p f).mot = s.mot := rfl
@[simp] theorem State.modCsm_bus : (s.modCsm p f).bus = s.bus := rfl
@[simp] theorem State.modCsm_thm : (s.modCsm p f).thm = s.thm := rfl
@[simp] theorem State.modCsm_time : (s.modCsm p f).time = s.time := rfl
@[simp] theorem State.modCsm_wcmp : (s.modCsm p f).wcmp = s.wcmp := rfl
@[simp] theorem State.modCsm_fcmp : (s.modCsm p f).fcmp = s.fcmp := rfl
@[simp] theorem State.modCsm_ptp : (s.modCsm p f).ptp = s.ptp := rfl
@[simp] theorem State.modCsm_line : (s.modCsm p f).line = s.line := rfl
@[simp] theorem State.modCsm_csm : (s.modCsm p f).csm = { s.csm with ports := updAt s.csm.ports p f } := rfl
@[simp] theorem State.modCsm_mon : (s.modCsm p f).mon = s.mon := rfl
@[simp] theorem State.modCsm_pageCap : (s.modCsm p f).pageCap = s.pageCap := rfl
@[simp] theorem State.modCsm_bandCap : (s.modCsm p f).bandCap = s.bandCap := rfl
@[simp] theorem State.modCsm_out : (s.modCsm p f).out = s.out := rfl
@[simp] theorem State.modCsm_pending : (s.modCsm p f).pending = s.pending := rfl
end

/-! State.modBrg -/

section
variable (s : State) (f : Bridge → Bridge)
@[simp] theorem State.modBrg_id : (s.modBrg f).id = s.id := rfl
@[simp] theorem State.modBrg_otp : (s.modBrg f).otp = s.otp := rfl
@[simp] theorem State.modBrg_inReset : (s.modBrg f).inReset = s.inReset := rfl
@[simp] theorem State.modBrg_rstLow : (s.modBrg f).rstLow = s.rstLow := rfl
@[simp] theorem State.modBrg_brown : (s.modBrg f).brown = s.brown := rfl
@[simp] theorem State.modBrg_clk : (s.modBrg f).clk = s.clk := rfl
@[simp] theorem State.modBrg_free : (s.modBrg f).free = s.free := rfl
@[simp] theorem State.modBrg_regs : (s.modBrg f).regs = s.regs := rfl
@[simp] theorem State.modBrg_held : (s.modBrg f).held = s.held := rfl
@[simp] theorem State.modBrg_tab : (s.modBrg f).tab = s.tab := rfl
@[simp] theorem State.modBrg_heldTab : (s.modBrg f).heldTab = s.heldTab := rfl
@[simp] theorem State.modBrg_adjRegs : (s.modBrg f).adjRegs = s.adjRegs := rfl
@[simp] theorem State.modBrg_adjTabs : (s.modBrg f).adjTabs = s.adjTabs := rfl
@[simp] theorem State.modBrg_claims : (s.modBrg f).claims = s.claims := rfl
@[simp] theorem State.modBrg_boot : (s.modBrg f).boot = s.boot := rfl
@[simp] theorem State.modBrg_host : (s.modBrg f).host = s.host := rfl
@[simp] theorem State.modBrg_jobs : (s.modBrg f).jobs = s.jobs := rfl
@[simp] theorem State.modBrg_sched : (s.modBrg f).sched = s.sched := rfl
@[simp] theorem State.modBrg_codec : (s.modBrg f).codec = s.codec := rfl
@[simp] theorem State.modBrg_stn : (s.modBrg f).stn = s.stn := rfl
@[simp] theorem State.modBrg_clks : (s.modBrg f).clks = s.clks := rfl
@[simp] theorem State.modBrg_links : (s.modBrg f).links = s.links := rfl
@[simp] theorem State.modBrg_brg : (s.modBrg f).brg = f s.brg := rfl
@[simp] theorem State.modBrg_mem : (s.modBrg f).mem = s.mem := rfl
@[simp] theorem State.modBrg_dma : (s.modBrg f).dma = s.dma := rfl
@[simp] theorem State.modBrg_rr : (s.modBrg f).rr = s.rr := rfl
@[simp] theorem State.modBrg_stp : (s.modBrg f).stp = s.stp := rfl
@[simp] theorem State.modBrg_enc : (s.modBrg f).enc = s.enc := rfl
@[simp] theorem State.modBrg_encPin : (s.modBrg f).encPin = s.encPin := rfl
@[simp] theorem State.modBrg_mot : (s.modBrg f).mot = s.mot := rfl
@[simp] theorem State.modBrg_bus : (s.modBrg f).bus = s.bus := rfl
@[simp] theorem State.modBrg_thm : (s.modBrg f).thm = s.thm := rfl
@[simp] theorem State.modBrg_time : (s.modBrg f).time = s.time := rfl
@[simp] theorem State.modBrg_wcmp : (s.modBrg f).wcmp = s.wcmp := rfl
@[simp] theorem State.modBrg_fcmp : (s.modBrg f).fcmp = s.fcmp := rfl
@[simp] theorem State.modBrg_ptp : (s.modBrg f).ptp = s.ptp := rfl
@[simp] theorem State.modBrg_line : (s.modBrg f).line = s.line := rfl
@[simp] theorem State.modBrg_csm : (s.modBrg f).csm = s.csm := rfl
@[simp] theorem State.modBrg_mon : (s.modBrg f).mon = s.mon := rfl
@[simp] theorem State.modBrg_pageCap : (s.modBrg f).pageCap = s.pageCap := rfl
@[simp] theorem State.modBrg_bandCap : (s.modBrg f).bandCap = s.bandCap := rfl
@[simp] theorem State.modBrg_out : (s.modBrg f).out = s.out := rfl
@[simp] theorem State.modBrg_pending : (s.modBrg f).pending = s.pending := rfl
end

/-! State.modHeld -/

section
variable (s : State) (id : Nat) (f : HeldOrder → HeldOrder)
@[simp] theorem State.modHeld_id : (s.modHeld id f).id = s.id := rfl
@[simp] theorem State.modHeld_otp : (s.modHeld id f).otp = s.otp := rfl
@[simp] theorem State.modHeld_inReset : (s.modHeld id f).inReset = s.inReset := rfl
@[simp] theorem State.modHeld_rstLow : (s.modHeld id f).rstLow = s.rstLow := rfl
@[simp] theorem State.modHeld_brown : (s.modHeld id f).brown = s.brown := rfl
@[simp] theorem State.modHeld_clk : (s.modHeld id f).clk = s.clk := rfl
@[simp] theorem State.modHeld_free : (s.modHeld id f).free = s.free := rfl
@[simp] theorem State.modHeld_regs : (s.modHeld id f).regs = s.regs := rfl
@[simp] theorem State.modHeld_held : (s.modHeld id f).held = s.held := rfl
@[simp] theorem State.modHeld_tab : (s.modHeld id f).tab = s.tab := rfl
@[simp] theorem State.modHeld_heldTab : (s.modHeld id f).heldTab = s.heldTab := rfl
@[simp] theorem State.modHeld_adjRegs : (s.modHeld id f).adjRegs = s.adjRegs := rfl
@[simp] theorem State.modHeld_adjTabs : (s.modHeld id f).adjTabs = s.adjTabs := rfl
@[simp] theorem State.modHeld_claims : (s.modHeld id f).claims = s.claims := rfl
@[simp] theorem State.modHeld_boot : (s.modHeld id f).boot = s.boot := rfl
@[simp] theorem State.modHeld_host : (s.modHeld id f).host = s.host := rfl
@[simp] theorem State.modHeld_jobs : (s.modHeld id f).jobs = s.jobs := rfl
@[simp] theorem State.modHeld_sched : (s.modHeld id f).sched = s.sched := rfl
@[simp] theorem State.modHeld_codec : (s.modHeld id f).codec = s.codec := rfl
@[simp] theorem State.modHeld_stn : (s.modHeld id f).stn = s.stn := rfl
@[simp] theorem State.modHeld_clks : (s.modHeld id f).clks = s.clks := rfl
@[simp] theorem State.modHeld_links : (s.modHeld id f).links = s.links := rfl
@[simp] theorem State.modHeld_brg : (s.modHeld id f).brg = s.brg := rfl
@[simp] theorem State.modHeld_mem : (s.modHeld id f).mem = s.mem := rfl
@[simp] theorem State.modHeld_dma : (s.modHeld id f).dma = s.dma := rfl
@[simp] theorem State.modHeld_rr : (s.modHeld id f).rr = s.rr := rfl
@[simp] theorem State.modHeld_stp : (s.modHeld id f).stp = s.stp := rfl
@[simp] theorem State.modHeld_enc : (s.modHeld id f).enc = s.enc := rfl
@[simp] theorem State.modHeld_encPin : (s.modHeld id f).encPin = s.encPin := rfl
@[simp] theorem State.modHeld_mot : (s.modHeld id f).mot = s.mot := rfl
@[simp] theorem State.modHeld_bus : (s.modHeld id f).bus = s.bus := rfl
@[simp] theorem State.modHeld_thm : (s.modHeld id f).thm = s.thm := rfl
@[simp] theorem State.modHeld_time : (s.modHeld id f).time = s.time := rfl
@[simp] theorem State.modHeld_wcmp : (s.modHeld id f).wcmp = s.wcmp := rfl
@[simp] theorem State.modHeld_fcmp : (s.modHeld id f).fcmp = s.fcmp := rfl
@[simp] theorem State.modHeld_ptp : (s.modHeld id f).ptp = s.ptp := rfl
@[simp] theorem State.modHeld_line : (s.modHeld id f).line = { s.line with orders := s.line.orders.map (fun h => if h.order.id == id then f h else h) } := rfl
@[simp] theorem State.modHeld_csm : (s.modHeld id f).csm = s.csm := rfl
@[simp] theorem State.modHeld_mon : (s.modHeld id f).mon = s.mon := rfl
@[simp] theorem State.modHeld_pageCap : (s.modHeld id f).pageCap = s.pageCap := rfl
@[simp] theorem State.modHeld_bandCap : (s.modHeld id f).bandCap = s.bandCap := rfl
@[simp] theorem State.modHeld_out : (s.modHeld id f).out = s.out := rfl
@[simp] theorem State.modHeld_pending : (s.modHeld id f).pending = s.pending := rfl
end

/-! State.modIssued -/

section
variable (s : State) (id : Nat) (f : IssuedOrder → IssuedOrder)
@[simp] theorem State.modIssued_id : (s.modIssued id f).id = s.id := rfl
@[simp] theorem State.modIssued_otp : (s.modIssued id f).otp = s.otp := rfl
@[simp] theorem State.modIssued_inReset : (s.modIssued id f).inReset = s.inReset := rfl
@[simp] theorem State.modIssued_rstLow : (s.modIssued id f).rstLow = s.rstLow := rfl
@[simp] theorem State.modIssued_brown : (s.modIssued id f).brown = s.brown := rfl
@[simp] theorem State.modIssued_clk : (s.modIssued id f).clk = s.clk := rfl
@[simp] theorem State.modIssued_free : (s.modIssued id f).free = s.free := rfl
@[simp] theorem State.modIssued_regs : (s.modIssued id f).regs = s.regs := rfl
@[simp] theorem State.modIssued_held : (s.modIssued id f).held = s.held := rfl
@[simp] theorem State.modIssued_tab : (s.modIssued id f).tab = s.tab := rfl
@[simp] theorem State.modIssued_heldTab : (s.modIssued id f).heldTab = s.heldTab := rfl
@[simp] theorem State.modIssued_adjRegs : (s.modIssued id f).adjRegs = s.adjRegs := rfl
@[simp] theorem State.modIssued_adjTabs : (s.modIssued id f).adjTabs = s.adjTabs := rfl
@[simp] theorem State.modIssued_claims : (s.modIssued id f).claims = s.claims := rfl
@[simp] theorem State.modIssued_boot : (s.modIssued id f).boot = s.boot := rfl
@[simp] theorem State.modIssued_host : (s.modIssued id f).host = s.host := rfl
@[simp] theorem State.modIssued_jobs : (s.modIssued id f).jobs = s.jobs := rfl
@[simp] theorem State.modIssued_sched : (s.modIssued id f).sched = s.sched := rfl
@[simp] theorem State.modIssued_codec : (s.modIssued id f).codec = s.codec := rfl
@[simp] theorem State.modIssued_stn : (s.modIssued id f).stn = s.stn := rfl
@[simp] theorem State.modIssued_clks : (s.modIssued id f).clks = s.clks := rfl
@[simp] theorem State.modIssued_links : (s.modIssued id f).links = s.links := rfl
@[simp] theorem State.modIssued_brg : (s.modIssued id f).brg = s.brg := rfl
@[simp] theorem State.modIssued_mem : (s.modIssued id f).mem = s.mem := rfl
@[simp] theorem State.modIssued_dma : (s.modIssued id f).dma = s.dma := rfl
@[simp] theorem State.modIssued_rr : (s.modIssued id f).rr = s.rr := rfl
@[simp] theorem State.modIssued_stp : (s.modIssued id f).stp = s.stp := rfl
@[simp] theorem State.modIssued_enc : (s.modIssued id f).enc = s.enc := rfl
@[simp] theorem State.modIssued_encPin : (s.modIssued id f).encPin = s.encPin := rfl
@[simp] theorem State.modIssued_mot : (s.modIssued id f).mot = s.mot := rfl
@[simp] theorem State.modIssued_bus : (s.modIssued id f).bus = s.bus := rfl
@[simp] theorem State.modIssued_thm : (s.modIssued id f).thm = s.thm := rfl
@[simp] theorem State.modIssued_time : (s.modIssued id f).time = s.time := rfl
@[simp] theorem State.modIssued_wcmp : (s.modIssued id f).wcmp = s.wcmp := rfl
@[simp] theorem State.modIssued_fcmp : (s.modIssued id f).fcmp = s.fcmp := rfl
@[simp] theorem State.modIssued_ptp : (s.modIssued id f).ptp = s.ptp := rfl
@[simp] theorem State.modIssued_line : (s.modIssued id f).line = { s.line with issued := s.line.issued.map (fun h => if h.order.id == id then f h else h) } := rfl
@[simp] theorem State.modIssued_csm : (s.modIssued id f).csm = s.csm := rfl
@[simp] theorem State.modIssued_mon : (s.modIssued id f).mon = s.mon := rfl
@[simp] theorem State.modIssued_pageCap : (s.modIssued id f).pageCap = s.pageCap := rfl
@[simp] theorem State.modIssued_bandCap : (s.modIssued id f).bandCap = s.bandCap := rfl
@[simp] theorem State.modIssued_out : (s.modIssued id f).out = s.out := rfl
@[simp] theorem State.modIssued_pending : (s.modIssued id f).pending = s.pending := rfl
end

/-! State.setUpset -/

section
variable (s : State) (unit ix v : Nat)
@[simp] theorem State.setUpset_id : (s.setUpset unit ix v).id = s.id := rfl
@[simp] theorem State.setUpset_otp : (s.setUpset unit ix v).otp = s.otp := rfl
@[simp] theorem State.setUpset_inReset : (s.setUpset unit ix v).inReset = s.inReset := rfl
@[simp] theorem State.setUpset_rstLow : (s.setUpset unit ix v).rstLow = s.rstLow := rfl
@[simp] theorem State.setUpset_brown : (s.setUpset unit ix v).brown = s.brown := rfl
@[simp] theorem State.setUpset_clk : (s.setUpset unit ix v).clk = s.clk := rfl
@[simp] theorem State.setUpset_free : (s.setUpset unit ix v).free = s.free := rfl
@[simp] theorem State.setUpset_regs : (s.setUpset unit ix v).regs = s.regs := rfl
@[simp] theorem State.setUpset_held : (s.setUpset unit ix v).held = s.held := rfl
@[simp] theorem State.setUpset_tab : (s.setUpset unit ix v).tab = s.tab := rfl
@[simp] theorem State.setUpset_heldTab : (s.setUpset unit ix v).heldTab = s.heldTab := rfl
@[simp] theorem State.setUpset_adjRegs : (s.setUpset unit ix v).adjRegs = s.adjRegs := rfl
@[simp] theorem State.setUpset_adjTabs : (s.setUpset unit ix v).adjTabs = s.adjTabs := rfl
@[simp] theorem State.setUpset_claims : (s.setUpset unit ix v).claims = s.claims := rfl
@[simp] theorem State.setUpset_boot : (s.setUpset unit ix v).boot = s.boot := rfl
@[simp] theorem State.setUpset_host : (s.setUpset unit ix v).host = s.host := rfl
@[simp] theorem State.setUpset_jobs : (s.setUpset unit ix v).jobs = s.jobs := rfl
@[simp] theorem State.setUpset_sched : (s.setUpset unit ix v).sched = s.sched := rfl
@[simp] theorem State.setUpset_codec : (s.setUpset unit ix v).codec = s.codec := rfl
@[simp] theorem State.setUpset_stn : (s.setUpset unit ix v).stn = s.stn := rfl
@[simp] theorem State.setUpset_clks : (s.setUpset unit ix v).clks = s.clks := rfl
@[simp] theorem State.setUpset_links : (s.setUpset unit ix v).links = s.links := rfl
@[simp] theorem State.setUpset_brg : (s.setUpset unit ix v).brg = s.brg := rfl
@[simp] theorem State.setUpset_mem : (s.setUpset unit ix v).mem = { s.mem with upset := Sys2Proof.Machine.put s.mem.upset (upKey unit ix) 0 v } := rfl
@[simp] theorem State.setUpset_dma : (s.setUpset unit ix v).dma = s.dma := rfl
@[simp] theorem State.setUpset_rr : (s.setUpset unit ix v).rr = s.rr := rfl
@[simp] theorem State.setUpset_stp : (s.setUpset unit ix v).stp = s.stp := rfl
@[simp] theorem State.setUpset_enc : (s.setUpset unit ix v).enc = s.enc := rfl
@[simp] theorem State.setUpset_encPin : (s.setUpset unit ix v).encPin = s.encPin := rfl
@[simp] theorem State.setUpset_mot : (s.setUpset unit ix v).mot = s.mot := rfl
@[simp] theorem State.setUpset_bus : (s.setUpset unit ix v).bus = s.bus := rfl
@[simp] theorem State.setUpset_thm : (s.setUpset unit ix v).thm = s.thm := rfl
@[simp] theorem State.setUpset_time : (s.setUpset unit ix v).time = s.time := rfl
@[simp] theorem State.setUpset_wcmp : (s.setUpset unit ix v).wcmp = s.wcmp := rfl
@[simp] theorem State.setUpset_fcmp : (s.setUpset unit ix v).fcmp = s.fcmp := rfl
@[simp] theorem State.setUpset_ptp : (s.setUpset unit ix v).ptp = s.ptp := rfl
@[simp] theorem State.setUpset_line : (s.setUpset unit ix v).line = s.line := rfl
@[simp] theorem State.setUpset_csm : (s.setUpset unit ix v).csm = s.csm := rfl
@[simp] theorem State.setUpset_mon : (s.setUpset unit ix v).mon = s.mon := rfl
@[simp] theorem State.setUpset_pageCap : (s.setUpset unit ix v).pageCap = s.pageCap := rfl
@[simp] theorem State.setUpset_bandCap : (s.setUpset unit ix v).bandCap = s.bandCap := rfl
@[simp] theorem State.setUpset_out : (s.setUpset unit ix v).out = s.out := rfl
@[simp] theorem State.setUpset_pending : (s.setUpset unit ix v).pending = s.pending := rfl
end

/-! State.setDram -/

section
variable (s : State) (a : Nat) (l : List Byte)
@[simp] theorem State.setDram_id : (s.setDram a l).id = s.id := rfl
@[simp] theorem State.setDram_otp : (s.setDram a l).otp = s.otp := rfl
@[simp] theorem State.setDram_inReset : (s.setDram a l).inReset = s.inReset := rfl
@[simp] theorem State.setDram_rstLow : (s.setDram a l).rstLow = s.rstLow := rfl
@[simp] theorem State.setDram_brown : (s.setDram a l).brown = s.brown := rfl
@[simp] theorem State.setDram_clk : (s.setDram a l).clk = s.clk := rfl
@[simp] theorem State.setDram_free : (s.setDram a l).free = s.free := rfl
@[simp] theorem State.setDram_regs : (s.setDram a l).regs = s.regs := rfl
@[simp] theorem State.setDram_held : (s.setDram a l).held = s.held := rfl
@[simp] theorem State.setDram_tab : (s.setDram a l).tab = s.tab := rfl
@[simp] theorem State.setDram_heldTab : (s.setDram a l).heldTab = s.heldTab := rfl
@[simp] theorem State.setDram_adjRegs : (s.setDram a l).adjRegs = s.adjRegs := rfl
@[simp] theorem State.setDram_adjTabs : (s.setDram a l).adjTabs = s.adjTabs := rfl
@[simp] theorem State.setDram_claims : (s.setDram a l).claims = s.claims := rfl
@[simp] theorem State.setDram_boot : (s.setDram a l).boot = s.boot := rfl
@[simp] theorem State.setDram_host : (s.setDram a l).host = s.host := rfl
@[simp] theorem State.setDram_jobs : (s.setDram a l).jobs = s.jobs := rfl
@[simp] theorem State.setDram_sched : (s.setDram a l).sched = s.sched := rfl
@[simp] theorem State.setDram_codec : (s.setDram a l).codec = s.codec := rfl
@[simp] theorem State.setDram_stn : (s.setDram a l).stn = s.stn := rfl
@[simp] theorem State.setDram_clks : (s.setDram a l).clks = s.clks := rfl
@[simp] theorem State.setDram_links : (s.setDram a l).links = s.links := rfl
@[simp] theorem State.setDram_brg : (s.setDram a l).brg = s.brg := rfl
@[simp] theorem State.setDram_mem : (s.setDram a l).mem = { s.mem with dram := s.mem.dram.setBytes a l } := rfl
@[simp] theorem State.setDram_dma : (s.setDram a l).dma = s.dma := rfl
@[simp] theorem State.setDram_rr : (s.setDram a l).rr = s.rr := rfl
@[simp] theorem State.setDram_stp : (s.setDram a l).stp = s.stp := rfl
@[simp] theorem State.setDram_enc : (s.setDram a l).enc = s.enc := rfl
@[simp] theorem State.setDram_encPin : (s.setDram a l).encPin = s.encPin := rfl
@[simp] theorem State.setDram_mot : (s.setDram a l).mot = s.mot := rfl
@[simp] theorem State.setDram_bus : (s.setDram a l).bus = s.bus := rfl
@[simp] theorem State.setDram_thm : (s.setDram a l).thm = s.thm := rfl
@[simp] theorem State.setDram_time : (s.setDram a l).time = s.time := rfl
@[simp] theorem State.setDram_wcmp : (s.setDram a l).wcmp = s.wcmp := rfl
@[simp] theorem State.setDram_fcmp : (s.setDram a l).fcmp = s.fcmp := rfl
@[simp] theorem State.setDram_ptp : (s.setDram a l).ptp = s.ptp := rfl
@[simp] theorem State.setDram_line : (s.setDram a l).line = s.line := rfl
@[simp] theorem State.setDram_csm : (s.setDram a l).csm = s.csm := rfl
@[simp] theorem State.setDram_mon : (s.setDram a l).mon = s.mon := rfl
@[simp] theorem State.setDram_pageCap : (s.setDram a l).pageCap = s.pageCap := rfl
@[simp] theorem State.setDram_bandCap : (s.setDram a l).bandCap = s.bandCap := rfl
@[simp] theorem State.setDram_out : (s.setDram a l).out = s.out := rfl
@[simp] theorem State.setDram_pending : (s.setDram a l).pending = s.pending := rfl
end

/-! State.setSram -/

section
variable (s : State) (a : Nat) (l : List Byte)
@[simp] theorem State.setSram_id : (s.setSram a l).id = s.id := rfl
@[simp] theorem State.setSram_otp : (s.setSram a l).otp = s.otp := rfl
@[simp] theorem State.setSram_inReset : (s.setSram a l).inReset = s.inReset := rfl
@[simp] theorem State.setSram_rstLow : (s.setSram a l).rstLow = s.rstLow := rfl
@[simp] theorem State.setSram_brown : (s.setSram a l).brown = s.brown := rfl
@[simp] theorem State.setSram_clk : (s.setSram a l).clk = s.clk := rfl
@[simp] theorem State.setSram_free : (s.setSram a l).free = s.free := rfl
@[simp] theorem State.setSram_regs : (s.setSram a l).regs = s.regs := rfl
@[simp] theorem State.setSram_held : (s.setSram a l).held = s.held := rfl
@[simp] theorem State.setSram_tab : (s.setSram a l).tab = s.tab := rfl
@[simp] theorem State.setSram_heldTab : (s.setSram a l).heldTab = s.heldTab := rfl
@[simp] theorem State.setSram_adjRegs : (s.setSram a l).adjRegs = s.adjRegs := rfl
@[simp] theorem State.setSram_adjTabs : (s.setSram a l).adjTabs = s.adjTabs := rfl
@[simp] theorem State.setSram_claims : (s.setSram a l).claims = s.claims := rfl
@[simp] theorem State.setSram_boot : (s.setSram a l).boot = s.boot := rfl
@[simp] theorem State.setSram_host : (s.setSram a l).host = s.host := rfl
@[simp] theorem State.setSram_jobs : (s.setSram a l).jobs = s.jobs := rfl
@[simp] theorem State.setSram_sched : (s.setSram a l).sched = s.sched := rfl
@[simp] theorem State.setSram_codec : (s.setSram a l).codec = s.codec := rfl
@[simp] theorem State.setSram_stn : (s.setSram a l).stn = s.stn := rfl
@[simp] theorem State.setSram_clks : (s.setSram a l).clks = s.clks := rfl
@[simp] theorem State.setSram_links : (s.setSram a l).links = s.links := rfl
@[simp] theorem State.setSram_brg : (s.setSram a l).brg = s.brg := rfl
@[simp] theorem State.setSram_mem : (s.setSram a l).mem = { s.mem with sram := s.mem.sram.setBytes a l } := rfl
@[simp] theorem State.setSram_dma : (s.setSram a l).dma = s.dma := rfl
@[simp] theorem State.setSram_rr : (s.setSram a l).rr = s.rr := rfl
@[simp] theorem State.setSram_stp : (s.setSram a l).stp = s.stp := rfl
@[simp] theorem State.setSram_enc : (s.setSram a l).enc = s.enc := rfl
@[simp] theorem State.setSram_encPin : (s.setSram a l).encPin = s.encPin := rfl
@[simp] theorem State.setSram_mot : (s.setSram a l).mot = s.mot := rfl
@[simp] theorem State.setSram_bus : (s.setSram a l).bus = s.bus := rfl
@[simp] theorem State.setSram_thm : (s.setSram a l).thm = s.thm := rfl
@[simp] theorem State.setSram_time : (s.setSram a l).time = s.time := rfl
@[simp] theorem State.setSram_wcmp : (s.setSram a l).wcmp = s.wcmp := rfl
@[simp] theorem State.setSram_fcmp : (s.setSram a l).fcmp = s.fcmp := rfl
@[simp] theorem State.setSram_ptp : (s.setSram a l).ptp = s.ptp := rfl
@[simp] theorem State.setSram_line : (s.setSram a l).line = s.line := rfl
@[simp] theorem State.setSram_csm : (s.setSram a l).csm = s.csm := rfl
@[simp] theorem State.setSram_mon : (s.setSram a l).mon = s.mon := rfl
@[simp] theorem State.setSram_pageCap : (s.setSram a l).pageCap = s.pageCap := rfl
@[simp] theorem State.setSram_bandCap : (s.setSram a l).bandCap = s.bandCap := rfl
@[simp] theorem State.setSram_out : (s.setSram a l).out = s.out := rfl
@[simp] theorem State.setSram_pending : (s.setSram a l).pending = s.pending := rfl
end

/-! State.modWc -/

section
variable (s : State) (w : Nat) (f : Cmp → Cmp)
@[simp] theorem State.modWc_id : (s.modWc w f).id = s.id := rfl
@[simp] theorem State.modWc_otp : (s.modWc w f).otp = s.otp := rfl
@[simp] theorem State.modWc_inReset : (s.modWc w f).inReset = s.inReset := rfl
@[simp] theorem State.modWc_rstLow : (s.modWc w f).rstLow = s.rstLow := rfl
@[simp] theorem State.modWc_brown : (s.modWc w f).brown = s.brown := rfl
@[simp] theorem State.modWc_clk : (s.modWc w f).clk = s.clk := rfl
@[simp] theorem State.modWc_free : (s.modWc w f).free = s.free := rfl
@[simp] theorem State.modWc_regs : (s.modWc w f).regs = s.regs := rfl
@[simp] theorem State.modWc_held : (s.modWc w f).held = s.held := rfl
@[simp] theorem State.modWc_tab : (s.modWc w f).tab = s.tab := rfl
@[simp] theorem State.modWc_heldTab : (s.modWc w f).heldTab = s.heldTab := rfl
@[simp] theorem State.modWc_adjRegs : (s.modWc w f).adjRegs = s.adjRegs := rfl
@[simp] theorem State.modWc_adjTabs : (s.modWc w f).adjTabs = s.adjTabs := rfl
@[simp] theorem State.modWc_claims : (s.modWc w f).claims = s.claims := rfl
@[simp] theorem State.modWc_boot : (s.modWc w f).boot = s.boot := rfl
@[simp] theorem State.modWc_host : (s.modWc w f).host = s.host := rfl
@[simp] theorem State.modWc_jobs : (s.modWc w f).jobs = s.jobs := rfl
@[simp] theorem State.modWc_sched : (s.modWc w f).sched = s.sched := rfl
@[simp] theorem State.modWc_codec : (s.modWc w f).codec = s.codec := rfl
@[simp] theorem State.modWc_stn : (s.modWc w f).stn = s.stn := rfl
@[simp] theorem State.modWc_clks : (s.modWc w f).clks = s.clks := rfl
@[simp] theorem State.modWc_links : (s.modWc w f).links = s.links := rfl
@[simp] theorem State.modWc_brg : (s.modWc w f).brg = s.brg := rfl
@[simp] theorem State.modWc_mem : (s.modWc w f).mem = s.mem := rfl
@[simp] theorem State.modWc_dma : (s.modWc w f).dma = s.dma := rfl
@[simp] theorem State.modWc_rr : (s.modWc w f).rr = s.rr := rfl
@[simp] theorem State.modWc_stp : (s.modWc w f).stp = s.stp := rfl
@[simp] theorem State.modWc_enc : (s.modWc w f).enc = s.enc := rfl
@[simp] theorem State.modWc_encPin : (s.modWc w f).encPin = s.encPin := rfl
@[simp] theorem State.modWc_mot : (s.modWc w f).mot = s.mot := rfl
@[simp] theorem State.modWc_bus : (s.modWc w f).bus = s.bus := rfl
@[simp] theorem State.modWc_thm : (s.modWc w f).thm = s.thm := rfl
@[simp] theorem State.modWc_time : (s.modWc w f).time = s.time := rfl
@[simp] theorem State.modWc_wcmp : (s.modWc w f).wcmp = updAt s.wcmp w f := rfl
@[simp] theorem State.modWc_fcmp : (s.modWc w f).fcmp = s.fcmp := rfl
@[simp] theorem State.modWc_ptp : (s.modWc w f).ptp = s.ptp := rfl
@[simp] theorem State.modWc_line : (s.modWc w f).line = s.line := rfl
@[simp] theorem State.modWc_csm : (s.modWc w f).csm = s.csm := rfl
@[simp] theorem State.modWc_mon : (s.modWc w f).mon = s.mon := rfl
@[simp] theorem State.modWc_pageCap : (s.modWc w f).pageCap = s.pageCap := rfl
@[simp] theorem State.modWc_bandCap : (s.modWc w f).bandCap = s.bandCap := rfl
@[simp] theorem State.modWc_out : (s.modWc w f).out = s.out := rfl
@[simp] theorem State.modWc_pending : (s.modWc w f).pending = s.pending := rfl
end

/-! State.modFc -/

section
variable (s : State) (c : Nat) (f : Cmp → Cmp)
@[simp] theorem State.modFc_id : (s.modFc c f).id = s.id := rfl
@[simp] theorem State.modFc_otp : (s.modFc c f).otp = s.otp := rfl
@[simp] theorem State.modFc_inReset : (s.modFc c f).inReset = s.inReset := rfl
@[simp] theorem State.modFc_rstLow : (s.modFc c f).rstLow = s.rstLow := rfl
@[simp] theorem State.modFc_brown : (s.modFc c f).brown = s.brown := rfl
@[simp] theorem State.modFc_clk : (s.modFc c f).clk = s.clk := rfl
@[simp] theorem State.modFc_free : (s.modFc c f).free = s.free := rfl
@[simp] theorem State.modFc_regs : (s.modFc c f).regs = s.regs := rfl
@[simp] theorem State.modFc_held : (s.modFc c f).held = s.held := rfl
@[simp] theorem State.modFc_tab : (s.modFc c f).tab = s.tab := rfl
@[simp] theorem State.modFc_heldTab : (s.modFc c f).heldTab = s.heldTab := rfl
@[simp] theorem State.modFc_adjRegs : (s.modFc c f).adjRegs = s.adjRegs := rfl
@[simp] theorem State.modFc_adjTabs : (s.modFc c f).adjTabs = s.adjTabs := rfl
@[simp] theorem State.modFc_claims : (s.modFc c f).claims = s.claims := rfl
@[simp] theorem State.modFc_boot : (s.modFc c f).boot = s.boot := rfl
@[simp] theorem State.modFc_host : (s.modFc c f).host = s.host := rfl
@[simp] theorem State.modFc_jobs : (s.modFc c f).jobs = s.jobs := rfl
@[simp] theorem State.modFc_sched : (s.modFc c f).sched = s.sched := rfl
@[simp] theorem State.modFc_codec : (s.modFc c f).codec = s.codec := rfl
@[simp] theorem State.modFc_stn : (s.modFc c f).stn = s.stn := rfl
@[simp] theorem State.modFc_clks : (s.modFc c f).clks = s.clks := rfl
@[simp] theorem State.modFc_links : (s.modFc c f).links = s.links := rfl
@[simp] theorem State.modFc_brg : (s.modFc c f).brg = s.brg := rfl
@[simp] theorem State.modFc_mem : (s.modFc c f).mem = s.mem := rfl
@[simp] theorem State.modFc_dma : (s.modFc c f).dma = s.dma := rfl
@[simp] theorem State.modFc_rr : (s.modFc c f).rr = s.rr := rfl
@[simp] theorem State.modFc_stp : (s.modFc c f).stp = s.stp := rfl
@[simp] theorem State.modFc_enc : (s.modFc c f).enc = s.enc := rfl
@[simp] theorem State.modFc_encPin : (s.modFc c f).encPin = s.encPin := rfl
@[simp] theorem State.modFc_mot : (s.modFc c f).mot = s.mot := rfl
@[simp] theorem State.modFc_bus : (s.modFc c f).bus = s.bus := rfl
@[simp] theorem State.modFc_thm : (s.modFc c f).thm = s.thm := rfl
@[simp] theorem State.modFc_time : (s.modFc c f).time = s.time := rfl
@[simp] theorem State.modFc_wcmp : (s.modFc c f).wcmp = s.wcmp := rfl
@[simp] theorem State.modFc_fcmp : (s.modFc c f).fcmp = updAt s.fcmp c f := rfl
@[simp] theorem State.modFc_ptp : (s.modFc c f).ptp = s.ptp := rfl
@[simp] theorem State.modFc_line : (s.modFc c f).line = s.line := rfl
@[simp] theorem State.modFc_csm : (s.modFc c f).csm = s.csm := rfl
@[simp] theorem State.modFc_mon : (s.modFc c f).mon = s.mon := rfl
@[simp] theorem State.modFc_pageCap : (s.modFc c f).pageCap = s.pageCap := rfl
@[simp] theorem State.modFc_bandCap : (s.modFc c f).bandCap = s.bandCap := rfl
@[simp] theorem State.modFc_out : (s.modFc c f).out = s.out := rfl
@[simp] theorem State.modFc_pending : (s.modFc c f).pending = s.pending := rfl
end

end Sys2Proof.Machine
end

