-- ==== Sys2Proof/Machine/Pins.lean ====
section
/-! DEFINITION. What the outputs of the die show between commands (R46, R49 to R52, R195, R288, R304, Tables 2.8, 2.12 and 8.2). Pulses, heater
and video outputs leave as outputs of commands; this file says at which level each ball rests. -/
namespace Sys2Proof.Machine

/-- How an output ball is driven: high impedance, low, high, electrical idle, a clock in a format of Table 8.2, or pulse-width modulated with
`duty` of `full`. -/
inductive Drive where
  | z | low | high | idle
  | clock (fmt : Nat)
  | pwm (duty full : Nat)
  deriving DecidableEq, Repr

/-- A level. -/
def Drive.of (b : Bool) : Drive := if b then .high else .low

/-- PIN_SEL_n.INV: the level inverted. -/
def Drive.inv : Drive → Drive
  | .low => .high
  | .high => .low
  | .pwm d f => .pwm (f - d) f
  | d => d

/-- The maquette image has been applied: Table 2.8 no longer holds (R46). -/
def State.applied (s : State) : Bool := !s.inReset && decide (8 ≤ s.boot.stage)

/-- A clock output: its format while EN is 1 and the image applied; else electrical idle of a differential format, or low of a CMOS one (R195,
Tables 2.8 and 8.2). -/
def State.clockOut (s : State) (a : Nat) : Drive :=
  let fmt := s.f a 1 2
  if s.applied && s.flag a 0 then .clock fmt else if fmt ≤ 1 then .idle else .low

/-- PIXCLK of station `n`, held low while its beam link is off (R195, Table 9.4), and AUXCLK output `k`. -/
def State.pixOut (s : State) (n : Nat) : Drive :=
  if s.applied && s.flag (clkB + 0x100 + 0x20 * n) 0 && (s.lk n).st == .off then .low else s.clockOut (clkB + 0x100 + 0x20 * n)
def State.auxOut (s : State) (k : Nat) : Drive := s.clockOut (clkB + 0x20 + 4 * k)

/-- The level of an output function of the pool for one claim, before INV; `none` for an input, and where no rule gives a level (the sensor bus and
the general outputs). The inactive level is low; a disabled step channel is out of service (R52, R288, R289; log entry 114). -/
def State.poolLevel (s : State) (f i : Nat) : Option Drive :=
  match f with
  | 1 => some .low
  | 2 => some (Drive.of ((s.sp i).dirPos && (s.sp i).st != .disabled))
  | 3 => some (Drive.of (s.stpEnabled i))
  | 4 => some (if (s.sp i).st == .disabled then .low else .pwm (s.stpDuty i) 255)
  | 10 => some .low
  | 11 => some .low
  | 14 => some (Drive.of s.bus.chopOn)
  | _ => none

/-- Pool pin `n` (R46, R50, R52, R288): high impedance until the image is applied and while unclaimed or an input; a shared enable pin is active while
any of its channels is enabled. -/
def State.poolOut (s : State) (n : Nat) : Option Drive :=
  let held := s.pinClaims n
  let invert (d : Drive) : Drive := if bitOf (s.act (pinB + 4 * n)) 14 then d.inv else d
  match held with
  | [] => some .z
  | c :: _ =>
    if !s.applied || [5, 6, 7, 12, 13, 15, 17].contains (c.owner % 256) then some .z
    else if c.owner % 256 = 3 then some (invert (Drive.of (held.any (fun c => s.stpEnabled (c.owner / 256)))))
    else (s.poolLevel (c.owner % 256) (c.owner / 256)).map invert

/-- The gates of commutation channel `n`, phase `ph`, at clock `t` of its PWM period (R46, R304). -/
def State.gateOut (s : State) (n ph t : Nat) : Drive × Drive :=
  let g := if s.applied then s.motGates n ph t else (false, false)
  (Drive.of g.1, Drive.of g.2)

/-- Heater output `h` and HV output `c` (R46, R336, R342). -/
def State.heatOut (s : State) (h : Nat) : Drive := Drive.of (s.applied && (s.heat h).on)
def State.hvOut (s : State) (c : Nat) : Drive := if s.applied then .pwm (s.hvc c).duty 4095 else .low

/-- High time of the `k`-th PWM period of an HV output in TIME clocks: adjacent values that average to DUTY (R341). -/
def hvHigh (duty k : Nat) : Nat := duty * 2000 * (k + 1) / 4095 - duty * 2000 * k / 4095

/-- ESTOP_N, low while asserted (R46, R67), and INT_N, open-drain: high impedance while deasserted (R393). -/
def State.estopOut (s : State) : Drive := Drive.of (s.applied && s.boot.estopOff)
def State.intOut (s : State) : Drive := if !s.inReset && s.int then .low else .z

/-- QSPI_CS_N: high until step 4; from then on it is low only within a transfer, which no command leaves open (R46). While discovery is under way at
step 4 the level is not fixed. -/
def State.qspiCsOut (s : State) : Option Drive := if !s.inReset && s.boot.stage = 4 then none else some .high

end Sys2Proof.Machine
end

