-- ==== Sys2Proof/Tests/Slice0.lean ====
section
/-! SUPPORT. The tests: for each statement a state and operands that meet the hypotheses of each of its clauses, and for each
check of WellFormed.lean an ill-formed term that it refuses. -/
set_option linter.all false
set_option Elab.async false
open Sys2Proof Sys2Proof.Machine
namespace Sys2Proof.Tests

/-- A blank OTP. -/
def otp : Otp := { sigHash := none, allowV1 := false, kMaster := none, monLock := false, kDbg := none, mac := [0, 0] }
/-- A die of a variant and role, out of reset and started. -/
def up (v role : Nat) : State :=
  { State.cold { variant := v, role := role, stepLtr := 0, stepDig := 1 } otp with
    inReset := false, rstLow := false, boot := { Boot.empty with stage := 10, mode := 1 }, pageCap := 100000, bandCap := 100000 }
def c0 : State := up 0x65 0
def h0 : State := up 0x73 1
def e0 : State := up 0x73 2
def w0 : State := up 0x64 3
def p0 : State := up 0x76 0
/-- A register word. -/
def rg (s : State) (a v : Nat) : State := s.setReg a (wd v)
/-- Bytes of a table, in force. -/
def tb (s : State) (t i off n v : Nat) : State :=
  { s with tab := ((upTo n).zip (leBytes n v)).foldl (fun m e =>
      setTab m (winBase t i + (if stationTab t then 0x10000 else 0) + off + e.1) e.2) s.tab }
def cl (s : State) (l : List (Nat × Nat × Nat)) : State := { s with claims := l.map (fun e => { cls := e.1, index := e.2.1, owner := e.2.2 }) }
def bt (s : State) (f : Boot → Boot) : State := { s with boot := f s.boot }
def stage (s : State) (n : Nat) : State := bt s (fun b => { b with stage := n, mode := 0 })
def img : Image := { v1 := false, gen := 1, pairId := 0, flags := 0, recs := [], bytes := [] }
def flash : FlashDev := { sfdp := true, quad := false, size := 1048576, segs := [] }
def sch (s : State) (f : Sched → Sched) : State := { s with sched := f s.sched }
def tk (s : State) (i : Nat) (f : Token → Token) : State := s.modTok i f
/-- A host on Ethernet port 0. -/
def eth (s : State) : State :=
  ({ s with host := { s.host with eth := [⟨true, 10, 1⟩, .down], dest := some ⟨.eth 0, 1, 2⟩ } }).setF ethB 0 1 1
def pci (s : State) : State := { s with host := { s.host with pcie := ⟨true, 3, 4⟩ } }
def hdr : ReqHdr := { link := .eth 0, src := 1, port := 2, seq := 3, die := 0, crc := 5 }
def bd0 (n comp : Nat) (r : Res) : Band :=
  { idx := n, first := 16 * n, lines := 16, compLen := comp, res := r, got := [], stream := [1, 2], raw := [], handed := false, moved := 0, t0 := 0, ahead := 0, hist := none }
def pg0 (r : Res) (comp : Nat) : Page :=
  { page := 7, lines := 16, medium := 2100, mask := 1, carry := false, source := none, complete := true, relAsked := false, released := false,
    picked := false, planes := [{ station := 0, pitch := 8, bands := [bd0 0 comp r, bd0 1 comp r] }] }
def jobs (s : State) (p : Page) : State := { s with jobs := [{ id := 4, closed := false, pages := [p] }] }
def cd (s : State) (f : Codec → Codec) : State := { s with codec := f s.codec }
def br : BandRef := { job := 4, page := 7, plane := 0, band := 0 }
def cj : CastJob :=
  { tok := 0, job := 4, page := 7, station := 0, band := 0, pitch := 8, first := 0, err := 0, out := [], win0 := [], written := 0, todo := [], queue := [], verdict := 0 }
def ck : CheckJob := { job := 4, page := 7, station := 0, band := 0, err := 0, win := [] }
def rn0 (rel : Nat) : PlaneRun :=
  { job := 4, page := 7, station := 0, tok := 0, released := rel, next := rel, win := [], casts := 1, lost := false }
def im : Imaging := { tok := 0, job := 4, page := 7, ti := 0, scan := 0, want := 0, dead := false, blankB := 0, judged := [], slipped := false }
def ln (s : State) (f : Line → Line) : State := { s with line := f s.line }
def bg (s : State) (f : Bridge → Bridge) : State := { s with brg := f s.brg }
def pools : List VcState := (upTo 4).map (fun _ => VcState.full 64)
def bup (s : State) : State := bg s (fun b => { b with st := .up, laneUp := 15, vcs := pools })
def peer : BridgePeer := { glbId := 1, pairId := some 2, settings := 3 }
def mm (s : State) (f : MemSys → MemSys) : State := { s with mem := f s.mem }
def ram (s : State) : State := mm s (fun m => { m with trained := 15 })
def th (s : State) (f : Therm → Therm) : State := { s with thm := f s.thm }
def mon (s : State) (f : Monitor → Monitor) : State := { s with mon := f s.mon }
def order (d : Nat) : Order := { id := 9, job := 4, page := 7, step := 0, pickT := 9000000, route := [{ id := d, side := 0, refT := 5 }] }
def goodStatus : List Byte := let b : List Byte := 0x81 :: List.replicate 29 0; b ++ leBytes 2 (crc16 b)
def identReply : List Byte := let b : List Byte := [1, BitVec.ofNat 8 (csmLen 1)] ++ List.replicate (csmLen 1) 0; b ++ leBytes 2 (crc16 b)
def badAuth : List Byte := let b : List Byte := [2, BitVec.ofNat 8 (csmLen 2)] ++ List.replicate (csmLen 2) 0; b ++ leBytes 2 (crc16 b)
def goodAuth : List Byte :=
  let m := hmac (csmKey (List.replicate 32 1) [7]) ([2] ++ [7] ++ [0, 0, 0, 0])
  let b : List Byte := [2, BitVec.ofNat 8 (csmLen 2)] ++ [0, 0, 0, 0] ++ m; b ++ leBytes 2 (crc16 b)
def goodCommit : List Byte :=
  let m := hmac (csmKey (List.replicate 32 1) [7]) ([3] ++ [7] ++ [1, 0, 0, 0])
  let b : List Byte := [3, BitVec.ofNat 8 (csmLen 3)] ++ [1, 0, 0, 0] ++ m; b ++ leBytes 2 (crc16 b)
def zeros67 : List Byte := List.replicate 67 0
def flit0 : List Byte := [1, 0, 0, 0] ++ List.replicate 63 0
def flitBody : List Byte := flit0 ++ zeros67 ++ zeros67 ++ zeros67
def goodFlit : List Byte := flitBody ++ leBytes 4 0x97B57C75
theorem crc_flit0 : flit0.foldl (crcByte 0xEDB88320) 0xFFFFFFFF = 0x70C09C1B := by decide +kernel
theorem crc_zeros1 : zeros67.foldl (crcByte 0xEDB88320) 0x70C09C1B = 0xDA797EF := by decide +kernel
theorem crc_zeros2 : zeros67.foldl (crcByte 0xEDB88320) 0xDA797EF = 0x4AD54E7A := by decide +kernel
theorem crc_zeros3 : zeros67.foldl (crcByte 0xEDB88320) 0x4AD54E7A = 0x684A838A := by decide +kernel
theorem crc_flit : crc32 (goodFlit.take 268) = quad goodFlit 268 := by
  have h : goodFlit.take 268 = flitBody := by decide +kernel
  rw [h, crc32, flitBody, List.foldl_append, List.foldl_append, List.foldl_append, crc_flit0, crc_zeros1, crc_zeros2, crc_zeros3]
  decide +kernel
/-- Two thermistors of the fuser that agree. -/
def pairs : State := tb (rg (rg (cl c0 [(6, 0, 2), (6, 1, 2)]) (thmA 0 0) 9) (thmA 1 0) 9) 8 0 1 1 1
/-- An engine that may pick, with one page of two bands at a watermark of `m` percent. -/
def adm (m : Nat) : State :=
  let s := tb (tb (tb (ram (eth c0)) 4 0 0 4 600) 2 0 0 4 0x200100) 2 0 0x1000 2 0
  let s := rg (rg (rg (cl s [(2, 0, 0), (5, 0, 2)]) shtB 1) hvfB 0x11) (shtB + 4) m
  let s := ((s.modStn 0 (fun x => { x with sos := .locked, setIn := some 0, alloc := 4000 })).modPix 0 (fun x => { x with locked := true })).modLink 0 (fun x => { x with st := .up, laneUp := 15 })
  let s := bt (th (s.modHeat 0 (fun x => { x with pairOk := true })) (fun x => { x with zcOk := true })) (fun x => { x with image := some img, estopOff := true })
  jobs { s with clks := { s.clks with rootLocked := true } } { pg0 .resident 2 with planes := [{ station := 0, pitch := 8, bands := [bd0 0 2 .resident, bd0 1 2 (if m = 100 then .resident else .absent)] }] }
/-- A worker of a line with an order that needs a token only. -/
def lineUp : State :=
  ln (rg c0 lnkB 2) (fun x => { x with admitted := true, orders := [{ order := { order 1 with route := [{ id := 1, side := 0xFF, refT := 5 }] }, recv := 0, answer := none, go := false }] })
/-- A flash with a v1 image as copy A: its header and its end. -/
def v1Flash : FlashDev :=
  { sfdp := false, quad := false, size := 1048576, segs := [{ off := 0, data := [0x301, 0x3154514d, 0x20, 0x0, 0x4a267b9e, 0x1ff, 0x16ac8b6, 0xef2f4c10].flatMap (leBytes 4) }] }

theorem test_step_takes_the_front :
    ∃ (s : State), s.pending = [] :=
  ⟨c0, by decide +kernel⟩

theorem test_reset_state :
    ∃ (n : Nat), n < 256 :=
  ⟨63, by decide +kernel⟩

theorem test_reset_commands :
    (∃ (s : State), s.inReset = false) ∧
    (∃ (s : State), s.inReset = true) ∧
    (∃ (s : State) (ns : Nat), 1000 ≤ ns ∧ s.inReset = false) ∧
    (∃ (s : State) (ns : Nat), 1000 ≤ ns ∧ s.inReset = true) ∧
    (∃ (ns : Nat), ns < 1000) ∧
    (∃ (s : State), s.inReset = true) ∧
    (∃ (s : State), s.inReset = true) :=
  ⟨⟨c0, by decide +kernel⟩,
    ⟨State.reset, by decide +kernel⟩,
    ⟨c0, 1000, by decide +kernel⟩,
    ⟨State.reset, 1000, by decide +kernel⟩,
    ⟨63, by decide +kernel⟩,
    ⟨State.reset, by decide +kernel⟩,
    ⟨State.reset, by decide +kernel⟩⟩

def wStartClockAndFlash7 : State :=
  { c0 with clks := { c0.clks with rootLocked := true } }

theorem test_start_clock_and_flash :
    (∃ (s : State), s.inReset = false) ∧
    (∃ (s : State), s.inReset = true) ∧
    (∃ (s : State), ((s.inReset = true ∨ s.boot.stage ≠ 4))) ∧
    (∃ (s : State), s.clks.rootLocked = false) ∧
    (∃ (s : State), s.inReset = false ∧ s.boot.stage = 4) ∧
    (∃ (s : State), s.clks.rootLocked = true) :=
  ⟨⟨c0, by decide +kernel⟩,
    ⟨State.reset, by decide +kernel⟩,
    ⟨c0, by decide +kernel⟩,
    ⟨c0, by decide +kernel⟩,
    ⟨(stage c0 4), by decide +kernel⟩,
    ⟨wStartClockAndFlash7, by decide +kernel⟩⟩

def wImageSelectionAndTraining2 : State :=
  bt (stage c0 5) (fun b => { b with flash := some flash })
def wImageSelectionAndTraining4 : State :=
  bt (stage c0 6) (fun b => { b with cand := some (1, img) })
def wImageSelectionAndTraining5 : State :=
  bt { stage c0 6 with otp := { otp with sigHash := some [], allowV1 := true } } (fun b =>
    { b with cand := some (1, img), flash := some v1Flash, toTry := [0], firstTried := some 1 })
def wImageSelectionAndTraining6 : State :=
  bt { stage c0 6 with otp := { otp with sigHash := some [] } } (fun b => { b with cand := some (0, img), flash := some flash })

theorem test_image_selection_and_training :
    (∃ (s : State), s.inReset = false ∧ s.boot.stage = 5 ∧ s.boot.flash = none) ∧
    (∃ (s : State) (d : FlashDev), s.inReset = false ∧ s.boot.stage = 5 ∧ s.boot.flash = some d) ∧
    (∃ (s : State), s.inReset = false ∧ s.boot.stage = 6 ∧ s.boot.cand = none) ∧
    (∃ (s : State) (c : Nat) (i : Image), s.inReset = false ∧ s.boot.stage = 6 ∧ s.boot.cand = some (c, i) ∧ s.sigOk i = true) ∧
    (∃ (s : State) (c : Nat) (e : Nat) (d : FlashDev) (i : Image) (j : Image), s.inReset = false ∧ s.boot.stage = 6 ∧ s.boot.cand = some (c, i) ∧
      s.sigOk i = false ∧ s.boot.flash = some d ∧ s.boot.toTry = [e] ∧ e ≠ c ∧ c < 2 ∧ e < 2 ∧ s.boot.firstTried = some c ∧ (s.judgeCopy d e).2 =
      some j) ∧
    (∃ (s : State) (c : Nat) (d : FlashDev) (i : Image), s.inReset = false ∧ s.boot.stage = 6 ∧ s.boot.cand = some (c, i) ∧ s.sigOk i = false ∧
      s.boot.flash = some d ∧ ((s.boot.toTry = [] ∨ ∃ e, s.boot.toTry = [e] ∧ (s.judgeCopy d e).2 = none))) ∧
    (∃ (s : State), s.inReset = false ∧ s.boot.stage = 8 ∧ s.id.drams ≤ 4) ∧
    (∃ (s : State), ((s.inReset = true ∨ s.boot.stage ≠ 5 ∧ s.boot.stage ≠ 6 ∧ s.boot.stage ≠ 8))) :=
  ⟨⟨(stage c0 5), by decide +kernel⟩,
    ⟨wImageSelectionAndTraining2, ((wImageSelectionAndTraining2.boot.flash).get (by decide +kernel)), by decide +kernel⟩,
    ⟨(stage c0 6), by decide +kernel⟩,
    ⟨wImageSelectionAndTraining4, (((wImageSelectionAndTraining4.boot.cand).get (by decide +kernel)).1),
      (((wImageSelectionAndTraining4.boot.cand).get (by decide +kernel)).2), by decide +kernel⟩,
    ⟨wImageSelectionAndTraining5, (((wImageSelectionAndTraining5.boot.cand).get (by decide +kernel)).1), 0,
      ((wImageSelectionAndTraining5.boot.flash).get (by decide +kernel)), (((wImageSelectionAndTraining5.boot.cand).get (by decide +kernel)).2),
      (((wImageSelectionAndTraining5.judgeCopy ((wImageSelectionAndTraining5.boot.flash).get (by decide +kernel)) 0).2).get (by decide +kernel)),
      by decide +kernel⟩,
    ⟨wImageSelectionAndTraining6, 0, flash, img, by decide +kernel, by decide +kernel, by decide +kernel, by decide +kernel, by decide +kernel,
      (by exact Or.inl rfl)⟩,
    ⟨(stage c0 8), by decide +kernel⟩,
    ⟨c0, by decide +kernel⟩⟩

def wImageAndReady3 : State :=
  { stage c0 10 with clks := { c0.clks with rootLocked := true } }
def wImageAndReady5 : State :=
  { stage h0 10 with clks := { c0.clks with rootLocked := true } }
def wImageAndReady6 : State :=
  bt c0 (fun b => { b with image := some img })

theorem test_image_and_ready :
    (∃ (s : State), s.inReset = false ∧ s.boot.stage = 7) ∧
    (∃ (s : State), ((s.inReset = true ∨ s.boot.stage ≠ 7))) ∧
    (∃ (s : State), s.inReset = false ∧ s.boot.stage = 10 ∧ s.ready = false ∧ s.clks.rootLocked = true ∧ ((s.id.isH = false ∨ s.boot.peerReady =
      true))) ∧
    (∃ (s : State), ((s.clks.rootLocked = false ∨ s.ready = true ∨ s.boot.stage ≠ 10 ∨ s.id.isH = true ∧ s.boot.peerReady = false))) ∧
    (∃ (s : State), s.inReset = false ∧ s.id.isH = true ∧ s.boot.stage = 10 ∧ s.ready = false ∧ s.boot.peerReady = false ∧ s.clks.rootLocked =
      true) ∧
    (∃ (s : State), s.inReset = false ∧ s.boot.stage = 10 ∧ s.id.motion = true ∧ s.boot.estopOff = false ∧ s.bus.ov2 = false ∧ s.estopMay = true) ∧
    (∃ (s : State), ((s.inReset = true ∨ s.boot.stage ≠ 10 ∨ s.id.motion = false ∨ s.boot.estopOff = true ∨ s.bus.ov2 = true ∨ s.estopMay =
      false))) :=
  ⟨⟨(stage c0 7), by decide +kernel⟩,
    ⟨c0, by decide +kernel⟩,
    ⟨wImageAndReady3, by decide +kernel⟩,
    ⟨c0, by decide +kernel⟩,
    ⟨wImageAndReady5, by decide +kernel⟩,
    ⟨wImageAndReady6, by decide +kernel⟩,
    ⟨c0, by decide +kernel⟩⟩

def wPixelSynthesizer3 : State :=
  ((rg c0 (blkA 5 0) 0xD).modLink 5 (fun k => { k with st := .align })).modPix 5 (fun p => { p with locked := true })
def wPixelSynthesizer5 : State :=
  bt p0 (fun b => { b with compat5 := true })

theorem test_pixel_synthesizer :
    (∃ (s : State) (n : Nat), s.inReset = false ∧ n < s.id.stations ∧ s.id.stations ≤ 6 ∧ s.clks.pix.length = 6) ∧
    (∃ (s : State) (n : Nat), s.inReset = false ∧ n < s.id.stations ∧ (s.px n).locked = false) ∧
    (∃ (s : State) (n : Nat), (s.px n).locked = true) ∧
    (∃ (s : State), s.compat5 = false) ∧
    (∃ (s : State) (n : Nat), s.inReset = false ∧ n < s.id.stations ∧ s.compat5 = true) :=
  ⟨⟨c0, 5, by decide +kernel⟩,
    ⟨c0, 5, by decide +kernel⟩,
    ⟨wPixelSynthesizer3, 5, by decide +kernel⟩,
    ⟨c0, by decide +kernel⟩,
    ⟨wPixelSynthesizer5, 3, by decide +kernel⟩⟩

def wClockTrim3 : State :=
  rg c0 (clkB + 8) (1 + 64)
def wClockTrim4 : State :=
  (rg c0 (clkB + 8) (1 + 64)).modSens 32 (fun x => { x with broken := true })
def wClockTrim6 : State :=
  { c0 with clks := { c0.clks with calRun := true } }

theorem test_clock_trim :
    (∃ (s : State), s.inReset = false ∧ s.flag (clkB + 8) 0 = false) ∧
    (∃ (s : State), s.inReset = false ∧ s.flag (clkB + 8) 0 = true ∧ (s.sens (s.f (clkB + 8) 1 6)).broken = false ∧ s.id.sensor (s.f (clkB + 8) 1
      6) = true) ∧
    (∃ (s : State), s.inReset = false ∧ s.flag (clkB + 8) 0 = true ∧ (((s.sens (s.f (clkB + 8) 1 6)).broken = true ∨ s.id.sensor (s.f (clkB + 8) 1
      6) = false))) ∧
    (∃ (s : State), s.inReset = false) ∧
    (∃ (s : State), s.inReset = false ∧ s.clks.calRun = true ∧ s.id.stations ≤ 6 ∧ s.clks.pix.length = 6) ∧
    (∃ (s : State), s.clks.calRun = false) :=
  ⟨⟨c0, by decide +kernel⟩,
    ⟨wClockTrim3, by decide +kernel⟩,
    ⟨wClockTrim4, by decide +kernel⟩,
    ⟨c0, by decide +kernel⟩,
    ⟨wClockTrim6, by decide +kernel⟩,
    ⟨c0, by decide +kernel⟩⟩

def wLinkTraining2 : State :=
  rg c0 (blkA 5 0) 0xD
def wLinkTraining3 : State :=
  rg c0 (blkA 5 0) 0xD
def wLinkTraining5 : State :=
  (rg c0 (blkA 5 0) 0xD).modLink 5 (fun k => { k with st := .lanes, lock := 1 })
def wLinkTraining6 : State :=
  (rg c0 (blkA 5 0) 0xD).modLink 5 (fun k => { k with st := .lanes, lock := 1 })
def wLinkTraining7 : State :=
  (rg c0 (blkA 5 0) 0xD).modLink 5 (fun k => { k with st := .fail })
def wLinkTraining8 : State :=
  ((rg c0 (blkA 5 0) 0xD).modLink 5 (fun k => { k with st := .align })).modPix 5 (fun p => { p with locked := true })

theorem test_link_training :
    (∃ (s : State) (n : Nat), s.stOk n = true) ∧
    (∃ (s : State) (n : Nat), s.stOk n = true ∧ s.flag (blkA n 0) 0 = true ∧ (s.st n).img = none ∧ (s.lk n).laneUp = 0) ∧
    (∃ (s : State) (n : Nat), s.stOk n = true ∧ s.flag (blkA n 0) 0 = true ∧ s.links.length = 6 ∧ n < 6) ∧
    (∃ (s : State) (n : Nat), s.flag (blkA n 0) 0 = false) ∧
    (∃ (s : State) (n : Nat), s.stOk n = true ∧ (s.lk n).st = .lanes ∧ Nat.land (s.lk n).lock (s.laneMax n) ≠ 0) ∧
    (∃ (s : State) (n : Nat), s.stOk n = true ∧ n < 6 ∧ (((s.lk n).st = .status ∨ (s.lk n).st = .lanes ∨ (s.lk n).st = .deskew ∨ (s.lk n).st =
      .align))) ∧
    (∃ (s : State) (n : Nat), s.stOk n = true ∧ (s.lk n).st = .fail) ∧
    (∃ (s : State) (n : Nat), s.stOk n = true ∧ (s.lk n).st = .align ∧ (s.px n).locked = true ∧ n < s.links.length) ∧
    (∃ (s : State) (n : Nat), (((s.lk n).st = .off ∨ (s.lk n).st = .up))) ∧
    (∃ (s : State) (n : Nat), Nat.land (s.lk n).lock (s.laneMax n) = 0) ∧
    (∃ (s : State) (n : Nat), (s.px n).locked = false) :=
  ⟨⟨c0, 5, by decide +kernel⟩,
    ⟨wLinkTraining2, 5, by decide +kernel⟩,
    ⟨wLinkTraining3, 5, by decide +kernel⟩,
    ⟨c0, 63, by decide +kernel⟩,
    ⟨wLinkTraining5, 5, by decide +kernel⟩,
    ⟨wLinkTraining6, 5, by decide +kernel⟩,
    ⟨wLinkTraining7, 5, by decide +kernel⟩,
    ⟨wLinkTraining8, 5, by decide +kernel⟩,
    ⟨c0, 63, by decide +kernel⟩,
    ⟨c0, 63, by decide +kernel⟩,
    ⟨c0, 63, by decide +kernel⟩⟩

def wLinkStatus1 : State :=
  rg c0 (blkA 5 0) 0xD
def wLinkStatus4 : State :=
  (rg c0 (blkA 5 0) 0xD).modLink 5 (fun k => { k with st := .up, statusOk := true })
def wLinkStatus5 : State :=
  rg ((rg c0 (blkA 5 0) 0x11).modLink 5 (fun k => { k with st := .up, laneUp := 7 })) (blkA 5 0x1C) 0x01000000

theorem test_link_status :
    (∃ (s : State) (n : Nat) (b : List Byte), s.stOk n = true ∧ n < 6 ∧ s.links.length = 6 ∧ s.flag (blkA n 0) 0 = true ∧ statusValid b = true) ∧
    (∃ (s : State) (n : Nat) (b : List Byte), ((statusValid b = false ∨ s.flag (blkA n 0) 0 = false))) ∧
    (∃ (s : State) (n : Nat), (s.lk n).statusOk = false) ∧
    (∃ (s : State) (n : Nat), s.stOk n = true ∧ n < 6 ∧ (s.lk n).statusOk = true) ∧
    (∃ (s : State) (n : Nat) (lane : Nat), s.stOk n = true ∧ (s.lk n).st = .up ∧ lane < 4 ∧ natBit (s.lk n).laneUp lane = false ∧ natBit (s.laneMax
      n) lane = true ∧ natBit (s.lk n).retrain lane = false ∧ (s.lk n).training.any (fun e => e.1 == lane) = false ∧ 0 < fld (s.reg (blkA n 0x1C))
      (8 * lane) 8 ∧ fld (s.reg (blkA n 0x1C)) (8 * lane) 8 < 8) ∧
    (∃ (s : State) (n : Nat) (lane : Nat), (((s.lk n).st ≠ .up ∨ natBit (s.lk n).laneUp lane = true ∨ natBit (s.laneMax n) lane = false ∨ 8 ≤ fld
      (s.reg (blkA n 0x1C)) (8 * lane) 8 ∨ (s.lk n).training.any (fun e => e.1 == lane) = true))) :=
  ⟨⟨wLinkStatus1, 5, goodStatus, by decide +kernel⟩,
    ⟨c0, 63, ([]), by decide +kernel⟩,
    ⟨c0, 63, by decide +kernel⟩,
    ⟨wLinkStatus4, 5, by decide +kernel⟩,
    ⟨wLinkStatus5, 5, 3, by decide +kernel⟩,
    ⟨c0, 63, 63, by decide +kernel⟩⟩

def wScanEdges1 : State :=
  tb (tb (tb c0 4 0 0 4 60000) 2 5 0 4 0x201000) 2 5 0x1000 2 0
def wScanEdges2 : State :=
  (tb (tb (tb c0 4 0 0 4 60000) 2 5 0 4 0x201000) 2 5 0x1000 2 0).modStn 5 (fun x => { x with running := true })
def wScanEdges3 : State :=
  (tb (tb (tb c0 4 0 0 4 60000) 2 5 0 4 0x201000) 2 5 0x1000 2 0).modStn 5 (fun x => { x with running := true })
def wScanEdges4 : State :=
  c0.modStn 5 (fun x => { x with held := true })
def wScanEdges6 : State :=
  (tb (tb (tb c0 4 0 0 4 60000) 2 5 0 4 0x201000) 2 5 0x1000 2 0).modStn 5 (fun x => { x with running := true })
def wScanEdges8 : State :=
  (tb (tb (tb c0 4 0 0 4 60000) 2 5 0 4 0x201000) 2 5 0x1000 2 0).modStn 5 (fun x => { x with running := true })
def wScanEdges9 : State :=
  c0.modStn 5 (fun x => { x with sos := .acquire, acc := 64 })
def wScanEdges12 : State :=
  (tb (tb (tb c0 4 0 0 4 60000) 2 5 0 4 0x201000) 2 5 0x1000 2 0).modStn 5 (fun x => { x with running := true })

theorem test_scan_edges :
    (∃ (s : State) (n : Nat) (e : SosEdge), s.inReset = false ∧ n < s.id.stations ∧ s.id.stations ≤ 6 ∧ s.stn.length = 6 ∧ s.tnom n ≠ 0 ∧ (s.st
      n).held = false ∧ (((s.st n).running = false ∨ s.sosSide n e.dt = .within))) ∧
    (∃ (s : State) (n : Nat) (e : SosEdge), s.inReset = false ∧ n < s.id.stations ∧ s.tnom n ≠ 0 ∧ (s.st n).held = false ∧ (s.st n).running = true
      ∧ s.sosSide n e.dt = .early) ∧
    (∃ (s : State) (n : Nat) (e : SosEdge), s.inReset = false ∧ n < s.id.stations ∧ s.id.stations ≤ 6 ∧ s.stn.length = 6 ∧ s.tnom n ≠ 0 ∧ (s.st
      n).held = false ∧ (s.st n).running = true ∧ s.sosSide n e.dt = .late) ∧
    (∃ (s : State) (n : Nat), (s.st n).held = true) ∧
    (∃ (s : State) (n : Nat), s.inReset = false ∧ n < s.id.stations ∧ (s.st n).held = false ∧ s.tnom n = 0) ∧
    (∃ (s : State) (n : Nat), s.supervised n = true) ∧
    (∃ (s : State) (n : Nat), s.supervised n = false) ∧
    (∃ (s : State) (n : Nat), s.supervised n = true ∧ s.id.stations ≤ 6 ∧ s.stn.length = 6) ∧
    (∃ (s : State) (n : Nat), s.inReset = false ∧ (s.st n).sos = .acquire ∧ 64 ≤ (s.st n).acc) ∧
    (∃ (s : State) (n : Nat), (((s.st n).sos ≠ .acquire ∨ (s.st n).acc < 64))) ∧
    (∃ (s : State) (n : Nat), s.inReset = false ∧ n < s.id.stations ∧ (s.st n).running = false) ∧
    (∃ (s : State) (n : Nat), s.inReset = false ∧ n < s.id.stations ∧ (s.st n).running = true ∧ n < s.stn.length) :=
  ⟨⟨wScanEdges1, 5, (({ dt := 853333, phase := 0, edges := 0 }) : SosEdge), by decide +kernel⟩,
    ⟨wScanEdges2, 5, (({ dt := 0, phase := 0, edges := 0 }) : SosEdge), by decide +kernel⟩,
    ⟨wScanEdges3, 5, (({ dt := 100000000, phase := 0, edges := 0 }) : SosEdge), by decide +kernel⟩,
    ⟨wScanEdges4, 5, by decide +kernel⟩,
    ⟨c0, 5, by decide +kernel⟩,
    ⟨wScanEdges6, 5, by decide +kernel⟩,
    ⟨c0, 63, by decide +kernel⟩,
    ⟨wScanEdges8, 5, by decide +kernel⟩,
    ⟨wScanEdges9, 5, by decide +kernel⟩,
    ⟨c0, 63, by decide +kernel⟩,
    ⟨c0, 5, by decide +kernel⟩,
    ⟨wScanEdges12, 5, by decide +kernel⟩⟩

def wFacetsAndTables1 : State :=
  c0.modStn 5 (fun x => { x with sos := .facetId, edges := 64 * c0.facets 5 })
def wFacetsAndTables2 : State :=
  cl (rg c0 (scnA 5 0) 0x10) [(1, 3, 0xC)]
def wFacetsAndTables6 : State :=
  (rg c0 (scnA 5 0) 0x20).modStn 5 (fun x => { x with sos := .locked, edges := 256 * (rg c0 (scnA 5 0) 0x20).facets 5 })
def wFacetsAndTables8 : State :=
  (rg c0 (blkA 5 0) 0xD).modStn 5 (fun x => { x with img := some im })

theorem test_facets_and_tables :
    (∃ (s : State) (n : Nat), s.inReset = false ∧ n < 6 ∧ n < s.stn.length ∧ (s.st n).sos = .facetId ∧ s.flag (scnA n 0) 4 = false ∧ 64 * s.facets
      n ≤ (s.st n).edges) ∧
    (∃ (s : State) (n : Nat), s.inReset = false ∧ n < s.id.stations ∧ n < 6 ∧ n < s.stn.length ∧ s.flag (scnA n 0) 4 = true ∧ s.pinFor 0xC (s.f
      (scnA n 0) 10 5) = true) ∧
    (∃ (s : State) (n : Nat), ((s.flag (scnA n 0) 4 = false ∨ s.pinFor 0xC (s.f (scnA n 0) 10 5) = false))) ∧
    (∃ (s : State) (n : Nat), (((s.st n).sos ≠ .facetId ∨ s.flag (scnA n 0) 4 = true ∨ (s.st n).edges < 64 * s.facets n))) ∧
    (∃ (s : State) (n : Nat), (((s.st n).sos ≠ .locked ∨ s.flag (scnA n 0) 5 = false ∨ (s.st n).edges < 256 * s.facets n))) ∧
    (∃ (s : State) (n : Nat), s.inReset = false ∧ n < s.stn.length ∧ (s.st n).sos = .locked ∧ s.flag (scnA n 0) 5 = true ∧ 256 * s.facets n ≤ (s.st
      n).edges) ∧
    (∃ (s : State) (n : Nat), s.inReset = false ∧ n < s.id.stations ∧ s.id.stations ≤ 6 ∧ s.stn.length = 6 ∧ (s.st n).img = none) ∧
    (∃ (s : State) (n : Nat), (s.st n).img.isSome = true) :=
  ⟨⟨wFacetsAndTables1, 5, by decide +kernel⟩,
    ⟨wFacetsAndTables2, 5, by decide +kernel⟩,
    ⟨c0, 63, by decide +kernel⟩,
    ⟨c0, 63, by decide +kernel⟩,
    ⟨c0, 63, by decide +kernel⟩,
    ⟨wFacetsAndTables6, 5, by decide +kernel⟩,
    ⟨c0, 5, by decide +kernel⟩,
    ⟨wFacetsAndTables8, 5, by decide +kernel⟩⟩

def wAdmission3 : State :=
  sch (adm 101) (fun x => { x with target := some 0 })
def wAdmission4 : State :=
  rg (rg (ln c0 (fun l => { l with ports := List.replicate 4 (true, 0) })) (lnkB + 0x130) 1) lnkB 2
def wAdmission5 : State :=
  sch c0 (fun x => { x with ladder := .draining })
def wAdmission6 : State :=
  rg (tb (adm 101) 4 0 16 4 500) shtB 3

theorem test_admission :
    (∃ (s : State) (u : State) (v : State) (j : Nat) (p : Page) (r : Option (Int × BandRef)), s.inReset = false ∧ s.ready = true ∧ s.id.motion =
      true ∧ s.sched.ladder ≠ .draining ∧ s.sched.ladder ≠ .gap ∧ s.evalStart = u ∧ u.newPitch = v ∧ u.sched.ladder ≠ .draining ∧ u.sched.ladder ≠
      .gap ∧ u.role = 0 ∧ u.holdWhy = 0 ∧ v.nextPage = some (j, p) ∧ v.watermark p = true ∧ v.forecast j p v.sched.stepCur v.lead (u.ns + 1000000)
      (((u.ns + 1000000 : Nat) : Int) + v.regNs (v.ladRate v.sched.stepCur)) = r) ∧
    (∃ (s : State) (u : State) (w : Nat), s.inReset = false ∧ s.ready = true ∧ s.id.motion = true ∧ s.sched.ladder ≠ .draining ∧ s.sched.ladder ≠
      .gap ∧ s.evalStart = u ∧ u.sched.ladder ≠ .draining ∧ u.sched.ladder ≠ .gap ∧ u.role = 0 ∧ ((if u.holdWhy ≠ 0 then w = u.holdWhy else
      u.newPitch.nextPage = none ∧ w = 8))) ∧
    (∃ (s : State) (u : State) (v : State) (j : Nat) (p : Page), s.inReset = false ∧ s.ready = true ∧ s.id.motion = true ∧ s.sched.ladder ≠
      .draining ∧ s.sched.ladder ≠ .gap ∧ s.evalStart = u ∧ u.newPitch = v ∧ u.sched.ladder ≠ .draining ∧ u.sched.ladder ≠ .gap ∧ u.role = 0 ∧
      u.holdWhy = 0 ∧ v.nextPage = some (j, p) ∧ v.watermark p = false) ∧
    (∃ (s : State) (u : State), s.inReset = false ∧ s.ready = true ∧ s.id.motion = true ∧ s.sched.ladder ≠ .draining ∧ s.sched.ladder ≠ .gap ∧
      s.evalStart = u ∧ u.sched.ladder ≠ .draining ∧ u.sched.ladder ≠ .gap ∧ u.role ≠ 0) ∧
    (∃ (s : State), s.inReset = false ∧ s.ready = true ∧ s.id.motion = true ∧ ((s.sched.ladder = .draining ∨ s.sched.ladder = .gap))) ∧
    (∃ (s : State), s.inReset = false ∧ s.ready = true ∧ s.id.motion = true ∧ s.sched.ladder ≠ .draining ∧ s.sched.ladder ≠ .gap ∧
      ((s.evalStart.sched.ladder = .draining ∨ s.evalStart.sched.ladder = .gap))) ∧
    (∃ (s : State), ((s.inReset = true ∨ s.ready = false ∨ s.id.motion = false))) :=
  ⟨⟨(adm 100), ((adm 100).evalStart), (((adm 100).evalStart).newPitch), ((((((adm 100).evalStart).newPitch).nextPage).get (by decide +kernel)).1),
    ((((((adm 100).evalStart).newPitch).nextPage).get (by decide +kernel)).2), ((((adm 100).evalStart).newPitch).forecast ((((((adm
    100).evalStart).newPitch).nextPage).get (by decide +kernel)).1) ((((((adm 100).evalStart).newPitch).nextPage).get (by decide +kernel)).2)
    (((adm 100).evalStart).newPitch).sched.stepCur (((adm 100).evalStart).newPitch).lead (((adm 100).evalStart).ns + 1000000) (((((adm
    100).evalStart).ns + 1000000 : Nat) : Int) + (((adm 100).evalStart).newPitch).regNs ((((adm 100).evalStart).newPitch).ladRate (((adm
    100).evalStart).newPitch).sched.stepCur))), by decide +kernel⟩,
    ⟨c0, c0.evalStart, 1, by decide +kernel⟩,
    ⟨wAdmission3, wAdmission3.evalStart, wAdmission3.evalStart.newPitch, (((wAdmission3.evalStart.newPitch.nextPage).get (by decide +kernel)).1),
      (((wAdmission3.evalStart.newPitch.nextPage).get (by decide +kernel)).2), by decide +kernel⟩,
    ⟨wAdmission4, wAdmission4.evalStart, by decide +kernel⟩,
    ⟨wAdmission5, by decide +kernel⟩,
    ⟨wAdmission6, by decide +kernel⟩,
    ⟨State.reset, by decide +kernel⟩⟩

def wPickAndRegistration1 : State :=
  jobs (sch (adm 100) (fun x => { x with admitted := some { job := 4, page := 7, pitch := 0, lead := 0, order := none } })) (pg0 .resident 2)
def wPickAndRegistration2 : State :=
  jobs (sch c0 (fun x => { x with admitted := some { job := 4, page := 7, pitch := 0, lead := 0, order := none } })) (pg0 .resident 2)
def wPickAndRegistration4 : State :=
  tk (rg c0 (shtB + 0x10) 3) 15 (fun t => { t with st := .picked, pick := 0 })
def wPickAndRegistration5 : State :=
  rg c0 (shtB + 0x10) 3

theorem test_pick_and_registration :
    (∃ (s : State) (a : Admitted) (i : Nat) (p : Page), s.inReset = false ∧ s.sched.toks.length = 16 ∧ s.sched.admitted = some a ∧ s.pickBar = 0 ∧
      s.freeTok = some i ∧ s.page? a.job a.page = some p) ∧
    (∃ (s : State) (a : Admitted), s.inReset = false ∧ s.sched.admitted = some a ∧ s.pickBar ≠ 0) ∧
    (∃ (s : State), s.sched.admitted = none) ∧
    (∃ (s : State) (sensor : Nat) (i : Nat), s.inReset = false ∧ s.f (shtB + 0x10) 0 6 = sensor ∧ s.sched.toks.length = 16 ∧ i < 16 ∧ (s.tok i).st
      = .picked ∧ natBit (s.tok i).flags fMisfeed = false ∧ (((s.ns : Int) - s.nominalReg (s.tok i)).natAbs : Int) ≤ s.regWindow (s.tok i) ∧ ((∀ k,
      k < 16 → k ≠ i → (s.tok k).st = .picked → natBit (s.tok k).flags fMisfeed = false → (s.tok i).pick < (s.tok k).pick))) ∧
    (∃ (s : State) (sensor : Nat), ((s.f (shtB + 0x10) 0 6 ≠ sensor ∨ ∀ k, k < 16 → (s.tok k).st = .picked → natBit (s.tok k).flags fMisfeed =
      false → s.regWindow (s.tok k) < (((s.ns : Int) - s.nominalReg (s.tok k)).natAbs : Int)))) :=
  ⟨⟨wPickAndRegistration1, ((wPickAndRegistration1.sched.admitted).get (by decide +kernel)), ((wPickAndRegistration1.freeTok).get (by
    decide +kernel)), ((wPickAndRegistration1.page? ((wPickAndRegistration1.sched.admitted).get (by decide +kernel)).job
    ((wPickAndRegistration1.sched.admitted).get (by decide +kernel)).page).get (by decide +kernel)), by decide +kernel⟩,
    ⟨wPickAndRegistration2, ((wPickAndRegistration2.sched.admitted).get (by decide +kernel)), by decide +kernel⟩,
    ⟨c0, by decide +kernel⟩,
    ⟨wPickAndRegistration4, 3, 15, by decide +kernel, by decide +kernel, by decide +kernel, by decide +kernel, by decide +kernel, by
      decide +kernel, by decide +kernel, (by intro k hk; interval_cases k <;> decide +kernel)⟩,
    ⟨wPickAndRegistration5, 63, (by exact Or.inl (by decide +kernel))⟩⟩

def wMisfeeds1 : State :=
  tk (rg c0 (shtB + 0x10) 3) 15 (fun t => { t with st := .picked })
def wMisfeeds3 : State :=
  tk c0 15 (fun t => { t with st := .picked, flags := 32 })

theorem test_misfeeds :
    (∃ (s : State) (k : Nat), s.inReset = false ∧ s.sched.toks.length = 16 ∧ k < 16 ∧ (s.tok k).st = .picked ∧ natBit (s.tok k).flags fMisfeed =
      false) ∧
    (∃ (s : State) (k : Nat), (((s.tok k).st ≠ .picked ∨ natBit (s.tok k).flags fMisfeed = true))) ∧
    (∃ (s : State) (k : Nat), s.inReset = false ∧ s.sched.toks.length = 16 ∧ k < 16 ∧ (s.tok k).busy = true ∧ natBit (s.tok k).flags fMisfeed =
      true) ∧
    (∃ (s : State) (k : Nat), (((s.tok k).busy = false ∨ natBit (s.tok k).flags fMisfeed = false))) ∧
    (∃ (s : State), s.inReset = false ∧ s.id.motion = true) :=
  ⟨⟨wMisfeeds1, 15, by decide +kernel⟩,
    ⟨c0, 63, by decide +kernel⟩,
    ⟨wMisfeeds3, 15, by decide +kernel⟩,
    ⟨c0, 63, by decide +kernel⟩,
    ⟨c0, by decide +kernel⟩⟩

def wSheetPath1 : State :=
  (tb (tk c0 15 (fun t => { t with st := .registered, reg := some 5, stations := 32 })) 9 0 (8 * 63 + 4) 2 0x501).modStn 5 (fun x =>
    { x with sos := .locked })
def wSheetPath2 : State :=
  (tb (tk c0 15 (fun t => { t with st := .registered, reg := some 5, stations := 32 })) 9 0 (8 * 63 + 4) 2 0x501).modStn 5 (fun x =>
    { x with sos := .locked })
def wSheetPath3 : State :=
  tb (tk c0 15 (fun t => { t with st := .registered, reg := some 5, stations := 32 })) 9 0 (8 * 63 + 4) 2 0x501
def wSheetPath4 : State :=
  rg (tb (tb (tk c0 0 (fun t => { t with st := .imaging, reg := some 0 })) 9 0 (8 * 63 + 4) 4 0x0F0F02) 7 15 (0x50 * 15 + 16 + 62) 2 77) (hvA 31 0)
    0x1E
def wSheetPath5 : State :=
  tb (tk c0 15 (fun t => { t with st := .registered, reg := some 5, stations := 32 })) 9 0 (8 * 63 + 4) 2 0x503
def wSheetPath6 : State :=
  tb (tk c0 15 (fun t => { t with st := .registered, reg := some 5, stations := 32 })) 9 0 (8 * 63 + 4) 2 0x505
def wSheetPath8 : State :=
  (tb (tk c0 15 (fun t => { t with st := .registered, reg := some 5, stations := 32 })) 9 0 (8 * 63 + 4) 2 0x501).modStn 5 (fun x =>
    { x with sos := .locked })
def wSheetPath9 : State :=
  (tb (tk c0 15 (fun t => { t with st := .registered, reg := some 5, stations := 32 })) 9 0 (8 * 63 + 4) 2 0x501).modStn 5 (fun x =>
    { x with sos := .locked })
def wSheetPath11 : State :=
  sch c0 (fun x => { x with ladder := .gap })

theorem test_sheet_path :
    (∃ (s : State) (k : Nat) (e : Nat), s.inReset = false ∧ s.sched.toks.length = 16 ∧ k < 16 ∧ e < 64 ∧ (s.tok k).st = .registered ∧ (s.tok k).reg
      ≠ none ∧ (s.sheetEv e).act = 1 ∧ natBit (s.tok k).stations (s.sheetEv e).idx = true ∧ natBit (s.tok k).ended (s.sheetEv e).idx = false ∧
      (s.st (s.sheetEv e).idx).sos = .locked) ∧
    (∃ (s : State) (k : Nat) (e : Nat), (s.sheetEv e).act = 1 ∧ ((natBit (s.tok k).stations (s.sheetEv e).idx = false ∨ natBit (s.tok k).ended
      (s.sheetEv e).idx = true))) ∧
    (∃ (s : State) (k : Nat) (e : Nat), s.inReset = false ∧ s.sched.toks.length = 16 ∧ k < 16 ∧ e < 64 ∧ (s.tok k).busy = true ∧ (s.tok k).reg ≠
      none ∧ (s.sheetEv e).act = 1 ∧ natBit (s.tok k).stations (s.sheetEv e).idx = true ∧ natBit (s.tok k).ended (s.sheetEv e).idx = false ∧ (s.st
      (s.sheetEv e).idx).sos ≠ .locked ∧ s.imgTok (s.sheetEv e).idx ≠ some k) ∧
    (∃ (s : State) (k : Nat) (e : Nat), s.inReset = false ∧ e < 64 ∧ (s.tok k).busy = true ∧ (s.tok k).reg ≠ none ∧ (s.sheetEv e).act = 2) ∧
    (∃ (s : State) (k : Nat) (e : Nat), s.inReset = false ∧ e < 64 ∧ (s.tok k).busy = true ∧ (s.tok k).reg ≠ none ∧ (s.sheetEv e).act = 3) ∧
    (∃ (s : State) (k : Nat) (e : Nat), s.inReset = false ∧ e < 64 ∧ (s.tok k).busy = true ∧ (s.tok k).reg ≠ none ∧ (s.sheetEv e).act = 5) ∧
    (∃ (s : State) (k : Nat) (e : Nat), (((s.sheetEv e).act = 0 ∨ (s.sheetEv e).act = 4 ∨ 6 ≤ (s.sheetEv e).act ∨ (s.tok k).busy = false ∨ (s.tok
      k).reg = none))) ∧
    (∃ (s : State) (k : Nat), s.inReset = false ∧ s.sched.toks.length = 16 ∧ k < 16 ∧ (((s.tok k).st = .registered ∨ (s.tok k).st = .imaging ∨
      (s.tok k).st = .fusing))) ∧
    (∃ (s : State) (k : Nat), s.inReset = false ∧ s.sched.toks.length = 16 ∧ k < 16 ∧ (s.tok k).busy = true ∧ (s.tok k).reg ≠ none) ∧
    (∃ (s : State) (k : Nat), (((s.tok k).busy = false ∨ (s.tok k).reg = none))) ∧
    (∃ (s : State), s.inReset = false ∧ s.sched.ladder = .gap) ∧
    (∃ (s : State), ((s.sched.ladder = .running ∨ s.sched.ladder = .held))) :=
  ⟨⟨wSheetPath1, 15, 63, by decide +kernel⟩,
    ⟨wSheetPath2, 63, 63, by decide +kernel⟩,
    ⟨wSheetPath3, 15, 63, by decide +kernel⟩,
    ⟨wSheetPath4, 0, 63, by decide +kernel⟩,
    ⟨wSheetPath5, 15, 63, by decide +kernel⟩,
    ⟨wSheetPath6, 15, 63, by decide +kernel⟩,
    ⟨c0, 63, 63, by decide +kernel⟩,
    ⟨wSheetPath8, 15, by decide +kernel⟩,
    ⟨wSheetPath9, 15, by decide +kernel⟩,
    ⟨c0, 63, by decide +kernel⟩,
    ⟨wSheetPath11, by decide +kernel⟩,
    ⟨c0, by decide +kernel⟩⟩

def wBandMoves1 : State :=
  cd (jobs (tk c0 0 (fun t => { t with st := .imaging, job := 4, page := 7, stations := 1, reg := some 0 })) (pg0 .resident 2)) (fun c =>
    { c with runs := [rn0 0] })
def wBandMoves3 : State :=
  jobs e0 (pg0 .inPageStore 2)
def wBandMoves4 : State :=
  jobs c0 (pg0 .inPageStore 2)
def wBandMoves6 : State :=
  jobs c0 (pg0 .inTransit 2)

theorem test_band_moves :
    (∃ (s : State) (k : Nat) (n : Nat) (b : Nat) (p : Page) (x : Band), s.inReset = false ∧ (s.tok k).busy = true ∧ n < s.id.stations ∧ natBit
      (s.tok k).stations n = true ∧ s.page? (s.tok k).job (s.tok k).page = some p ∧ (p.plane? n).bind (fun q => q.band? b) = some x) ∧
    (∃ (s : State) (k : Nat) (n : Nat) (b : Nat), (((s.tok k).busy = false ∨ s.id.stations ≤ n ∨ natBit (s.tok k).stations n = false ∨ s.band?
      ⟨(s.tok k).job, (s.tok k).page, n, b⟩ = none))) ∧
    (∃ (s : State), s.inReset = false ∧ s.id.isE = true ∧ s.id.isW = false) ∧
    (∃ (s : State) (r : BandRef) (x : Band), s.inReset = false ∧ s.id.isW = false ∧ s.id.isE = false ∧ (if s.id.isH then s.brg.wanted else
      s.moveOrder).find? (fun r => match s.band? r with | some b => b.res == .inPageStore | none => false) = some r ∧ s.band? r = some x) ∧
    (∃ (s : State), ((s.id.isW = true ∨ (s.id.isE = false ∧ (if s.id.isH then s.brg.wanted else s.moveOrder).find? (fun r =>
      match s.band? r with | some b => b.res == .inPageStore | none => false) = none)))) ∧
    (∃ (s : State) (r : BandRef) (x : Band), s.inReset = false ∧ s.band? r = some x ∧ x.res = .inTransit ∧ s.partsLeft r = false) ∧
    (∃ (s : State) (r : BandRef), ((∀ x, s.band? r = some x → x.res ≠ .inTransit ∨ s.partsLeft r = true))) :=
  ⟨⟨wBandMoves1, 0, 0, 1, ((wBandMoves1.page? (wBandMoves1.tok 0).job (wBandMoves1.tok 0).page).get (by decide +kernel)), (((((wBandMoves1.page?
    (wBandMoves1.tok 0).job (wBandMoves1.tok 0).page).get (by decide +kernel)).plane? 0).bind (fun q => q.band? 1)).get (by decide +kernel)), by
    decide +kernel⟩,
    ⟨c0, 63, 63, 63, by decide +kernel⟩,
    ⟨wBandMoves3, by decide +kernel⟩,
    ⟨wBandMoves4, (((if wBandMoves4.id.isH then wBandMoves4.brg.wanted else wBandMoves4.moveOrder).find? (fun r =>
      match wBandMoves4.band? r with | some b => b.res == .inPageStore | none => false)).get (by decide +kernel)), ((wBandMoves4.band? (((if
      wBandMoves4.id.isH then wBandMoves4.brg.wanted else wBandMoves4.moveOrder).find? (fun r =>
      match wBandMoves4.band? r with | some b => b.res == .inPageStore | none => false)).get (by decide +kernel))).get (by decide +kernel)), by
      decide +kernel⟩,
    ⟨c0, by decide +kernel⟩,
    ⟨wBandMoves6, br, ((wBandMoves6.band? br).get (by decide +kernel)), by decide +kernel⟩,
    ⟨c0, br, by decide +kernel⟩⟩

def wCastsDecode1 : State :=
  (jobs c0 (pg0 .resident 2)).modCast 1 (fun c => { c with out := some cj })
def wCastsDecode2 : State :=
  c0.modCast 11 (fun c => { c with out := some { cj with out := [1, 2, 3, 4, 5, 6, 7, 8] } })
def wCastsDecode4 : State :=
  c0.modCast 11 (fun c => { c with stalled := true, out := some cj })

theorem test_casts_decode :
    (∃ (s : State) (n : Nat) (hits : List MemHit) (j : CastJob) (k : CastJob) (x : Band), (s.cast n).out = some j ∧ s.band? ⟨j.job, j.page,
      j.station, j.band⟩ = some x ∧ ((hits.any (·.ue) = true ∨ ((((s.memHits hits).castWrite n j.out.length).cast n).out = some k ∧ k.written =
      k.out.length ∧ k.queue = [])))) ∧
    (∃ (s : State) (n : Nat) (hits : List MemHit) (j : CastJob) (k : CastJob), (s.cast n).out = some j ∧ hits.any (·.ue) = false ∧ (((s.memHits
      hits).castWrite n j.out.length).cast n).out = some k ∧ ((k.written ≠ k.out.length ∨ k.queue ≠ []))) ∧
    (∃ (s : State) (n : Nat), (s.cast n).out = none) ∧
    (∃ (s : State) (n : Nat) (j : CastJob), (s.cast n).stalled = true ∧ (s.cast n).out = some j ∧ n < s.codec.casts.length) ∧
    (∃ (s : State) (n : Nat), (s.cast n).stalled = false) ∧
    (∃ (s : State) (n : Nat), s.inReset = false ∧ n < s.id.casts ∧ s.id.casts ≤ 12 ∧ s.codec.casts.length = 12 ∧ (s.cast n).inServ = true) ∧
    (∃ (s : State) (n : Nat), ((s.id.casts ≤ n ∨ (s.cast n).inServ = false))) :=
  ⟨⟨wCastsDecode1, 1, ([]), (((wCastsDecode1.cast 1).out).get (by decide +kernel)), cj, ((wCastsDecode1.band? ⟨(((wCastsDecode1.cast 1).out).get (by
    decide +kernel)).job, (((wCastsDecode1.cast 1).out).get (by decide +kernel)).page, (((wCastsDecode1.cast 1).out).get (by
    decide +kernel)).station, (((wCastsDecode1.cast 1).out).get (by decide +kernel)).band⟩).get (by decide +kernel)), by decide +kernel⟩,
    ⟨wCastsDecode2, 11, ([]), (((wCastsDecode2.cast 11).out).get (by decide +kernel)), (((((wCastsDecode2.memHits ([])).castWrite 11
      (((wCastsDecode2.cast 11).out).get (by decide +kernel)).out.length).cast 11).out).get (by decide +kernel)), by decide +kernel⟩,
    ⟨c0, 63, by decide +kernel⟩,
    ⟨wCastsDecode4, 11, (((wCastsDecode4.cast 11).out).get (by decide +kernel)), by decide +kernel⟩,
    ⟨c0, 63, by decide +kernel⟩,
    ⟨c0, 11, by decide +kernel⟩,
    ⟨c0, 63, by decide +kernel⟩⟩

def wCheckAhead3 : State :=
  (jobs c0 (pg0 .resident 2)).modCast 11 (fun c => { c with check := some ck })

theorem test_check_ahead :
    (∃ (s : State) (r : BandRef) (p : Page) (q : Plane) (b : Band) (w : List Byte), s.inReset = false ∧ s.page? r.job r.page = some p ∧ s.band? r =
      some b ∧ p.plane? r.plane = some q ∧ b.res = .resident ∧ s.aheadOf p r.job r.plane = some (r.band, w) ∧ s.codec.runs.any (fun x => x.job ==
      r.job && x.page == r.page && x.station == r.plane && decide (r.band < x.released) && decide (x.next ≤ r.band)) = false ∧ s.castMap r.plane ≠
      0 ∧ checkCast (s.castMap r.plane) r.plane r.band < s.codec.casts.length ∧ (s.cast (checkCast (s.castMap r.plane) r.plane r.band)).check =
      none) ∧
    (∃ (s : State) (r : BandRef), (((∀ b, s.band? r = some b → b.res ≠ .resident) ∨ (∀ p w, s.page? r.job r.page = some p → s.aheadOf p r.job
      r.plane ≠ some (r.band, w)) ∨ s.castMap r.plane = 0 ∨ (s.cast (checkCast (s.castMap r.plane) r.plane r.band)).check ≠ none))) ∧
    (∃ (s : State) (n : Nat) (k : CheckJob) (q : Plane) (b : Band), (s.cast n).check = some k ∧ s.plane? k.job k.page k.station = some q ∧ s.band?
      ⟨k.job, k.page, k.station, k.band⟩ = some b) ∧
    (∃ (s : State) (n : Nat), (s.cast n).check = none) :=
  ⟨⟨(adm 100), br, (((adm 100).page? br.job br.page).get (by decide +kernel)), (((((adm 100).page? br.job br.page).get (by decide +kernel)).plane?
    br.plane).get (by decide +kernel)), (((adm 100).band? br).get (by decide +kernel)), ([]), by decide +kernel⟩,
    ⟨c0, br, (by exact Or.inl (fun b h => absurd h (by rw [show c0.band? br = none from by decide +kernel]; exact fun e => nomatch e)))⟩,
    ⟨wCheckAhead3, 11, (((wCheckAhead3.cast 11).check).get (by decide +kernel)), ((wCheckAhead3.plane? (((wCheckAhead3.cast 11).check).get (by
      decide +kernel)).job (((wCheckAhead3.cast 11).check).get (by decide +kernel)).page (((wCheckAhead3.cast 11).check).get (by
      decide +kernel)).station).get (by decide +kernel)), ((wCheckAhead3.band? ⟨(((wCheckAhead3.cast 11).check).get (by decide +kernel)).job,
      (((wCheckAhead3.cast 11).check).get (by decide +kernel)).page, (((wCheckAhead3.cast 11).check).get (by decide +kernel)).station,
      (((wCheckAhead3.cast 11).check).get (by decide +kernel)).band⟩).get (by decide +kernel)), by decide +kernel⟩,
    ⟨c0, 63, by decide +kernel⟩⟩

def wChiselsCompress1 : State :=
  cd (jobs c0 (pg0 .absent 0)) (fun c => { c with rawQ := [br] })
def wChiselsCompress3 : State :=
  (jobs c0 (pg0 .absent 0)).modChs 7 (fun c => { c with st := .matching, ref := some br })

theorem test_chisels_compress :
    (∃ (s : State) (n : Nat) (r : BandRef) (b : Band) (q : Plane) (h : List Byte), s.inReset = false ∧ n < s.codec.chisels.length ∧ (upTo 8).find?
      (fun n => s.chsServ n && (s.chs n).st == .idle) = some n ∧ s.codec.rawQ.find? s.canPrime = some r ∧ s.band? r = some b ∧ s.plane? r.job
      r.page r.plane = some q ∧ b.hist.getD (match s.primeBand r with | some x => lastN winMax x.raw | none => []) = h) ∧
    (∃ (s : State), (((upTo 8).find? (fun n => s.chsServ n && (s.chs n).st == .idle) = none ∨ s.codec.rawQ.find? s.canPrime = none))) ∧
    (∃ (s : State) (n : Nat) (r : BandRef) (b : Band), s.inReset = false ∧ n < s.codec.chisels.length ∧ (s.chs n).ref = some r ∧ (((s.chs n).st =
      .priming ∨ (s.chs n).st = .matching)) ∧ s.band? r = some b) ∧
    (∃ (s : State) (n : Nat), (((s.chs n).ref = none ∨ ((s.chs n).st ≠ .priming ∧ (s.chs n).st ≠ .matching)))) :=
  ⟨⟨wChiselsCompress1, (((upTo 8).find? (fun n => wChiselsCompress1.chsServ n && (wChiselsCompress1.chs n).st == .idle)).get (by decide +kernel)),
    ((wChiselsCompress1.codec.rawQ.find? wChiselsCompress1.canPrime).get (by decide +kernel)), ((wChiselsCompress1.band?
    ((wChiselsCompress1.codec.rawQ.find? wChiselsCompress1.canPrime).get (by decide +kernel))).get (by decide +kernel)), ((wChiselsCompress1.plane?
    ((wChiselsCompress1.codec.rawQ.find? wChiselsCompress1.canPrime).get (by decide +kernel)).job ((wChiselsCompress1.codec.rawQ.find?
    wChiselsCompress1.canPrime).get (by decide +kernel)).page ((wChiselsCompress1.codec.rawQ.find? wChiselsCompress1.canPrime).get (by
    decide +kernel)).plane).get (by decide +kernel)), (((wChiselsCompress1.band? ((wChiselsCompress1.codec.rawQ.find?
    wChiselsCompress1.canPrime).get (by decide +kernel))).get (by decide +kernel)).hist.getD
    (match wChiselsCompress1.primeBand ((wChiselsCompress1.codec.rawQ.find? wChiselsCompress1.canPrime).get (by decide +kernel)) with | some x => lastN winMax x.raw | none => [])),
    by decide +kernel⟩,
    ⟨c0, by decide +kernel⟩,
    ⟨wChiselsCompress3, 7, (((wChiselsCompress3.chs 7).ref).get (by decide +kernel)), ((wChiselsCompress3.band? (((wChiselsCompress3.chs
      7).ref).get (by decide +kernel))).get (by decide +kernel)), by decide +kernel⟩,
    ⟨c0, 63, by decide +kernel⟩⟩

def wChiselContexts1 : State :=
  (jobs c0 (pg0 .absent 0)).modChs 7 (fun c => { c with st := .stalled, ref := some br })
def wChiselContexts3 : State :=
  (jobs c0 (pg0 .absent 0)).modChs 7 (fun c => { c with st := .stalled, ref := some br })
def wChiselContexts5 : State :=
  cd c0 (fun c => { c with saved := [{ ix := 127, kind := 0, ref := br, words := [], history := [], stream := [] }] })

theorem test_chisel_contexts :
    (∃ (s : State) (n : Nat), (s.chs n).st = .stalled) ∧
    (∃ (s : State) (n : Nat), (s.chs n).st ≠ .stalled) ∧
    (∃ (s : State) (n : Nat) (ix : Nat) (r : BandRef) (b : Band) (q : Plane), s.inReset = false ∧ n < s.codec.chisels.length ∧ (s.chs n).ref = some
      r ∧ (s.chs n).st = .stalled ∧ (upTo 128).find? (fun i => !s.codec.saved.any (fun x => x.ix == i)) = some ix ∧ s.band? r = some b ∧ s.plane?
      r.job r.page r.plane = some q) ∧
    (∃ (s : State) (n : Nat), (((s.chs n).ref = none ∨ (s.chs n).st ≠ .stalled ∨ (upTo 128).find? (fun i => !s.codec.saved.any (fun x => x.ix ==
      i)) = none))) ∧
    (∃ (s : State) (n : Nat) (ix : Nat) (c : SavedCtx), n < s.codec.chisels.length ∧ s.codec.saved.find? (fun x => x.ix == ix) = some c ∧ (upTo
      8).find? (fun n => s.chsServ n && (s.chs n).st == .idle) = some n) ∧
    (∃ (s : State) (ix : Nat), ((s.codec.saved.find? (fun x => x.ix == ix) = none ∨ (upTo 8).find? (fun n => s.chsServ n && (s.chs n).st == .idle)
      = none))) ∧
    (∃ (s : State) (n : Nat), s.inReset = false ∧ n < 8 ∧ n < s.codec.chisels.length ∧ s.chsServ n = true) ∧
    (∃ (s : State) (n : Nat), s.chsServ n = false) :=
  ⟨⟨wChiselContexts1, 7, by decide +kernel⟩,
    ⟨c0, 63, by decide +kernel⟩,
    ⟨wChiselContexts3, 7, (((upTo 128).find? (fun i => !wChiselContexts3.codec.saved.any (fun x => x.ix == i))).get (by decide +kernel)),
      (((wChiselContexts3.chs 7).ref).get (by decide +kernel)), ((wChiselContexts3.band? (((wChiselContexts3.chs 7).ref).get (by
      decide +kernel))).get (by decide +kernel)), ((wChiselContexts3.plane? (((wChiselContexts3.chs 7).ref).get (by decide +kernel)).job
      (((wChiselContexts3.chs 7).ref).get (by decide +kernel)).page (((wChiselContexts3.chs 7).ref).get (by decide +kernel)).plane).get (by
      decide +kernel)), by decide +kernel⟩,
    ⟨c0, 63, by decide +kernel⟩,
    ⟨wChiselContexts5, (((upTo 8).find? (fun n => wChiselContexts5.chsServ n && (wChiselContexts5.chs n).st == .idle)).get (by decide +kernel)),
      127, ((wChiselContexts5.codec.saved.find? (fun x => x.ix == 127)).get (by decide +kernel)), by decide +kernel⟩,
    ⟨c0, 63, by decide +kernel⟩,
    ⟨c0, 7, by decide +kernel⟩,
    ⟨c0, 63, by decide +kernel⟩⟩

def wSensorsAndLadders1 : State :=
  rg c0 (blkA 5 0) 0xD
def wSensorsAndLadders3 : State :=
  (rg c0 (clkB + 8) (1 + 64)).modSens 32 (fun x => { x with broken := true })
def wSensorsAndLadders5 : State :=
  rg (cl c0 [(6, 0, 5)]) (thmA 0 0) 1
def wSensorsAndLadders8 : State :=
  c0.modSens 45 (fun x => { x with broken := true, good := 10 })
def wSensorsAndLadders10 : State :=
  c0.modLad 14 (fun x => { x with ran := 100000000 })

theorem test_sensors_and_ladders :
    (∃ (s : State) (i : ThermIn) (k : Nat), s.inReset = false ∧ k < 46 ∧ s.thm.sensors.length = 46 ∧ s.sensUsed k = true ∧ (s.sensRead k i).2.2 ≠
      0) ∧
    (∃ (s : State) (i : ThermIn) (k : Nat), s.inReset = false ∧ k < 46 ∧ s.thm.sensors.length = 46 ∧ s.sensUsed k = true ∧ (s.sensRead k i).2.2 = 0
      ∧ (s.sens k).broken = false) ∧
    (∃ (s : State) (i : ThermIn) (k : Nat), s.inReset = false ∧ k < 46 ∧ s.thm.sensors.length = 46 ∧ s.sensUsed k = true ∧ (s.sensRead k i).2.2 = 0
      ∧ (s.sens k).broken = true) ∧
    (∃ (s : State) (k : Nat), s.sensUsed k = false) ∧
    (∃ (s : State) (i : ThermIn) (k : Nat) (c : Nat), s.sensKind k = 1 ∧ i.codes.find? (fun e => e.1 == k) = some (k, c) ∧ c < 4096) ∧
    (∃ (s : State) (d : Nat), s.inReset = false ∧ d < 15 ∧ s.thm.ladders.length = 15) ∧
    (∃ (s : State), s.inReset = false) ∧
    (∃ (s : State) (k : Nat), s.inReset = false ∧ k < s.thm.sensors.length ∧ (s.sens k).broken = true ∧ 10 ≤ (s.sens k).good) ∧
    (∃ (s : State) (k : Nat), (((s.sens k).broken = false ∨ (s.sens k).good < 10))) ∧
    (∃ (s : State) (d : Nat), s.inReset = false ∧ d < 15 ∧ s.thm.ladders.length = 15 ∧ (s.lad d).crit = false ∧ (s.lad d).dwell ≤ (s.lad d).ran) ∧
    (∃ (s : State) (d : Nat), ((15 ≤ d ∨ (s.lad d).crit = true ∨ (s.lad d).ran < (s.lad d).dwell))) :=
  ⟨⟨wSensorsAndLadders1, (({ codes := [(0, 4064)], dies := [] }) : ThermIn), 45, by decide +kernel⟩,
    ⟨c0, (({ codes := [(0, 4064)], dies := [] }) : ThermIn), 32, by decide +kernel⟩,
    ⟨wSensorsAndLadders3, (({ codes := [(0, 4064)], dies := [] }) : ThermIn), 32, by decide +kernel⟩,
    ⟨c0, 63, by decide +kernel⟩,
    ⟨wSensorsAndLadders5, (({ codes := [(0, 4064)], dies := [] }) : ThermIn), 0, 4064, by decide +kernel⟩,
    ⟨c0, 11, by decide +kernel⟩,
    ⟨c0, by decide +kernel⟩,
    ⟨wSensorsAndLadders8, 45, by decide +kernel⟩,
    ⟨c0, 63, by decide +kernel⟩,
    ⟨wSensorsAndLadders10, 14, by decide +kernel⟩,
    ⟨c0, 63, by decide +kernel⟩⟩

def wFuserControl5 : State :=
  th c0 (fun t => { t with zcGood := 16 })
def wFuserControl13 : State :=
  c0.modHeat 3 (fun x => { x with ff := 5, ffEnd := 9 })

theorem test_fuser_control :
    (∃ (s : State), s.inReset = false ∧ s.id.motion = true ∧ s.thm.zcOk = false ∧ s.id.heaters ≤ 4 ∧ s.thm.heaters.length = 4) ∧
    (∃ (s : State) (us : Nat), s.inReset = false ∧ s.id.motion = true ∧ s.thm.zcOk = true ∧ ((mainsFreq (lastN 16 (s.thm.zcHist ++ [us])) < 4500 ∨
      6500 < mainsFreq (lastN 16 (s.thm.zcHist ++ [us]))))) ∧
    (∃ (s : State) (us : Nat) (h : Nat), s.inReset = false ∧ s.id.motion = true ∧ h < s.id.heaters ∧ s.id.heaters ≤ 4 ∧ s.thm.heaters.length = 4 ∧
      4500 ≤ mainsFreq (lastN 16 (s.thm.zcHist ++ [us])) ∧ mainsFreq (lastN 16 (s.thm.zcHist ++ [us])) ≤ 6500) ∧
    (∃ (s : State), s.inReset = false ∧ s.id.motion = true) ∧
    (∃ (s : State), s.inReset = false ∧ s.id.motion = true ∧ s.thm.zcOk = false ∧ 16 ≤ s.thm.zcGood) ∧
    (∃ (s : State), ((s.id.motion = false ∨ s.thm.zcOk = true ∨ s.thm.zcGood < 16))) ∧
    (∃ (s : State), s.id.motion = false) ∧
    (∃ (s : State) (h : Nat) (e : Int) (o : Int) (g : Int), s.inReset = false ∧ s.id.motion = true ∧ h < s.id.heaters ∧ s.id.heaters ≤ 4 ∧
      s.thm.heaters.length = 4 ∧ e = sfld (s.act (hvfB + 0x20 + 0x10 * h)) 0 16 - (s.sens (s.sensA h)).temp ∧ g = (s.tabAct 8 0 (32 * h + 4) 2 :
      Nat) * e + (s.tabAct 8 0 (32 * h + 8) 2 : Nat) * 10 * (e - (s.heat h).lastT) ∧ o = g + (s.heat h).integ / 10) ∧
    (∃ (s : State) (h : Nat), s.inReset = false ∧ h < s.id.heaters ∧ h < s.thm.heaters.length ∧ (s.heat h).pairOk = true ∧ s.pairAgrees h = false) ∧
    (∃ (s : State) (h : Nat), ((s.id.heaters ≤ h ∨ (s.heat h).pairOk = false ∨ s.pairAgrees h = true))) ∧
    (∃ (s : State) (h : Nat), s.inReset = false ∧ h < s.id.heaters ∧ h < s.thm.heaters.length ∧ (s.heat h).pairOk = false ∧ s.pairAgrees h = true) ∧
    (∃ (s : State) (h : Nat), ((s.id.heaters ≤ h ∨ (s.heat h).pairOk = true ∨ s.pairAgrees h = false))) ∧
    (∃ (s : State) (k : Nat), (s.heat k).ff ≠ 0 ∧ ((∀ h ∈ s.thm.heaters, h.ff ≠ 0 → (s.heat k).ffEnd ≤ h.ffEnd))) ∧
    (∃ (s : State), ((∀ h ∈ s.thm.heaters, h.ff = 0))) :=
  ⟨⟨c0, by decide +kernel⟩,
    ⟨(adm 100), 63, by decide +kernel⟩,
    ⟨c0, 10000, 3, by decide +kernel⟩,
    ⟨c0, by decide +kernel⟩,
    ⟨wFuserControl5, by decide +kernel⟩,
    ⟨c0, by decide +kernel⟩,
    ⟨(stage h0 10), by decide +kernel⟩,
    ⟨c0, 3, (sfld (c0.act (hvfB + 0x20 + 0x10 * 3)) 0 16 - (c0.sens (c0.sensA 3)).temp), (((c0.tabAct 8 0 (32 * 3 + 4) 2 : Nat) * (sfld (c0.act
      (hvfB + 0x20 + 0x10 * 3)) 0 16 - (c0.sens (c0.sensA 3)).temp) + (c0.tabAct 8 0 (32 * 3 + 8) 2 : Nat) * 10 * ((sfld (c0.act (hvfB + 0x20 +
      0x10 * 3)) 0 16 - (c0.sens (c0.sensA 3)).temp) - (c0.heat 3).lastT)) + (c0.heat 3).integ / 10), ((c0.tabAct 8 0 (32 * 3 + 4) 2 : Nat) * (sfld
      (c0.act (hvfB + 0x20 + 0x10 * 3)) 0 16 - (c0.sens (c0.sensA 3)).temp) + (c0.tabAct 8 0 (32 * 3 + 8) 2 : Nat) * 10 * ((sfld (c0.act (hvfB +
      0x20 + 0x10 * 3)) 0 16 - (c0.sens (c0.sensA 3)).temp) - (c0.heat 3).lastT)), by decide +kernel⟩,
    ⟨(adm 100), 0, by decide +kernel⟩,
    ⟨c0, 63, by decide +kernel⟩,
    ⟨pairs, 3, by decide +kernel⟩,
    ⟨c0, 63, by decide +kernel⟩,
    ⟨wFuserControl13, 3, by decide +kernel⟩,
    ⟨c0, by decide +kernel⟩⟩

def wHighVoltage2 : State :=
  (rg c0 (hvA 31 0) 0x10101).modHv 31 (fun x => { x with errUs := 1000 })
def wHighVoltage4 : State :=
  rg (tb (tb (tk c0 0 (fun t => { t with st := .imaging, reg := some 0 })) 9 0 (8 * 63 + 4) 4 0x0F0F02) 7 15 (0x50 * 15 + 16 + 62) 2 77) (hvA 31 0)
    0x1E

theorem test_high_voltage :
    (∃ (s : State) (c : Nat), s.inReset = false ∧ c < s.id.hvs ∧ s.id.hvs ≤ 32 ∧ s.thm.hv.length = 32) ∧
    (∃ (s : State) (c : Nat), s.inReset = false ∧ c < s.id.hvs ∧ c < s.thm.hv.length ∧ s.flag (hvA c 0) 0 = true ∧ (s.hvc c).fault = false ∧ 1000 *
      s.f (hvA c 0) 8 8 ≤ (s.hvc c).errUs ∧ s.sched.toks.length = 16) ∧
    (∃ (s : State) (c : Nat), ((s.id.hvs ≤ c ∨ s.flag (hvA c 0) 0 = false ∨ (s.hvc c).fault = true ∨ (s.hvc c).errUs < 1000 * s.f (hvA c 0) 8 8))) ∧
    (∃ (s : State) (k : Nat) (e : Nat) (c : Nat), s.inReset = false ∧ (s.tok k).busy = true ∧ (s.tok k).reg ≠ none ∧ e < 64 ∧ (s.sheetEv e).act = 2
      ∧ c < s.id.hvs ∧ s.id.hvs ≤ 32 ∧ s.thm.hv.length = 32 ∧ s.f (hvA c 0) 1 4 = (s.sheetEv e).idx ∧ s.tabAct 7 (s.sheetEv e).idx (0x50 *
      (s.sheetEv e).arg + 16 + 2 * c) 2 ≠ 0xFFFF) :=
  ⟨⟨c0, 31, by decide +kernel⟩,
    ⟨wHighVoltage2, 31, by decide +kernel⟩,
    ⟨c0, 63, by decide +kernel⟩,
    ⟨wHighVoltage4, 0, 63, 31, by decide +kernel⟩⟩

def wStepCommands1 : State :=
  (cl c0 [(3, 23, 0), (1, 3, 1 + 256 * 23), (1, 4, 2 + 256 * 23)]).modStp 23 (fun x => { x with st := .idle })
def wStepCommands2 : State :=
  (cl c0 [(3, 23, 0), (1, 3, 1 + 256 * 23), (1, 4, 2 + 256 * 23)]).modStp 23 (fun x => { x with st := .stopped })
def wStepCommands3 : State :=
  (cl c0 [(3, 23, 0), (1, 3, 1 + 256 * 23), (1, 4, 2 + 256 * 23)]).modStp 23 (fun x => { x with st := .idle })
def wStepCommands5 : State :=
  (cl c0 [(3, 23, 0), (1, 3, 1 + 256 * 23), (1, 4, 2 + 256 * 23)]).modStp 23 (fun x => { x with st := .moving })
def wStepCommands6 : State :=
  (cl c0 [(3, 23, 0), (1, 3, 1 + 256 * 23), (1, 4, 2 + 256 * 23)]).modStp 23 (fun x => { x with st := .idle })

theorem test_step_commands :
    (∃ (s : State) (n : Nat), s.stpHere n = true ∧ n < s.stp.length ∧ s.stpClaimed n = true ∧ ((s.sp n).st = .idle ∨ (s.sp n).st = .stopped)) ∧
    (∃ (s : State) (n : Nat), s.stpHere n = true ∧ n < s.stp.length ∧ s.stpClaimed n = true ∧ (s.sp n).st = .stopped) ∧
    (∃ (s : State) (n : Nat), s.stpHere n = true ∧ n < s.stp.length ∧ s.stpClaimed n = true ∧ ((s.sp n).st = .idle ∨ (s.sp n).st = .stopped)) ∧
    (∃ (s : State) (n : Nat), s.stpHere n = true ∧ s.stpClaimed n = false) ∧
    (∃ (s : State) (n : Nat), s.stpHere n = true ∧ s.stpClaimed n = true ∧ (s.sp n).st ≠ .idle) ∧
    (∃ (s : State) (n : Nat), s.stpHere n = true ∧ s.stpClaimed n = true ∧ (s.sp n).st ≠ .stopped) ∧
    (∃ (s : State) (n : Nat), s.stpHere n = false) :=
  ⟨⟨wStepCommands1, 23, by decide +kernel⟩,
    ⟨wStepCommands2, 23, by decide +kernel⟩,
    ⟨wStepCommands3, 23, by decide +kernel⟩,
    ⟨c0, 23, by decide +kernel⟩,
    ⟨wStepCommands5, 23, by decide +kernel⟩,
    ⟨wStepCommands6, 23, by decide +kernel⟩,
    ⟨c0, 63, by decide +kernel⟩⟩

def wStepStops1 : State :=
  (cl c0 [(3, 23, 0), (1, 3, 1 + 256 * 23), (1, 4, 2 + 256 * 23)]).modStp 23 (fun x => { x with st := .moving })
def wStepStops3 : State :=
  tk ((cl c0 [(3, 23, 1), (1, 3, 1 + 256 * 23), (1, 4, 2 + 256 * 23)]).modStp 23 (fun x => { x with st := .moving })) 0 (fun t =>
    { t with st := .picked })
def wStepStops7 : State :=
  (cl c0 [(3, 23, 0), (1, 3, 1 + 256 * 23), (1, 4, 2 + 256 * 23)]).modStp 23 (fun x => { x with st := .moving })
def wStepStops9 : State :=
  (cl c0 [(3, 23, 0), (1, 3, 1 + 256 * 23), (1, 4, 2 + 256 * 23)]).modStp 23 (fun x => { x with st := .moving })

theorem test_step_stops :
    (∃ (s : State) (n : Nat), s.stpHere n = true ∧ n < s.stp.length ∧ s.stpCarries n = false ∧ ((s.sp n).st = .moving ∨ (s.sp n).st =
      .referencing)) ∧
    (∃ (s : State) (n : Nat), s.stpHere n = true ∧ s.stpCarries n = false ∧ (s.sp n).st ≠ .moving ∧ (s.sp n).st ≠ .referencing) ∧
    (∃ (s : State) (n : Nat), s.stpHere n = true ∧ s.stpCarries n = true) ∧
    (∃ (s : State) (n : Nat), s.stpHere n = true) ∧
    (∃ (s : State) (n : Nat), s.stpHere n = true) ∧
    (∃ (s : State) (n : Nat), s.stpHere n = true ∧ s.stpCarries n = false ∧ (s.sp n).moving = false) ∧
    (∃ (s : State) (n : Nat), s.stpHere n = true ∧ s.stpCarries n = false ∧ (s.sp n).moving = true) ∧
    (∃ (s : State) (n : Nat), s.stpHere n = true ∧ (((s.sp n).st = .idle ∨ (s.sp n).st = .stopped ∨ (s.sp n).st = .disabled))) ∧
    (∃ (s : State) (n : Nat), s.stpHere n = true ∧ (s.sp n).st ≠ .idle ∧ (s.sp n).st ≠ .stopped ∧ (s.sp n).st ≠ .disabled) ∧
    (∃ (s : State) (n : Nat), s.stpHere n = false) :=
  ⟨⟨wStepStops1, 23, by decide +kernel⟩,
    ⟨c0, 23, by decide +kernel⟩,
    ⟨wStepStops3, 23, by decide +kernel⟩,
    ⟨c0, 23, by decide +kernel⟩,
    ⟨c0, 23, by decide +kernel⟩,
    ⟨c0, 23, by decide +kernel⟩,
    ⟨wStepStops7, 23, by decide +kernel⟩,
    ⟨c0, 23, by decide +kernel⟩,
    ⟨wStepStops9, 23, by decide +kernel⟩,
    ⟨c0, 63, by decide +kernel⟩⟩

def wStepMotion1 : State :=
  (cl c0 [(3, 23, 0), (1, 3, 1 + 256 * 23), (1, 4, 2 + 256 * 23)]).modStp 23 (fun x => { x with st := .moving })
def wStepMotion2 : State :=
  (cl c0 [(3, 23, 0), (1, 3, 1 + 256 * 23), (1, 4, 2 + 256 * 23)]).modStp 23 (fun x => { x with st := .referencing, refStage := 1 })
def wStepMotion4 : State :=
  ({ ((cl c0 [(3, 23, 0), (1, 3, 1 + 256 * 23), (1, 4, 2 + 256 * 23)]).modStp 23 (fun x => { x with st := .moving })) with bus := { c0.bus with ov2 := true } }
    : State)
def wStepMotion6 : State :=
  (cl c0 [(1, 3, 5 + 256 * 23)]).modStp 23 (fun x => { x with st := .referencing })
def wStepMotion7 : State :=
  (rg (cl c0 [(1, 3, 5 + 256 * 23)]) (stpA 23 0) 0x40).modStp 23 (fun x => { x with st := .moving })
def wStepMotion8 : State :=
  cl c0 [(1, 3, 5 + 256 * 23)]
def wStepMotion10 : State :=
  cl c0 [(1, 3, 6 + 256 * 23)]
def wStepMotion11 : State :=
  tb ((cl c0 [(1, 3, 6 + 256 * 23)]).modStp 23 (fun x => { x with st := .referencing, refStage := 3 })) 5 23 16 4 1
def wStepMotion12 : State :=
  (cl c0 [(1, 3, 6 + 256 * 23)]).modStp 23 (fun x => { x with st := .referencing, refStage := 6 })

theorem test_step_motion :
    (∃ (s : State) (n : Nat), s.stpHere n = true ∧ n < s.stp.length ∧ (((s.sp n).st = .moving ∨ (s.sp n).st = .stopping ∨ (s.sp n).st =
      .faultStop)) ∧ s.flag (stpA n 0) 7 = false) ∧
    (∃ (s : State) (n : Nat), s.stpHere n = true ∧ n < s.stp.length ∧ (s.sp n).st = .referencing ∧ (s.sp n).refStage = 1 ∧ (s.sp n).homeIn = false
      ∧ s.flag (stpA n 0) 7 = false) ∧
    (∃ (s : State) (n : Nat), ((s.stpHere n = false ∨ (s.sp n).moving = false))) ∧
    (∃ (s : State) (n : Nat) (c : Nat), s.stpHere n = true ∧ n < s.stp.length ∧ s.stpCause n c = true ∧ (s.sp n).st ≠ .fault ∧ (s.sp n).st ≠
      .faultStop ∧ (s.sp n).defer = false) ∧
    (∃ (s : State) (n : Nat) (c : Nat), ((s.stpHere n = false ∨ s.stpCause n c = false ∨ (s.sp n).st = .fault ∨ (s.sp n).st = .faultStop ∨ (s.sp
      n).defer = true))) ∧
    (∃ (s : State) (n : Nat), s.stpHere n = true ∧ n < s.stp.length ∧ s.pinFor 5 n = true ∧ (s.sp n).st = .referencing ∧ (s.sp n).refStage = 0 ∧
      (s.sp n).lastAt ≠ some s.clk) ∧
    (∃ (s : State) (n : Nat), s.stpHere n = true ∧ n < s.stp.length ∧ s.pinFor 5 n = true ∧ s.flag (stpA n 0) 6 = true ∧ (((s.sp n).st = .moving ∨
      (s.sp n).st = .stopping)) ∧ (s.sp n).defer = false) ∧
    (∃ (s : State) (n : Nat) (l : Bool), s.stpHere n = true ∧ s.pinFor 5 n = true ∧ ((s.flag (stpA n 0) 6 = false ∨ l = false)) ∧ (s.sp n).st ≠
      .referencing) ∧
    (∃ (s : State) (n : Nat), ((s.stpHere n = false ∨ s.pinFor 5 n = false))) ∧
    (∃ (s : State) (n : Nat), s.stpHere n = true ∧ s.pinFor 6 n = true ∧ (s.sp n).st ≠ .referencing) ∧
    (∃ (s : State) (n : Nat), s.stpHere n = true ∧ n < s.stp.length ∧ s.pinFor 6 n = true ∧ (s.sp n).st = .referencing ∧ (s.sp n).refStage = 3 ∧ 0
      < s.stpProf n 4) ∧
    (∃ (s : State) (n : Nat), s.stpHere n = true ∧ n < s.stp.length ∧ s.pinFor 6 n = true ∧ (s.sp n).st = .referencing ∧ (s.sp n).refStage = 6) ∧
    (∃ (s : State) (n : Nat), ((s.stpHere n = false ∨ s.pinFor 6 n = false))) ∧
    (∃ (s : State) (e : Nat) (d : Nat) (a : Bool) (b : Bool), s.inReset = false ∧ e < s.id.encs ∧ e < s.enc.length ∧ (s.claim 8 e).isSome = true ∧
      (quadPos a b + 4 - quadPos ((s.encPin.getD e (0, 0)).1 == 1) ((s.encPin.getD e (0, 0)).2 == 1)) % 4 = d) ∧
    (∃ (s : State) (e : Nat), ((s.id.encs ≤ e ∨ s.claim 8 e = none))) :=
  ⟨⟨wStepMotion1, 23, by decide +kernel⟩,
    ⟨wStepMotion2, 23, by decide +kernel⟩,
    ⟨c0, 63, by decide +kernel⟩,
    ⟨wStepMotion4, 23, 4, by decide +kernel⟩,
    ⟨c0, 63, 63, by decide +kernel⟩,
    ⟨wStepMotion6, 23, by decide +kernel⟩,
    ⟨wStepMotion7, 23, by decide +kernel⟩,
    ⟨wStepMotion8, 23, true, by decide +kernel⟩,
    ⟨c0, 63, by decide +kernel⟩,
    ⟨wStepMotion10, 23, by decide +kernel⟩,
    ⟨wStepMotion11, 23, by decide +kernel⟩,
    ⟨wStepMotion12, 23, by decide +kernel⟩,
    ⟨c0, 63, by decide +kernel⟩,
    ⟨(cl c0 [(8, 7, 1)]), 7, ((quadPos true true + 4 - quadPos (((cl c0 [(8, 7, 1)]).encPin.getD 7 (0, 0)).1 == 1) (((cl c0 [(8, 7,
      1)]).encPin.getD 7 (0, 0)).2 == 1)) % 4), true, true, by decide +kernel⟩,
    ⟨c0, 63, by decide +kernel⟩⟩

def wMotorCommands2 : State :=
  (cl c0 [(2, 11, 0)]).modMot 11 (fun m => { m with st := .run })
def wMotorCommands4 : State :=
  (cl c0 [(2, 11, 0)]).modMot 11 (fun m => { m with st := .run })
def wMotorCommands5 : State :=
  (cl c0 [(2, 11, 0)]).modMot 11 (fun m => { m with st := .run })
def wMotorCommands7 : State :=
  tk (cl c0 [(2, 11, 1)]) 0 (fun t => { t with st := .picked })
def wMotorCommands9 : State :=
  ({ ((cl c0 [(3, 23, 0), (1, 3, 1 + 256 * 23), (1, 4, 2 + 256 * 23)]).modStp 23 (fun x => { x with st := .moving })) with bus := { c0.bus with ov2 := true } }
    : State)
def wMotorCommands10 : State :=
  (cl c0 [(2, 11, 0)]).modMot 11 (fun m => { m with st := .off })

theorem test_motor_commands :
    (∃ (s : State) (n : Nat), s.motHere n = true ∧ s.motClaimed n = true ∧ (s.mt n).st = .off ∧ n < s.mot.length) ∧
    (∃ (s : State) (n : Nat), s.motHere n = true ∧ s.motClaimed n = true ∧ (s.mt n).running = true) ∧
    (∃ (s : State) (n : Nat), s.motHere n = true ∧ ((s.motClaimed n = false ∨ (s.mt n).st = .fault))) ∧
    (∃ (s : State) (n : Nat), s.motHere n = true ∧ s.motCarries n = false ∧ n < s.mot.length ∧ (s.mt n).running = true) ∧
    (∃ (s : State) (n : Nat), s.motHere n = true ∧ s.motCarries n = false ∧ n < s.mot.length ∧ (s.mt n).running = true) ∧
    (∃ (s : State) (n : Nat), s.motHere n = true ∧ s.motCarries n = false ∧ (s.mt n).running = false) ∧
    (∃ (s : State) (n : Nat), s.motHere n = true ∧ s.motCarries n = true) ∧
    (∃ (s : State) (n : Nat), s.motHere n = true ∧ s.bus.ov2 = false) ∧
    (∃ (s : State) (n : Nat), s.motHere n = true ∧ s.bus.ov2 = true) ∧
    (∃ (s : State) (n : Nat) (v : Word) (g : Int) (against : Prop), s.motHere n = true ∧ n < s.mot.length ∧ g = clampI (-(s.motLim n : Int))
      (s.motLim n) (sext 18 v.toNat) ∧ ((against ↔ (s.mt n).running = true ∧ (s.mt n).turns = true ∧ g ≠ 0 ∧ decide (0 < g) ≠ (s.mt n).turnsPos))) ∧
    (∃ (s : State) (n : Nat), s.motHere n = false) :=
  ⟨⟨(adm 100), 0, by decide +kernel⟩,
    ⟨wMotorCommands2, 11, by decide +kernel⟩,
    ⟨c0, 11, by decide +kernel⟩,
    ⟨wMotorCommands4, 11, by decide +kernel⟩,
    ⟨wMotorCommands5, 11, by decide +kernel⟩,
    ⟨c0, 11, by decide +kernel⟩,
    ⟨wMotorCommands7, 11, by decide +kernel⟩,
    ⟨c0, 11, by decide +kernel⟩,
    ⟨wMotorCommands9, 11, by decide +kernel⟩,
    ⟨wMotorCommands10, 11, (5 : Word), (clampI (-(wMotorCommands10.motLim 11 : Int)) (wMotorCommands10.motLim 11) (sext 18 (5 : Word).toNat)),
      False, by decide +kernel, by decide +kernel, by decide +kernel, (by exact ⟨False.elim, fun h => absurd h (by decide +kernel)⟩)⟩,
    ⟨c0, 63, by decide +kernel⟩⟩

def wMotorStarting1 : State :=
  (cl c0 [(2, 11, 0)]).modMot 11 (fun m => { m with st := .listen })
def wMotorStarting3 : State :=
  (cl c0 [(2, 11, 0)]).modMot 11 (fun m => { m with st := .align })
def wMotorStarting5 : State :=
  (cl c0 [(2, 11, 0)]).modMot 11 (fun m => { m with st := .ramp, cmd := 1000000000 })
def wMotorStarting7 : State :=
  (cl c0 [(2, 11, 0)]).modMot 11 (fun m => { m with st := .listen })
def wMotorStarting8 : State :=
  (cl c0 [(2, 11, 0)]).modMot 11 (fun m => { m with st := .ramp, cmd := 1000000000 })
def wMotorStarting9 : State :=
  (cl c0 [(2, 11, 0)]).modMot 11 (fun m => { m with st := .run })
def wMotorStarting11 : State :=
  rg ((cl c0 [(2, 11, 0)]).modMot 11 (fun m => { m with st := .run })) (motA 11 0) 0x5
def wMotorStarting12 : State :=
  rg ((cl c0 [(2, 11, 0)]).modMot 11 (fun m => { m with st := .run })) (motA 11 0) 0x5
def wMotorStarting13 : State :=
  rg c0 (motA 11 0) 0x5

theorem test_motor_starting :
    (∃ (s : State) (n : Nat), s.motHere n = true ∧ n < s.mot.length ∧ (s.mt n).st = .listen ∧ (s.mt n).lostL = false) ∧
    (∃ (s : State) (n : Nat), ((s.motHere n = false ∨ (s.mt n).st ≠ .listen ∨ (s.mt n).lostL = true))) ∧
    (∃ (s : State) (n : Nat), s.motHere n = true ∧ (s.mt n).st = .align) ∧
    (∃ (s : State) (n : Nat), ((s.motHere n = false ∨ (s.mt n).st ≠ .align))) ∧
    (∃ (s : State) (n : Nat), s.motHere n = true ∧ n < s.mot.length ∧ (s.mt n).st = .ramp ∧ s.motAtHandover n = true) ∧
    (∃ (s : State) (n : Nat), ((s.motHere n = false ∨ (s.mt n).st ≠ .ramp ∨ s.motAtHandover n = false))) ∧
    (∃ (s : State) (n : Nat), s.motHere n = true ∧ n < s.mot.length ∧ (s.mt n).st = .listen ∧ (s.mt n).revPend = false) ∧
    (∃ (s : State) (n : Nat), s.motHere n = true ∧ n < s.mot.length ∧ (s.mt n).st = .ramp) ∧
    (∃ (s : State) (n : Nat), s.motHere n = true ∧ n < s.mot.length ∧ ((s.mt n).st = .run ∨ (s.mt n).st = .brake) ∧ (s.mt n).revPend = false) ∧
    (∃ (s : State) (n : Nat), ((s.motHere n = false ∨ (s.mt n).st = .off ∨ (s.mt n).st = .fault ∨ (s.mt n).st = .align))) ∧
    (∃ (s : State) (n : Nat) (code : Nat), s.motHere n = true ∧ n < s.mot.length ∧ s.motSense n ≠ 0 ∧ (code % 8 = 0 ∨ code % 8 = 7) ∧ (s.mt
      n).running = true) ∧
    (∃ (s : State) (n : Nat) (code : Nat), s.motHere n = true ∧ n < s.mot.length ∧ s.motByHall n = true ∧ code % 8 ≠ 0 ∧ code % 8 ≠ 7 ∧ (s.mt n).st
      = .run ∧ (s.mt n).revPend = false) ∧
    (∃ (s : State) (n : Nat) (code : Nat), s.motHere n = true ∧ s.motSense n ≠ 0 ∧ (((s.mt n).running = false ∨ (code % 8 ≠ 0 ∧ code % 8 ≠ 7 ∧
      ((s.motByHall n = false) ∨ ((s.mt n).st ≠ .run ∧ (s.mt n).st ≠ .brake)))))) ∧
    (∃ (s : State) (n : Nat), ((s.motHere n = false ∨ s.motSense n = 0))) :=
  ⟨⟨wMotorStarting1, 11, by decide +kernel⟩,
    ⟨c0, 63, by decide +kernel⟩,
    ⟨wMotorStarting3, 11, by decide +kernel⟩,
    ⟨c0, 63, by decide +kernel⟩,
    ⟨wMotorStarting5, 11, by decide +kernel⟩,
    ⟨c0, 63, by decide +kernel⟩,
    ⟨wMotorStarting7, 11, by decide +kernel⟩,
    ⟨wMotorStarting8, 11, by decide +kernel⟩,
    ⟨wMotorStarting9, 11, by decide +kernel⟩,
    ⟨c0, 63, by decide +kernel⟩,
    ⟨wMotorStarting11, 11, 63, by decide +kernel⟩,
    ⟨wMotorStarting12, 11, 11, by decide +kernel⟩,
    ⟨wMotorStarting13, 11, 63, by decide +kernel⟩,
    ⟨c0, 63, by decide +kernel⟩⟩

def wMotorRunning2 : State :=
  (cl c0 [(2, 11, 0)]).modMot 11 (fun m => { m with st := .run, badSect := 18, badSeen := true })
def wMotorRunning4 : State :=
  (cl c0 [(2, 11, 0)]).modMot 11 (fun m => { m with st := .listen, lostL := true })
def wMotorRunning8 : State :=
  (cl c0 [(2, 11, 0)]).modMot 11 (fun m => { m with st := .run })
def wMotorRunning10 : State :=
  (cl c0 [(2, 11, 0)]).modMot 11 (fun m => { m with st := .align })
def wMotorRunning11 : State :=
  (cl c0 [(2, 11, 0)]).modMot 11 (fun m => { m with st := .run, force := true, predicting := true })
def wMotorRunning12 : State :=
  (cl c0 [(2, 11, 0)]).modMot 11 (fun m => { m with st := .run })

theorem test_motor_running :
    (∃ (s : State) (n : Nat), s.motHere n = true) ∧
    (∃ (s : State) (n : Nat), s.motHere n = true ∧ n < s.mot.length ∧ (s.mt n).st = .run ∧ 18 ≤ (s.mt n).badSect ∧ (s.mt n).badSeen = true ∧ ((∀ k,
      s.motStation n = some k → k < 6))) ∧
    (∃ (s : State) (n : Nat), ((s.motHere n = false ∨ (s.mt n).st ≠ .run ∨ (s.mt n).badSect < 18 ∨ (s.mt n).badSeen = false))) ∧
    (∃ (s : State) (n : Nat), s.motHere n = true ∧ n < s.mot.length ∧ (s.mt n).st = .listen ∧ (s.mt n).lostL = true) ∧
    (∃ (s : State) (n : Nat), ((s.motHere n = false ∨ (s.mt n).st ≠ .listen ∨ (s.mt n).lostL = false))) ∧
    (∃ (s : State) (n : Nat), s.motHere n = true) ∧
    (∃ (s : State) (n : Nat), s.motHere n = true) ∧
    (∃ (s : State) (n : Nat), s.motHere n = true ∧ n < s.mot.length ∧ (((s.mt n).st = .ramp ∨ (((s.mt n).st = .run ∨ (s.mt n).st = .brake) ∧
      s.motByHall n = false)))) ∧
    (∃ (s : State) (n : Nat), ((s.motHere n = false ∨ ((s.mt n).st ≠ .ramp ∧ (s.motByHall n = true ∨ ((s.mt n).st ≠ .run ∧ (s.mt n).st ≠
      .brake)))))) ∧
    (∃ (s : State) (n : Nat), s.motHere n = true ∧ n < s.mot.length ∧ (s.mt n).st = .align) ∧
    (∃ (s : State) (n : Nat), s.motHere n = true ∧ n < s.mot.length ∧ (((s.mt n).st = .ramp ∨ (s.mt n).st = .run ∨ (s.mt n).st = .brake)) ∧ (s.mt
      n).force = true ∧ (s.mt n).predicting = true) ∧
    (∃ (s : State) (n : Nat), s.motHere n = true ∧ n < s.mot.length ∧ (((s.mt n).st = .ramp ∨ (s.mt n).st = .run ∨ (s.mt n).st = .brake)) ∧ (((s.mt
      n).force = false ∨ (s.mt n).predicting = false))) ∧
    (∃ (s : State) (n : Nat), ((s.motHere n = false ∨ ((s.mt n).running = false ∨ (s.mt n).st = .listen)))) ∧
    (∃ (s : State) (n : Nat), s.motHere n = false) :=
  ⟨⟨c0, 11, by decide +kernel⟩,
    ⟨wMotorRunning2, 11, by decide +kernel⟩,
    ⟨c0, 63, by decide +kernel⟩,
    ⟨wMotorRunning4, 11, by decide +kernel⟩,
    ⟨c0, 63, by decide +kernel⟩,
    ⟨c0, 11, by decide +kernel⟩,
    ⟨c0, 11, by decide +kernel⟩,
    ⟨wMotorRunning8, 11, by decide +kernel⟩,
    ⟨c0, 63, by decide +kernel⟩,
    ⟨wMotorRunning10, 11, by decide +kernel⟩,
    ⟨wMotorRunning11, 11, by decide +kernel⟩,
    ⟨wMotorRunning12, 11, by decide +kernel⟩,
    ⟨c0, 63, by decide +kernel⟩,
    ⟨c0, 63, by decide +kernel⟩⟩

def wBusAndChopper2 : State :=
  rg ((cl c0 [(2, 11, 0)]).modMot 11 (fun m => { m with st := .run })) (motB + 4) 4094
def wBusAndChopper3 : State :=
  rg (cl c0 [(1, 3, 14), (1, 4, 15)]) (motB + 0xC) 1
def wBusAndChopper5 : State :=
  { c0 with bus := { c0.bus with chopOn := true, vbus := 1 } }
def wBusAndChopper8 : State :=
  tk (rg c0 (shtB + 0x10) 3) 15 (fun t => { t with st := .picked })

theorem test_bus_and_chopper :
    (∃ (s : State) (c : Nat), s.inReset = false ∧ s.id.motion = true ∧ c < 4096) ∧
    (∃ (s : State) (c : Nat) (n : Nat), s.inReset = false ∧ s.id.motion = true ∧ c < 4096 ∧ s.f (motB + 4) 0 12 < c ∧ n < s.id.motors ∧ n <
      s.mot.length ∧ (s.mt n).running = true) ∧
    (∃ (s : State), s.inReset = false ∧ s.chopper = true ∧ s.pinFor 15 0 = true) ∧
    (∃ (s : State), ((s.chopper = false ∨ s.pinFor 15 0 = false))) ∧
    (∃ (s : State), s.inReset = false ∧ s.bus.chopOn = true ∧ s.bus.onV < s.bus.vbus) ∧
    (∃ (s : State), ((s.bus.chopOn = false ∨ s.bus.vbus ≤ s.bus.onV))) ∧
    (∃ (s : State), s.inReset = false ∧ s.id.motion = true ∧ s.bus.vbus + s.vHys < s.vOv1 ∧ s.flying = false) ∧
    (∃ (s : State), s.inReset = false ∧ s.id.motion = true ∧ ((s.vOv1 ≤ s.bus.vbus + s.vHys ∨ s.flying = true))) ∧
    (∃ (s : State), s.inReset = false ∧ s.id.motion = true) ∧
    (∃ (s : State), s.id.motion = false) :=
  ⟨⟨c0, 63, by decide +kernel⟩,
    ⟨wBusAndChopper2, 4095, 11, by decide +kernel⟩,
    ⟨wBusAndChopper3, by decide +kernel⟩,
    ⟨c0, by decide +kernel⟩,
    ⟨wBusAndChopper5, by decide +kernel⟩,
    ⟨c0, by decide +kernel⟩,
    ⟨c0, by decide +kernel⟩,
    ⟨wBusAndChopper8, by decide +kernel⟩,
    ⟨c0, by decide +kernel⟩,
    ⟨(stage h0 10), by decide +kernel⟩⟩

def wTimeSteering2 : State :=
  tk (rg c0 (shtB + 0x10) 3) 15 (fun t => { t with st := .picked })
def wTimeSteering4 : State :=
  jobs e0 (pg0 .inPageStore 2)
def wTimeSteering5 : State :=
  jobs e0 (pg0 .inPageStore 2)

theorem test_time_steering :
    (∃ (s : State), s.inReset = false ∧ s.flying = false) ∧
    (∃ (s : State), s.inReset = false ∧ s.flying = true) ∧
    (∃ (s : State), s.inReset = false ∧ s.timSrc = 0) ∧
    (∃ (s : State), s.inReset = false ∧ s.timSrc ≠ 0) ∧
    (∃ (s : State), s.inReset = false ∧ s.timSrc ≠ 0) ∧
    (∃ (s : State), s.inReset = false) ∧
    (∃ (s : State), s.inReset = false) ∧
    (∃ (s : State), s.timSrc = 0) :=
  ⟨⟨c0, by decide +kernel⟩,
    ⟨wTimeSteering2, by decide +kernel⟩,
    ⟨c0, by decide +kernel⟩,
    ⟨wTimeSteering4, by decide +kernel⟩,
    ⟨wTimeSteering5, by decide +kernel⟩,
    ⟨c0, by decide +kernel⟩,
    ⟨c0, by decide +kernel⟩,
    ⟨c0, by decide +kernel⟩⟩

def wComparesAndCaptures1 : State :=
  rg (cl c0 [(9, 31, 0)]) (wcA 31 0) 1
def wComparesAndCaptures3 : State :=
  rg (cl c0 [(10, 7, 0)]) (fcA 7 0) 2
def wComparesAndCaptures4 : State :=
  ({ rg (cl c0 [(10, 7, 0)]) (fcA 7 0) 3 with fcmp := List.replicate 8 { (c0.fc 7) with per := 5 } } : State)
def wComparesAndCaptures6 : State :=
  rg (cl c0 [(1, 3, 0xC + 256 * 63)]) (capA 63 0) 1

theorem test_compares_and_captures :
    (∃ (s : State) (w : Nat), s.inReset = false ∧ w < 32 ∧ s.wcmp.length = 32 ∧ (s.claim 9 w).isSome = true ∧ s.flag (wcA w 0) 0 = true ∧
      s.wcTarget w ≤ s.ns) ∧
    (∃ (s : State) (w : Nat), ((s.claim 9 w = none ∨ s.flag (wcA w 0) 0 = false ∨ s.ns < s.wcTarget w))) ∧
    (∃ (s : State) (c : Nat) (inc : Nat), s.inReset = false ∧ c < 8 ∧ s.fcmp.length = 8 ∧ (s.claim 10 c).isSome = true ∧ ((s.f (fcA c 0) 0 2 = 1 ∨
      s.f (fcA c 0) 0 2 = 2 ∨ (s.f (fcA c 0) 0 2 = 3 ∧ s.fcStale c = false ∧ (s.fc c).per ≠ 0))) ∧ s.fcDue c = true ∧ inc = (if s.f (fcA c 0) 0 2 =
      2 then (s.reg (fcA c 8)).toNat * 65536 + s.f (fcA c 0xC) 0 16 else 5 * (s.fc c).per * 4096)) ∧
    (∃ (s : State) (c : Nat), s.inReset = false ∧ (s.claim 10 c).isSome = true ∧ s.fcStale c = true) ∧
    (∃ (s : State) (c : Nat), ((s.claim 10 c = none ∨ s.f (fcA c 0) 0 2 = 0 ∨ (s.fcStale c = false ∧ (s.fcDue c = false ∨ (s.f (fcA c 0) 0 2 = 3 ∧
      (s.fc c).per = 0)))))) ∧
    (∃ (s : State) (k : Nat), s.inReset = false ∧ k < 64 ∧ s.pinFor 0xC k = true ∧ s.flag (capA k 0) 0 = true ∧ s.time.capAt.getD k none ≠ some
      s.clk) ∧
    (∃ (s : State) (k : Nat), ((s.pinFor 0xC k = false ∨ s.flag (capA k 0) 0 = false ∨ s.time.capAt.getD k none = some s.clk))) :=
  ⟨⟨wComparesAndCaptures1, 31, by decide +kernel⟩,
    ⟨c0, 63, by decide +kernel⟩,
    ⟨wComparesAndCaptures3, 7, (if wComparesAndCaptures3.f (fcA 7 0) 0 2 = 2 then (wComparesAndCaptures3.reg (fcA 7 8)).toNat * 65536 +
      wComparesAndCaptures3.f (fcA 7 0xC) 0 16 else 5 * (wComparesAndCaptures3.fc 7).per * 4096), by decide +kernel⟩,
    ⟨wComparesAndCaptures4, 7, by decide +kernel⟩,
    ⟨c0, 63, by decide +kernel⟩,
    ⟨wComparesAndCaptures6, 63, by decide +kernel⟩,
    ⟨c0, 63, by decide +kernel⟩⟩

def wPrecisionTime1 : State :=
  rg (eth c0) (ptpA 0 0) 1
def wPrecisionTime2 : State :=
  rg (eth c0) (ptpA 0 0) 1
def wPrecisionTime3 : State :=
  rg (eth c0) (ptpA 0 0) 2
def wPrecisionTime4 : State :=
  rg (eth c0) (ptpA 0 0) 2
def wPrecisionTime5 : State :=
  (rg (eth c0) (ptpA 0 0) 2).modPtp 0 (fun x => { x with waitFu := some 5 })
def wPrecisionTime6 : State :=
  (rg (eth c0) (ptpA 0 0) 2).modPtp 0 (fun x => { x with t1 := some 1, t2 := some 2, t3 := some (5, 3) })
def wPrecisionTime7 : State :=
  (rg (eth c0) (ptpA 0 0) 2).modPtp 0 (fun x => { x with st := 1 })
def wPrecisionTime8 : State :=
  rg (eth c0) (ptpA 0 0) 2
def wPrecisionTime9 : State :=
  rg (rg (ln c0 (fun l => { l with ports := List.replicate 4 (true, 0) })) (ptpA 2 0) 4) (ptpA 5 0) 4

theorem test_precision_time :
    (∃ (s : State) (p : Nat), s.inReset = false ∧ s.ptpOn p = true ∧ s.ptpRole p = 1) ∧
    (∃ (s : State) (p : Nat) (m : PtpIn), s.inReset = false ∧ s.ptpHears p m = true ∧ s.ptpRole p = 1) ∧
    (∃ (s : State) (p : Nat), s.inReset = false ∧ s.ptpOn p = true ∧ s.ptpRole p = 2 ∧ (s.pt p).st ≠ 6) ∧
    (∃ (s : State) (p : Nat) (m : PtpIn), s.inReset = false ∧ p < s.ptp.length ∧ s.ptpHears p m = true ∧ s.ptpRole p = 2 ∧ (s.pt p).st ≠ 6) ∧
    (∃ (s : State) (p : Nat) (m : PtpIn), s.inReset = false ∧ p < s.ptp.length ∧ s.ptpHears p m = true ∧ s.ptpRole p = 2 ∧ (s.pt p).waitFu = some
      m.seq) ∧
    (∃ (s : State) (p : Nat) (m : PtpIn) (t1 : Int) (t2 : Int) (t3 : Int), s.inReset = false ∧ s.ptpHears p m = true ∧ s.ptpRole p = 2 ∧ (s.pt
      p).t1 = some t1 ∧ (s.pt p).t2 = some t2 ∧ (s.pt p).t3 = some (m.seq, t3)) ∧
    (∃ (s : State) (p : Nat) (m : PtpIn), s.inReset = false ∧ s.ptpHears p m = true ∧ s.ptpRole p = 2 ∧ (((s.pt p).st = 1 ∨ (s.pt p).st = 6))) ∧
    (∃ (s : State) (p : Nat), s.inReset = false ∧ s.id.ptpPort p = true ∧ p < s.ptp.length ∧ s.ptpRole p = 2 ∧ (s.pt p).st ≠ 6) ∧
    (∃ (s : State) (p : Nat), s.inReset = false ∧ 2 ≤ p ∧ p < 6 ∧ s.ptpOn p = true ∧ s.flag (ptpA p 0) 2 = true) ∧
    (∃ (s : State) (p : Nat), ((p < 2 ∨ 6 ≤ p ∨ s.ptpOn p = false ∨ s.flag (ptpA p 0) 2 = false))) :=
  ⟨⟨wPrecisionTime1, 0, by decide +kernel⟩,
    ⟨wPrecisionTime2, 0, (({ seq := 5, twoStep := false, stamp := 1, corr := 0, raw := 2 }) : PtpIn), by decide +kernel⟩,
    ⟨wPrecisionTime3, 0, by decide +kernel⟩,
    ⟨wPrecisionTime4, 0, (({ seq := 5, twoStep := false, stamp := 1, corr := 0, raw := 2 }) : PtpIn), by decide +kernel⟩,
    ⟨wPrecisionTime5, 0, (({ seq := 5, twoStep := false, stamp := 1, corr := 0, raw := 2 }) : PtpIn), by decide +kernel⟩,
    ⟨wPrecisionTime6, 0, (({ seq := 5, twoStep := false, stamp := 1, corr := 0, raw := 2 }) : PtpIn), (((wPrecisionTime6.pt 0).t1).get (by
      decide +kernel)), (((wPrecisionTime6.pt 0).t2).get (by decide +kernel)), 3, by decide +kernel⟩,
    ⟨wPrecisionTime7, 0, (({ seq := 5, twoStep := false, stamp := 1, corr := 0, raw := 2 }) : PtpIn), by decide +kernel⟩,
    ⟨wPrecisionTime8, 0, by decide +kernel⟩,
    ⟨wPrecisionTime9, 5, by decide +kernel⟩,
    ⟨c0, 63, by decide +kernel⟩⟩

def wLineFrames3 : State :=
  rg (rg (ln c0 (fun l => { l with ports := List.replicate 4 (true, 0) })) (ptpA 2 0) 4) (ptpA 5 0) 4
def wLineFrames4 : State :=
  (rg (rg (ln c0 (fun l => { l with ports := List.replicate 4 (true, 0) })) (lnkB + 0x130) 1) lnkB 2).sawFrame 3 4
def wLineFrames5 : State :=
  rg (rg (ln c0 (fun l => { l with ports := List.replicate 4 (true, 0) })) (lnkB + 0x130) 1) lnkB 2

theorem test_line_frames :
    (∃ (s : State), s.inReset = false ∧ s.id.llPorts ≠ 0) ∧
    (∃ (s : State), s.id.llPorts = 0) ∧
    (∃ (s : State) (p : Nat) (f : OuvFrame), s.inReset = false ∧ s.llUp p = true ∧ f.etype = s.f (lnkB + 4) 0 16 ∧ f.ver ≠ 1) ∧
    (∃ (s : State) (p : Nat) (f : OuvFrame), s.inReset = false ∧ s.llUp p = true ∧ f.etype = s.f (lnkB + 4) 0 16 ∧ f.ver = 1 ∧ s.line.seen.contains
      (f.src, f.seq) = true) ∧
    (∃ (s : State) (p : Nat) (f : OuvFrame) (go : List Out), s.inReset = false ∧ s.llUp p = true ∧ f.etype = s.f (lnkB + 4) 0 16 ∧ f.ver = 1 ∧
      s.line.seen.contains (f.src, f.seq) = false ∧ (go = (if f.hops = 0 then [] else ((upTo 4).filter (fun q => q != p && s.llUp q)).map (fun q =>
      Out.line q { f with hops := f.hops - 1 })))) ∧
    (∃ (s : State) (p : Nat) (f : OuvFrame), ((s.llUp p = false ∨ f.etype ≠ s.f (lnkB + 4) 0 16))) :=
  ⟨⟨c0, by decide +kernel⟩,
    ⟨(stage h0 10), by decide +kernel⟩,
    ⟨wLineFrames3, 3, (({ ver := 2, src := 3, dst := 1, seq := 4, hops := 1, body := .orderAck 5 }) : OuvFrame), by decide +kernel⟩,
    ⟨wLineFrames4, 3, (({ ver := 1, src := 3, dst := 1, seq := 4, hops := 1, body := .orderAck 5 }) : OuvFrame), by decide +kernel⟩,
    ⟨wLineFrames5, 3, (({ ver := 1, src := 3, dst := 9, seq := 4, hops := 1, body := .orderAck 5 } : OuvFrame) : OuvFrame), (if
      (({ ver := 1, src := 3, dst := 9, seq := 4, hops := 1, body := .orderAck 5 } : OuvFrame) : OuvFrame).hops = 0 then [] else ((upTo 4).filter
      (fun q => q != 3 && wLineFrames5.llUp q)).map (fun q => Out.line q
      { (({ ver := 1, src := 3, dst := 9, seq := 4, hops := 1, body := .orderAck 5 } : OuvFrame) : OuvFrame) with hops := (({ ver := 1, src := 3, dst := 9, seq := 4, hops := 1, body := .orderAck 5 } : OuvFrame) : OuvFrame).hops - 1 })),
      by decide +kernel⟩,
    ⟨c0, 63, (({ ver := 2, src := 3, dst := 1, seq := 4, hops := 1, body := .orderAck 5 }) : OuvFrame), by decide +kernel⟩⟩

def wLineMembers2 : State :=
  ln (rg c0 lnkB 1) (fun l =>
    { l with members := [{ id := 64, glb := 0, recv := 0, floor := 0, busy := 0, joined := false, joinReq := true, lost := false }] })
def wLineMembers5 : State :=
  rg (rg (ln c0 (fun l => { l with ports := List.replicate 4 (true, 0) })) (lnkB + 0x130) 1) lnkB 2
def wLineMembers6 : State :=
  rg (rg (ln c0 (fun l => { l with ports := List.replicate 4 (true, 0) })) (lnkB + 0x130) 1) lnkB 2
def wLineMembers8 : State :=
  ln (rg c0 lnkB 1) (fun l =>
    { l with members := [{ id := 64, glb := 0, recv := 0, floor := 0, busy := 0, joined := false, joinReq := true, lost := false }] })

theorem test_line_members :
    (∃ (s : State) (src : Nat) (st : Nat), s.inReset = false ∧ st ≤ 3 ∧ s.role = 1 ∧ src ≠ 0 ∧ src ≤ 64 ∧ s.line.members.find? (fun m => m.id ==
      src) = none) ∧
    (∃ (s : State) (src : Nat) (st : Nat) (jr : Bool) (m : Member), s.inReset = false ∧ st ≤ 3 ∧ s.role = 1 ∧ s.line.members.find? (fun m => m.id
      == src) = some m ∧ ((m.joined = false ∨ m.lost = true ∨ jr = false))) ∧
    (∃ (s : State) (src : Nat) (st : Nat) (jr : Bool), s.inReset = false ∧ st ≤ 3 ∧ s.role = 1 ∧
      ((match s.line.members.find? (fun m => m.id == src) with | some m => m.joined = true ∧ m.lost = false ∧ jr = true | none => src = 0 ∨ 64 < src))) ∧
    (∃ (s : State), s.inReset = false ∧ s.role ≠ 1) ∧
    (∃ (s : State), s.inReset = false ∧ s.role = 2) ∧
    (∃ (s : State), s.inReset = false ∧ s.role = 2) ∧
    (∃ (s : State), s.role ≠ 2) ∧
    (∃ (s : State) (id : Nat) (m : Member), s.inReset = false ∧ s.role = 1 ∧ s.lineQuiet = true ∧ s.line.members.find? (fun m => m.id == id &&
      m.joinReq && !(m.joined && !m.lost)) = some m) ∧
    (∃ (s : State) (id : Nat), ((s.role ≠ 1 ∨ s.lineQuiet = false ∨ s.line.members.find? (fun m => m.id == id && m.joinReq && !(m.joined &&
      !m.lost)) = none))) ∧
    (∃ (s : State) (u : State) (p : Nat) (up : Bool), s.inReset = false ∧ p < s.id.llPorts ∧ (s.line.ports.getD p (false, 0)).1 ≠ up ∧ (u =
      { s with line := { s.line with ports := updAt s.line.ports p (fun x => (up, if up then x.2 else satN 8 (x.2 + 1))) } })) ∧
    (∃ (s : State) (p : Nat) (up : Bool), ((s.id.llPorts ≤ p ∨ (s.line.ports.getD p (false, 0)).1 = up))) :=
  ⟨⟨(rg c0 lnkB 1), 63, 3, by decide +kernel⟩,
    ⟨wLineMembers2, 64, 3, true, ((wLineMembers2.line.members.find? (fun m => m.id == 64)).get (by decide +kernel)), by decide +kernel⟩,
    ⟨(rg c0 lnkB 1), 65, 3, true, by decide +kernel, by decide +kernel, by decide +kernel, (by exact Or.inr (by decide))⟩,
    ⟨c0, by decide +kernel⟩,
    ⟨wLineMembers5, by decide +kernel⟩,
    ⟨wLineMembers6, by decide +kernel⟩,
    ⟨c0, by decide +kernel⟩,
    ⟨wLineMembers8, 64, ((wLineMembers8.line.members.find? (fun m => m.id == 64 && m.joinReq && !(m.joined && !m.lost))).get (by decide +kernel)),
      by decide +kernel⟩,
    ⟨c0, 63, by decide +kernel⟩,
    ⟨c0, (({ c0 with line := { c0.line with ports := updAt c0.line.ports 3 (fun x => (true, if true then x.2 else satN 8 (x.2 + 1))) } }) : State),
      3, true, by decide +kernel⟩,
    ⟨c0, 63, true, by decide +kernel⟩⟩

def wLineOrders3 : State :=
  rg (rg (ln c0 (fun l => { l with ports := List.replicate 4 (true, 0) })) (lnkB + 0x130) 1) lnkB 2
def wLineOrders8 : State :=
  ln (rg c0 lnkB 1) (fun l => { l with issued := [{ order := order 1, acks := [1], refused := false, go := false }] })
def wLineOrders10 : State :=
  ln (rg c0 lnkB 1) (fun l => { l with issued := [{ order := order 1, acks := [1], refused := false, go := false }] })
def wLineOrders13 : State :=
  ln (rg (ln c0 (fun l => { l with admitted := true })) lnkB 2) (fun l =>
    { l with orders := [{ order := order 1, recv := 0, answer := some 0, go := true }] })

theorem test_line_orders :
    (∃ (s : State) (pickT : Nat) (route : List (Nat × Nat × Nat)), s.inReset = false ∧ s.role = 1 ∧ s.line.state = 0 ∧ route ≠ [] ∧ s.ns + 5000000
      ≤ pickT) ∧
    (∃ (s : State) (pickT : Nat) (route : List (Nat × Nat × Nat)), ((s.role ≠ 1 ∨ s.line.state ≠ 0 ∨ route = [] ∨ pickT < s.ns + 5000000))) ∧
    (∃ (s : State) (id : Nat) (job : Nat) (page : Nat) (step : Nat) (pickT : Nat) (route : List (Nat × Nat × Nat)), s.inReset = false ∧ s.role ≠ 0
      ∧ (s.myEntry (mkOrder id job page step pickT route)).isSome = true) ∧
    (∃ (s : State) (id : Nat) (job : Nat) (page : Nat) (step : Nat) (pickT : Nat) (route : List (Nat × Nat × Nat)), (s.role = 0 ∨ (s.myEntry
      (mkOrder id job page step pickT route)).isNone = true)) ∧
    (∃ (s : State) (u : State) (id : Nat) (h : HeldOrder) (e : RouteEnt), s.inReset = false ∧ s.held? id = some h ∧ s.myEntry h.order = some e ∧
      h.answer = none ∧ s.evalStart = u ∧ u.held? id = some h) ∧
    (∃ (s : State) (id : Nat), ((∀ h, s.held? id = some h → h.answer ≠ none ∨ s.myEntry h.order = none))) ∧
    (∃ (s : State), s.inReset = false) ∧
    (∃ (s : State) (src : Nat) (id : Nat), s.inReset = false ∧ src ≤ 64 ∧ s.role = 1 ∧ s.line.issued.any (fun o => o.order.id == id) = true) ∧
    (∃ (s : State) (src : Nat) (id : Nat), ((64 < src ∨ s.role ≠ 1 ∨ s.line.issued.any (fun o => o.order.id == id) = false))) ∧
    (∃ (s : State) (id : Nat) (o : IssuedOrder) (e : RouteEnt) (l : List RouteEnt), s.inReset = false ∧ s.line.issued.find? (fun o => o.order.id ==
      id) = some o ∧ s.role = 1 ∧ o.refused = false ∧ o.go = false ∧ o.order.route.all (fun e => o.acks.contains e.id) = true ∧ o.order.route = e
      :: l) ∧
    (∃ (s : State) (id : Nat), ((∀ o, s.line.issued.find? (fun o => o.order.id == id) = some o → s.role ≠ 1 ∨ o.refused = true ∨ o.go = true ∨
      o.order.route.all (fun e => o.acks.contains e.id) = false))) ∧
    (∃ (s : State), s.inReset = false) ∧
    (∃ (s : State) (id : Nat) (h : HeldOrder), s.inReset = false ∧ s.held? id = some h ∧ s.picks h.order = true ∧ s.inLine = true ∧ h.go = true ∧
      h.answer = some 0) ∧
    (∃ (s : State) (id : Nat) (h : HeldOrder), s.inReset = false ∧ s.held? id = some h ∧ s.picks h.order = true ∧ s.inLine = true ∧ ((h.go = false
      ∨ h.answer ≠ some 0))) ∧
    (∃ (s : State) (id : Nat), ((s.inLine = false ∨ ∀ h, s.held? id = some h → s.picks h.order = false))) :=
  ⟨⟨(rg c0 lnkB 1), 5000000, ([(1, 0, 5)]), by decide +kernel⟩,
    ⟨c0, 63, ([]), by decide +kernel⟩,
    ⟨wLineOrders3, 63, 63, 63, 63, 63, ([(1, 0, 5)]), by decide +kernel⟩,
    ⟨c0, 63, 63, 63, 63, 63, ([]), by decide +kernel⟩,
    ⟨lineUp, lineUp.evalStart, 9, ((lineUp.held? 9).get (by decide +kernel)), ((lineUp.myEntry ((lineUp.held? 9).get (by
      decide +kernel)).order).get (by decide +kernel)), by decide +kernel⟩,
    ⟨c0, 63, by decide +kernel⟩,
    ⟨c0, by decide +kernel⟩,
    ⟨wLineOrders8, 63, 9, by decide +kernel⟩,
    ⟨c0, 63, 63, by decide +kernel⟩,
    ⟨wLineOrders10, 9, ((wLineOrders10.line.issued.find? (fun o => o.order.id == 9)).get (by decide +kernel)), ((((wLineOrders10.line.issued.find?
      (fun o => o.order.id == 9)).get (by decide +kernel)).order.route).head (by decide +kernel)), ((((wLineOrders10.line.issued.find? (fun o =>
      o.order.id == 9)).get (by decide +kernel)).order.route).tail), by decide +kernel⟩,
    ⟨c0, 63, by decide +kernel⟩,
    ⟨c0, by decide +kernel⟩,
    ⟨wLineOrders13, 9, ((wLineOrders13.held? 9).get (by decide +kernel)), by decide +kernel⟩,
    ⟨lineUp, 9, ((lineUp.held? 9).get (by decide +kernel)), by decide +kernel⟩,
    ⟨c0, 63, by decide +kernel⟩⟩

def wLineSteps5 : State :=
  rg (rg (ln c0 (fun l => { l with ports := List.replicate 4 (true, 0) })) (lnkB + 0x130) 1) lnkB 2
def wLineSteps9 : State :=
  ln (rg c0 lnkB 1) (fun l => { l with state := 2 })
def wLineSteps10 : State :=
  tk (ln (rg c0 lnkB 1) (fun l => { l with state := 2 })) 0 (fun t => { t with st := .picked })

theorem test_line_steps :
    (∃ (s : State), s.inReset = false) ∧
    (∃ (s : State) (g : Nat), s.inReset = false ∧ s.role = 2 ∧ s.line.admitted = true ∧ ((s.flying = true ∨ s.ns < g)) ∧ ((s.sched.ladder =
      .running ∨ s.sched.ladder = .held))) ∧
    (∃ (s : State) (g : Nat), s.inReset = false ∧ s.role = 2 ∧ s.line.admitted = true ∧ s.flying = false ∧ g ≤ s.ns ∧ ((s.sched.ladder = .running ∨
      s.sched.ladder = .held))) ∧
    (∃ (s : State), ((s.role ≠ 2 ∨ s.line.admitted = false))) ∧
    (∃ (s : State), s.inReset = false ∧ s.role = 2 ∧ s.line.state ≠ 3) ∧
    (∃ (s : State), ((s.role ≠ 2 ∨ s.line.state = 3))) ∧
    (∃ (s : State), s.inReset = false ∧ s.id.motion = true ∧ s.role = 1 ∧ s.line.state ≠ 2) ∧
    (∃ (s : State), s.inReset = false ∧ s.id.motion = true ∧ ((s.role ≠ 1 ∨ s.line.state = 2))) ∧
    (∃ (s : State), s.inReset = false ∧ s.id.motion = true ∧ s.role = 1 ∧ s.line.state = 2 ∧ s.lineQuiet = true) ∧
    (∃ (s : State), s.inReset = false ∧ s.id.motion = true ∧ s.role = 1 ∧ s.line.state = 2 ∧ s.lineQuiet = false) ∧
    (∃ (s : State), s.inReset = false ∧ s.id.motion = true ∧ ((s.role ≠ 1 ∨ s.line.state ≠ 2))) ∧
    (∃ (s : State), s.id.motion = false) :=
  ⟨⟨c0, by decide +kernel⟩,
    ⟨lineUp, 63, by decide +kernel⟩,
    ⟨lineUp, 0, by decide +kernel⟩,
    ⟨c0, by decide +kernel⟩,
    ⟨wLineSteps5, by decide +kernel⟩,
    ⟨c0, by decide +kernel⟩,
    ⟨(rg c0 lnkB 1), by decide +kernel⟩,
    ⟨c0, by decide +kernel⟩,
    ⟨wLineSteps9, by decide +kernel⟩,
    ⟨wLineSteps10, by decide +kernel⟩,
    ⟨c0, by decide +kernel⟩,
    ⟨(stage h0 10), by decide +kernel⟩⟩

def wLineLosses1 : State :=
  ln (rg c0 lnkB 1) (fun l =>
    { l with members := [{ id := 64, glb := 0, recv := 0, floor := 0, busy := 0, joined := true, joinReq := true, lost := false }] })
def wLineLosses2 : State :=
  tk (ln (rg c0 lnkB 1) (fun l =>
    { l with members := [{ id := 64, glb := 0, recv := 0, floor := 0, busy := 0, joined := true, joinReq := true, lost := false }], orders := [{ order := order 64, recv := 0, answer := none, go := false }] }))
    15 (fun t => { t with st := .picked, order := some 9 })
def wLineLosses4 : State :=
  tk (ln (rg c0 lnkB 2) (fun l => { l with orders := [{ order := order 1, recv := 0, answer := none, go := false }] })) 15 (fun t =>
    { t with st := .picked, order := some 9 })
def wLineLosses5 : State :=
  rg (rg (ln c0 (fun l => { l with ports := List.replicate 4 (true, 0) })) (lnkB + 0x130) 1) lnkB 2
def wLineLosses7 : State :=
  rg (rg (ln c0 (fun l => { l with ports := List.replicate 4 (true, 0) })) (lnkB + 0x130) 1) lnkB 2

theorem test_line_losses :
    (∃ (s : State) (id : Nat), s.inReset = false ∧ s.role = 1 ∧ s.workers.any (fun m => m.id == id) = true) ∧
    (∃ (s : State) (id : Nat) (k : Nat) (o : Nat) (h : HeldOrder), s.inReset = false ∧ s.role = 1 ∧ s.workers.any (fun m => m.id == id) = true ∧
      s.sched.toks.length = 16 ∧ k < 16 ∧ (s.tok k).busy = true ∧ (s.tok k).order = some o ∧ s.held? o = some h ∧ h.order.route.any (fun e => e.id
      == id) = true) ∧
    (∃ (s : State) (id : Nat), ((s.role ≠ 1 ∨ s.workers.any (fun m => m.id == id) = false))) ∧
    (∃ (s : State) (id : Nat) (k : Nat) (o : Nat) (h : HeldOrder), s.inReset = false ∧ s.role = 2 ∧ s.sched.toks.length = 16 ∧ k < 16 ∧ (s.tok
      k).busy = true ∧ (s.tok k).order = some o ∧ s.held? o = some h ∧ h.order.route.any (fun e => e.id == id) = true) ∧
    (∃ (s : State), s.inReset = false ∧ s.role = 2) ∧
    (∃ (s : State), s.role ≠ 2) ∧
    (∃ (s : State), s.inReset = false ∧ s.role = 2 ∧ s.line.state ≠ 3 ∧ s.sched.toks.length = 16) ∧
    (∃ (s : State), ((s.role ≠ 2 ∨ s.line.state = 3))) :=
  ⟨⟨wLineLosses1, 64, by decide +kernel⟩,
    ⟨wLineLosses2, 64, 15, 9, ((wLineLosses2.held? 9).get (by decide +kernel)), by decide +kernel⟩,
    ⟨c0, 63, by decide +kernel⟩,
    ⟨wLineLosses4, 1, 15, (((wLineLosses4.tok 15).order).get (by decide +kernel)), ((wLineLosses4.held? (((wLineLosses4.tok 15).order).get (by
      decide +kernel))).get (by decide +kernel)), by decide +kernel⟩,
    ⟨wLineLosses5, by decide +kernel⟩,
    ⟨c0, by decide +kernel⟩,
    ⟨wLineLosses7, by decide +kernel⟩,
    ⟨c0, by decide +kernel⟩⟩

def wMergeFlushAndScrub1 : State :=
  mm (ram c0) (fun m => { m with merge := [{ unit := 3, addr := 0, bytes := [(0, 1)] }] })
def wMergeFlushAndScrub2 : State :=
  mm (ram c0) (fun m => { m with merge := [{ unit := 32, addr := 0, bytes := [(0, 1)] }] })

theorem test_merge_flush_and_scrub :
    (∃ (s : State) (ch : Nat) (e : MergeEnt), s.inReset = false ∧ ch < 4 ∧ s.oldest ch = some e) ∧
    (∃ (s : State) (bank : Nat) (e : MergeEnt), s.inReset = false ∧ bank < 17 ∧ s.oldest (16 + bank) = some e) ∧
    (∃ (s : State) (ch : Nat), s.inReset = false ∧ ch < 4 ∧ s.oldest ch = none) ∧
    (∃ (s : State) (bank : Nat), s.inReset = false ∧ bank < 17 ∧ s.oldest (16 + bank) = none) ∧
    (∃ (s : State), s.inReset = true) ∧
    (∃ (s : State) (unit : Nat) (i : Nat) (p : Nat) (np : Nat) (x : Scrub) (rs : List Nat), s.inReset = false ∧ scrubIx unit = some i ∧
      s.mem.scrubs[i]? = some x ∧ ((if unit < 4 then s.flag (memB + 8) 0 = true ∧ s.ways.contains unit = true else s.flag (memB + 8) 9 = true)) ∧
      rs = (if unit < 4 then s.mem.rmap.getD unit [] else []) ∧ p = scrubSkip rs (rs.length + 1) x.pos ∧ np = scrubSkip rs (rs.length + 1) (p + 1)) ∧
    (∃ (s : State) (unit : Nat), ((s.inReset = true ∨ scrubIx unit = none ∨ (if unit < 4 then s.flag (memB + 8) 0 = false ∨ s.ways.contains unit =
      false else s.flag (memB + 8) 9 = false)))) ∧
    (∃ (s : State), s.inReset = false) ∧
    (∃ (s : State), s.inReset = true) :=
  ⟨⟨wMergeFlushAndScrub1, 3, ((wMergeFlushAndScrub1.oldest 3).get (by decide +kernel)), by decide +kernel⟩,
    ⟨wMergeFlushAndScrub2, 16, ((wMergeFlushAndScrub2.oldest (16 + 16)).get (by decide +kernel)), by decide +kernel⟩,
    ⟨c0, 3, by decide +kernel⟩,
    ⟨c0, 15, by decide +kernel⟩,
    ⟨State.reset, by decide +kernel⟩,
    ⟨c0, 31, ((scrubIx 31).get (by decide +kernel)), (scrubSkip (if 31 < 4 then c0.mem.rmap.getD 31 [] else []) ((if 31 < 4 then c0.mem.rmap.getD
      31 [] else []).length + 1) ((c0.mem.scrubs[((scrubIx 31).get (by decide +kernel))]?).get (by decide +kernel)).pos), (scrubSkip (if 31 < 4
      then c0.mem.rmap.getD 31 [] else []) ((if 31 < 4 then c0.mem.rmap.getD 31 [] else []).length + 1) ((scrubSkip (if 31 < 4 then
      c0.mem.rmap.getD 31 [] else []) ((if 31 < 4 then c0.mem.rmap.getD 31 [] else []).length + 1) ((c0.mem.scrubs[((scrubIx 31).get (by
      decide +kernel))]?).get (by decide +kernel)).pos) + 1)), ((c0.mem.scrubs[((scrubIx 31).get (by decide +kernel))]?).get (by decide +kernel)),
      (if 31 < 4 then c0.mem.rmap.getD 31 [] else []), by decide +kernel⟩,
    ⟨c0, 63, by decide +kernel⟩,
    ⟨c0, by decide +kernel⟩,
    ⟨State.reset, by decide +kernel⟩⟩

def wRetirement5 : State :=
  mm (ram c0) (fun m => { m with pend := [{ ch := 3, region := 5, whole := false, halted := false }] })
def wRetirement6 : State :=
  mm (ram c0) (fun m => { m with pend := [{ ch := 3, region := 5, whole := true, halted := false }] })

theorem test_retirement :
    (∃ (s : State) (h : ReqHdr) (ch region : Nat), s.takes false h 0x0F 4 ∧ s.inReset = false ∧ ch < 4 ∧ region < 2 ^ 18 ∧ 2 ^ 18 ≤ region + 1) ∧
    (∃ (s : State) (h : ReqHdr) (ch : Nat), s.takes false h 0x0F 4 ∧ s.inReset = false ∧ ch < 4 ∧ 4 ≤ ch + 1) ∧
    (∃ (s : State) (ch : Nat) (region : Nat) (rg : Nat) (rs : List Nat) (gone : Bool), ch < 4 ∧ region < 2 ^ 18 ∧ rg = Nat.min region (s.chBytes /
      65536 - 1) ∧ rs = s.mem.rmap.getD ch [] ∧ gone = (natBit s.mem.retired ch || natBit s.mem.failed ch || s.mem.pend.any (fun (r : Retire) =>
      r.ch == ch && r.whole) || rs.contains rg || s.mem.pend.any (fun (r : Retire) => r.ch == ch && r.region == rg))) ∧
    (∃ (s : State) (ch : Nat) (aft : List Nat) (gone : Bool), ch < 4 ∧ aft = interleave (sumN (((upTo 4).filter (fun c => natBit s.chUp c && !(c ==
      ch || s.mem.pend.any (fun (r : Retire) => r.ch == c && r.whole)))).map (fun c => 2 ^ c))) ∧ gone = (natBit s.mem.retired ch || natBit
      s.mem.failed ch || s.mem.pend.any (fun (r : Retire) => r.ch == ch && r.whole))) ∧
    (∃ (s : State) (ch : Nat) (region : Nat) (r : Retire), s.inReset = false ∧ (r =
      { ch := ch, region := region, whole := false, halted := false }) ∧ r ∈ s.mem.pend ∧ s.retWait = false) ∧
    (∃ (s : State) (u : State) (ch : Nat), s.inReset = false ∧ ((∃ r ∈ s.mem.pend, r.ch = ch ∧ r.whole = true ∧ r.halted = false)) ∧ (u =
      { s with mem := { s.mem with retired := Nat.lor s.mem.retired (2 ^ ch) } })) ∧
    (∃ (s : State) (w : Bool) (ch : Nat) (region : Nat), ((s.inReset = true ∨ (w = false ∧ s.retWait = true) ∨ ∀ r ∈ s.mem.pend, ¬(r.ch = ch ∧
      r.whole = w ∧ (w = true ∨ r.region = region) ∧ r.halted = false)))) ∧
    (∃ (s : State), s.inReset = false) ∧
    (∃ (s : State), s.inReset = true) :=
  ⟨⟨eth (ram c0), hdr, 3, 262143, by unfold State.takes; decide +kernel, by decide +kernel⟩,
    ⟨eth (ram c0), hdr, 3, by unfold State.takes; decide +kernel, by decide +kernel⟩,
    ⟨c0, 3, 63, (Nat.min 63 (c0.chBytes / 65536 - 1)), (c0.mem.rmap.getD 3 []), (natBit c0.mem.retired 3 || natBit c0.mem.failed 3 ||
      c0.mem.pend.any (fun (r : Retire) => r.ch == 3 && r.whole) || (c0.mem.rmap.getD 3 []).contains (Nat.min 63 (c0.chBytes / 65536 - 1)) ||
      c0.mem.pend.any (fun (r : Retire) => r.ch == 3 && r.region == (Nat.min 63 (c0.chBytes / 65536 - 1)))), by decide +kernel⟩,
    ⟨c0, 3, (interleave (sumN (((upTo 4).filter (fun c => natBit c0.chUp c && !(c == 3 || c0.mem.pend.any (fun (r : Retire) => r.ch == c &&
      r.whole)))).map (fun c => 2 ^ c)))), (natBit c0.mem.retired 3 || natBit c0.mem.failed 3 || c0.mem.pend.any (fun (r : Retire) => r.ch == 3 &&
      r.whole)), by decide +kernel⟩,
    ⟨wRetirement5, 3, 5, (({ ch := 3, region := 5, whole := false, halted := false }) : Retire), by decide +kernel⟩,
    ⟨wRetirement6, (({ wRetirement6 with mem := { wRetirement6.mem with retired := Nat.lor wRetirement6.mem.retired (2 ^ 3) } }) : State), 3, by
      decide +kernel⟩,
    ⟨c0, true, 63, 63, by decide +kernel⟩,
    ⟨c0, by decide +kernel⟩,
    ⟨State.reset, by decide +kernel⟩⟩

def wDmaActions6 : State :=
  (ram c0).modDma 47 (fun c => { c with st := .run })
def wDmaActions8 : State :=
  (ram c0).modDma 63 (fun c => { c with st := .tailWait })
def wDmaActions9 : State :=
  (mm (ram c0) (fun m =>
    { m with dram := m.dram.setBytes 0 ((leBytes 8 256) ++ (leBytes 8 512) ++ (leBytes 4 16) ++ (leBytes 4 0) ++ leBytes 8 1) })).modDma 63
    (fun c => { c with st := .halted, desc := some { src := 0, sstr := 0, dst := 4096, dstr := 0, count := 512, ctrl := 0 } })
def wDmaActions10 : State :=
  (mm (ram c0) (fun m =>
    { m with dram := m.dram.setBytes 0 ((leBytes 8 256) ++ (leBytes 8 512) ++ (leBytes 4 16) ++ (leBytes 4 0) ++ leBytes 8 1) })).modDma 63
    (fun c => { c with st := .halted, desc := some { src := 0, sstr := 0, dst := 4096, dstr := 0, count := 512, ctrl := 0 } })
def wDmaActions11 : State :=
  (mm (ram c0) (fun m =>
    { m with dram := m.dram.setBytes 0 ((leBytes 8 256) ++ (leBytes 8 512) ++ (leBytes 4 16) ++ (leBytes 4 0) ++ leBytes 8 1) })).modDma 47
    (fun c => { c with st := .halted, cur := 0, desc := some { src := 0, sstr := 0, dst := 4096, dstr := 0, count := 512, ctrl := 0 } })

theorem test_dma_actions :
    (∃ (s : State) (n : Nat), s.inReset = false ∧ n < 64) ∧
    (∃ (s : State) (n : Nat), ((s.inReset = true ∨ 64 ≤ n))) ∧
    (∃ (s : State) (n : Nat) (k : Nat), (s.dm n).use = none ∧ k ≠ n) ∧
    (∃ (s : State) (n : Nat), n < s.dma.length) ∧
    (∃ (s : State) (u : State) (n : Nat) (a : Nat) (c : Bool), (u = s.modDma n (fun (x : DmaCh) =>
      { x with st := .run, cur := a, desc := none, remain := 0, err := 0, tail := false, use := none, fetched := if c then (x.fetched + 1) % 65536 else x.fetched }))) ∧
    (∃ (s : State) (n : Nat), (s.dm n).st = .run) ∧
    (∃ (s : State) (n : Nat), (s.dm n).st ≠ .run) ∧
    (∃ (s : State) (n : Nat) (next : Nat) (m : State × List Byte × Option Nat), (s.dm n).st = .tailWait ∧ m = s.memRead false ((s.dm n).cur + 24) 8
      ∧ next = ofLe m.2.1 / 32 % 2 ^ 43 * 32) ∧
    (∃ (s : State) (n : Nat), (s.dm n).st = .halted) ∧
    (∃ (s : State) (n : Nat), (s.dm n).st = .halted ∧ ((s.descOk n (s.dm n).cur = false ∨ s.dramBytes < (s.dm n).cur + 32))) ∧
    (∃ (s : State) (n : Nat) (w : Nat) (next : Nat), n < 64 ∧ n < s.dma.length ∧ (s.dm n).st = .halted ∧ s.descOk n (s.dm n).cur = true ∧ (s.dm
      n).cur + 32 ≤ s.dramBytes ∧ s.mem.upset = [] ∧ s.mem.merge = [] ∧ (s.dm n).cur % 32 = 0 ∧ (s.dm n).cur < 2 ^ 44 ∧ (s.dm n).use = none ∧ w =
      (match (s.dm n).desc with | some d => d.ctrl % 2 ^ 32 | none => ofLe (s.mem.dram.bytes ((s.dm n).cur + 20) 4)) ∧ next = ofLe
      (s.mem.dram.bytes ((s.dm n).cur + 24) 8) / 32 % 2 ^ 43 * 32) :=
  ⟨⟨c0, 63, by decide +kernel⟩,
    ⟨c0, 64, by decide +kernel⟩,
    ⟨c0, 63, 31, by decide +kernel⟩,
    ⟨c0, 63, by decide +kernel⟩,
    ⟨c0, (c0.modDma 63 (fun (x : DmaCh) =>
      { x with st := .run, cur := 63, desc := none, remain := 0, err := 0, tail := false, use := none, fetched := if true then (x.fetched + 1) % 65536 else x.fetched })),
      63, 63, true, by decide +kernel⟩,
    ⟨wDmaActions6, 47, by decide +kernel⟩,
    ⟨c0, 63, by decide +kernel⟩,
    ⟨wDmaActions8, 63, (ofLe (wDmaActions8.memRead false ((wDmaActions8.dm 63).cur + 24) 8).2.1 / 32 % 2 ^ 43 * 32), (wDmaActions8.memRead false
      ((wDmaActions8.dm 63).cur + 24) 8), by decide +kernel⟩,
    ⟨wDmaActions9, 63, by decide +kernel⟩,
    ⟨wDmaActions10, 63, by decide +kernel⟩,
    ⟨wDmaActions11, 47,
      (match (wDmaActions11.dm 47).desc with | some d => d.ctrl % 2 ^ 32 | none => ofLe (wDmaActions11.mem.dram.bytes ((wDmaActions11.dm 47).cur + 20) 4)),
      (ofLe (wDmaActions11.mem.dram.bytes ((wDmaActions11.dm 47).cur + 24) 8) / 32 % 2 ^ 43 * 32), by decide +kernel⟩⟩

def wDmaBursts3 : State :=
  (mm (ram c0) (fun m =>
    { m with dram := m.dram.setBytes 0 ((leBytes 8 256) ++ (leBytes 8 512) ++ (leBytes 4 16) ++ (leBytes 4 0) ++ leBytes 8 1) })).modDma 15
    (fun c => { c with st := .run, cur := 0, tail := true, desc := some { src := 0, sstr := 0, dst := 4096, dstr := 0, count := 512, ctrl := 0 } })
def wDmaBursts4 : State :=
  (ram c0).modDma 15 (fun c =>
    { c with st := .run, desc := some { src := 0, sstr := 0, dst := 4096, dstr := 0, count := 512, ctrl := 0 }, remain := 512 })
def wDmaBursts5 : State :=
  (ram c0).modDma 47 (fun c =>
    { c with st := .run, desc := some { src := 0, sstr := 0, dst := 4096, dstr := 0, count := 512, ctrl := 0 }, remain := 512 })
def wDmaBursts6 : State :=
  c0.modDma 47 (fun c =>
    { c with st := .run, desc := some { src := 0, sstr := 0, dst := 4096, dstr := 0, count := 512, ctrl := 0 }, remain := 512 })
def wDmaBursts7 : State :=
  (ram e0).modDma 15 (fun c =>
    { c with st := .run, desc := some { src := 2 * 2 ^ 44, sstr := 0, dst := 4096, dstr := 0, count := 512, ctrl := 0 }, remain := 512 })

theorem test_dma_bursts :
    (∃ (s : State) (input : List Byte) (ups : List Upset), s.inReset = false ∧ (s.applyUps ups).dmaPick input = none) ∧
    (∃ (s : State), s.inReset = true) ∧
    (∃ (s : State) (input : List Byte) (n : Nat), s.inReset = false ∧ s.dmaPick input = some n ∧ n < s.dma.length ∧ (s.dm n).tail = true ∧
      s.mem.upset = [] ∧ natBit (ofLe (s.memRead false ((s.dm n).cur + 24) 8).2.1) 0 = true) ∧
    (∃ (s : State) (u : State) (z : State) (input : List Byte) (ups : List Upset) (n : Nat) (l : Nat) (done : Nat) (d : Desc) (r : State × List
      (List Byte) × Option (Nat × Nat)) (pr : Nat × Nat) (outs : List (Nat × List Byte)) (w : State × Option Nat), s.inReset = false ∧ u =
      s.applyUps ups ∧ u.dmaPick input = some n ∧ (u.dm n).desc = some d ∧ (u.dm n).tail = false ∧ u.vc1Down = false ∧ l = d.burst (u.dm n).remain
      ∧ done = d.count - (u.dm n).remain ∧ pr = d.planeRun done l ∧ (z =
      { u with rr := updAt u.rr (u.dmaPrio n) (fun _ => n), dma := if u.dmaRate n = 0 then u.dma else updAt u.dma n (fun (c : DmaCh) => { c with bucket := c.bucket - 4 * l }) })
      ∧ r = z.dmaRead n (d.srcRuns done l) input ∧ outs = (if d.split then (upTo d.planes).map (fun p => (d.planeAt p pr.1, d.splitPlane done l p
      (r.2.1.headD []) (r.1.rawBytes (d.planeAt p pr.1) pr.2))) else if d.merge then [(d.dst + done, d.mergeBytes done l r.2.1)] else [(d.dst +
      done, r.2.1.headD [])]) ∧ w = r.1.dmaWrite n 600 outs) ∧
    (∃ (s : State) (input : List Byte) (n : Nat) (l : Nat) (d : Desc), s.inReset = false ∧ s.dmaPick input = some n ∧ n < s.dma.length ∧ (s.dm
      n).desc = some d ∧ (s.dm n).tail = false ∧ d.mode = 0 ∧ l = d.burst (s.dm n).remain ∧ (s.dm n).remain ≤ d.count ∧ s.mem.upset = [] ∧
      s.mem.merge = [] ∧ d.src + d.count < 2 ^ 44 ∧ d.dst + d.count < 2 ^ 44 ∧ s.busOk n (d.src + (d.count - (s.dm n).remain)) l false = true ∧
      s.busOk n (d.dst + (d.count - (s.dm n).remain)) l true = true) ∧
    (∃ (s : State) (input : List Byte) (n : Nat) (l : Nat) (a : Nat) (w : Bool) (d : Desc), s.inReset = false ∧ s.dmaPick input = some n ∧ n <
      s.dma.length ∧ (s.dm n).desc = some d ∧ (s.dm n).tail = false ∧ (s.dm n).use = none ∧ d.mode = 0 ∧ l = d.burst (s.dm n).remain ∧ 0 < l ∧
      s.vc1Down = false ∧ s.mem.upset = [] ∧ ((if w = true then s.busOk n (d.src + (d.count - (s.dm n).remain)) l false = true ∧ a = d.dst +
      (d.count - (s.dm n).remain) ∧ (d.src + (d.count - (s.dm n).remain)) / 2 ^ 44 % 16 < 2 ∧ s.busOk n a (Nat.min l (64 - a % 64)) true = false
      else s.busOk n a l false = false ∧ a = d.src + (d.count - (s.dm n).remain)))) ∧
    (∃ (s : State) (input : List Byte) (n : Nat) (a : Nat) (w : Bool) (d : Desc), s.inReset = false ∧ s.dmaPick input = some n ∧ n < s.dma.length ∧
      (s.dm n).desc = some d ∧ (s.dm n).tail = false ∧ (s.dm n).use = none ∧ s.vc1Down = true ∧ a = (if w then d.dst else d.src) ∧ w = !atVc1 d.src
      ∧ atVc1 a = true ∧ s.busOk n a 1 w = true) ∧
    (∃ (d : Desc) (done : Nat) (l : Nat) (t : Nat) (p : Nat) (bp : Nat), d.mode ≠ 0 ∧ 8 * done ≤ t ∧ t < 8 * (done + l) ∧ p = t % (d.planes *
      d.bits) / d.bits ∧ bp = t / (d.planes * d.bits) * d.bits + t % d.bits) :=
  ⟨⟨c0, ([]), ([]), by decide +kernel⟩,
    ⟨State.reset, by decide +kernel⟩,
    ⟨wDmaBursts3, ([]), ((wDmaBursts3.dmaPick ([])).get (by decide +kernel)), by decide +kernel⟩,
    ⟨wDmaBursts4, (wDmaBursts4.applyUps ([])),
      (({ (wDmaBursts4.applyUps ([])) with rr := updAt (wDmaBursts4.applyUps ([])).rr ((wDmaBursts4.applyUps ([])).dmaPrio (((wDmaBursts4.applyUps ([])).dmaPick ([])).get (by decide +kernel))) (fun _ => (((wDmaBursts4.applyUps ([])).dmaPick ([])).get (by decide +kernel))), dma := if (wDmaBursts4.applyUps ([])).dmaRate (((wDmaBursts4.applyUps ([])).dmaPick ([])).get (by decide +kernel)) = 0 then (wDmaBursts4.applyUps ([])).dma else updAt (wDmaBursts4.applyUps ([])).dma (((wDmaBursts4.applyUps ([])).dmaPick ([])).get (by decide +kernel)) (fun (c : DmaCh) => { c with bucket := c.bucket - 4 * (((((wDmaBursts4.applyUps ([])).dm (((wDmaBursts4.applyUps ([])).dmaPick ([])).get (by decide +kernel))).desc).get (by decide +kernel)).burst ((wDmaBursts4.applyUps ([])).dm (((wDmaBursts4.applyUps ([])).dmaPick ([])).get (by decide +kernel))).remain) }) })
      : State), ([]), ([]), (((wDmaBursts4.applyUps ([])).dmaPick ([])).get (by decide +kernel)), (((((wDmaBursts4.applyUps ([])).dm
      (((wDmaBursts4.applyUps ([])).dmaPick ([])).get (by decide +kernel))).desc).get (by decide +kernel)).burst ((wDmaBursts4.applyUps ([])).dm
      (((wDmaBursts4.applyUps ([])).dmaPick ([])).get (by decide +kernel))).remain), (((((wDmaBursts4.applyUps ([])).dm (((wDmaBursts4.applyUps
      ([])).dmaPick ([])).get (by decide +kernel))).desc).get (by decide +kernel)).count - ((wDmaBursts4.applyUps ([])).dm (((wDmaBursts4.applyUps
      ([])).dmaPick ([])).get (by decide +kernel))).remain), ((((wDmaBursts4.applyUps ([])).dm (((wDmaBursts4.applyUps ([])).dmaPick ([])).get (by
      decide +kernel))).desc).get (by decide +kernel)),
      ((({ (wDmaBursts4.applyUps ([])) with rr := updAt (wDmaBursts4.applyUps ([])).rr ((wDmaBursts4.applyUps ([])).dmaPrio (((wDmaBursts4.applyUps ([])).dmaPick ([])).get (by decide +kernel))) (fun _ => (((wDmaBursts4.applyUps ([])).dmaPick ([])).get (by decide +kernel))), dma := if (wDmaBursts4.applyUps ([])).dmaRate (((wDmaBursts4.applyUps ([])).dmaPick ([])).get (by decide +kernel)) = 0 then (wDmaBursts4.applyUps ([])).dma else updAt (wDmaBursts4.applyUps ([])).dma (((wDmaBursts4.applyUps ([])).dmaPick ([])).get (by decide +kernel)) (fun (c : DmaCh) => { c with bucket := c.bucket - 4 * (((((wDmaBursts4.applyUps ([])).dm (((wDmaBursts4.applyUps ([])).dmaPick ([])).get (by decide +kernel))).desc).get (by decide +kernel)).burst ((wDmaBursts4.applyUps ([])).dm (((wDmaBursts4.applyUps ([])).dmaPick ([])).get (by decide +kernel))).remain) }) })
      : State).dmaRead (((wDmaBursts4.applyUps ([])).dmaPick ([])).get (by decide +kernel)) (((((wDmaBursts4.applyUps ([])).dm
      (((wDmaBursts4.applyUps ([])).dmaPick ([])).get (by decide +kernel))).desc).get (by decide +kernel)).srcRuns (((((wDmaBursts4.applyUps
      ([])).dm (((wDmaBursts4.applyUps ([])).dmaPick ([])).get (by decide +kernel))).desc).get (by decide +kernel)).count - ((wDmaBursts4.applyUps
      ([])).dm (((wDmaBursts4.applyUps ([])).dmaPick ([])).get (by decide +kernel))).remain) (((((wDmaBursts4.applyUps ([])).dm
      (((wDmaBursts4.applyUps ([])).dmaPick ([])).get (by decide +kernel))).desc).get (by decide +kernel)).burst ((wDmaBursts4.applyUps ([])).dm
      (((wDmaBursts4.applyUps ([])).dmaPick ([])).get (by decide +kernel))).remain)) ([])), (((((wDmaBursts4.applyUps ([])).dm
      (((wDmaBursts4.applyUps ([])).dmaPick ([])).get (by decide +kernel))).desc).get (by decide +kernel)).planeRun (((((wDmaBursts4.applyUps
      ([])).dm (((wDmaBursts4.applyUps ([])).dmaPick ([])).get (by decide +kernel))).desc).get (by decide +kernel)).count - ((wDmaBursts4.applyUps
      ([])).dm (((wDmaBursts4.applyUps ([])).dmaPick ([])).get (by decide +kernel))).remain) (((((wDmaBursts4.applyUps ([])).dm
      (((wDmaBursts4.applyUps ([])).dmaPick ([])).get (by decide +kernel))).desc).get (by decide +kernel)).burst ((wDmaBursts4.applyUps ([])).dm
      (((wDmaBursts4.applyUps ([])).dmaPick ([])).get (by decide +kernel))).remain)), (if ((((wDmaBursts4.applyUps ([])).dm (((wDmaBursts4.applyUps
      ([])).dmaPick ([])).get (by decide +kernel))).desc).get (by decide +kernel)).split then (upTo ((((wDmaBursts4.applyUps ([])).dm
      (((wDmaBursts4.applyUps ([])).dmaPick ([])).get (by decide +kernel))).desc).get (by decide +kernel)).planes).map (fun p =>
      (((((wDmaBursts4.applyUps ([])).dm (((wDmaBursts4.applyUps ([])).dmaPick ([])).get (by decide +kernel))).desc).get (by
      decide +kernel)).planeAt p (((((wDmaBursts4.applyUps ([])).dm (((wDmaBursts4.applyUps ([])).dmaPick ([])).get (by decide +kernel))).desc).get
      (by decide +kernel)).planeRun (((((wDmaBursts4.applyUps ([])).dm (((wDmaBursts4.applyUps ([])).dmaPick ([])).get (by
      decide +kernel))).desc).get (by decide +kernel)).count - ((wDmaBursts4.applyUps ([])).dm (((wDmaBursts4.applyUps ([])).dmaPick ([])).get (by
      decide +kernel))).remain) (((((wDmaBursts4.applyUps ([])).dm (((wDmaBursts4.applyUps ([])).dmaPick ([])).get (by decide +kernel))).desc).get
      (by decide +kernel)).burst ((wDmaBursts4.applyUps ([])).dm (((wDmaBursts4.applyUps ([])).dmaPick ([])).get (by decide +kernel))).remain)).1,
      ((((wDmaBursts4.applyUps ([])).dm (((wDmaBursts4.applyUps ([])).dmaPick ([])).get (by decide +kernel))).desc).get (by
      decide +kernel)).splitPlane (((((wDmaBursts4.applyUps ([])).dm (((wDmaBursts4.applyUps ([])).dmaPick ([])).get (by
      decide +kernel))).desc).get (by decide +kernel)).count - ((wDmaBursts4.applyUps ([])).dm (((wDmaBursts4.applyUps ([])).dmaPick ([])).get (by
      decide +kernel))).remain) (((((wDmaBursts4.applyUps ([])).dm (((wDmaBursts4.applyUps ([])).dmaPick ([])).get (by decide +kernel))).desc).get
      (by decide +kernel)).burst ((wDmaBursts4.applyUps ([])).dm (((wDmaBursts4.applyUps ([])).dmaPick ([])).get (by decide +kernel))).remain) p
      (((({ (wDmaBursts4.applyUps ([])) with rr := updAt (wDmaBursts4.applyUps ([])).rr ((wDmaBursts4.applyUps ([])).dmaPrio (((wDmaBursts4.applyUps ([])).dmaPick ([])).get (by decide +kernel))) (fun _ => (((wDmaBursts4.applyUps ([])).dmaPick ([])).get (by decide +kernel))), dma := if (wDmaBursts4.applyUps ([])).dmaRate (((wDmaBursts4.applyUps ([])).dmaPick ([])).get (by decide +kernel)) = 0 then (wDmaBursts4.applyUps ([])).dma else updAt (wDmaBursts4.applyUps ([])).dma (((wDmaBursts4.applyUps ([])).dmaPick ([])).get (by decide +kernel)) (fun (c : DmaCh) => { c with bucket := c.bucket - 4 * (((((wDmaBursts4.applyUps ([])).dm (((wDmaBursts4.applyUps ([])).dmaPick ([])).get (by decide +kernel))).desc).get (by decide +kernel)).burst ((wDmaBursts4.applyUps ([])).dm (((wDmaBursts4.applyUps ([])).dmaPick ([])).get (by decide +kernel))).remain) }) })
      : State).dmaRead (((wDmaBursts4.applyUps ([])).dmaPick ([])).get (by decide +kernel)) (((((wDmaBursts4.applyUps ([])).dm
      (((wDmaBursts4.applyUps ([])).dmaPick ([])).get (by decide +kernel))).desc).get (by decide +kernel)).srcRuns (((((wDmaBursts4.applyUps
      ([])).dm (((wDmaBursts4.applyUps ([])).dmaPick ([])).get (by decide +kernel))).desc).get (by decide +kernel)).count - ((wDmaBursts4.applyUps
      ([])).dm (((wDmaBursts4.applyUps ([])).dmaPick ([])).get (by decide +kernel))).remain) (((((wDmaBursts4.applyUps ([])).dm
      (((wDmaBursts4.applyUps ([])).dmaPick ([])).get (by decide +kernel))).desc).get (by decide +kernel)).burst ((wDmaBursts4.applyUps ([])).dm
      (((wDmaBursts4.applyUps ([])).dmaPick ([])).get (by decide +kernel))).remain)) ([])).2.1.headD [])
      (((({ (wDmaBursts4.applyUps ([])) with rr := updAt (wDmaBursts4.applyUps ([])).rr ((wDmaBursts4.applyUps ([])).dmaPrio (((wDmaBursts4.applyUps ([])).dmaPick ([])).get (by decide +kernel))) (fun _ => (((wDmaBursts4.applyUps ([])).dmaPick ([])).get (by decide +kernel))), dma := if (wDmaBursts4.applyUps ([])).dmaRate (((wDmaBursts4.applyUps ([])).dmaPick ([])).get (by decide +kernel)) = 0 then (wDmaBursts4.applyUps ([])).dma else updAt (wDmaBursts4.applyUps ([])).dma (((wDmaBursts4.applyUps ([])).dmaPick ([])).get (by decide +kernel)) (fun (c : DmaCh) => { c with bucket := c.bucket - 4 * (((((wDmaBursts4.applyUps ([])).dm (((wDmaBursts4.applyUps ([])).dmaPick ([])).get (by decide +kernel))).desc).get (by decide +kernel)).burst ((wDmaBursts4.applyUps ([])).dm (((wDmaBursts4.applyUps ([])).dmaPick ([])).get (by decide +kernel))).remain) }) })
      : State).dmaRead (((wDmaBursts4.applyUps ([])).dmaPick ([])).get (by decide +kernel)) (((((wDmaBursts4.applyUps ([])).dm
      (((wDmaBursts4.applyUps ([])).dmaPick ([])).get (by decide +kernel))).desc).get (by decide +kernel)).srcRuns (((((wDmaBursts4.applyUps
      ([])).dm (((wDmaBursts4.applyUps ([])).dmaPick ([])).get (by decide +kernel))).desc).get (by decide +kernel)).count - ((wDmaBursts4.applyUps
      ([])).dm (((wDmaBursts4.applyUps ([])).dmaPick ([])).get (by decide +kernel))).remain) (((((wDmaBursts4.applyUps ([])).dm
      (((wDmaBursts4.applyUps ([])).dmaPick ([])).get (by decide +kernel))).desc).get (by decide +kernel)).burst ((wDmaBursts4.applyUps ([])).dm
      (((wDmaBursts4.applyUps ([])).dmaPick ([])).get (by decide +kernel))).remain)) ([])).1.rawBytes (((((wDmaBursts4.applyUps ([])).dm
      (((wDmaBursts4.applyUps ([])).dmaPick ([])).get (by decide +kernel))).desc).get (by decide +kernel)).planeAt p (((((wDmaBursts4.applyUps
      ([])).dm (((wDmaBursts4.applyUps ([])).dmaPick ([])).get (by decide +kernel))).desc).get (by decide +kernel)).planeRun
      (((((wDmaBursts4.applyUps ([])).dm (((wDmaBursts4.applyUps ([])).dmaPick ([])).get (by decide +kernel))).desc).get (by decide +kernel)).count
      - ((wDmaBursts4.applyUps ([])).dm (((wDmaBursts4.applyUps ([])).dmaPick ([])).get (by decide +kernel))).remain) (((((wDmaBursts4.applyUps
      ([])).dm (((wDmaBursts4.applyUps ([])).dmaPick ([])).get (by decide +kernel))).desc).get (by decide +kernel)).burst ((wDmaBursts4.applyUps
      ([])).dm (((wDmaBursts4.applyUps ([])).dmaPick ([])).get (by decide +kernel))).remain)).1) (((((wDmaBursts4.applyUps ([])).dm
      (((wDmaBursts4.applyUps ([])).dmaPick ([])).get (by decide +kernel))).desc).get (by decide +kernel)).planeRun (((((wDmaBursts4.applyUps
      ([])).dm (((wDmaBursts4.applyUps ([])).dmaPick ([])).get (by decide +kernel))).desc).get (by decide +kernel)).count - ((wDmaBursts4.applyUps
      ([])).dm (((wDmaBursts4.applyUps ([])).dmaPick ([])).get (by decide +kernel))).remain) (((((wDmaBursts4.applyUps ([])).dm
      (((wDmaBursts4.applyUps ([])).dmaPick ([])).get (by decide +kernel))).desc).get (by decide +kernel)).burst ((wDmaBursts4.applyUps ([])).dm
      (((wDmaBursts4.applyUps ([])).dmaPick ([])).get (by decide +kernel))).remain)).2))) else if ((((wDmaBursts4.applyUps ([])).dm
      (((wDmaBursts4.applyUps ([])).dmaPick ([])).get (by decide +kernel))).desc).get (by decide +kernel)).merge then [(((((wDmaBursts4.applyUps
      ([])).dm (((wDmaBursts4.applyUps ([])).dmaPick ([])).get (by decide +kernel))).desc).get (by decide +kernel)).dst + (((((wDmaBursts4.applyUps
      ([])).dm (((wDmaBursts4.applyUps ([])).dmaPick ([])).get (by decide +kernel))).desc).get (by decide +kernel)).count - ((wDmaBursts4.applyUps
      ([])).dm (((wDmaBursts4.applyUps ([])).dmaPick ([])).get (by decide +kernel))).remain), ((((wDmaBursts4.applyUps ([])).dm
      (((wDmaBursts4.applyUps ([])).dmaPick ([])).get (by decide +kernel))).desc).get (by decide +kernel)).mergeBytes (((((wDmaBursts4.applyUps
      ([])).dm (((wDmaBursts4.applyUps ([])).dmaPick ([])).get (by decide +kernel))).desc).get (by decide +kernel)).count - ((wDmaBursts4.applyUps
      ([])).dm (((wDmaBursts4.applyUps ([])).dmaPick ([])).get (by decide +kernel))).remain) (((((wDmaBursts4.applyUps ([])).dm
      (((wDmaBursts4.applyUps ([])).dmaPick ([])).get (by decide +kernel))).desc).get (by decide +kernel)).burst ((wDmaBursts4.applyUps ([])).dm
      (((wDmaBursts4.applyUps ([])).dmaPick ([])).get (by decide +kernel))).remain)
      ((({ (wDmaBursts4.applyUps ([])) with rr := updAt (wDmaBursts4.applyUps ([])).rr ((wDmaBursts4.applyUps ([])).dmaPrio (((wDmaBursts4.applyUps ([])).dmaPick ([])).get (by decide +kernel))) (fun _ => (((wDmaBursts4.applyUps ([])).dmaPick ([])).get (by decide +kernel))), dma := if (wDmaBursts4.applyUps ([])).dmaRate (((wDmaBursts4.applyUps ([])).dmaPick ([])).get (by decide +kernel)) = 0 then (wDmaBursts4.applyUps ([])).dma else updAt (wDmaBursts4.applyUps ([])).dma (((wDmaBursts4.applyUps ([])).dmaPick ([])).get (by decide +kernel)) (fun (c : DmaCh) => { c with bucket := c.bucket - 4 * (((((wDmaBursts4.applyUps ([])).dm (((wDmaBursts4.applyUps ([])).dmaPick ([])).get (by decide +kernel))).desc).get (by decide +kernel)).burst ((wDmaBursts4.applyUps ([])).dm (((wDmaBursts4.applyUps ([])).dmaPick ([])).get (by decide +kernel))).remain) }) })
      : State).dmaRead (((wDmaBursts4.applyUps ([])).dmaPick ([])).get (by decide +kernel)) (((((wDmaBursts4.applyUps ([])).dm
      (((wDmaBursts4.applyUps ([])).dmaPick ([])).get (by decide +kernel))).desc).get (by decide +kernel)).srcRuns (((((wDmaBursts4.applyUps
      ([])).dm (((wDmaBursts4.applyUps ([])).dmaPick ([])).get (by decide +kernel))).desc).get (by decide +kernel)).count - ((wDmaBursts4.applyUps
      ([])).dm (((wDmaBursts4.applyUps ([])).dmaPick ([])).get (by decide +kernel))).remain) (((((wDmaBursts4.applyUps ([])).dm
      (((wDmaBursts4.applyUps ([])).dmaPick ([])).get (by decide +kernel))).desc).get (by decide +kernel)).burst ((wDmaBursts4.applyUps ([])).dm
      (((wDmaBursts4.applyUps ([])).dmaPick ([])).get (by decide +kernel))).remain)) ([])).2.1)] else [(((((wDmaBursts4.applyUps ([])).dm
      (((wDmaBursts4.applyUps ([])).dmaPick ([])).get (by decide +kernel))).desc).get (by decide +kernel)).dst + (((((wDmaBursts4.applyUps ([])).dm
      (((wDmaBursts4.applyUps ([])).dmaPick ([])).get (by decide +kernel))).desc).get (by decide +kernel)).count - ((wDmaBursts4.applyUps ([])).dm
      (((wDmaBursts4.applyUps ([])).dmaPick ([])).get (by decide +kernel))).remain),
      ((({ (wDmaBursts4.applyUps ([])) with rr := updAt (wDmaBursts4.applyUps ([])).rr ((wDmaBursts4.applyUps ([])).dmaPrio (((wDmaBursts4.applyUps ([])).dmaPick ([])).get (by decide +kernel))) (fun _ => (((wDmaBursts4.applyUps ([])).dmaPick ([])).get (by decide +kernel))), dma := if (wDmaBursts4.applyUps ([])).dmaRate (((wDmaBursts4.applyUps ([])).dmaPick ([])).get (by decide +kernel)) = 0 then (wDmaBursts4.applyUps ([])).dma else updAt (wDmaBursts4.applyUps ([])).dma (((wDmaBursts4.applyUps ([])).dmaPick ([])).get (by decide +kernel)) (fun (c : DmaCh) => { c with bucket := c.bucket - 4 * (((((wDmaBursts4.applyUps ([])).dm (((wDmaBursts4.applyUps ([])).dmaPick ([])).get (by decide +kernel))).desc).get (by decide +kernel)).burst ((wDmaBursts4.applyUps ([])).dm (((wDmaBursts4.applyUps ([])).dmaPick ([])).get (by decide +kernel))).remain) }) })
      : State).dmaRead (((wDmaBursts4.applyUps ([])).dmaPick ([])).get (by decide +kernel)) (((((wDmaBursts4.applyUps ([])).dm
      (((wDmaBursts4.applyUps ([])).dmaPick ([])).get (by decide +kernel))).desc).get (by decide +kernel)).srcRuns (((((wDmaBursts4.applyUps
      ([])).dm (((wDmaBursts4.applyUps ([])).dmaPick ([])).get (by decide +kernel))).desc).get (by decide +kernel)).count - ((wDmaBursts4.applyUps
      ([])).dm (((wDmaBursts4.applyUps ([])).dmaPick ([])).get (by decide +kernel))).remain) (((((wDmaBursts4.applyUps ([])).dm
      (((wDmaBursts4.applyUps ([])).dmaPick ([])).get (by decide +kernel))).desc).get (by decide +kernel)).burst ((wDmaBursts4.applyUps ([])).dm
      (((wDmaBursts4.applyUps ([])).dmaPick ([])).get (by decide +kernel))).remain)) ([])).2.1.headD [])]),
      (((({ (wDmaBursts4.applyUps ([])) with rr := updAt (wDmaBursts4.applyUps ([])).rr ((wDmaBursts4.applyUps ([])).dmaPrio (((wDmaBursts4.applyUps ([])).dmaPick ([])).get (by decide +kernel))) (fun _ => (((wDmaBursts4.applyUps ([])).dmaPick ([])).get (by decide +kernel))), dma := if (wDmaBursts4.applyUps ([])).dmaRate (((wDmaBursts4.applyUps ([])).dmaPick ([])).get (by decide +kernel)) = 0 then (wDmaBursts4.applyUps ([])).dma else updAt (wDmaBursts4.applyUps ([])).dma (((wDmaBursts4.applyUps ([])).dmaPick ([])).get (by decide +kernel)) (fun (c : DmaCh) => { c with bucket := c.bucket - 4 * (((((wDmaBursts4.applyUps ([])).dm (((wDmaBursts4.applyUps ([])).dmaPick ([])).get (by decide +kernel))).desc).get (by decide +kernel)).burst ((wDmaBursts4.applyUps ([])).dm (((wDmaBursts4.applyUps ([])).dmaPick ([])).get (by decide +kernel))).remain) }) })
      : State).dmaRead (((wDmaBursts4.applyUps ([])).dmaPick ([])).get (by decide +kernel)) (((((wDmaBursts4.applyUps ([])).dm
      (((wDmaBursts4.applyUps ([])).dmaPick ([])).get (by decide +kernel))).desc).get (by decide +kernel)).srcRuns (((((wDmaBursts4.applyUps
      ([])).dm (((wDmaBursts4.applyUps ([])).dmaPick ([])).get (by decide +kernel))).desc).get (by decide +kernel)).count - ((wDmaBursts4.applyUps
      ([])).dm (((wDmaBursts4.applyUps ([])).dmaPick ([])).get (by decide +kernel))).remain) (((((wDmaBursts4.applyUps ([])).dm
      (((wDmaBursts4.applyUps ([])).dmaPick ([])).get (by decide +kernel))).desc).get (by decide +kernel)).burst ((wDmaBursts4.applyUps ([])).dm
      (((wDmaBursts4.applyUps ([])).dmaPick ([])).get (by decide +kernel))).remain)) ([])).1.dmaWrite (((wDmaBursts4.applyUps ([])).dmaPick
      ([])).get (by decide +kernel)) 600 (if ((((wDmaBursts4.applyUps ([])).dm (((wDmaBursts4.applyUps ([])).dmaPick ([])).get (by
      decide +kernel))).desc).get (by decide +kernel)).split then (upTo ((((wDmaBursts4.applyUps ([])).dm (((wDmaBursts4.applyUps ([])).dmaPick
      ([])).get (by decide +kernel))).desc).get (by decide +kernel)).planes).map (fun p => (((((wDmaBursts4.applyUps ([])).dm
      (((wDmaBursts4.applyUps ([])).dmaPick ([])).get (by decide +kernel))).desc).get (by decide +kernel)).planeAt p (((((wDmaBursts4.applyUps
      ([])).dm (((wDmaBursts4.applyUps ([])).dmaPick ([])).get (by decide +kernel))).desc).get (by decide +kernel)).planeRun
      (((((wDmaBursts4.applyUps ([])).dm (((wDmaBursts4.applyUps ([])).dmaPick ([])).get (by decide +kernel))).desc).get (by decide +kernel)).count
      - ((wDmaBursts4.applyUps ([])).dm (((wDmaBursts4.applyUps ([])).dmaPick ([])).get (by decide +kernel))).remain) (((((wDmaBursts4.applyUps
      ([])).dm (((wDmaBursts4.applyUps ([])).dmaPick ([])).get (by decide +kernel))).desc).get (by decide +kernel)).burst ((wDmaBursts4.applyUps
      ([])).dm (((wDmaBursts4.applyUps ([])).dmaPick ([])).get (by decide +kernel))).remain)).1, ((((wDmaBursts4.applyUps ([])).dm
      (((wDmaBursts4.applyUps ([])).dmaPick ([])).get (by decide +kernel))).desc).get (by decide +kernel)).splitPlane (((((wDmaBursts4.applyUps
      ([])).dm (((wDmaBursts4.applyUps ([])).dmaPick ([])).get (by decide +kernel))).desc).get (by decide +kernel)).count - ((wDmaBursts4.applyUps
      ([])).dm (((wDmaBursts4.applyUps ([])).dmaPick ([])).get (by decide +kernel))).remain) (((((wDmaBursts4.applyUps ([])).dm
      (((wDmaBursts4.applyUps ([])).dmaPick ([])).get (by decide +kernel))).desc).get (by decide +kernel)).burst ((wDmaBursts4.applyUps ([])).dm
      (((wDmaBursts4.applyUps ([])).dmaPick ([])).get (by decide +kernel))).remain) p
      (((({ (wDmaBursts4.applyUps ([])) with rr := updAt (wDmaBursts4.applyUps ([])).rr ((wDmaBursts4.applyUps ([])).dmaPrio (((wDmaBursts4.applyUps ([])).dmaPick ([])).get (by decide +kernel))) (fun _ => (((wDmaBursts4.applyUps ([])).dmaPick ([])).get (by decide +kernel))), dma := if (wDmaBursts4.applyUps ([])).dmaRate (((wDmaBursts4.applyUps ([])).dmaPick ([])).get (by decide +kernel)) = 0 then (wDmaBursts4.applyUps ([])).dma else updAt (wDmaBursts4.applyUps ([])).dma (((wDmaBursts4.applyUps ([])).dmaPick ([])).get (by decide +kernel)) (fun (c : DmaCh) => { c with bucket := c.bucket - 4 * (((((wDmaBursts4.applyUps ([])).dm (((wDmaBursts4.applyUps ([])).dmaPick ([])).get (by decide +kernel))).desc).get (by decide +kernel)).burst ((wDmaBursts4.applyUps ([])).dm (((wDmaBursts4.applyUps ([])).dmaPick ([])).get (by decide +kernel))).remain) }) })
      : State).dmaRead (((wDmaBursts4.applyUps ([])).dmaPick ([])).get (by decide +kernel)) (((((wDmaBursts4.applyUps ([])).dm
      (((wDmaBursts4.applyUps ([])).dmaPick ([])).get (by decide +kernel))).desc).get (by decide +kernel)).srcRuns (((((wDmaBursts4.applyUps
      ([])).dm (((wDmaBursts4.applyUps ([])).dmaPick ([])).get (by decide +kernel))).desc).get (by decide +kernel)).count - ((wDmaBursts4.applyUps
      ([])).dm (((wDmaBursts4.applyUps ([])).dmaPick ([])).get (by decide +kernel))).remain) (((((wDmaBursts4.applyUps ([])).dm
      (((wDmaBursts4.applyUps ([])).dmaPick ([])).get (by decide +kernel))).desc).get (by decide +kernel)).burst ((wDmaBursts4.applyUps ([])).dm
      (((wDmaBursts4.applyUps ([])).dmaPick ([])).get (by decide +kernel))).remain)) ([])).2.1.headD [])
      (((({ (wDmaBursts4.applyUps ([])) with rr := updAt (wDmaBursts4.applyUps ([])).rr ((wDmaBursts4.applyUps ([])).dmaPrio (((wDmaBursts4.applyUps ([])).dmaPick ([])).get (by decide +kernel))) (fun _ => (((wDmaBursts4.applyUps ([])).dmaPick ([])).get (by decide +kernel))), dma := if (wDmaBursts4.applyUps ([])).dmaRate (((wDmaBursts4.applyUps ([])).dmaPick ([])).get (by decide +kernel)) = 0 then (wDmaBursts4.applyUps ([])).dma else updAt (wDmaBursts4.applyUps ([])).dma (((wDmaBursts4.applyUps ([])).dmaPick ([])).get (by decide +kernel)) (fun (c : DmaCh) => { c with bucket := c.bucket - 4 * (((((wDmaBursts4.applyUps ([])).dm (((wDmaBursts4.applyUps ([])).dmaPick ([])).get (by decide +kernel))).desc).get (by decide +kernel)).burst ((wDmaBursts4.applyUps ([])).dm (((wDmaBursts4.applyUps ([])).dmaPick ([])).get (by decide +kernel))).remain) }) })
      : State).dmaRead (((wDmaBursts4.applyUps ([])).dmaPick ([])).get (by decide +kernel)) (((((wDmaBursts4.applyUps ([])).dm
      (((wDmaBursts4.applyUps ([])).dmaPick ([])).get (by decide +kernel))).desc).get (by decide +kernel)).srcRuns (((((wDmaBursts4.applyUps
      ([])).dm (((wDmaBursts4.applyUps ([])).dmaPick ([])).get (by decide +kernel))).desc).get (by decide +kernel)).count - ((wDmaBursts4.applyUps
      ([])).dm (((wDmaBursts4.applyUps ([])).dmaPick ([])).get (by decide +kernel))).remain) (((((wDmaBursts4.applyUps ([])).dm
      (((wDmaBursts4.applyUps ([])).dmaPick ([])).get (by decide +kernel))).desc).get (by decide +kernel)).burst ((wDmaBursts4.applyUps ([])).dm
      (((wDmaBursts4.applyUps ([])).dmaPick ([])).get (by decide +kernel))).remain)) ([])).1.rawBytes (((((wDmaBursts4.applyUps ([])).dm
      (((wDmaBursts4.applyUps ([])).dmaPick ([])).get (by decide +kernel))).desc).get (by decide +kernel)).planeAt p (((((wDmaBursts4.applyUps
      ([])).dm (((wDmaBursts4.applyUps ([])).dmaPick ([])).get (by decide +kernel))).desc).get (by decide +kernel)).planeRun
      (((((wDmaBursts4.applyUps ([])).dm (((wDmaBursts4.applyUps ([])).dmaPick ([])).get (by decide +kernel))).desc).get (by decide +kernel)).count
      - ((wDmaBursts4.applyUps ([])).dm (((wDmaBursts4.applyUps ([])).dmaPick ([])).get (by decide +kernel))).remain) (((((wDmaBursts4.applyUps
      ([])).dm (((wDmaBursts4.applyUps ([])).dmaPick ([])).get (by decide +kernel))).desc).get (by decide +kernel)).burst ((wDmaBursts4.applyUps
      ([])).dm (((wDmaBursts4.applyUps ([])).dmaPick ([])).get (by decide +kernel))).remain)).1) (((((wDmaBursts4.applyUps ([])).dm
      (((wDmaBursts4.applyUps ([])).dmaPick ([])).get (by decide +kernel))).desc).get (by decide +kernel)).planeRun (((((wDmaBursts4.applyUps
      ([])).dm (((wDmaBursts4.applyUps ([])).dmaPick ([])).get (by decide +kernel))).desc).get (by decide +kernel)).count - ((wDmaBursts4.applyUps
      ([])).dm (((wDmaBursts4.applyUps ([])).dmaPick ([])).get (by decide +kernel))).remain) (((((wDmaBursts4.applyUps ([])).dm
      (((wDmaBursts4.applyUps ([])).dmaPick ([])).get (by decide +kernel))).desc).get (by decide +kernel)).burst ((wDmaBursts4.applyUps ([])).dm
      (((wDmaBursts4.applyUps ([])).dmaPick ([])).get (by decide +kernel))).remain)).2))) else if ((((wDmaBursts4.applyUps ([])).dm
      (((wDmaBursts4.applyUps ([])).dmaPick ([])).get (by decide +kernel))).desc).get (by decide +kernel)).merge then [(((((wDmaBursts4.applyUps
      ([])).dm (((wDmaBursts4.applyUps ([])).dmaPick ([])).get (by decide +kernel))).desc).get (by decide +kernel)).dst + (((((wDmaBursts4.applyUps
      ([])).dm (((wDmaBursts4.applyUps ([])).dmaPick ([])).get (by decide +kernel))).desc).get (by decide +kernel)).count - ((wDmaBursts4.applyUps
      ([])).dm (((wDmaBursts4.applyUps ([])).dmaPick ([])).get (by decide +kernel))).remain), ((((wDmaBursts4.applyUps ([])).dm
      (((wDmaBursts4.applyUps ([])).dmaPick ([])).get (by decide +kernel))).desc).get (by decide +kernel)).mergeBytes (((((wDmaBursts4.applyUps
      ([])).dm (((wDmaBursts4.applyUps ([])).dmaPick ([])).get (by decide +kernel))).desc).get (by decide +kernel)).count - ((wDmaBursts4.applyUps
      ([])).dm (((wDmaBursts4.applyUps ([])).dmaPick ([])).get (by decide +kernel))).remain) (((((wDmaBursts4.applyUps ([])).dm
      (((wDmaBursts4.applyUps ([])).dmaPick ([])).get (by decide +kernel))).desc).get (by decide +kernel)).burst ((wDmaBursts4.applyUps ([])).dm
      (((wDmaBursts4.applyUps ([])).dmaPick ([])).get (by decide +kernel))).remain)
      ((({ (wDmaBursts4.applyUps ([])) with rr := updAt (wDmaBursts4.applyUps ([])).rr ((wDmaBursts4.applyUps ([])).dmaPrio (((wDmaBursts4.applyUps ([])).dmaPick ([])).get (by decide +kernel))) (fun _ => (((wDmaBursts4.applyUps ([])).dmaPick ([])).get (by decide +kernel))), dma := if (wDmaBursts4.applyUps ([])).dmaRate (((wDmaBursts4.applyUps ([])).dmaPick ([])).get (by decide +kernel)) = 0 then (wDmaBursts4.applyUps ([])).dma else updAt (wDmaBursts4.applyUps ([])).dma (((wDmaBursts4.applyUps ([])).dmaPick ([])).get (by decide +kernel)) (fun (c : DmaCh) => { c with bucket := c.bucket - 4 * (((((wDmaBursts4.applyUps ([])).dm (((wDmaBursts4.applyUps ([])).dmaPick ([])).get (by decide +kernel))).desc).get (by decide +kernel)).burst ((wDmaBursts4.applyUps ([])).dm (((wDmaBursts4.applyUps ([])).dmaPick ([])).get (by decide +kernel))).remain) }) })
      : State).dmaRead (((wDmaBursts4.applyUps ([])).dmaPick ([])).get (by decide +kernel)) (((((wDmaBursts4.applyUps ([])).dm
      (((wDmaBursts4.applyUps ([])).dmaPick ([])).get (by decide +kernel))).desc).get (by decide +kernel)).srcRuns (((((wDmaBursts4.applyUps
      ([])).dm (((wDmaBursts4.applyUps ([])).dmaPick ([])).get (by decide +kernel))).desc).get (by decide +kernel)).count - ((wDmaBursts4.applyUps
      ([])).dm (((wDmaBursts4.applyUps ([])).dmaPick ([])).get (by decide +kernel))).remain) (((((wDmaBursts4.applyUps ([])).dm
      (((wDmaBursts4.applyUps ([])).dmaPick ([])).get (by decide +kernel))).desc).get (by decide +kernel)).burst ((wDmaBursts4.applyUps ([])).dm
      (((wDmaBursts4.applyUps ([])).dmaPick ([])).get (by decide +kernel))).remain)) ([])).2.1)] else [(((((wDmaBursts4.applyUps ([])).dm
      (((wDmaBursts4.applyUps ([])).dmaPick ([])).get (by decide +kernel))).desc).get (by decide +kernel)).dst + (((((wDmaBursts4.applyUps ([])).dm
      (((wDmaBursts4.applyUps ([])).dmaPick ([])).get (by decide +kernel))).desc).get (by decide +kernel)).count - ((wDmaBursts4.applyUps ([])).dm
      (((wDmaBursts4.applyUps ([])).dmaPick ([])).get (by decide +kernel))).remain),
      ((({ (wDmaBursts4.applyUps ([])) with rr := updAt (wDmaBursts4.applyUps ([])).rr ((wDmaBursts4.applyUps ([])).dmaPrio (((wDmaBursts4.applyUps ([])).dmaPick ([])).get (by decide +kernel))) (fun _ => (((wDmaBursts4.applyUps ([])).dmaPick ([])).get (by decide +kernel))), dma := if (wDmaBursts4.applyUps ([])).dmaRate (((wDmaBursts4.applyUps ([])).dmaPick ([])).get (by decide +kernel)) = 0 then (wDmaBursts4.applyUps ([])).dma else updAt (wDmaBursts4.applyUps ([])).dma (((wDmaBursts4.applyUps ([])).dmaPick ([])).get (by decide +kernel)) (fun (c : DmaCh) => { c with bucket := c.bucket - 4 * (((((wDmaBursts4.applyUps ([])).dm (((wDmaBursts4.applyUps ([])).dmaPick ([])).get (by decide +kernel))).desc).get (by decide +kernel)).burst ((wDmaBursts4.applyUps ([])).dm (((wDmaBursts4.applyUps ([])).dmaPick ([])).get (by decide +kernel))).remain) }) })
      : State).dmaRead (((wDmaBursts4.applyUps ([])).dmaPick ([])).get (by decide +kernel)) (((((wDmaBursts4.applyUps ([])).dm
      (((wDmaBursts4.applyUps ([])).dmaPick ([])).get (by decide +kernel))).desc).get (by decide +kernel)).srcRuns (((((wDmaBursts4.applyUps
      ([])).dm (((wDmaBursts4.applyUps ([])).dmaPick ([])).get (by decide +kernel))).desc).get (by decide +kernel)).count - ((wDmaBursts4.applyUps
      ([])).dm (((wDmaBursts4.applyUps ([])).dmaPick ([])).get (by decide +kernel))).remain) (((((wDmaBursts4.applyUps ([])).dm
      (((wDmaBursts4.applyUps ([])).dmaPick ([])).get (by decide +kernel))).desc).get (by decide +kernel)).burst ((wDmaBursts4.applyUps ([])).dm
      (((wDmaBursts4.applyUps ([])).dmaPick ([])).get (by decide +kernel))).remain)) ([])).2.1.headD [])])), by decide +kernel⟩,
    ⟨wDmaBursts5, ([]), ((wDmaBursts5.dmaPick ([])).get (by decide +kernel)), ((((wDmaBursts5.dm ((wDmaBursts5.dmaPick ([])).get (by
      decide +kernel))).desc).get (by decide +kernel)).burst (wDmaBursts5.dm ((wDmaBursts5.dmaPick ([])).get (by decide +kernel))).remain),
      (((wDmaBursts5.dm ((wDmaBursts5.dmaPick ([])).get (by decide +kernel))).desc).get (by decide +kernel)), by decide +kernel⟩,
    ⟨wDmaBursts6, ([]), ((wDmaBursts6.dmaPick ([])).get (by decide +kernel)), ((((wDmaBursts6.dm ((wDmaBursts6.dmaPick ([])).get (by
      decide +kernel))).desc).get (by decide +kernel)).burst (wDmaBursts6.dm ((wDmaBursts6.dmaPick ([])).get (by decide +kernel))).remain), 0,
      false, (((wDmaBursts6.dm ((wDmaBursts6.dmaPick ([])).get (by decide +kernel))).desc).get (by decide +kernel)), by decide +kernel⟩,
    ⟨wDmaBursts7, ([]), ((wDmaBursts7.dmaPick ([])).get (by decide +kernel)), (if false then (((wDmaBursts7.dm ((wDmaBursts7.dmaPick ([])).get (by
      decide +kernel))).desc).get (by decide +kernel)).dst else (((wDmaBursts7.dm ((wDmaBursts7.dmaPick ([])).get (by decide +kernel))).desc).get
      (by decide +kernel)).src), false, (((wDmaBursts7.dm ((wDmaBursts7.dmaPick ([])).get (by decide +kernel))).desc).get (by decide +kernel)), by
      decide +kernel⟩,
    ⟨(({ src := 0, sstr := 0, dst := 4096, dstr := 0, count := 512, ctrl := 1 }) : Desc), 0, 8, 63, (63 %
      ((({ src := 0, sstr := 0, dst := 4096, dstr := 0, count := 512, ctrl := 1 }) : Desc).planes *
      (({ src := 0, sstr := 0, dst := 4096, dstr := 0, count := 512, ctrl := 1 }) : Desc).bits) /
      (({ src := 0, sstr := 0, dst := 4096, dstr := 0, count := 512, ctrl := 1 }) : Desc).bits), (63 /
      ((({ src := 0, sstr := 0, dst := 4096, dstr := 0, count := 512, ctrl := 1 }) : Desc).planes *
      (({ src := 0, sstr := 0, dst := 4096, dstr := 0, count := 512, ctrl := 1 }) : Desc).bits) *
      (({ src := 0, sstr := 0, dst := 4096, dstr := 0, count := 512, ctrl := 1 }) : Desc).bits + 63 %
      (({ src := 0, sstr := 0, dst := 4096, dstr := 0, count := 512, ctrl := 1 }) : Desc).bits), by decide +kernel⟩⟩

def wConsumablePorts2 : State :=
  rg (cl c0 [(7, 11, 4)]) (csmA 11 0) 0x5001
def wConsumablePorts3 : State :=
  (rg (cl c0 [(7, 11, 4)]) (csmA 11 0) 0x5001).modCsm 11 (fun c => { c with yes := 2 })
def wConsumablePorts4 : State :=
  (rg (cl c0 [(7, 11, 4)]) (csmA 11 0) 0x5001).modCsm 11 (fun c => { c with present := true, no := 3 })
def wConsumablePorts7 : State :=
  rg (cl c0 [(7, 11, 4)]) (csmA 11 0) 0x5001
def wConsumablePorts8 : State :=
  (rg (cl c0 [(7, 11, 4)]) (csmA 11 0) 0x5001).modCsm 11 (fun c =>
    { c with st := .ready, present := true, serial := some [7], due := true, pend := 1 })
def wConsumablePorts9 : State :=
  (rg (cl c0 [(7, 11, 4)]) (csmA 11 0) 0x5001).modCsm 11 (fun c => { c with st := .ident, cmd := some 1 })
def wConsumablePorts10 : State :=
  (rg (cl c0 [(7, 11, 4)]) (csmA 11 0) 0x5001).modCsm 11 (fun c => { c with cmd := some 1 })
def wConsumablePorts12 : State :=
  (rg (cl c0 [(7, 11, 4)]) (csmA 11 0) 0x5001).modCsm 11 (fun c => { c with st := .auth })
def wConsumablePorts13 : State :=
  (rg (cl c0 [(7, 11, 4)]) (csmA 11 0) 0x5001).modCsm 11 (fun c => { c with st := .ident, cmd := some 1 })

theorem test_consumable_ports :
    (∃ (s : State) (p : Nat), ((s.inReset = true ∨ s.csmOn p = false))) ∧
    (∃ (s : State) (p : Nat), s.inReset = false ∧ s.csmOn p = true) ∧
    (∃ (s : State) (p : Nat), s.inReset = false ∧ s.csmOn p = true ∧ (s.cp p).present = false ∧ 2 ≤ (s.cp p).yes) ∧
    (∃ (s : State) (p : Nat), s.inReset = false ∧ s.csmOn p = true ∧ p < s.csm.ports.length ∧ (s.cp p).present = true ∧ 3 ≤ (s.cp p).no) ∧
    (∃ (s : State) (p : Nat), (if (s.cp p).present then (s.cp p).no < 3 else (s.cp p).yes < 2)) ∧
    (∃ (s : State) (p : Nat), s.inReset = false ∧ s.csmOn p = true ∧ p < s.csm.ports.length ∧ (s.cp p).cmd = none) ∧
    (∃ (s : State) (p : Nat), s.inReset = false ∧ s.csmOn p = true ∧ p < s.csm.ports.length ∧ (s.cp p).present = true ∧ (((s.cp p).st = .ready ∨
      (s.cp p).st = .failed)) ∧ (s.cp p).serial ≠ none ∧ (s.cp p).due = true ∧ 0 < (s.cp p).pend) ∧
    (∃ (s : State) (p : Nat) (cmd : Nat), s.inReset = false ∧ s.csmOn p = true ∧ (s.cp p).cmd = some cmd) ∧
    (∃ (s : State) (u : State) (p : Nat) (cmd : Nat), (s.cp p).cmd = some cmd ∧ p < s.csm.ports.length ∧ u = (if s.flag (csmA p 0) 1 then s else
      s.emit (.csm p [if (s.cp p).reReads = 0 then 0x50 else 0x52]))) ∧
    (∃ (s : State) (t : State) (p : Nat) (cause : Nat), p < s.csm.ports.length ∧ t = s.csmFail p cause) ∧
    (∃ (s : State) (p : Nat), s.inReset = false ∧ s.csmOn p = true ∧ (s.cp p).st = .auth ∧ s.otp.kMaster = none) ∧
    (∃ (s : State) (p : Nat) (cmd : Nat), s.inReset = false ∧ s.csmOn p = true ∧ p < s.csm.ports.length ∧ (s.cp p).cmd = some cmd) :=
  ⟨⟨c0, 63, by decide +kernel⟩,
    ⟨wConsumablePorts2, 11, by decide +kernel⟩,
    ⟨wConsumablePorts3, 11, by decide +kernel⟩,
    ⟨wConsumablePorts4, 11, by decide +kernel⟩,
    ⟨c0, 63, by decide +kernel⟩,
    ⟨wConsumablePorts7, 11, by decide +kernel⟩,
    ⟨wConsumablePorts8, 11, by decide +kernel⟩,
    ⟨wConsumablePorts9, 11, (((wConsumablePorts9.cp 11).cmd).get (by decide +kernel)), by decide +kernel⟩,
    ⟨wConsumablePorts10, (if wConsumablePorts10.flag (csmA 11 0) 1 then wConsumablePorts10 else wConsumablePorts10.emit (.csm 11 [if
      (wConsumablePorts10.cp 11).reReads = 0 then 0x50 else 0x52])), 11, (((wConsumablePorts10.cp 11).cmd).get (by decide +kernel)), by
      decide +kernel⟩,
    ⟨c0, (c0.csmFail 11 63), 11, 63, by decide +kernel⟩,
    ⟨wConsumablePorts12, 11, by decide +kernel⟩,
    ⟨wConsumablePorts13, 11, (((wConsumablePorts13.cp 11).cmd).get (by decide +kernel)), by decide +kernel⟩⟩

def wConsumableRequests4 : State :=
  (eth c0).modCsm 11 (fun c => { c with report := true })
def wConsumableRequests6 : State :=
  (eth c0).modCsm 11 (fun c => { c with report := true })
def wConsumableRequests10 : State :=
  (eth (rg (cl c0 [(7, 11, 4)]) (csmA 11 0) 0x5001)).modCsm 11 (fun c => { c with st := .ready, present := true })

theorem test_consumable_requests :
    (∃ (s : State) (g : CsmPort → CsmPort), s.inReset = false ∧ s.id.motion = true ∧ ((∀ c, g c =
      match c.st with | .ident => c | .auth => c | .commit => { c with authDue := true } | _ => { c with st := if c.serial.isSome then CsmSt.auth else CsmSt.ident, cmd := none }))) ∧
    (∃ (s : State), ((s.inReset = true ∨ s.id.motion = false))) ∧
    (∃ (s : State) (p : Nat), ((s.inReset = true ∨ (s.cp p).report = false ∨ s.unasked 0x0D 0 (s.usageBody p) = none))) ∧
    (∃ (s : State) (u : State) (p : Nat), s.inReset = false ∧ (s.cp p).report = true ∧ s.unasked 0x0D 0 (s.usageBody p) = some u) ∧
    (∃ (s : State), s.id.isE = false ∧ s.host.dest = none) ∧
    (∃ (s : State) (u : State) (p : Nat), s.inReset = false ∧ p < s.csm.ports.length ∧ (s.cp p).report = true ∧ u = s.setReg (evtB + 0x44) (wd
      (((s.reg (evtB + 0x44)).toNat + 1) % 2 ^ 32))) ∧
    (∃ (s : State) (h : ReqHdr), s.takes false h 0x10 4) ∧
    (∃ (s : State) (h : ReqHdr) (port : Nat), s.takes false h 0x10 4 ∧ port ≠ 0xFF ∧ (s.csmOn port && (s.cp port).present) = false) ∧
    (∃ (s : State) (h : ReqHdr), s.takes false h 0x10 4 ∧ ((∀ p, p < 12 → (s.csmOn p && (s.cp p).present) = false))) ∧
    (∃ (s : State) (h : ReqHdr) (port : Nat) (ps : List Nat) (g : CsmPort → CsmPort), s.takes false h 0x10 4 ∧ ps = (if port = 0xFF then upTo 12
      else [port]).filter (fun p => s.csmOn p && (s.cp p).present) ∧ ps ≠ [] ∧ ((∀ c, g c =
      match c.st with | .ident => c | .auth => c | .commit => { c with authDue := true } | _ => { c with st := if c.serial.isSome then CsmSt.auth else CsmSt.ident, cmd := none }))) :=
  ⟨⟨c0, (fun c =>
    match c.st with | .ident => c | .auth => c | .commit => { c with authDue := true } | _ => { c with st := if c.serial.isSome then CsmSt.auth else CsmSt.ident, cmd := none }),
    by decide +kernel, by decide +kernel, (by exact fun _ => rfl)⟩,
    ⟨State.reset, by decide +kernel⟩,
    ⟨c0, 63, by decide +kernel⟩,
    ⟨wConsumableRequests4, ((wConsumableRequests4.unasked 0x0D 0 (wConsumableRequests4.usageBody 11)).get (by decide +kernel)), 11, by
      decide +kernel⟩,
    ⟨c0, by decide +kernel⟩,
    ⟨wConsumableRequests6, (wConsumableRequests6.setReg (evtB + 0x44) (wd (((wConsumableRequests6.reg (evtB + 0x44)).toNat + 1) % 2 ^ 32))), 11, by
      decide +kernel⟩,
    ⟨(adm 100), hdr, by unfold State.takes; decide +kernel⟩,
    ⟨(adm 100), hdr, 63, by unfold State.takes; decide +kernel, by decide +kernel, by decide +kernel⟩,
    ⟨(eth c0), hdr, by unfold State.takes; decide +kernel, (by intro k hk; interval_cases k <;> decide +kernel)⟩,
    ⟨wConsumableRequests10, hdr, 11, ((if 11 = 0xFF then upTo 12 else [11]).filter (fun p => wConsumableRequests10.csmOn p &&
      (wConsumableRequests10.cp p).present)), (fun c =>
      match c.st with | .ident => c | .auth => c | .commit => { c with authDue := true } | _ => { c with st := if c.serial.isSome then CsmSt.auth else CsmSt.ident, cmd := none }),
      by unfold State.takes; decide +kernel, by decide +kernel, by decide +kernel, (by exact fun _ => rfl)⟩⟩

def wHostJobs2 : State :=
  jobs e0 (pg0 .inPageStore 2)
def wHostJobs6 : State :=
  { eth c0 with jobs := List.replicate 16 { id := 4, closed := false, pages := [] } }

theorem test_host_jobs :
    (∃ (s : State) (h : ReqHdr) (i : Instr) (ty : Nat) (b : List Byte) (here : Bool), (i, ty, b, here) ∈ [(Instr.hello h, 1, [], false), (.bandData
      h { job := 4, page := 7, plane := 0, band := 1, off := 0, data := [9, 9] }, 5, partBody
      { job := 4, page := 7, plane := 0, band := 1, off := 0, data := [9, 9] }, true)] ∧ (here = true → s.id.hostSide = true)) ∧
    (∃ (s : State), s.id.hostSide = false) ∧
    (∃ (s : State) (h : ReqHdr) (job : Nat), s.takes false h 2 4 ∧ s.job? job = none ∧ s.jobs.length < 16) ∧
    (∃ (s : State) (h : ReqHdr) (job : Nat), s.takes false h 2 4 ∧ s.job? job ≠ none) ∧
    (∃ (s : State) (h : ReqHdr) (job : Nat), s.takes false h 2 4 ∧ s.job? job = none ∧ 16 ≤ s.jobs.length) ∧
    (∃ (s : State) (h : ReqHdr) (job : Nat) (j : Job), s.takes false h 3 4 ∧ s.job? job = some j ∧ j.closed = false) ∧
    (∃ (s : State) (h : ReqHdr) (job : Nat), s.takes false h 3 4 ∧ ((∀ j, s.job? job = some j → j.closed = true))) ∧
    (∃ (s : State) (h : ReqHdr) (job : Nat) (page : Nat) (p : Page), s.takes false h 7 4 ∧ page ≠ 0xFFFF ∧ s.page? job page = some p) ∧
    (∃ (s : State) (h : ReqHdr) (job : Nat) (j : Job), s.takes false h 7 4 ∧ s.job? job = some j) ∧
    (∃ (s : State) (h : ReqHdr) (job : Nat) (page : Nat), s.takes false h 7 4 ∧ (if page = 0xFFFF then s.job? job = none else s.page? job page =
      none)) ∧
    (∃ (s : State) (u : State) (h : ReqHdr), s.takes false h 1 0 ∧ u = (if s.id.isE then s.countMsg h.link else (s.countMsg h.link).helloFrom
      ⟨h.link, h.src, h.port⟩)) :=
  ⟨⟨eth c0, hdr, _, 5, _, true, List.Mem.tail _ (List.Mem.head _), fun _ => by decide +kernel⟩,
    ⟨wHostJobs2, by decide +kernel⟩,
    ⟨(adm 100), hdr, 63, by unfold State.takes; decide +kernel, by decide +kernel, by decide +kernel⟩,
    ⟨(adm 100), hdr, 4, by unfold State.takes; decide +kernel, by decide +kernel⟩,
    ⟨wHostJobs6, hdr, 63, by unfold State.takes; decide +kernel, by decide +kernel, by decide +kernel⟩,
    ⟨(adm 100), hdr, 4, (((adm 100).job? 4).get (by decide +kernel)), by unfold State.takes; decide +kernel, by decide +kernel, by decide +kernel⟩,
    ⟨(adm 100), hdr, 63, by unfold State.takes; decide +kernel, by decide +kernel⟩,
    ⟨(adm 100), hdr, 4, 7, (((adm 100).page? 4 7).get (by decide +kernel)), by unfold State.takes; decide +kernel, by decide +kernel, by
      decide +kernel⟩,
    ⟨(adm 100), hdr, 4, (((adm 100).job? 4).get (by decide +kernel)), by unfold State.takes; decide +kernel, by decide +kernel⟩,
    ⟨(adm 100), hdr, 63, 63, by unfold State.takes; decide +kernel, by decide +kernel⟩,
    ⟨(adm 100), (if (adm 100).id.isE then (adm 100).countMsg hdr.link else ((adm 100).countMsg hdr.link).helloFrom ⟨hdr.link, hdr.src, hdr.port⟩),
      hdr, by unfold State.takes; decide +kernel, by decide +kernel⟩⟩

def wHostPages2 : State :=
  jobs (eth c0) { pg0 .absent 2 with lines := 48, complete := false }
def wHostPages3 : State :=
  jobs (eth c0) (pg0 .absent 2)
def wHostPages4 : State :=
  rg (eth c0) (ptpA 0 0) 1

theorem test_host_pages :
    (∃ (s : State) (h : ReqHdr) (f : PageFrag) (j : Job) (p : Page), s.takes false h 4 (fragBody f).length ∧ s.job? f.job = some j ∧ j.closed =
      false ∧ j.page? f.page = none ∧ fragOk f = true ∧ (j.newPage f).take f = some p) ∧
    (∃ (s : State) (h : ReqHdr) (f : PageFrag) (j : Job) (p0 : Page) (p : Page), s.takes false h 4 (fragBody f).length ∧ s.job? f.job = some j ∧
      j.closed = false ∧ j.page? f.page = some p0 ∧ p0.relAsked = false ∧ fragOk f = true ∧ p0.take f = some p) ∧
    (∃ (s : State) (h : ReqHdr) (f : PageFrag) (j : Job), s.takes false h 4 (fragBody f).length ∧ s.job? f.job = some j ∧ j.closed = false ∧
      ((match j.page? f.page with | none => fragOk f = false ∨ (j.newPage f).take f = none | some p0 => p0.relAsked = false ∧ (fragOk f = false ∨ p0.take f = none)))) ∧
    (∃ (s : State) (h : ReqHdr) (f : PageFrag), s.takes false h 4 (fragBody f).length ∧ ((∀ j, s.job? f.job = some j → j.closed = true ∨ ∃ p,
      j.page? f.page = some p ∧ p.relAsked = true))) ∧
    (∃ (s : State) (h : ReqHdr) (p : BandPart) (raw : Bool) (i : Instr) (ty : Nat), i = (if raw then .bandRaw h p else .bandData h p) ∧ ty = (if
      raw then 6 else 5) ∧ s.id.hostSide = true ∧ s.takes true h ty (partBody p).length) :=
  ⟨⟨(adm 100), hdr,
    (({ job := 4, page := 8, lines := 48, medium := 2100, planes := 1, flags := 0, plane := 0, pitch := 8, firstBand := 0, entries := [{ firstLine := 0, lines := 16, compLen := 2 }] })
    : PageFrag), (((adm 100).job?
    (({ job := 4, page := 8, lines := 48, medium := 2100, planes := 1, flags := 0, plane := 0, pitch := 8, firstBand := 0, entries := [{ firstLine := 0, lines := 16, compLen := 2 }] })
    : PageFrag).job).get (by decide +kernel)), ((((((adm 100).job?
    (({ job := 4, page := 8, lines := 48, medium := 2100, planes := 1, flags := 0, plane := 0, pitch := 8, firstBand := 0, entries := [{ firstLine := 0, lines := 16, compLen := 2 }] })
    : PageFrag).job).get (by decide +kernel)).newPage
    (({ job := 4, page := 8, lines := 48, medium := 2100, planes := 1, flags := 0, plane := 0, pitch := 8, firstBand := 0, entries := [{ firstLine := 0, lines := 16, compLen := 2 }] })
    : PageFrag)).take
    (({ job := 4, page := 8, lines := 48, medium := 2100, planes := 1, flags := 0, plane := 0, pitch := 8, firstBand := 0, entries := [{ firstLine := 0, lines := 16, compLen := 2 }] })
    : PageFrag)).get (by decide +kernel)), by unfold State.takes; decide +kernel, by decide +kernel, by decide +kernel, by decide +kernel, by
    decide +kernel, by decide +kernel⟩,
    ⟨wHostPages2, hdr,
      (({ job := 4, page := 7, lines := 48, medium := 2100, planes := 1, flags := 0, plane := 0, pitch := 8, firstBand := 2, entries := [{ firstLine := 32, lines := 16, compLen := 2 }] })
      : PageFrag), ((wHostPages2.job?
      (({ job := 4, page := 7, lines := 48, medium := 2100, planes := 1, flags := 0, plane := 0, pitch := 8, firstBand := 2, entries := [{ firstLine := 32, lines := 16, compLen := 2 }] })
      : PageFrag).job).get (by decide +kernel)), ((((wHostPages2.job?
      (({ job := 4, page := 7, lines := 48, medium := 2100, planes := 1, flags := 0, plane := 0, pitch := 8, firstBand := 2, entries := [{ firstLine := 32, lines := 16, compLen := 2 }] })
      : PageFrag).job).get (by decide +kernel)).page?
      (({ job := 4, page := 7, lines := 48, medium := 2100, planes := 1, flags := 0, plane := 0, pitch := 8, firstBand := 2, entries := [{ firstLine := 32, lines := 16, compLen := 2 }] })
      : PageFrag).page).get (by decide +kernel)), ((((((wHostPages2.job?
      (({ job := 4, page := 7, lines := 48, medium := 2100, planes := 1, flags := 0, plane := 0, pitch := 8, firstBand := 2, entries := [{ firstLine := 32, lines := 16, compLen := 2 }] })
      : PageFrag).job).get (by decide +kernel)).page?
      (({ job := 4, page := 7, lines := 48, medium := 2100, planes := 1, flags := 0, plane := 0, pitch := 8, firstBand := 2, entries := [{ firstLine := 32, lines := 16, compLen := 2 }] })
      : PageFrag).page).get (by decide +kernel)).take
      (({ job := 4, page := 7, lines := 48, medium := 2100, planes := 1, flags := 0, plane := 0, pitch := 8, firstBand := 2, entries := [{ firstLine := 32, lines := 16, compLen := 2 }] })
      : PageFrag)).get (by decide +kernel)), by unfold State.takes; decide +kernel, by decide +kernel, by decide +kernel, by decide +kernel, by
      decide +kernel, by decide +kernel, by decide +kernel⟩,
    ⟨wHostPages3, hdr,
      (({ job := 4, page := 7, lines := 17, medium := 2100, planes := 1, flags := 0, plane := 0, pitch := 8, firstBand := 2, entries := [{ firstLine := 32, lines := 16, compLen := 2 }] })
      : PageFrag), ((wHostPages3.job?
      (({ job := 4, page := 7, lines := 17, medium := 2100, planes := 1, flags := 0, plane := 0, pitch := 8, firstBand := 2, entries := [{ firstLine := 32, lines := 16, compLen := 2 }] })
      : PageFrag).job).get (by decide +kernel)), by unfold State.takes; decide +kernel, by decide +kernel, by decide +kernel,
      (by exact ⟨rfl, Or.inr rfl⟩)⟩,
    ⟨wHostPages4, hdr,
      (({ job := 4, page := 8, lines := 48, medium := 2100, planes := 1, flags := 0, plane := 0, pitch := 8, firstBand := 0, entries := [{ firstLine := 0, lines := 16, compLen := 2 }] })
      : PageFrag), by unfold State.takes; decide +kernel, by decide +kernel⟩,
    ⟨(adm 100), hdr, (({ job := 4, page := 7, plane := 0, band := 1, off := 0, data := [9, 9] }) : BandPart), true, (if true then .bandRaw hdr
      (({ job := 4, page := 7, plane := 0, band := 1, off := 0, data := [9, 9] }) : BandPart) else .bandData hdr
      (({ job := 4, page := 7, plane := 0, band := 1, off := 0, data := [9, 9] }) : BandPart)), (if true then 6 else 5), by decide +kernel, by
      decide +kernel, by decide +kernel, by unfold State.takes; decide +kernel⟩⟩

theorem test_host_queries_and_time :
    (∃ (s : State) (h : ReqHdr), s.takes false h 8 1) ∧
    (∃ (s : State) (h : ReqHdr), s.takes false h 8 1) ∧
    (∃ (s : State) (h : ReqHdr) (job : Nat) (page : Nat) (p : Page), s.takes false h 8 6 ∧ s.page? job page = some p) ∧
    (∃ (s : State) (h : ReqHdr) (job : Nat) (page : Nat), s.takes false h 8 6 ∧ s.page? job page = none) ∧
    (∃ (s : State) (h : ReqHdr), s.takes false h 0xE 4) ∧
    (∃ (s : State) (h : ReqHdr), s.takes false h 0xE 16 ∧ s.timSrc = 0 ∧ s.flying = false) ∧
    (∃ (s : State) (h : ReqHdr), s.takes false h 0xE 16 ∧ ((s.timSrc ≠ 0 ∨ s.flying = true))) ∧
    (∃ (s : State) (h : ReqHdr), s.takes false h 0xE 12 ∧ s.timSrc = 0 ∧ s.flying = false) ∧
    (∃ (s : State) (h : ReqHdr), s.takes false h 0xE 12 ∧ ((s.timSrc ≠ 0 ∨ s.flying = true))) :=
  ⟨⟨(adm 100), hdr, by unfold State.takes; decide +kernel⟩,
    ⟨(adm 100), hdr, by unfold State.takes; decide +kernel⟩,
    ⟨(adm 100), hdr, 4, 7, (((adm 100).page? 4 7).get (by decide +kernel)), by unfold State.takes; decide +kernel, by decide +kernel⟩,
    ⟨(adm 100), hdr, 63, 63, by unfold State.takes; decide +kernel, by decide +kernel⟩,
    ⟨(adm 100), hdr, by unfold State.takes; decide +kernel⟩,
    ⟨(adm 100), hdr, by unfold State.takes; decide +kernel, by decide +kernel, by decide +kernel⟩,
    ⟨(rg (eth c0) timB 1), hdr, by unfold State.takes; decide +kernel, by decide +kernel⟩,
    ⟨(adm 100), hdr, by unfold State.takes; decide +kernel, by decide +kernel, by decide +kernel⟩,
    ⟨(rg (eth c0) timB 1), hdr, by unfold State.takes; decide +kernel, by decide +kernel⟩⟩

def wHostRegistersAndTables3 : State :=
  mm (rg (eth (ram c0)) (dmaB + 8) 1) (fun m => { m with upset := [(0, 0x3333)] })
def wHostRegistersAndTables13 : State :=
  { eth c0 with adjTabs := [{ table := 10, insts := 1 }] }

theorem test_host_registers_and_tables :
    (∃ (s : State) (h : ReqHdr) (count : Nat), s.takes false h 0xA 8 ∧ ((count = 0 ∨ 64 < count))) ∧
    (∃ (s : State) (h : ReqHdr) (addr : Nat) (count : Nat), s.takes false h 0xA 8 ∧ 1 ≤ count ∧ count ≤ 64 ∧ ((s.countMsg h.link).readRegs addr
      count).2.2 = false) ∧
    (∃ (s : State) (h : ReqHdr) (addr : Nat) (count : Nat) (u : State) (ws : List Word), s.takes false h 0xA 8 ∧ 1 ≤ count ∧ count ≤ 64 ∧
      (s.countMsg h.link).readRegs addr count = (u, ws, true)) ∧
    (∃ (s : State) (h : ReqHdr) (l : List RegEntry), s.takes false h 0xB (entriesBody l).length ∧ 64 < l.length) ∧
    (∃ (s : State) (w : State) (h : ReqHdr) (l1 : List RegEntry) (l2 : List RegEntry) (e : RegEntry), s.takes false h 0xB (entriesBody (l1 ++ e ::
      l2)).length ∧ (l1 ++ e :: l2).length ≤ 64 ∧ writeAll 0 l1 (s.countMsg h.link) = ack w [] ∧ (w.writeEntry e).2 ≠ sOk) ∧
    (∃ (s : State) (w : State) (h : ReqHdr) (l : List RegEntry), s.takes false h 0xB (entriesBody l).length ∧ l.length ≤ 64 ∧ writeAll 0 l
      (s.countMsg h.link) = ack w []) ∧
    (∃ (s : State) (h : ReqHdr) (l : List WinEntry), s.takes false h 0xB (winBody l).length ∧ ((64 < l.length ∨ ∃ e ∈ l, e.addr % 8 ≠ 0 ∨ inDmaWin
      e.addr = false))) ∧
    (∃ (s : State) (h : ReqHdr) (l : List WinEntry), s.takes false h 0xB (winBody l).length ∧ l.length ≤ 64 ∧ ((∀ e ∈ l, inDmaWin e.addr = true ∧
      e.addr % 8 = 0))) ∧
    (∃ (s : State) (u : State) (h : ReqHdr) (l : List (Nat × Nat)) (msgs : List (Nat × Nat × List Byte)), s.takes false h 9 (8 + 8 * l.length) ∧
      ((∀ e ∈ l, e.1 < 2 ^ 32 ∧ e.2 < 2 ^ 32)) ∧ (claimAll 0 l (s.countMsg h.link) = { st := u, msgs := msgs })) ∧
    (∃ (s : State) (w : State) (l1 : List (Nat × Nat)), claimAll 0 l1 s = ack w []) ∧
    (∃ (s : State) (h : ReqHdr) (table : Nat) (data : List Byte), s.takes false h 9 (8 + data.length) ∧ (if table = 0 then data.length % 8 ≠ 0 else
      10 < table)) ∧
    (∃ (s : State) (h : ReqHdr) (table : Nat) (inst : Nat) (data : List Byte), s.takes false h 9 (8 + data.length) ∧ table ≠ 0 ∧ table ≤ 10 ∧
      ((s.id.tabInsts table ≤ inst ∨ s.tabMayChange table inst = false))) ∧
    (∃ (s : State) (h : ReqHdr) (table : Nat) (inst : Nat) (data : List Byte), s.takes false h 9 (8 + data.length) ∧ table ≠ 0 ∧ table ≤ 10 ∧ inst
      < s.id.tabInsts table ∧ s.tabMayChange table inst = true) :=
  ⟨⟨(adm 100), hdr, 0, by unfold State.takes; decide +kernel, by decide +kernel⟩,
    ⟨(adm 100), hdr, 63, 63, by unfold State.takes; decide +kernel, by decide +kernel, by decide +kernel, by decide +kernel⟩,
    ⟨wHostRegistersAndTables3, hdr, (dmaB + 0x8000), 1, (((wHostRegistersAndTables3.countMsg hdr.link).readRegs (dmaB + 0x8000) 1).1),
      (((wHostRegistersAndTables3.countMsg hdr.link).readRegs (dmaB + 0x8000) 1).2.1), by unfold State.takes; decide +kernel, by decide +kernel, by
      decide +kernel, by decide +kernel⟩,
    ⟨(adm 100), hdr, (List.replicate 65 { addr := 0, val := 0, mask := 0 }), by unfold State.takes; decide +kernel, by decide +kernel⟩,
    ⟨(eth c0), ((writeAll 0 ([]) ((eth c0).countMsg hdr.link)).st), hdr, ([]), ([]), (({ addr := shtB + 0x10, val := 0, mask := 0xFFFFFFFF }) :
      RegEntry), by unfold State.takes; decide +kernel, by decide +kernel, by decide +kernel, by decide +kernel⟩,
    ⟨(eth c0), ((writeAll 0 ([]) ((eth c0).countMsg hdr.link)).st), hdr, ([]), by unfold State.takes; decide +kernel, by decide +kernel, by
      decide +kernel⟩,
    ⟨(adm 100), hdr, ([{ addr := dmaB + 0x8004, val := 1 }]), by unfold State.takes; decide +kernel, by decide +kernel⟩,
    ⟨(adm 100), hdr, ([]), by unfold State.takes; decide +kernel, by decide +kernel, by decide +kernel⟩,
    ⟨(eth c0), ((claimAll 0 ([]) ((eth c0).countMsg hdr.link)).st), hdr, ([]), ((claimAll 0 ([]) ((eth c0).countMsg hdr.link)).msgs),
      by unfold State.takes; decide +kernel, (by intro e he; cases he), by decide +kernel⟩,
    ⟨c0, ((claimAll 0 ([]) c0).st), ([]), by decide +kernel⟩,
    ⟨(adm 100), hdr, 63, ([]), by unfold State.takes; decide +kernel, by decide +kernel⟩,
    ⟨(adm 100), hdr, 7, 63, ([]), by unfold State.takes; decide +kernel, by decide +kernel, by decide +kernel, by decide +kernel⟩,
    ⟨wHostRegistersAndTables13, hdr, 10, 0, ([]), by unfold State.takes; decide +kernel, by decide +kernel, by decide +kernel, by decide +kernel,
      by decide +kernel⟩⟩

def wRegisterWrites16 : State :=
  bt p0 (fun b => { b with compat5 := true })

theorem test_register_writes :
    (∃ (s : State) (e : RegEntry), s.inReset = false ∧ e.addr < 2 ^ 32) ∧
    (∃ (s : State), s.inReset = true) ∧
    (∃ (s : State) (e : RegEntry), s.inReset = false ∧ 2 ^ 32 ≤ e.addr) ∧
    (∃ (s : State) (e : RegEntry), s.inReset = false ∧ e.addr < 0x01000000 ∧ inDmaWin e.addr = false ∧ e.addr ≠ clkB ∧ ((rowOf e.addr = none ∨
      s.id.present e.addr = false ∨ ∃ r, rowOf e.addr = some r ∧ Nat.land e.mask.toNat r.bits = 0))) ∧
    (∃ (s : State) (e : RegEntry) (r : RegRow), s.inReset = false ∧ dmaB + 0x100 ≤ e.addr ∧ e.addr < dmaB + 0x700 ∧ rowOf e.addr = some r ∧
      Nat.land e.mask.toNat r.bits ≠ 0) ∧
    (∃ (s : State) (e : RegEntry) (r : RegRow), s.inReset = false ∧ e.addr < 0x01000000 ∧ inDmaWin e.addr = false ∧ e.addr ≠ clkB ∧ rowOf e.addr =
      some r ∧ s.id.present e.addr = true ∧ Nat.land e.mask.toNat r.bits ≠ 0 ∧ (¬(dmaB + 0x100 ≤ e.addr ∧ e.addr < dmaB + 0x700)) ∧ s.mayChange
      e.addr (Nat.land e.mask.toNat r.bits) = false) ∧
    (∃ (s : State) (e : RegEntry), s.inReset = false ∧ e.addr = clkB) ∧
    (∃ (s : State) (e : RegEntry) (r : RegRow), s.inReset = false ∧ rowOf e.addr = some r ∧ s.id.present e.addr = true ∧ Nat.land e.mask.toNat
      r.bits ≠ 0 ∧ s.mayChange e.addr (Nat.land e.mask.toNat r.bits) = true ∧ ((e.addr / 0x10000 = 6 ∨ e.addr / 0x10000 = 8 ∨ e.addr / 0x10000 = 9
      ∨ e.addr / 0x10000 = 0xB))) ∧
    (∃ (s : State) (n : Nat) (which : Nat) (r : RegRow), s.inReset = false ∧ n < s.id.steppers ∧ which < 3 ∧ rowOf (stpA n (0x1C + 4 * which)) =
      some r ∧ s.id.present (stpA n (0x1C + 4 * which)) = true ∧ Nat.land 0xFFFFFFFF r.bits ≠ 0) ∧
    (∃ (s : State) (n : Nat) (which : Nat), ((s.inReset = true ∨ s.id.steppers ≤ n ∨ 3 ≤ which))) ∧
    (∃ (s : State) (n : Nat), s.inReset = false ∧ n < s.id.pins) ∧
    (∃ (s : State) (n : Nat), s.inReset = false ∧ n < s.id.pins) ∧
    (∃ (s : State) (n : Nat), ((s.inReset = true ∨ s.id.pins ≤ n))) ∧
    (∃ (s : State) (n : Nat) (f : Nat) (i : Nat) (v : Word) (w : Word), n < s.id.pins ∧ w = pinWord v ∧ f = fld w 0 8 ∧ i = fld w 8 6) ∧
    (∃ (s : State) (off : Nat), s.inReset = false ∧ off < 0x10000 ∧ ((s.compat5 = false ∨ off % 4 ≠ 0))) ∧
    (∃ (s : State) (off : Nat), s.inReset = false ∧ off < 0x10000 ∧ off % 4 = 0 ∧ s.compat5 = true) ∧
    (∃ (s : State) (u : State) (ws : List RegEntry) (code : Nat), runOps (ws.map (fun w => fun x => State.blockWrite x w.addr w.val w.mask)) s =
      (u, code)) ∧
    (∃ (s : State) (off : Nat), ((s.inReset = true ∨ 0x10000 ≤ off))) :=
  ⟨⟨c0, (({ addr := 0x00FFFFFC, val := 0, mask := 1 }) : RegEntry), by decide +kernel⟩,
    ⟨State.reset, by decide +kernel⟩,
    ⟨c0, (({ addr := 2 ^ 32, val := 0, mask := 1 }) : RegEntry), by decide +kernel⟩,
    ⟨c0, (({ addr := 0x00FFFFFC, val := 0, mask := 1 }) : RegEntry), by decide +kernel⟩,
    ⟨c0, (({ addr := dmaB + 0x100, val := 0, mask := 0xFFFFFFFF }) : RegEntry), ((rowOf (({ addr := dmaB + 0x100, val := 0, mask := 0xFFFFFFFF }) :
      RegEntry).addr).get (by decide +kernel)), by decide +kernel⟩,
    ⟨c0, (({ addr := shtB + 0x10, val := 0, mask := 0xFFFFFFFF }) : RegEntry), ((rowOf (({ addr := shtB + 0x10, val := 0, mask := 0xFFFFFFFF }) :
      RegEntry).addr).get (by decide +kernel)), by decide +kernel⟩,
    ⟨c0, (({ addr := clkB, val := 0, mask := 1 }) : RegEntry), by decide +kernel⟩,
    ⟨(stage c0 4), (({ addr := scnB, val := 0, mask := 0xF }) : RegEntry), ((rowOf (({ addr := scnB, val := 0, mask := 0xF }) : RegEntry).addr).get
      (by decide +kernel)), by decide +kernel⟩,
    ⟨c0, 23, 2, ((rowOf (stpA 23 (0x1C + 4 * 2))).get (by decide +kernel)), by decide +kernel⟩,
    ⟨c0, 63, 63, by decide +kernel⟩,
    ⟨c0, 63, by decide +kernel⟩,
    ⟨c0, 63, by decide +kernel⟩,
    ⟨c0, 127, by decide +kernel⟩,
    ⟨c0, 63, (fld (pinWord (0 : Word)) 0 8), (fld (pinWord (0 : Word)) 8 6), (0 : Word), (pinWord (0 : Word)), by decide +kernel⟩,
    ⟨c0, 63, by decide +kernel⟩,
    ⟨wRegisterWrites16, 0, by decide +kernel⟩,
    ⟨c0, c0, ([]), 0, by decide +kernel⟩,
    ⟨c0, 100000, by decide +kernel⟩⟩

def wEventRegisters7 : State :=
  jobs e0 (pg0 .inPageStore 2)
def wEventRegisters8 : State :=
  { eth c0 with host := { (eth c0).host with unsent := [{ src := 3, detail := 0, ns := 0, sec := 0, pkg := 0, extra := [], count := none, die := 0, seq := 0 }] } }

theorem test_event_registers :
    (∃ (s : State) (k : Nat), s.inReset = false ∧ k < 8) ∧
    (∃ (s : State) (k : Nat) (v : Word) (mask : Word) (w : Word), s.inReset = false ∧ k < 8 ∧ w = wd (Nat.land (s.reg (evtB + 0x20 + 4 * k)).toNat
      (0xFFFFFFFF - mask.toNat) + Nat.land v.toNat mask.toNat)) ∧
    (∃ (s : State) (n : Nat) (v : Word) (mask : Word) (w0 : Word) (w : Word), s.inReset = false ∧ n < 256 ∧ w0 = wd (Nat.land (s.reg (evSrcA
      n)).toNat (0xFFFFFFFF - Nat.land mask.toNat 0xFF) + Nat.land v.toNat (Nat.land mask.toNat 0xFF)) ∧ (w = (if fld mask 0 2 ≠ 0 ∧ fld w0 0 2 = 3
      then setFld w0 0 2 2 else w0)) ∧ Nat.land mask.toNat 0xFF ≠ 0) ∧
    (∃ (s : State) (n : Nat) (mask : Word), s.inReset = false ∧ n < 256 ∧ Nat.land mask.toNat 0xFF = 0) ∧
    (∃ (s : State), ((s.inReset = true ∨ (s.id.isE = false ∧ (s.host.unsent = [] ∨ s.host.dest = none))))) ∧
    (∃ (s : State), s.inReset = false ∧ s.id.isE = true) ∧
    (∃ (s : State) (u : State) (m : EvMsg) (l : List EvMsg) (d : Dest) (sq : Nat) (r : Option State), s.inReset = false ∧ s.id.isE = false ∧
      s.host.unsent = m :: l ∧ s.host.dest = some d ∧ sq = (if m.die = 0 then ((s.reg (evtB + 0x44)).toNat + 1) % 2 ^ 32 else m.seq) ∧ (u = (if
      m.die = 0 then ({ s with host := { s.host with unsent := l } } : State).setReg (evtB + 0x44) (wd sq) else
      { s with host := { s.host with unsent := l } })) ∧ r = u.toHost d 0x0C 0 sq m.die (fld (s.reg (evSrcA m.src)) 2 6) (m.body (m.count.getD (fld
      (s.reg (evSrcA m.src)) 16 16)))) :=
  ⟨⟨c0, 7, by decide +kernel⟩,
    ⟨c0, 7, (0 : Word), (0 : Word), (wd (Nat.land (c0.reg (evtB + 0x20 + 4 * 7)).toNat (0xFFFFFFFF - (0 : Word).toNat) + Nat.land (0 : Word).toNat
      (0 : Word).toNat)), by decide +kernel⟩,
    ⟨c0, 63, (0 : Word), (1 : Word), (wd (Nat.land (c0.reg (evSrcA 63)).toNat (0xFFFFFFFF - Nat.land (1 : Word).toNat 0xFF) + Nat.land (0 :
      Word).toNat (Nat.land (1 : Word).toNat 0xFF))), (if fld (1 : Word) 0 2 ≠ 0 ∧ fld (wd (Nat.land (c0.reg (evSrcA 63)).toNat (0xFFFFFFFF -
      Nat.land (1 : Word).toNat 0xFF) + Nat.land (0 : Word).toNat (Nat.land (1 : Word).toNat 0xFF))) 0 2 = 3 then setFld (wd (Nat.land (c0.reg
      (evSrcA 63)).toNat (0xFFFFFFFF - Nat.land (1 : Word).toNat 0xFF) + Nat.land (0 : Word).toNat (Nat.land (1 : Word).toNat 0xFF))) 0 2 2 else
      (wd (Nat.land (c0.reg (evSrcA 63)).toNat (0xFFFFFFFF - Nat.land (1 : Word).toNat 0xFF) + Nat.land (0 : Word).toNat (Nat.land (1 : Word).toNat
      0xFF)))), by decide +kernel⟩,
    ⟨c0, 63, (0 : Word), by decide +kernel⟩,
    ⟨c0, by decide +kernel⟩,
    ⟨wEventRegisters7, by decide +kernel⟩,
    ⟨wEventRegisters8, (if ((wEventRegisters8.host.unsent).head (by decide +kernel)).die = 0 then
      ({ wEventRegisters8 with host := { wEventRegisters8.host with unsent := ((wEventRegisters8.host.unsent).tail) } } : State).setReg (evtB +
      0x44) (wd (if ((wEventRegisters8.host.unsent).head (by decide +kernel)).die = 0 then ((wEventRegisters8.reg (evtB + 0x44)).toNat + 1) % 2 ^
      32 else ((wEventRegisters8.host.unsent).head (by decide +kernel)).seq)) else
      { wEventRegisters8 with host := { wEventRegisters8.host with unsent := ((wEventRegisters8.host.unsent).tail) } }),
      ((wEventRegisters8.host.unsent).head (by decide +kernel)), ((wEventRegisters8.host.unsent).tail), ((wEventRegisters8.host.dest).get (by
      decide +kernel)), (if ((wEventRegisters8.host.unsent).head (by decide +kernel)).die = 0 then ((wEventRegisters8.reg (evtB + 0x44)).toNat + 1)
      % 2 ^ 32 else ((wEventRegisters8.host.unsent).head (by decide +kernel)).seq), ((if ((wEventRegisters8.host.unsent).head (by
      decide +kernel)).die = 0 then
      ({ wEventRegisters8 with host := { wEventRegisters8.host with unsent := ((wEventRegisters8.host.unsent).tail) } } : State).setReg (evtB +
      0x44) (wd (if ((wEventRegisters8.host.unsent).head (by decide +kernel)).die = 0 then ((wEventRegisters8.reg (evtB + 0x44)).toNat + 1) % 2 ^
      32 else ((wEventRegisters8.host.unsent).head (by decide +kernel)).seq)) else
      { wEventRegisters8 with host := { wEventRegisters8.host with unsent := ((wEventRegisters8.host.unsent).tail) } }).toHost
      ((wEventRegisters8.host.dest).get (by decide +kernel)) 0x0C 0 (if ((wEventRegisters8.host.unsent).head (by decide +kernel)).die = 0 then
      ((wEventRegisters8.reg (evtB + 0x44)).toNat + 1) % 2 ^ 32 else ((wEventRegisters8.host.unsent).head (by decide +kernel)).seq)
      ((wEventRegisters8.host.unsent).head (by decide +kernel)).die (fld (wEventRegisters8.reg (evSrcA ((wEventRegisters8.host.unsent).head (by
      decide +kernel)).src)) 2 6) (((wEventRegisters8.host.unsent).head (by decide +kernel)).body (((wEventRegisters8.host.unsent).head (by
      decide +kernel)).count.getD (fld (wEventRegisters8.reg (evSrcA ((wEventRegisters8.host.unsent).head (by decide +kernel)).src)) 16 16)))), by
      decide +kernel⟩⟩

def wHostLinks4 : State :=
  ({ (c0.setReg (ringB + 0x24) 65472) with host := { c0.host with h2d := List.replicate 8 0 ++ [48, 0] ++ List.replicate 54 0 } } : State)
def wHostLinks10 : State :=
  c0.setF (ethB + 0x100) 0 1 1
def wHostLinks17 : State :=
  ({ pci c0 with host := { (pci c0).host with h2d := msgBytes 1 0 5 0 [] ++ [] } } : State)

theorem test_host_links :
    (∃ (s : State) (tail : Nat) (n : Nat), s.inReset = false ∧ s.id.pcie = true ∧ s.host.pcie.up = true ∧ tail % 64 = 0 ∧ tail < s.h2dSize ∧ n =
      (tail + s.h2dSize - s.h2dTail) % s.h2dSize) ∧
    (∃ (s : State) (head : Nat), s.inReset = false ∧ s.id.pcie = true ∧ s.host.pcie.up = true ∧ head % 64 = 0 ∧ head < s.d2hSize) ∧
    (∃ (s : State) (k : Nat), byteAt s.host.h2d 0 = 0 ∧ k = s.h2dSize - s.h2dHead ∧ 16 + half s.host.h2d 8 = k ∧ k ≤ s.host.h2d.length) ∧
    (∃ (s : State), s.inReset = false ∧ s.id.pcie = true ∧ s.host.pcie.up = true) ∧
    (∃ (s : State), ((s.inReset = true ∨ s.id.pcie = false ∨ s.host.pcie.up = false))) ∧
    (∃ (s : State), s.inReset = false ∧ s.id.pcie = true ∧ s.host.pcie.up = true) ∧
    (∃ (s : State), s.inReset = false ∧ s.id.pcie = true) ∧
    (∃ (s : State), ((s.inReset = true ∨ s.id.pcie = false))) ∧
    (∃ (s : State) (p : Nat) (rate : Nat) (width : Nat) (up : Bool) (l : LinkState), s.inReset = false ∧ ((up = true → 8 ≤ s.boot.stage ∧ s.flag
      (ethB + 0x100 * p) 0 = true)) ∧ p < s.id.ethPorts ∧ (l = (if up then { up := true, rate := s.f (ethB + 0x100 * p) 1 2, width := 1 } else
      .down)) ∧ s.host.eth.getD p .down ≠ l) ∧
    (∃ (s : State) (rate : Nat) (width : Nat) (up : Bool) (l : LinkState), s.inReset = false ∧ ((up = true → 8 ≤ s.boot.stage)) ∧ s.id.pcie = true
      ∧ (l = (if up then
      { up := true, rate := clampN 3 (if s.boot.image.isSome then 5 else 3) rate, width := if width < 2 then 1 else if width < 4 then 2 else 4 }
      else .down)) ∧ s.host.pcie ≠ l) ∧
    (∃ (s : State) (l : Link) (up : Bool), ((s.inReset = true ∨ (up = true ∧ s.boot.stage < 8) ∨
      (match l with | .pcie => s.id.pcie = false ∨ (up = false ∧ s.host.pcie = .down) | .eth p => s.id.ethPorts ≤ p ∨ (up = true ∧ s.flag (ethB + 0x100 * p) 0 = false) ∨ (up = false ∧ s.host.eth.getD p .down = .down))))) ∧
    (∃ (s : State) (d : Datagram), s.inReset = false ∧ s.portOn d.port = true ∧ ((d.frag = true ∨ d.sumOk = false ∨ d.dport ≠ s.f (ethB + 0x100 *
      d.port) 16 16 ∨ s.flag (ethB + 0x100 * d.port) (if d.v6 then 3 else 4) = false ∨ d.payload.length < 16))) ∧
    (∃ (s : State) (d : Datagram), s.inReset = false ∧ s.portOn d.port = true ∧ d.frag = false ∧ d.sumOk = true ∧ d.dport = s.f (ethB + 0x100 *
      d.port) 16 16 ∧ s.flag (ethB + 0x100 * d.port) (if d.v6 then 3 else 4) = true ∧ 16 ≤ d.payload.length) ∧
    (∃ (s : State) (d : Datagram), ((s.inReset = true ∨ s.portOn d.port = false))) ∧
    (∃ (s : State) (h : ReqHdr) (i : Instr) (ty : Nat) (b : List Byte), i.wf = true ∧ s.id.hostSide = true ∧ b.length < 2 ^ 16 ∧ h.crc = bodyCrc b
      ∧ (i, ty, b) ∈ [(Instr.hello h, 1, []), (.jobOpen h 65535, 2, jobBody 65535)]) ∧
    (∃ (s : State) (u : State) (ty : Nat) (sq : Nat) (die : Nat) (k : Nat) (n : Nat) (b : List Byte) (pad : List Byte), ty ≠ 0 ∧ ty < 256 ∧
      b.length < 2 ^ 16 ∧ s.host.h2d = msgBytes ty 0 sq die b ++ pad ∧ n = ringLen (16 + b.length) ∧ k = Nat.min n s.host.h2d.length ∧ (u =
      ({ s with host := { s.host with h2d := s.host.h2d.drop k } } : State).setReg (ringB + 0x24) (wd ((s.h2dHead + k) % s.h2dSize)))) ∧
    (∃ (s : State), s.inReset = false) ∧
    (∃ (s : State), s.inReset = false) ∧
    (∃ (s : State), s.inReset = false) ∧
    (∃ (s : State), s.inReset = true) :=
  ⟨⟨(pci h0), 0, ((0 + (pci h0).h2dSize - (pci h0).h2dTail) % (pci h0).h2dSize), by decide +kernel⟩,
    ⟨(pci h0), 0, by decide +kernel⟩,
    ⟨wHostLinks4, (wHostLinks4.h2dSize - wHostLinks4.h2dHead), by decide +kernel⟩,
    ⟨(pci h0), by decide +kernel⟩,
    ⟨c0, by decide +kernel⟩,
    ⟨(pci h0), by decide +kernel⟩,
    ⟨(stage h0 10), by decide +kernel⟩,
    ⟨c0, by decide +kernel⟩,
    ⟨wHostLinks10, 1, 0, 0, true, (⟨true, (c0.setF (ethB + 0x100) 0 1 1).f (ethB + 0x100 * 1) 1 2, 1⟩ : LinkState), by decide +kernel⟩,
    ⟨h0, 5, 4, true, (⟨true, 3, 4⟩ : LinkState), by decide +kernel⟩,
    ⟨c0, (.eth 1), false, (by exact Or.inr (Or.inr (Or.inr (Or.inr ⟨rfl, by decide +kernel⟩))))⟩,
    ⟨(adm 100), (({ port := 0, v6 := false, frag := true, sumOk := true, src := 1, sport := 2, dport := (eth c0).f ethB 16 16, payload := [] }) :
      Datagram), by decide +kernel⟩,
    ⟨(adm 100),
      (({ port := 0, v6 := false, frag := false, sumOk := true, src := 1, sport := 2, dport := (eth c0).f ethB 16 16, payload := msgBytes 2 0 0 0 (jobBody 65535) })
      : Datagram), by decide +kernel⟩,
    ⟨c0, (({ port := 0, v6 := false, frag := true, sumOk := true, src := 1, sport := 2, dport := (eth c0).f ethB 16 16, payload := [] }) :
      Datagram), by decide +kernel⟩,
    ⟨eth c0, { hdr with crc := bodyCrc (jobBody 65535) }, .jobOpen { hdr with crc := bodyCrc (jobBody 65535) } 65535, 2, jobBody 65535, by
      decide +kernel, by decide +kernel, by decide +kernel, by decide +kernel, List.Mem.tail _ (List.Mem.head _)⟩,
    ⟨wHostLinks17,
      (({ wHostLinks17 with host := { wHostLinks17.host with h2d := wHostLinks17.host.h2d.drop (Nat.min (ringLen (16 + ([] : List Byte).length)) wHostLinks17.host.h2d.length) } }
      : State).setReg (ringB + 0x24) (wd ((wHostLinks17.h2dHead + (Nat.min (ringLen (16 + ([] : List Byte).length)) wHostLinks17.host.h2d.length))
      % wHostLinks17.h2dSize))), 1, 5, 0, (Nat.min (ringLen (16 + ([] : List Byte).length)) wHostLinks17.host.h2d.length), (ringLen (16 + ([] :
      List Byte).length)), ([] : List Byte), ([] : List Byte), by decide +kernel⟩,
    ⟨c0, by decide +kernel⟩,
    ⟨c0, by decide +kernel⟩,
    ⟨c0, by decide +kernel⟩,
    ⟨State.reset, by decide +kernel⟩⟩

def wBridgeLink2 : State :=
  bg h0 (fun b => { b with st := .train })
def wBridgeLink3 : State :=
  bg h0 (fun b => { b with st := .train })
def wBridgeLink7 : State :=
  bg (bup h0) (fun b => { b with outQ := [{ vc := 0, body := .band br 0 [1] }] })
def wBridgeLink8 : State :=
  bg (jobs h0 (pg0 .inPageStore 2)) (fun b => { b with st := .up, wanted := [br] })
def wBridgeLink9 : State :=
  bg c0 (fun b => { b with st := .up, vcs := pools, outQ := [{ vc := 0, body := .band br 0 [1] }] })
def wBridgeLink12 : State :=
  bg (jobs h0 (pg0 .inPageStore 2)) (fun b => { b with st := .up, wanted := [br] })
def wBridgeLink13 : State :=
  bg (bup h0) (fun b => { b with rxSeq := 1 })
def wBridgeLink14 : State :=
  bg (jobs h0 (pg0 .inPageStore 2)) (fun b => { b with st := .up, wanted := [br] })
def wBridgeLink17 : State :=
  bg (bup h0) (fun b =>
    { b with buf := [{ seq := 1, vc := 0, som := true, eom := true, ctl := false, data := [1], cred := 1, ret := [0, 0, 0, 0], ev := none, mark := false }] })
def wBridgeLink19 : State :=
  bg (bup h0) (fun b => { b with st := .replay, resend := true })
def wBridgeLink25 : State :=
  bg (bup h0) (fun b => { b with dropped := 1, rejoin := 1 })
def wBridgeLink27 : State :=
  bg (bup h0) (fun b => { b with st := .retrain })
def wBridgeLink28 : State :=
  bg (bup h0) (fun b => { b with st := .retrain })
def wBridgeLink30 : State :=
  bg (jobs h0 (pg0 .inPageStore 2)) (fun b => { b with st := .up, wanted := [br] })

theorem test_bridge_link :
    (∃ (s : State), s.inReset = false ∧ s.boot.stage = 9 ∧ s.id.dual = false) ∧
    (∃ (s : State) (lanes : Nat), s.inReset = false ∧ s.id.dual = true ∧ s.id.isW = false ∧ ((s.boot.stage = 9 ∨ s.brg.st = .train)) ∧ s.linkLanes
      lanes ≠ 0) ∧
    (∃ (s : State) (lanes : Nat) (peer : Option BridgePeer), s.inReset = false ∧ s.id.dual = true ∧ ((s.boot.stage = 9 ∨ s.brg.st = .train)) ∧
      ((peer = none ∨ s.linkLanes lanes = 0))) ∧
    (∃ (s : State), ((s.inReset = true ∨ (s.boot.stage ≠ 9 ∧ (s.id.dual = false ∨ s.brg.st ≠ .train))))) ∧
    (∃ (s : State), s.inReset = false ∧ s.id.dual = true ∧ s.brg.st = .down) ∧
    (∃ (s : State), ((s.inReset = true ∨ s.id.dual = false ∨ s.brg.st ≠ .down))) ∧
    (∃ (s : State) (m : BrMsg) (e : Option EvMsg), s.inReset = false ∧ s.id.dual = true ∧ s.brg.st = .up ∧ s.brg.vcs.length = 4 ∧ m.vc < 4 ∧
      s.nextMsg = some (m, e)) ∧
    (∃ (s : State), s.inReset = false ∧ s.id.dual = true ∧ s.brg.st = .up ∧ s.nextMsg = none) ∧
    (∃ (s : State) (m : BrMsg) (e : Option EvMsg), s.inReset = false ∧ s.id.dual = false ∧ s.id.isE = false ∧ s.brg.st = .up ∧ s.brg.vcs.length = 4
      ∧ m.vc < 4 ∧ s.nextMsg = some (m, e)) ∧
    (∃ (s : State), ((s.inReset = true ∨ (s.id.dual = false ∧ (s.brg.st ≠ .up ∨ s.nextMsg = none)) ∨ (s.id.dual = true ∧ s.brg.st ≠ .up ∧ s.brg.st
      ≠ .replay)))) ∧
    (∃ (s : State), ((s.inReset = true ∨ s.id.dual = false ∨ (s.brg.st ≠ .up ∧ s.brg.st ≠ .replay)))) ∧
    (∃ (s : State) (f : List Byte) (bad : Bool) (d : Nat), s.inReset = false ∧ s.id.dual = true ∧ ((s.brg.st = .up ∨ s.brg.st = .replay)) ∧ ((bad =
      true ↔ (f.length ≠ 272 ∨ crc32 (f.take 268) ≠ quad f 268))) ∧ d = (quad f 0 % 4096 + 4096 - s.brg.rxSeq) % 4096 ∧ ((bad = true ∨ (2 ≤ d ∧ d <
      4032)))) ∧
    (∃ (s : State) (f : List Byte) (d : Nat), s.inReset = false ∧ s.id.dual = true ∧ ((s.brg.st = .up ∨ s.brg.st = .replay)) ∧ f.length = 272 ∧
      crc32 (f.take 268) = quad f 268 ∧ d = (quad f 0 % 4096 + 4096 - s.brg.rxSeq) % 4096 ∧ ((d = 0 ∨ 4032 ≤ d))) ∧
    (∃ (s : State) (f : List Byte), s.inReset = false ∧ s.id.dual = true ∧ ((s.brg.st = .up ∨ s.brg.st = .replay)) ∧ f.length = 272 ∧ crc32 (f.take
      268) = quad f 268 ∧ (quad f 0 % 4096 + 4096 - s.brg.rxSeq) % 4096 = 1) ∧
    (∃ (s : State) (f : List Byte) (v : Nat), s.inReset = false ∧ s.id.dual = true ∧ ((s.brg.st = .up ∨ s.brg.st = .replay)) ∧ f.length = 272 ∧
      crc32 (f.take 268) = quad f 268 ∧ (quad f 0 % 4096 + 4096 - s.brg.rxSeq) % 4096 = 1 ∧ natBit (quad f 0) 16 = false ∧ natBit (quad f 0) 15 =
      false ∧ v = quad f 0 / 4096 % 4 ∧ s.brg.vcs.length = 4 ∧ s.brg.inBuf.length = 4) ∧
    (∃ (s : State), s.inReset = false ∧ s.brg.buf ≠ [] ∧ s.brg.resend = false ∧ ((s.brg.st = .up ∨ s.brg.st = .replay))) ∧
    (∃ (s : State), ((s.inReset = true ∨ s.brg.buf = [] ∨ s.brg.resend = true ∨ (s.brg.st ≠ .up ∧ s.brg.st ≠ .replay)))) ∧
    (∃ (s : State), s.inReset = false ∧ s.brg.st = .replay ∧ s.brg.resend = true) ∧
    (∃ (s : State), ((s.inReset = true ∨ s.brg.st ≠ .replay ∨ s.brg.resend = false))) ∧
    (∃ (s : State) (lane : Nat), s.inReset = false ∧ natBit s.brg.laneUp lane = true ∧ ((s.brg.st = .up ∨ s.brg.st = .replay))) ∧
    (∃ (s : State) (lane : Nat), ((s.inReset = true ∨ natBit s.brg.laneUp lane = false ∨ (s.brg.st ≠ .up ∧ s.brg.st ≠ .replay)))) ∧
    (∃ (s : State) (lane : Nat) (n : Nat) (l : List (Nat × Nat × Nat)), s.inReset = false ∧ natBit s.brg.laneUp lane = true ∧ l = s.brg.skp.filter
      (fun e => decide (s.clk < e.2.1 + 200000)) ++ [(lane, s.clk, n)]) ∧
    (∃ (s : State) (lane : Nat), ((s.inReset = true ∨ natBit s.brg.laneUp lane = false))) ∧
    (∃ (s : State), s.inReset = false ∧ s.brg.dropped ≠ 0 ∧ s.brg.rejoin ≠ 0 ∧ s.brg.rejoinDue = none) ∧
    (∃ (s : State), ((s.inReset = true ∨ s.brg.dropped = 0 ∨ s.brg.rejoin = 0 ∨ s.brg.rejoinDue ≠ none))) ∧
    (∃ (s : State) (pass : Nat) (books : List (Nat × Nat × Nat)), s.inReset = false ∧ s.brg.st = .retrain ∧ s.linkLanes pass ≠ 0 ∧ s.booksOk books
      = true) ∧
    (∃ (s : State) (pass : Nat) (books : List (Nat × Nat × Nat)), s.inReset = false ∧ s.brg.st = .retrain ∧ ((s.linkLanes pass = 0 ∨ s.booksOk
      books = false))) ∧
    (∃ (s : State), ((s.inReset = true ∨ s.brg.st ≠ .retrain))) ∧
    (∃ (s : State), s.inReset = false ∧ s.id.dual = true ∧ s.brg.st ≠ .down) ∧
    (∃ (s : State), ((s.inReset = true ∨ s.id.dual = false ∨ s.brg.st = .down))) :=
  ⟨⟨(stage c0 9), by decide +kernel⟩,
    ⟨wBridgeLink2, 63, by decide +kernel⟩,
    ⟨wBridgeLink3, 0, (some peer), by decide +kernel⟩,
    ⟨c0, by decide +kernel⟩,
    ⟨(stage h0 10), by decide +kernel⟩,
    ⟨c0, by decide +kernel⟩,
    ⟨wBridgeLink7, (((wBridgeLink7.nextMsg).get (by decide +kernel)).1), (((wBridgeLink7.nextMsg).get (by decide +kernel)).2), by decide +kernel⟩,
    ⟨wBridgeLink8, by decide +kernel⟩,
    ⟨wBridgeLink9, (((wBridgeLink9.nextMsg).get (by decide +kernel)).1), (((wBridgeLink9.nextMsg).get (by decide +kernel)).2), by decide +kernel⟩,
    ⟨c0, by decide +kernel⟩,
    ⟨c0, by decide +kernel⟩,
    ⟨wBridgeLink12, ([]), true, ((quad ([]) 0 % 4096 + 4096 - wBridgeLink12.brg.rxSeq) % 4096), by decide +kernel⟩,
    ⟨wBridgeLink13, goodFlit, ((quad goodFlit 0 % 4096 + 4096 - wBridgeLink13.brg.rxSeq) % 4096), by decide +kernel, by decide +kernel, by
      decide +kernel, by decide +kernel, (by exact crc_flit), by decide +kernel, by decide +kernel⟩,
    ⟨wBridgeLink14, goodFlit, by decide +kernel, by decide +kernel, by decide +kernel, by decide +kernel, (by exact crc_flit), by decide +kernel⟩,
    ⟨(bup (eth h0)), goodFlit, (quad goodFlit 0 / 4096 % 4), by decide +kernel, by decide +kernel, by decide +kernel, by decide +kernel,
      (by exact crc_flit), by decide +kernel, by decide +kernel, by decide +kernel, by decide +kernel, by decide +kernel, by decide +kernel⟩,
    ⟨wBridgeLink17, by decide +kernel⟩,
    ⟨c0, by decide +kernel⟩,
    ⟨wBridgeLink19, by decide +kernel⟩,
    ⟨c0, by decide +kernel⟩,
    ⟨(bup (eth h0)), 3, by decide +kernel⟩,
    ⟨c0, 63, by decide +kernel⟩,
    ⟨(bup (eth h0)), 3, 63, ((bup (eth h0)).brg.skp.filter (fun e => decide ((bup (eth h0)).clk < e.2.1 + 200000)) ++ [(3, (bup (eth h0)).clk,
      63)]), by decide +kernel⟩,
    ⟨c0, 63, by decide +kernel⟩,
    ⟨wBridgeLink25, by decide +kernel⟩,
    ⟨c0, by decide +kernel⟩,
    ⟨wBridgeLink27, 63, (List.replicate 4 (64, 0, 0)), by decide +kernel⟩,
    ⟨wBridgeLink28, 63, ([]), by decide +kernel⟩,
    ⟨c0, by decide +kernel⟩,
    ⟨wBridgeLink30, by decide +kernel⟩,
    ⟨c0, by decide +kernel⟩⟩

def wBridgeMessages2 : State :=
  bg (jobs h0 (pg0 .inPageStore 2)) (fun b => { b with st := .up, wanted := [br] })
def wBridgeMessages3 : State :=
  bg (jobs h0 (pg0 .inPageStore 2)) (fun b => { b with st := .up, wanted := [br] })
def wBridgeMessages4 : State :=
  bg (jobs h0 (pg0 .inPageStore 2)) (fun b => { b with st := .up, wanted := [br] })
def wBridgeMessages5 : State :=
  bg (jobs h0 (pg0 .inPageStore 2)) (fun b => { b with st := .up, wanted := [br] })
def wBridgeMessages6 : State :=
  jobs (bup e0) (pg0 .inTransit 2)
def wBridgeMessages7 : State :=
  bg (jobs h0 (pg0 .inPageStore 2)) (fun b => { b with st := .up, wanted := [br] })
def wBridgeMessages9 : State :=
  bg (jobs h0 (pg0 .inPageStore 2)) (fun b => { b with st := .up, wanted := [br] })
def wBridgeMessages10 : State :=
  bg (jobs h0 (pg0 .inPageStore 2)) (fun b => { b with st := .up, wanted := [br] })
def wBridgeMessages13 : State :=
  bg (jobs h0 (pg0 .inPageStore 2)) (fun b => { b with st := .up, wanted := [br] })
def wBridgeMessages17 : State :=
  bg (jobs h0 (pg0 .inPageStore 2)) (fun b => { b with st := .up, wanted := [br] })
def wBridgeMessages20 : State :=
  bg (bup h0) (fun b => { b with timeDir := true, t2 := some 2, t3 := some 3 })
def wBridgeMessages21 : State :=
  bg (bup h0) (fun b => { b with timeDir := true, laneChanged := true })
def wBridgeMessages23 : State :=
  jobs e0 (pg0 .inPageStore 2)

theorem test_bridge_messages :
    (∃ (s : State), s.brgRx = false) ∧
    (∃ (s : State), s.brgRx = true) ∧
    (∃ (s : State), s.brgRx = true) ∧
    (∃ (s : State), s.brgRx = true ∧ s.id.isH = true) ∧
    (∃ (s : State), s.brgRx = true ∧ s.id.isH = true) ∧
    (∃ (s : State) (r : BandRef) (b : Band), s.brgRx = true ∧ s.id.isE = true ∧ s.band? r = some b) ∧
    (∃ (s : State) (r : BandRef) (res : Nat) (b : Band) (x : Res), s.brgRx = true ∧ s.band? r = some b ∧ x = Res.ofCode res) ∧
    (∃ (s : State), s.brgRx = true ∧ s.id.isE = true) ∧
    (∃ (s : State), s.brgRx = true) ∧
    (∃ (s : State), s.brgRx = true ∧ s.id.isE = false) ∧
    (∃ (s : State) (l : List Byte), s.brgRx = true ∧ s.id.isE = true ∧ monCommand l = none) ∧
    (∃ (s : State) (u : State) (l : List Byte) (o : Bool) (run : State → MonAns) (c : Nat) (x : List String), s.brgRx = true ∧ s.id.isE = true ∧
      monCommand l = some (o, run) ∧ s.monRun o run = (u, c, x)) ∧
    (∃ (s : State), s.brgRx = true ∧ s.id.isH = true) ∧
    (∃ (s : State) (w : Bool), ((s.id.isH = false ∨ w = false))) ∧
    (∃ (s : State) (vc : Nat) (type : Nat), s.inReset = false ∧ s.id.dual = true ∧ vc < 4 ∧ type < 256) ∧
    (∃ (s : State) (vc : Nat) (type : Nat), ((s.inReset = true ∨ s.id.dual = false ∨ 4 ≤ vc ∨ 256 ≤ type))) ∧
    (∃ (s : State) (u : State), s.inReset = false ∧ s.id.dual = true ∧ s.id.isW = false ∧ ((s.brg.st = .up ∨ s.brg.st = .replay)) ∧ (u = (if
      s.brg.t1 = none ∧ s.brg.t2 = none ∧ s.markWaits = false then { s with brg := { s.brg with timeDir := s.flag brgB 24 } } else s))) ∧
    (∃ (s : State), s.inReset = false ∧ s.id.dual = true ∧ s.brg.st ≠ .up ∧ s.brg.st ≠ .replay) ∧
    (∃ (s : State), ((s.inReset = true ∨ s.id.dual = false))) ∧
    (∃ (s : State) (t1 : Nat) (t2 : Nat) (t3 : Nat) (t4 : Nat) (o : Int) (d : Int), s.inReset = false ∧ s.follower = true ∧ s.brg.laneChanged =
      false ∧ s.brg.t2 = some t2 ∧ s.brg.t3 = some t3 ∧ o = ((t2 : Int) - t1 - ((t4 : Int) - t3)) / 2 ∧ d = ((t2 : Int) - t1 + ((t4 : Int) - t3)) /
      2) ∧
    (∃ (s : State), s.inReset = false ∧ s.follower = true ∧ s.brg.laneChanged = true) ∧
    (∃ (s : State), ((s.follower = false ∨ (s.brg.laneChanged = false ∧ (s.brg.t2 = none ∨ s.brg.t3 = none))))) ∧
    (∃ (s : State), s.inReset = false ∧ s.follower = true) ∧
    (∃ (s : State), s.follower = false) :=
  ⟨⟨c0, by decide +kernel⟩,
    ⟨wBridgeMessages2, by decide +kernel⟩,
    ⟨wBridgeMessages3, by decide +kernel⟩,
    ⟨wBridgeMessages4, by decide +kernel⟩,
    ⟨wBridgeMessages5, by decide +kernel⟩,
    ⟨wBridgeMessages6, br, ((wBridgeMessages6.band? br).get (by decide +kernel)), by decide +kernel⟩,
    ⟨wBridgeMessages7, br, 63, ((wBridgeMessages7.band? br).get (by decide +kernel)), (Res.ofCode 63), by decide +kernel⟩,
    ⟨(bup e0), by decide +kernel⟩,
    ⟨wBridgeMessages9, by decide +kernel⟩,
    ⟨wBridgeMessages10, by decide +kernel⟩,
    ⟨(bup e0), ([]), by decide +kernel⟩,
    ⟨(bup e0), (((bup e0).monRun true doMonId).1), ([0x69, 0x64]), true, doMonId, (((bup e0).monRun true doMonId).2.1), (((bup e0).monRun true
      doMonId).2.2), by decide +kernel, by decide +kernel, (by exact rfl), (by exact rfl)⟩,
    ⟨wBridgeMessages13, by decide +kernel⟩,
    ⟨c0, true, by decide +kernel⟩,
    ⟨(stage h0 10), 3, 63, by decide +kernel⟩,
    ⟨c0, 63, 63, by decide +kernel⟩,
    ⟨wBridgeMessages17, (if wBridgeMessages17.brg.t1 = none ∧ wBridgeMessages17.brg.t2 = none ∧ wBridgeMessages17.markWaits = false then
      { wBridgeMessages17 with brg := { wBridgeMessages17.brg with timeDir := wBridgeMessages17.flag brgB 24 } } else wBridgeMessages17), by
      decide +kernel⟩,
    ⟨(stage h0 10), by decide +kernel⟩,
    ⟨c0, by decide +kernel⟩,
    ⟨wBridgeMessages20, 0, 2, 3, 0, (((2 : Int) - 0 - ((0 : Int) - 3)) / 2), (((2 : Int) - 0 + ((0 : Int) - 3)) / 2), by decide +kernel⟩,
    ⟨wBridgeMessages21, by decide +kernel⟩,
    ⟨c0, by decide +kernel⟩,
    ⟨wBridgeMessages23, by decide +kernel⟩,
    ⟨c0, by decide +kernel⟩⟩

def wMonitorCommands6 : State :=
  mon { c0 with otp := { otp with kDbg := some [2] } } (fun m => { m with challenge := some [1] })
def wMonitorCommands7 : State :=
  mon { c0 with otp := { otp with kDbg := some [2] } } (fun m => { m with challenge := some [1] })
def wMonitorCommands8 : State :=
  mon { c0 with otp := { otp with kDbg := some [2] } } (fun m => { m with challenge := some [1] })
def wMonitorCommands10 : State :=
  mon c0 (fun m => { m with lockout := true })
def wMonitorCommands20 : State :=
  mm (ram c0) (fun m => { m with merge := [{ unit := 3, addr := 0, bytes := [(0, 1)] }] })
def wMonitorCommands25 : State :=
  bt c0 (fun b => { b with image := some img, flash := some flash })
def wMonitorCommands30 : State :=
  bg (jobs h0 (pg0 .inPageStore 2)) (fun b => { b with st := .up, wanted := [br] })
def wMonitorCommands32 : State :=
  ({ c0 with otp := { otp with monLock := true } } : State)
def wMonitorCommands33 : State :=
  ({ bup (up 0x73 1) with otp := { otp with monLock := true } } : State)

theorem test_monitor_commands :
    (∃ (s : State) (i : Instr), s.serves = false ∧ (i = .monId ∨ i = .monHelp)) ∧
    (∃ (s : State) (i : Instr), s.serves = true ∧ s.monLocked = true ∧ (i = .monLock ∨ i = .monPat ∨ i = .schedStep)) ∧
    (∃ (s : State), s.serves = true) ∧
    (∃ (s : State) (ch : List Byte), s.serves = true ∧ ch = (upTo 8).map (fun i => BitVec.ofNat 8 (Config.freeValue (s.free + i)))) ∧
    (∃ (s : State), s.serves = true ∧ ((s.mon.lockout = true ∨ s.mon.challenge = none))) ∧
    (∃ (s : State) (ch : List Byte) (r : List Byte), s.serves = true ∧ s.mon.lockout = false ∧ s.mon.challenge = some ch ∧ s.monResponse ch = some
      r) ∧
    (∃ (s : State) (u : State) (ch : List Byte) (r : List Byte), s.serves = true ∧ s.mon.lockout = false ∧ s.mon.challenge = some ch ∧
      s.monResponse ch ≠ some r ∧ (u =
      { s with mon := { s.mon with challenge := none, fails := Nat.min 7 (s.mon.fails + 1), run := s.mon.run + 1, lockout := decide (3 ≤ s.mon.run + 1) } })) ∧
    (∃ (s : State), s.inReset = false ∧ s.mon.challenge ≠ none) ∧
    (∃ (s : State), ((s.inReset = true ∨ s.mon.challenge = none))) ∧
    (∃ (s : State), s.inReset = false ∧ s.mon.lockout = true) ∧
    (∃ (s : State), ((s.inReset = true ∨ s.mon.lockout = false))) ∧
    (∃ (s : State), s.serves = true ∧ s.monLocked = false) ∧
    (∃ (s : State), s.serves = true ∧ s.monLocked = false) ∧
    (∃ (s : State) (n : Nat), s.serves = true ∧ s.monLocked = false ∧ 1 ≤ n ∧ n ≤ 64) ∧
    (∃ (s : State) (n : Nat), s.serves = true ∧ s.monLocked = false ∧ (n = 0 ∨ 64 < n)) ∧
    (∃ (s : State) (u : State) (a : Nat) (c : Nat) (v : Word) (m : Word), s.serves = true ∧ s.monLocked = false ∧ (s.writeEntry
      { addr := a, val := v, mask := m } = (u, c))) ∧
    (∃ (s : State) (u : State) (a : Nat) (n : Nat) (sram : Bool) (l : List Byte) (e : Option Nat), s.serves = true ∧ s.monLocked = false ∧ a % 4 =
      0 ∧ (((sram = false ∧ a < 2 ^ 44 ∧ a + 4 * n ≤ s.dramBytes) ∨ (sram = true ∧ 2 ^ 44 ≤ a ∧ a + 4 * n ≤ 2 ^ 44 + 2 ^ 25))) ∧ s.memRead sram (a
      % 2 ^ 44) (4 * n) = (u, l, e)) ∧
    (∃ (s : State) (a : Nat) (n : Nat), s.serves = true ∧ s.monLocked = false ∧ ((a % 4 ≠ 0 ∨ (a < 2 ^ 44 ∧ s.dramBytes < a + 4 * n) ∨ (2 ^ 44 ≤ a
      ∧ 2 ^ 44 + 2 ^ 25 < a + 4 * n)))) ∧
    (∃ (s : State), s.serves = true ∧ s.monLocked = false ∧ ((s.flag shtB 0 = true ∨ s.flying = true))) ∧
    (∃ (s : State) (a : Nat) (sram : Bool), s.serves = true ∧ s.monLocked = false ∧ s.flag shtB 0 = false ∧ s.flying = false ∧ a % 4 = 0 ∧ (((sram
      = false ∧ a < 2 ^ 44 ∧ a + 4 ≤ s.dramBytes) ∨ (sram = true ∧ 2 ^ 44 ≤ a ∧ a + 4 ≤ 2 ^ 44 + 2 ^ 25)))) ∧
    (∃ (s : State) (a : Nat), s.serves = true ∧ s.monLocked = false ∧ s.flag shtB 0 = false ∧ s.flying = false ∧ ((a % 4 ≠ 0 ∨ (a < 2 ^ 44 ∧
      s.dramBytes < a + 4) ∨ (2 ^ 44 ≤ a ∧ 2 ^ 44 + 2 ^ 25 < a + 4)))) ∧
    (∃ (s : State), s.serves = true ∧ s.monLocked = false) ∧
    (∃ (s : State), s.serves = true ∧ s.monLocked = false) ∧
    (∃ (s : State), s.serves = true ∧ s.monLocked = false) ∧
    (∃ (s : State) (i : Image) (d : FlashDev), s.serves = true ∧ s.monLocked = false ∧ s.boot.image = some i ∧ s.boot.flash = some d) ∧
    (∃ (s : State), s.serves = true ∧ s.monLocked = false ∧ ((s.boot.image = none ∨ s.boot.flash = none))) ∧
    (∃ (s : State), s.serves = true ∧ s.monLocked = false) ∧
    (∃ (s : State) (u : State) (w : Nat), s.serves = true ∧ s.monLocked = false ∧ s.id.motion = true ∧ s.ready = true ∧ s.flag shtB 0 = false ∧
      s.flying = false ∧ s.schedStep = (u, w)) ∧
    (∃ (s : State), s.serves = true ∧ s.monLocked = false ∧ ((s.id.motion = false ∨ s.ready = false ∨ s.flag shtB 0 = true ∨ s.flying = true))) ∧
    (∃ (s : State), s.serves = true ∧ s.monLocked = false ∧ s.id.isH = true ∧ s.brg.st ≠ .down) ∧
    (∃ (s : State), s.serves = true ∧ s.monLocked = false ∧ ((s.id.isH = false ∨ s.brg.st = .down))) ∧
    (∃ (s : State) (l : List Byte), s.serves = true ∧ s.monLocked = true ∧ ((∀ c, monCommand l = some c → c.1 = false))) ∧
    (∃ (s : State) (l : List Byte) (c : Bool × (State → MonAns)), s.serves = true ∧ s.monLocked = true ∧ monCommand l = some c ∧ c.1 = true ∧
      s.id.isH = true ∧ s.brg.st ≠ .down) :=
  ⟨⟨State.reset, .monHelp, by decide +kernel, Or.inr rfl⟩,
    ⟨{ c0 with otp := { otp with monLock := true } }, .schedStep, by decide +kernel, by decide +kernel, Or.inr (Or.inr rfl)⟩,
    ⟨c0, by decide +kernel⟩,
    ⟨c0, ((upTo 8).map (fun i => BitVec.ofNat 8 (Config.freeValue (c0.free + i)))), by decide +kernel, (by rfl)⟩,
    ⟨c0, by decide +kernel⟩,
    ⟨wMonitorCommands6, ((wMonitorCommands6.mon.challenge).get (by decide +kernel)), ((wMonitorCommands6.monResponse
      ((wMonitorCommands6.mon.challenge).get (by decide +kernel))).get (by decide +kernel)), by decide +kernel⟩,
    ⟨wMonitorCommands7,
      (({ wMonitorCommands7 with mon := { wMonitorCommands7.mon with challenge := none, fails := Nat.min 7 (wMonitorCommands7.mon.fails + 1), run := wMonitorCommands7.mon.run + 1, lockout := decide (3 ≤ wMonitorCommands7.mon.run + 1) } })
      : State), ((wMonitorCommands7.mon.challenge).get (by decide +kernel)), ([]), by decide +kernel⟩,
    ⟨wMonitorCommands8, by decide +kernel⟩,
    ⟨c0, by decide +kernel⟩,
    ⟨wMonitorCommands10, by decide +kernel⟩,
    ⟨c0, by decide +kernel⟩,
    ⟨c0, by decide +kernel⟩,
    ⟨c0, by decide +kernel⟩,
    ⟨c0, 63, by decide +kernel⟩,
    ⟨c0, 0, by decide +kernel⟩,
    ⟨c0, ((c0.writeEntry { addr := 63, val := (0 : Word), mask := (0 : Word) }).1), 63, ((c0.writeEntry
      { addr := 63, val := (0 : Word), mask := (0 : Word) }).2), (0 : Word), (0 : Word), by decide +kernel⟩,
    ⟨c0, ((c0.memRead false (0 % 2 ^ 44) (4 * 0)).1), 0, 0, false, ((c0.memRead false (0 % 2 ^ 44) (4 * 0)).2.1), ((c0.memRead false (0 % 2 ^ 44)
      (4 * 0)).2.2), by decide +kernel⟩,
    ⟨c0, 63, 63, by decide +kernel⟩,
    ⟨(adm 100), by decide +kernel⟩,
    ⟨wMonitorCommands20, 0, false, by decide +kernel⟩,
    ⟨c0, 63, by decide +kernel⟩,
    ⟨c0, by decide +kernel⟩,
    ⟨c0, by decide +kernel⟩,
    ⟨c0, by decide +kernel⟩,
    ⟨wMonitorCommands25, ((wMonitorCommands25.boot.image).get (by decide +kernel)), ((wMonitorCommands25.boot.flash).get (by decide +kernel)), by
      decide +kernel⟩,
    ⟨c0, by decide +kernel⟩,
    ⟨c0, by decide +kernel⟩,
    ⟨c0, ((c0.schedStep).1), ((c0.schedStep).2), by decide +kernel⟩,
    ⟨(stage c0 4), by decide +kernel⟩,
    ⟨wMonitorCommands30, by decide +kernel⟩,
    ⟨c0, by decide +kernel⟩,
    ⟨wMonitorCommands32, ([0x78]), by decide +kernel, by decide +kernel,
      (by intro c hc; rw [show monCommand [0x78] = none from by decide +kernel] at hc; cases hc)⟩,
    ⟨wMonitorCommands33, ([0x69, 0x64]), (true, doMonId), by decide +kernel, by decide +kernel, (by exact rfl), (by exact rfl), by decide +kernel,
      by decide +kernel⟩⟩

theorem test_command_frame :
    ∃ (i : Instr) (s t : State) (p : Part), exec i s = .next t ∧ p ∉ touches i :=
  ⟨.brRetire 0 0 false, c0, c0, .mem, rfl, by decide⟩

theorem test_fuses_never_change :
    (∃ s t : State, step s = .next t) ∧
    (∃ (l : List State) (s : State), l ≠ [] ∧ ∀ p ∈ (s :: l).zip l, step p.1 = .next p.2) :=
  ⟨⟨{ c0 with pending := [.brRetire 0 0 false] }, c0, rfl⟩,
    ⟨[c0], { c0 with pending := [.brRetire 0 0 false] }, by simp, by intro p hp; rw [List.mem_singleton.mp hp]; rfl⟩⟩

theorem test_step_keeps_form :
    ∃ s t : State, (s.memOk ∧ s.regsOk ∧ s.sched.toks.length = 16) ∧ step s = .next t :=
  ⟨{ ram c0 with pending := [.brRetire 0 0 false] }, ram c0, ⟨by unfold State.memOk; decide +kernel, by unfold State.regsOk; decide +kernel, rfl⟩,
    rfl⟩

theorem test_dram_code :
    ∃ (d : Nat), d < 2 ^ 32 :=
  ⟨63, by decide +kernel⟩

def frag : PageFrag := { job := 1, page := 2, lines := 16, medium := 3, planes := 1, flags := 0, plane := 0, pitch := 8, firstBand := 0, entries := [⟨0, 16, 4⟩] }
def part : BandPart := { job := 1, page := 2, plane := 0, band := 0, off := 0, data := [1] }
def dgm : Datagram := { port := 0, v6 := false, frag := false, sumOk := true, src := 1, sport := 2, dport := 3, payload := [] }
def ouv : OuvFrame := { ver := 1, src := 2, dst := 0, seq := 3, hops := 0, body := .go 1 }
def hit : MemHit := { unit := 32, addr := 0, ue := true, synd := 255, off := 0, data := [] }

/-- Each bound of `Instr.wf`, one past it: refused. -/
theorem test_wf_refuses_0 :
    [Instr.imageApply 4096,
      Instr.dramTraining 16,
      Instr.bridgeTraining 256 none,
      Instr.jobOpen hdr 65536,
      Instr.jobClose hdr 65536,
      Instr.pageRelease hdr 65536 0,
      Instr.pageRelease hdr 0 65536,
      Instr.queryResidency hdr 65536 0,
      Instr.queryResidency hdr 0 65536,
      Instr.setTable hdr 65536 0 0 [],
      Instr.setTable hdr 0 65536 0 [],
      Instr.setTable hdr 0 0 4294967296 [],
      Instr.readReg hdr 4294967296 0,
      Instr.readReg hdr 0 65536,
      Instr.timeSet hdr 281474976710656 0,
      Instr.timeSet hdr 0 4294967296,
      Instr.consumableAuthenticate hdr 12,
      Instr.retireRegion none 4 0,
      Instr.retireRegion none 0 262144,
      Instr.retireChannel none 4,
      Instr.retirementCopyDone true 4 0,
      Instr.retirementCopyDone true 0 262144,
      Instr.eventFlagClear 8 0,
      Instr.eventEnableWrite 8 0 0,
      Instr.eventRouteWrite 256 0 0,
      Instr.ringH2dTail 4294967296 [],
      Instr.ringD2hHead 4294967296,
      Instr.arpRequest 2 0 0,
      Instr.arpRequest 0 0 281474976710656,
      Instr.neighbourDiscovery 2 0 0,
      Instr.neighbourDiscovery 0 0 281474976710656,
      Instr.echoRequest 2 true 0 [],
      Instr.pinSelWrite 96 0 0,
      Instr.pinRelease 96,
      Instr.apertureWrite 4294967296 0 0,
      Instr.registrationCapture 8,
      Instr.misfeedDecision 16,
      Instr.misfeedTokenRelease 16,
      Instr.tailLeavesFuser 16,
      Instr.sheetDone 16].all (fun i => i.wf.not) = true := by
  decide +kernel

/-- Each bound of `Instr.wf`, one past it: refused. -/
theorem test_wf_refuses_1 :
    [Instr.sheetEvent 16 0,
      Instr.sheetEvent 0 64,
      Instr.bandRelease 16 0 0,
      Instr.bandRelease 0 6 0,
      Instr.bandRelease 0 0 65536,
      Instr.bandDecoded 12 [],
      Instr.checkAheadEnd 12 [],
      Instr.castStallResume 12,
      Instr.castOutOfService 12,
      Instr.chiselBandDone 8,
      Instr.chiselResume 8,
      Instr.chiselContextSave 8,
      Instr.chiselOutOfService 8,
      Instr.contextRestore 128,
      Instr.sosEdge 6 ⟨0, 0, 0, []⟩,
      Instr.sosEdge 0 { (⟨0, 0, 0, []⟩ : SosEdge) with phase := 65536 },
      Instr.sosEdge 0 ⟨0, 0, 0, [(32, hit)]⟩,
      Instr.sosEdge 0 ⟨0, 0, 0, [(0, { hit with unit := 33 })]⟩,
      Instr.sosEarly 6,
      Instr.sosLost 6,
      Instr.sosAcquired 6,
      Instr.facetLearn 6,
      Instr.indexFacetId 6,
      Instr.autoLearnPeriod 6,
      Instr.shadowApplyIdle 6,
      Instr.eosEdge 6 0,
      Instr.pixLossOfLock 6,
      Instr.pixRelock 6,
      Instr.bypassSwitch 6,
      Instr.statusLost 6,
      Instr.linkEnable 6,
      Instr.linkDisable 6,
      Instr.lanesHalfTimeout 6,
      Instr.trainingTimeout 6,
      Instr.trainingRetry 6,
      Instr.alignPixclkRestart 6,
      Instr.auxClockSwitch 2,
      Instr.statusFrame 6 [],
      Instr.laneRetrainStart 6 0,
      Instr.laneRetrainStart 0 4].all (fun i => i.wf.not) = true := by
  decide +kernel

/-- Each bound of `Instr.wf`, one past it: refused. -/
theorem test_wf_refuses_2 :
    [Instr.laneLockLoss 8,
      Instr.retrainEnd 256 0 [],
      Instr.brBand br 4294967296 [],
      Instr.brResidency br 6,
      Instr.brRetire 4 0 true,
      Instr.brRetire 0 262144 true,
      Instr.brBadMessage 4 0,
      Instr.brBadMessage 0 256,
      Instr.mergeFlush 4 [],
      Instr.sramMergeFlush 17 [],
      Instr.dmaStart 64,
      Instr.dmaTailRecheck 64,
      Instr.dmaRestart 64,
      Instr.dmaSkip 64,
      Instr.dmaAbort 64,
      Instr.dmaStop 64,
      Instr.stpMove 24,
      Instr.stpStop 24,
      Instr.stpResume 24,
      Instr.stpReference 24,
      Instr.stpClear 24,
      Instr.stpEnable 24,
      Instr.stpDisable 24,
      Instr.stepPulse 24,
      Instr.stpTargetWrite 24 0,
      Instr.stallInput 24 true,
      Instr.homeEdge 24 true,
      Instr.stpLimitWrite 24 0 0,
      Instr.stpLimitWrite 0 3 0,
      Instr.stpFault 24 0,
      Instr.stpFault 0 8,
      Instr.motRun 12,
      Instr.motStop 12,
      Instr.motCoast 12,
      Instr.motClear 12,
      Instr.listenTimeout 12,
      Instr.alignEnd 12,
      Instr.handoverTimeout 12,
      Instr.motAtSpeed 12,
      Instr.rotorLost 12].all (fun i => i.wf.not) = true := by
  decide +kernel

/-- Each bound of `Instr.wf`, one past it: refused. -/
theorem test_wf_refuses_3 :
    [Instr.listenEnd 12,
      Instr.phaseLockChange 12,
      Instr.commutation 12,
      Instr.motSpeedWrite 12 0,
      Instr.ilimTrip 12 0,
      Instr.floatingPhaseSample 12 true,
      Instr.zeroCrossing 12 0 true,
      Instr.hallEdge 12 0 0,
      Instr.hallEdge 0 8 0,
      Instr.vbusSample 4096,
      Instr.ladderDwellStep 15,
      Instr.digitalSensorRead 46 0,
      Instr.digitalSensorRead 0 131072,
      Instr.sensorRecovered 46,
      Instr.pairInvalid 4,
      Instr.pairValid 4,
      Instr.hvFault 32,
      Instr.wideCompareFire 32,
      Instr.fastCompareFire 8,
      Instr.capture 32,
      Instr.ptpSyncSend 6,
      Instr.ptpAnnounceSend 6,
      Instr.ptpDelayReqSend 6,
      Instr.ptpAnnounceTimeout 6,
      Instr.ptpSync 6 ⟨0, false, 0, 0, 0, 0, 0⟩,
      Instr.ptpFollowUp 6 ⟨0, false, 0, 0, 0, 0, 0⟩,
      Instr.ptpDelayReq 6 ⟨0, false, 0, 0, 0, 0, 0⟩,
      Instr.ptpDelayResp 6 ⟨0, false, 0, 0, 0, 0, 0⟩,
      Instr.ptpAnnounce 6 ⟨0, false, 0, 0, 0, 0, 0⟩,
      Instr.transparentClockForward 6 0 ⟨0, false, 0, 0, 0, 0, 0⟩,
      Instr.transparentClockForward 0 256 ⟨0, false, 0, 0, 0, 0, 0⟩,
      Instr.ouvothFrame 4 ouv,
      Instr.announce 256 0 0 0 0 0 true,
      Instr.joinAdmit 256,
      Instr.lost 256,
      Instr.workerLost 256,
      Instr.order 4294967296 0 0 0 0 [],
      Instr.order 0 65536 0 0 0 [],
      Instr.order 0 0 65536 0 0 [],
      Instr.order 0 0 0 8 0 []].all (fun i => i.wf.not) = true := by
  decide +kernel

/-- Each bound of `Instr.wf`, one past it: refused. -/
theorem test_wf_refuses_4 :
    [Instr.orderEvaluation 4294967296,
      Instr.goDecision 4294967296,
      Instr.goMsg 4294967296,
      Instr.linePickCheck 4294967296,
      Instr.orderAck 256 0,
      Instr.orderAck 0 4294967296,
      Instr.orderRefused 256 0 0,
      Instr.orderRefused 0 4294967296 0,
      Instr.orderRefused 0 0 8,
      Instr.report 256 0 0 0,
      Instr.report 0 4294967296 0 0,
      Instr.lineStep 8 0 0,
      Instr.lineLinkPortChange 4 true,
      Instr.presenceProbe 12 true,
      Instr.ident 12 none,
      Instr.auth 12 none,
      Instr.commit 12 none,
      Instr.replyPoll 12 none,
      Instr.presenceChange 12,
      Instr.replyTimeout 12,
      Instr.usageReportSend 12,
      Instr.monitorRr 4294967296 0,
      Instr.monitorRr 0 65536,
      Instr.monitorRm 281474976710656 0,
      Instr.monitorRm 0 65536,
      Instr.monitorWr 4294967296 0 0,
      Instr.monitorWm 281474976710656 0,
      Instr.monMaq 4294967296 0,
      Instr.monMaq 0 65536,
      Instr.skpErrors 8 0,
      Instr.encoderEdge 8 true true,
      Instr.orderIssue 65536 0 0 0 [],
      Instr.orderIssue 0 65536 0 0 [],
      Instr.orderIssue 0 0 8 0 [],
      Instr.flashDiscovery (some ⟨true, false, 4, [⟨4, [0]⟩]⟩),
      Instr.bridgeTraining 0 (some { peer with pairId := some (2 ^ 32) }),
      Instr.hello { hdr with die := 2 },
      Instr.queryGlobalStatus { hdr with die := 2 },
      Instr.queryTokens { hdr with die := 2 },
      Instr.timeRead { hdr with die := 2 }].all (fun i => i.wf.not) = true := by
  decide +kernel

/-- Each bound of `Instr.wf`, one past it: refused. -/
theorem test_wf_refuses_5 :
    [Instr.consumableReport { hdr with die := 2 },
      Instr.jobOpen { hdr with die := 2 } 0,
      Instr.jobClose { hdr with die := 2 } 0,
      Instr.pageDesc { hdr with die := 2 } frag,
      Instr.pageDesc hdr { frag with flags := 256 },
      Instr.bandData { hdr with die := 2 } part,
      Instr.bandData hdr { part with plane := 256 },
      Instr.bandRaw { hdr with die := 2 } part,
      Instr.bandRaw hdr { part with plane := 256 },
      Instr.pageRelease { hdr with die := 2 } 0 0,
      Instr.queryResidency { hdr with die := 2 } 0 0,
      Instr.setTable { hdr with die := 2 } 0 0 0 [],
      Instr.readReg { hdr with die := 2 } 0 0,
      Instr.writeReg { hdr with die := 2 } [],
      Instr.writeReg hdr [⟨4294967296, 0, 0⟩],
      Instr.writeRegWindow { hdr with die := 2 } [],
      Instr.writeRegWindow hdr [⟨0, 2 ^ 64⟩],
      Instr.registerWrite ⟨4294967360, 0, 0⟩,
      Instr.timeSet { hdr with die := 2 } 0 0,
      Instr.timeStep { hdr with die := 2 } 0,
      Instr.consumableAuthenticate { hdr with die := 2 } 0,
      Instr.retireRegion (some { hdr with die := 2 }) 0 0,
      Instr.retireChannel (some { hdr with die := 2 }) 0,
      Instr.hostLinkChange (.eth 2) true 0 0,
      Instr.udpDatagram { dgm with port := 2 },
      Instr.bandResident { br with plane := 6 },
      Instr.checkAheadStart { br with plane := 6 },
      Instr.bandMoveStart [{ hit with unit := 33 }],
      Instr.bandDecoded 0 [{ hit with unit := 33 }],
      Instr.checkAheadEnd 0 [{ hit with unit := 33 }],
      Instr.brHello { peer with pairId := some (2 ^ 32) } 0,
      Instr.brBandReq [{ br with plane := 6 }],
      Instr.brBand { br with plane := 6 } 0 [],
      Instr.brResidency { br with plane := 6 } 0,
      Instr.mergeFlush 0 [⟨33, 0, 0⟩],
      Instr.sramMergeFlush 0 [⟨33, 0, 0⟩],
      Instr.scrubRead 33 [],
      Instr.scrubRead 0 [⟨33, 0, 0⟩],
      Instr.dmaBurst [] [⟨33, 0, 0⟩],
      Instr.thermalTick ⟨[(46, 0)], []⟩].all (fun i => i.wf.not) = true := by
  decide +kernel

/-- Each bound of `Instr.wf`, one past it: refused. -/
theorem test_wf_refuses_6 :
    [Instr.ptpSync 0 ⟨65536, false, 0, 0, 0, 0, 0⟩,
      Instr.ptpFollowUp 0 ⟨65536, false, 0, 0, 0, 0, 0⟩,
      Instr.ptpDelayReq 0 ⟨65536, false, 0, 0, 0, 0, 0⟩,
      Instr.ptpDelayResp 0 ⟨65536, false, 0, 0, 0, 0, 0⟩,
      Instr.ptpAnnounce 0 ⟨65536, false, 0, 0, 0, 0, 0⟩,
      Instr.transparentClockForward 0 0 ⟨65536, false, 0, 0, 0, 0, 0⟩,
      Instr.ouvothFrame 0 { ouv with hops := 256 }].all (fun i => i.wf.not) = true := by
  decide +kernel

/-- The last value within each bound: accepted. -/
theorem test_wf_accepts_0 :
    [Instr.flashDiscovery none,
      Instr.imageApply 0,
      Instr.imageApply 4095,
      Instr.dramTraining 0,
      Instr.dramTraining 15,
      Instr.bridgeTraining 0 none,
      Instr.bridgeTraining 255 none,
      Instr.hello hdr,
      Instr.queryGlobalStatus hdr,
      Instr.queryTokens hdr,
      Instr.timeRead hdr,
      Instr.consumableReport hdr,
      Instr.jobOpen hdr 0,
      Instr.jobOpen hdr 65535,
      Instr.jobClose hdr 0,
      Instr.jobClose hdr 65535,
      Instr.pageDesc hdr frag,
      Instr.bandData hdr part,
      Instr.bandRaw hdr part,
      Instr.pageRelease hdr 0 0,
      Instr.pageRelease hdr 65535 0,
      Instr.pageRelease hdr 0 65535,
      Instr.queryResidency hdr 0 0,
      Instr.queryResidency hdr 65535 0,
      Instr.queryResidency hdr 0 65535,
      Instr.setTable hdr 0 0 0 [],
      Instr.setTable hdr 65535 0 0 [],
      Instr.setTable hdr 0 65535 0 [],
      Instr.setTable hdr 0 0 4294967295 [],
      Instr.readReg hdr 0 0,
      Instr.readReg hdr 4294967295 0,
      Instr.readReg hdr 0 65535,
      Instr.writeReg hdr [],
      Instr.writeRegWindow hdr [],
      Instr.registerWrite ⟨0, 0, 0⟩,
      Instr.timeSet hdr 0 0,
      Instr.timeSet hdr 281474976710655 0,
      Instr.timeSet hdr 0 4294967295,
      Instr.timeStep hdr 0,
      Instr.consumableAuthenticate hdr 0].all (fun i => i.wf) = true := by
  decide +kernel

/-- The last value within each bound: accepted. -/
theorem test_wf_accepts_1 :
    [Instr.retireRegion none 0 0,
      Instr.retireRegion none 3 0,
      Instr.retireRegion none 0 262143,
      Instr.retireChannel none 0,
      Instr.retireChannel none 3,
      Instr.retirementCopyDone true 0 0,
      Instr.retirementCopyDone true 3 0,
      Instr.retirementCopyDone true 0 262143,
      Instr.eventFlagClear 0 0,
      Instr.eventFlagClear 7 0,
      Instr.eventEnableWrite 0 0 0,
      Instr.eventEnableWrite 7 0 0,
      Instr.eventRouteWrite 0 0 0,
      Instr.eventRouteWrite 255 0 0,
      Instr.ringH2dTail 0 [],
      Instr.ringH2dTail 4294967295 [],
      Instr.ringD2hHead 0,
      Instr.ringD2hHead 4294967295,
      Instr.hostLinkChange .pcie true 0 0,
      Instr.udpDatagram dgm,
      Instr.arpRequest 0 0 0,
      Instr.arpRequest 1 0 0,
      Instr.arpRequest 0 0 281474976710655,
      Instr.neighbourDiscovery 0 0 0,
      Instr.neighbourDiscovery 1 0 0,
      Instr.neighbourDiscovery 0 0 281474976710655,
      Instr.echoRequest 0 true 0 [],
      Instr.echoRequest 1 true 0 [],
      Instr.pinSelWrite 0 0 0,
      Instr.pinSelWrite 95 0 0,
      Instr.pinRelease 0,
      Instr.pinRelease 95,
      Instr.apertureWrite 0 0 0,
      Instr.apertureWrite 4294967295 0 0,
      Instr.registrationCapture 0,
      Instr.registrationCapture 7,
      Instr.misfeedDecision 0,
      Instr.misfeedDecision 15,
      Instr.misfeedTokenRelease 0,
      Instr.misfeedTokenRelease 15].all (fun i => i.wf) = true := by
  decide +kernel

/-- The last value within each bound: accepted. -/
theorem test_wf_accepts_2 :
    [Instr.tailLeavesFuser 0,
      Instr.tailLeavesFuser 15,
      Instr.sheetDone 0,
      Instr.sheetDone 15,
      Instr.sheetEvent 0 0,
      Instr.sheetEvent 15 0,
      Instr.sheetEvent 0 63,
      Instr.bandRelease 0 0 0,
      Instr.bandRelease 15 0 0,
      Instr.bandRelease 0 5 0,
      Instr.bandRelease 0 0 65535,
      Instr.bandResident br,
      Instr.checkAheadStart br,
      Instr.bandMoveStart [],
      Instr.bandDecoded 0 [],
      Instr.bandDecoded 11 [],
      Instr.checkAheadEnd 0 [],
      Instr.checkAheadEnd 11 [],
      Instr.castStallResume 0,
      Instr.castStallResume 11,
      Instr.castOutOfService 0,
      Instr.castOutOfService 11,
      Instr.chiselBandDone 0,
      Instr.chiselBandDone 7,
      Instr.chiselResume 0,
      Instr.chiselResume 7,
      Instr.chiselContextSave 0,
      Instr.chiselContextSave 7,
      Instr.chiselOutOfService 0,
      Instr.chiselOutOfService 7,
      Instr.contextRestore 0,
      Instr.contextRestore 127,
      Instr.sosEdge 0 ⟨0, 0, 0, []⟩,
      Instr.sosEdge 5 ⟨0, 0, 0, []⟩,
      Instr.sosEarly 0,
      Instr.sosEarly 5,
      Instr.sosLost 0,
      Instr.sosLost 5,
      Instr.sosAcquired 0,
      Instr.sosAcquired 5].all (fun i => i.wf) = true := by
  decide +kernel

/-- The last value within each bound: accepted. -/
theorem test_wf_accepts_3 :
    [Instr.facetLearn 0,
      Instr.facetLearn 5,
      Instr.indexFacetId 0,
      Instr.indexFacetId 5,
      Instr.autoLearnPeriod 0,
      Instr.autoLearnPeriod 5,
      Instr.shadowApplyIdle 0,
      Instr.shadowApplyIdle 5,
      Instr.eosEdge 0 0,
      Instr.eosEdge 5 0,
      Instr.pixLossOfLock 0,
      Instr.pixLossOfLock 5,
      Instr.pixRelock 0,
      Instr.pixRelock 5,
      Instr.bypassSwitch 0,
      Instr.bypassSwitch 5,
      Instr.statusLost 0,
      Instr.statusLost 5,
      Instr.linkEnable 0,
      Instr.linkEnable 5,
      Instr.linkDisable 0,
      Instr.linkDisable 5,
      Instr.lanesHalfTimeout 0,
      Instr.lanesHalfTimeout 5,
      Instr.trainingTimeout 0,
      Instr.trainingTimeout 5,
      Instr.trainingRetry 0,
      Instr.trainingRetry 5,
      Instr.alignPixclkRestart 0,
      Instr.alignPixclkRestart 5,
      Instr.auxClockSwitch 0,
      Instr.auxClockSwitch 1,
      Instr.statusFrame 0 [],
      Instr.statusFrame 5 [],
      Instr.laneRetrainStart 0 0,
      Instr.laneRetrainStart 5 0,
      Instr.laneRetrainStart 0 3,
      Instr.laneLockLoss 0,
      Instr.laneLockLoss 7,
      Instr.retrainEnd 0 0 []].all (fun i => i.wf) = true := by
  decide +kernel

/-- The last value within each bound: accepted. -/
theorem test_wf_accepts_4 :
    [Instr.retrainEnd 255 0 [],
      Instr.brHello peer 0,
      Instr.brBandReq [],
      Instr.brBand br 0 [],
      Instr.brBand br 4294967295 [],
      Instr.brResidency br 0,
      Instr.brResidency br 5,
      Instr.brRetire 0 0 true,
      Instr.brRetire 3 0 true,
      Instr.brRetire 0 262143 true,
      Instr.brBadMessage 0 0,
      Instr.brBadMessage 3 0,
      Instr.brBadMessage 0 255,
      Instr.mergeFlush 0 [],
      Instr.mergeFlush 3 [],
      Instr.sramMergeFlush 0 [],
      Instr.sramMergeFlush 16 [],
      Instr.scrubRead 0 [],
      Instr.dmaStart 0,
      Instr.dmaStart 63,
      Instr.dmaTailRecheck 0,
      Instr.dmaTailRecheck 63,
      Instr.dmaRestart 0,
      Instr.dmaRestart 63,
      Instr.dmaSkip 0,
      Instr.dmaSkip 63,
      Instr.dmaAbort 0,
      Instr.dmaAbort 63,
      Instr.dmaStop 0,
      Instr.dmaStop 63,
      Instr.dmaBurst [] [],
      Instr.stpMove 0,
      Instr.stpMove 23,
      Instr.stpStop 0,
      Instr.stpStop 23,
      Instr.stpResume 0,
      Instr.stpResume 23,
      Instr.stpReference 0,
      Instr.stpReference 23,
      Instr.stpClear 0].all (fun i => i.wf) = true := by
  decide +kernel

/-- The last value within each bound: accepted. -/
theorem test_wf_accepts_5 :
    [Instr.stpClear 23,
      Instr.stpEnable 0,
      Instr.stpEnable 23,
      Instr.stpDisable 0,
      Instr.stpDisable 23,
      Instr.stepPulse 0,
      Instr.stepPulse 23,
      Instr.stpTargetWrite 0 0,
      Instr.stpTargetWrite 23 0,
      Instr.stallInput 0 true,
      Instr.stallInput 23 true,
      Instr.homeEdge 0 true,
      Instr.homeEdge 23 true,
      Instr.stpLimitWrite 0 0 0,
      Instr.stpLimitWrite 23 0 0,
      Instr.stpLimitWrite 0 2 0,
      Instr.stpFault 0 0,
      Instr.stpFault 23 0,
      Instr.stpFault 0 7,
      Instr.motRun 0,
      Instr.motRun 11,
      Instr.motStop 0,
      Instr.motStop 11,
      Instr.motCoast 0,
      Instr.motCoast 11,
      Instr.motClear 0,
      Instr.motClear 11,
      Instr.listenTimeout 0,
      Instr.listenTimeout 11,
      Instr.alignEnd 0,
      Instr.alignEnd 11,
      Instr.handoverTimeout 0,
      Instr.handoverTimeout 11,
      Instr.motAtSpeed 0,
      Instr.motAtSpeed 11,
      Instr.rotorLost 0,
      Instr.rotorLost 11,
      Instr.listenEnd 0,
      Instr.listenEnd 11,
      Instr.phaseLockChange 0].all (fun i => i.wf) = true := by
  decide +kernel

/-- The last value within each bound: accepted. -/
theorem test_wf_accepts_6 :
    [Instr.phaseLockChange 11,
      Instr.commutation 0,
      Instr.commutation 11,
      Instr.motSpeedWrite 0 0,
      Instr.motSpeedWrite 11 0,
      Instr.ilimTrip 0 0,
      Instr.ilimTrip 11 0,
      Instr.floatingPhaseSample 0 true,
      Instr.floatingPhaseSample 11 true,
      Instr.zeroCrossing 0 0 true,
      Instr.zeroCrossing 11 0 true,
      Instr.hallEdge 0 0 0,
      Instr.hallEdge 11 0 0,
      Instr.hallEdge 0 7 0,
      Instr.vbusSample 0,
      Instr.vbusSample 4095,
      Instr.thermalTick ⟨[], []⟩,
      Instr.ladderDwellStep 0,
      Instr.ladderDwellStep 14,
      Instr.digitalSensorRead 0 0,
      Instr.digitalSensorRead 45 0,
      Instr.digitalSensorRead 0 131071,
      Instr.sensorRecovered 0,
      Instr.sensorRecovered 45,
      Instr.pairInvalid 0,
      Instr.pairInvalid 3,
      Instr.pairValid 0,
      Instr.pairValid 3,
      Instr.hvFault 0,
      Instr.hvFault 31,
      Instr.wideCompareFire 0,
      Instr.wideCompareFire 31,
      Instr.fastCompareFire 0,
      Instr.fastCompareFire 7,
      Instr.capture 0,
      Instr.capture 31,
      Instr.ptpSyncSend 0,
      Instr.ptpSyncSend 5,
      Instr.ptpAnnounceSend 0,
      Instr.ptpAnnounceSend 5].all (fun i => i.wf) = true := by
  decide +kernel

/-- The last value within each bound: accepted. -/
theorem test_wf_accepts_7 :
    [Instr.ptpDelayReqSend 0,
      Instr.ptpDelayReqSend 5,
      Instr.ptpAnnounceTimeout 0,
      Instr.ptpAnnounceTimeout 5,
      Instr.ptpSync 0 ⟨0, false, 0, 0, 0, 0, 0⟩,
      Instr.ptpSync 5 ⟨0, false, 0, 0, 0, 0, 0⟩,
      Instr.ptpFollowUp 0 ⟨0, false, 0, 0, 0, 0, 0⟩,
      Instr.ptpFollowUp 5 ⟨0, false, 0, 0, 0, 0, 0⟩,
      Instr.ptpDelayReq 0 ⟨0, false, 0, 0, 0, 0, 0⟩,
      Instr.ptpDelayReq 5 ⟨0, false, 0, 0, 0, 0, 0⟩,
      Instr.ptpDelayResp 0 ⟨0, false, 0, 0, 0, 0, 0⟩,
      Instr.ptpDelayResp 5 ⟨0, false, 0, 0, 0, 0, 0⟩,
      Instr.ptpAnnounce 0 ⟨0, false, 0, 0, 0, 0, 0⟩,
      Instr.ptpAnnounce 5 ⟨0, false, 0, 0, 0, 0, 0⟩,
      Instr.transparentClockForward 0 0 ⟨0, false, 0, 0, 0, 0, 0⟩,
      Instr.transparentClockForward 5 0 ⟨0, false, 0, 0, 0, 0, 0⟩,
      Instr.transparentClockForward 0 255 ⟨0, false, 0, 0, 0, 0, 0⟩,
      Instr.ouvothFrame 0 ouv,
      Instr.ouvothFrame 3 ouv,
      Instr.announce 0 0 0 0 0 0 true,
      Instr.announce 255 0 0 0 0 0 true,
      Instr.joinAdmit 0,
      Instr.joinAdmit 255,
      Instr.lost 0,
      Instr.lost 255,
      Instr.workerLost 0,
      Instr.workerLost 255,
      Instr.order 0 0 0 0 0 [],
      Instr.order 4294967295 0 0 0 0 [],
      Instr.order 0 65535 0 0 0 [],
      Instr.order 0 0 65535 0 0 [],
      Instr.order 0 0 0 7 0 [],
      Instr.orderEvaluation 0,
      Instr.orderEvaluation 4294967295,
      Instr.goDecision 0,
      Instr.goDecision 4294967295,
      Instr.goMsg 0,
      Instr.goMsg 4294967295,
      Instr.linePickCheck 0,
      Instr.linePickCheck 4294967295].all (fun i => i.wf) = true := by
  decide +kernel

/-- The last value within each bound: accepted. -/
theorem test_wf_accepts_8 :
    [Instr.orderAck 0 0,
      Instr.orderAck 255 0,
      Instr.orderAck 0 4294967295,
      Instr.orderRefused 0 0 0,
      Instr.orderRefused 255 0 0,
      Instr.orderRefused 0 4294967295 0,
      Instr.orderRefused 0 0 7,
      Instr.report 0 0 0 0,
      Instr.report 255 0 0 0,
      Instr.report 0 4294967295 0 0,
      Instr.lineStep 0 0 0,
      Instr.lineStep 7 0 0,
      Instr.lineLinkPortChange 0 true,
      Instr.lineLinkPortChange 3 true,
      Instr.presenceProbe 0 true,
      Instr.presenceProbe 11 true,
      Instr.ident 0 none,
      Instr.ident 11 none,
      Instr.auth 0 none,
      Instr.auth 11 none,
      Instr.commit 0 none,
      Instr.commit 11 none,
      Instr.replyPoll 0 none,
      Instr.replyPoll 11 none,
      Instr.presenceChange 0,
      Instr.presenceChange 11,
      Instr.replyTimeout 0,
      Instr.replyTimeout 11,
      Instr.usageReportSend 0,
      Instr.usageReportSend 11,
      Instr.monitorRr 0 0,
      Instr.monitorRr 4294967295 0,
      Instr.monitorRr 0 65535,
      Instr.monitorRm 0 0,
      Instr.monitorRm 281474976710655 0,
      Instr.monitorRm 0 65535,
      Instr.monitorWr 0 0 0,
      Instr.monitorWr 4294967295 0 0,
      Instr.monitorWm 0 0,
      Instr.monitorWm 281474976710655 0].all (fun i => i.wf) = true := by
  decide +kernel

/-- The last value within each bound: accepted. -/
theorem test_wf_accepts_9 :
    [Instr.monMaq 0 0,
      Instr.monMaq 4294967295 0,
      Instr.monMaq 0 65535,
      Instr.skpErrors 0 0,
      Instr.skpErrors 7 0,
      Instr.encoderEdge 0 true true,
      Instr.encoderEdge 7 true true,
      Instr.orderIssue 0 0 0 0 [],
      Instr.orderIssue 65535 0 0 0 [],
      Instr.orderIssue 0 65535 0 0 [],
      Instr.orderIssue 0 0 7 0 [],
      Instr.rstNAssert,
      Instr.rstNRelease,
      Instr.brownout 0,
      Instr.brownoutRecovery,
      Instr.rootLock,
      Instr.rootLockRetry,
      Instr.rootLossOfLock,
      Instr.copySelection,
      Instr.signatureCheck,
      Instr.ready,
      Instr.estopReleaseCheck,
      Instr.engineReadyTimeout,
      Instr.retirementCopyRetry,
      Instr.eventSend,
      Instr.ringReset 0,
      Instr.perstN,
      Instr.admissionEvaluation,
      Instr.sheetPick,
      Instr.misfeedAck,
      Instr.feedForwardEnd,
      Instr.speedChangeGapEnd,
      Instr.chiselAssign,
      Instr.refCompUpdate,
      Instr.gainRecalibration,
      Instr.flitReceive [],
      Instr.replay,
      Instr.replayTimeout,
      Instr.bridgeMessageSend,
      Instr.rejoinRetrainDue].all (fun i => i.wf) = true := by
  decide +kernel

/-- The last value within each bound: accepted. -/
theorem test_wf_accepts_10 :
    [Instr.bridgeTrainingAttempt,
      Instr.bridgeDown,
      Instr.brReady 0,
      Instr.brRate 0 0 0,
      Instr.brFault true true,
      Instr.brMon [],
      Instr.brTimeMark,
      Instr.brTimeFollow 0 0,
      Instr.timeExchangeMissed,
      Instr.patinaTailWrite 0,
      Instr.chopperFeedbackFault,
      Instr.chopperOnTimeout,
      Instr.ovAck,
      Instr.chopAck,
      Instr.zeroCrossEdge 0,
      Instr.zeroCrossLoss,
      Instr.zeroCrossRegained,
      Instr.fuserPidUpdate,
      Instr.hvLoopUpdate [],
      Instr.timStepWrite 0,
      Instr.timFreqWrite 0,
      Instr.servoSample 0,
      Instr.servoLocked,
      Instr.servoHoldover,
      Instr.announceSend,
      Instr.admitMsg true 0,
      Instr.lineStopMessage true,
      Instr.isolated,
      Instr.lineStop,
      Instr.lineResume,
      Instr.csmCmdAuth 0,
      Instr.monId,
      Instr.monHelp,
      Instr.monUnlock,
      Instr.monUnlockResponse [],
      Instr.monUnlockTimeout,
      Instr.lockoutEnd,
      Instr.monLock,
      Instr.monBaud 0,
      Instr.monEv none].all (fun i => i.wf) = true := by
  decide +kernel

/-- The last value within each bound: accepted. -/
theorem test_wf_accepts_11 :
    [Instr.monPat,
      Instr.monTrace true,
      Instr.schedStep,
      Instr.engineRelay [],
      Instr.recalibrationComplete].all (fun i => i.wf) = true := by
  decide +kernel

/-- Each check of the operand types, failed alone: refused. -/
theorem test_wf_operands_refused :
    [okHdr { hdr with link := .eth 2 },
      okHdr { hdr with port := 65536 },
      okHdr { hdr with seq := 4294967296 },
      okHdr { hdr with die := 2 },
      okHdr { hdr with crc := 4294967296 },
      okRef { br with job := 65536 },
      okRef { br with page := 65536 },
      okRef { br with plane := 6 },
      okRef { br with band := 65536 },
      okFrag { frag with job := 65536 },
      okFrag { frag with page := 65536 },
      okFrag { frag with lines := 4294967296 },
      okFrag { frag with medium := 65536 },
      okFrag { frag with planes := 256 },
      okFrag { frag with flags := 256 },
      okFrag { frag with plane := 256 },
      okFrag { frag with pitch := 65536 },
      okFrag { frag with firstBand := 65536 },
      okFrag { frag with entries := [⟨4294967296, 0, 0⟩] },
      okFrag { frag with entries := [⟨0, 65536, 0⟩] },
      okFrag { frag with entries := [⟨0, 0, 4294967296⟩] },
      okPart { part with job := 65536 },
      okPart { part with page := 65536 },
      okPart { part with plane := 256 },
      okPart { part with band := 65536 },
      okPart { part with off := 4294967296 },
      okEntry ⟨4294967296, 0, 0⟩,
      okBar ⟨4294967295, 0, 0⟩,
      okBar ⟨4294967360, 0, 0⟩,
      okWin ⟨4294967296, 0⟩,
      okWin ⟨0, 2 ^ 64⟩,
      okFlash ⟨true, false, 4, [⟨4, [0]⟩]⟩,
      okLink (.eth 2),
      okDgram { dgm with port := 2 },
      okDgram { dgm with sport := 65536 },
      okDgram { dgm with dport := 65536 },
      okOuv { ouv with ver := 256 },
      okOuv { ouv with src := 256 },
      okOuv { ouv with dst := 256 },
      okOuv { ouv with seq := 4294967296 },
      okOuv { ouv with hops := 256 },
      okOuv { ouv with etype := 65536 },
      okUpset ⟨33, 0, 0⟩,
      okUpset ⟨4, 0, 0⟩,
      okUpset ⟨15, 0, 0⟩,
      okPeer { peer with pairId := some (2 ^ 32) },
      okPtp ⟨65536, false, 0, 0, 0, 0, 0⟩,
      okPtp ⟨0, false, 0, 0, 0, 256, 0⟩,
      okPtp ⟨0, false, 0, 0, 0, 0, 3⟩,
      okHit { hit with unit := 33 },
      okHit { hit with addr := 4294967296 },
      okHit { hit with synd := 256 },
      okTherm ⟨[(46, 0)], []⟩,
      okTherm ⟨[(0, 4096)], []⟩,
      okTherm ⟨[], [(46, 0, true)]⟩].all (fun b => b.not) = true := by
  decide +kernel

/-- The operands these are made from pass their checks. -/
theorem test_wf_operands_accepted :
    (okHdr hdr && okRef br && okFrag frag && okPart part && okDgram dgm && okOuv ouv && okHit hit && okPeer peer) = true := by
  decide +kernel

/-- The table gives no row bits, so no word spells a command. -/
theorem test_no_word (n w : Nat) : decodeTableWord n w = none := rfl

end Sys2Proof.Tests
end

section
/-! SUPPORT. What a step keeps, whatever command waits: the die is the same die after it (R36). The meanings' own lemmas are in Laws/Keeps*. -/
namespace Sys2Proof.Machine

/-- The footprint of all 46 parts of State: what a command keeps beside it is what every command keeps. -/
def footAll : Nat := 2 ^ 46 - 1

/-- Every command keeps what every operation keeps: one arm a command, each citing the law of its own meaning. -/
theorem exec_keeps (i : Instr) (s : State) {F : Nat} {S : State} (hK : Keeps F S s)
    (hF : within footAll F = true := by exact within_trans hF (by decide)) : KeepsA F S (exec i s) :=
  match i with
  | .rstNAssert => execRstNAssert_keeps s hK
  | .rstNRelease => execRstNRelease_keeps s hK
  | .brownout ns => execBrownout_keeps ns s hK
  | .brownoutRecovery => execBrownoutRecovery_keeps s hK
  | .rootLock => execRootLock_keeps s hK
  | .rootLockRetry => execRootLockRetry_keeps s hK
  | .rootLossOfLock => execRootLossOfLock_keeps s hK
  | .flashDiscovery dev => execFlashDiscovery_keeps dev s hK
  | .copySelection => execCopySelection_keeps s hK
  | .signatureCheck => execSignatureCheck_keeps s hK
  | .imageApply castFail => execImageApply_keeps castFail s hK
  | .dramTraining pass => execDramTraining_keeps pass s hK
  | .bridgeTraining lanes peer => execBridgeTraining_keeps lanes peer s hK
  | .ready => execReady_keeps s hK
  | .estopReleaseCheck => execEstopReleaseCheck_keeps s hK
  | .engineReadyTimeout => execEngineReadyTimeout_keeps s hK
  | .hello h => execHello_keeps h s hK
  | .jobOpen h job => execJobOpen_keeps h job s hK
  | .jobClose h job => execJobClose_keeps h job s hK
  | .pageDesc h f => execPageDesc_keeps h f s hK
  | .bandData h p => execBandData_keeps h p s hK
  | .bandRaw h p => execBandRaw_keeps h p s hK
  | .pageRelease h job page => execPageRelease_keeps h job page s hK
  | .queryGlobalStatus h => execQueryGlobalStatus_keeps h s hK
  | .queryTokens h => execQueryTokens_keeps h s hK
  | .queryResidency h job page => execQueryResidency_keeps h job page s hK
  | .setTable h table inst off data => execSetTable_keeps h table inst off data s hK
  | .readReg h addr count => execReadReg_keeps h addr count s hK
  | .writeReg h entries => execWriteReg_keeps h entries s hK
  | .writeRegWindow h entries => execWriteRegWindow_keeps h entries s hK
  | .registerWrite e => execRegisterWrite_keeps e s hK
  | .timeRead h => execTimeRead_keeps h s hK
  | .timeSet h sec ns => execTimeSet_keeps h sec ns s hK
  | .timeStep h ns => execTimeStep_keeps h ns s hK
  | .consumableReport h => execConsumableReport_keeps h s hK
  | .consumableAuthenticate h port => execConsumableAuthenticate_keeps h port s hK
  | .retireRegion h ch region => execRetireRegion_keeps h ch region s hK
  | .retireChannel h ch => execRetireChannel_keeps h ch s hK
  | .retirementCopyDone whole ch region => execRetirementCopyDone_keeps whole ch region s hK
  | .retirementCopyRetry => execRetirementCopyRetry_keeps s hK
  | .eventSend => execEventSend_keeps s hK
  | .eventFlagClear k v => execEventFlagClear_keeps k v s hK
  | .eventEnableWrite k v mask => execEventEnableWrite_keeps k v mask s hK
  | .eventRouteWrite n v mask => execEventRouteWrite_keeps n v mask s hK
  | .ringH2dTail tail bytes => execRingH2dTail_keeps tail bytes s hK
  | .ringD2hHead head => execRingD2hHead_keeps head s hK
  | .ringReset v => execRingReset_keeps v s hK
  | .perstN => execPerstN_keeps s hK
  | .hostLinkChange link up rate width => execHostLinkChange_keeps link up rate width s hK
  | .udpDatagram d => execUdpDatagram_keeps d s hK
  | .arpRequest port ip mac => execArpRequest_keeps port ip mac s hK
  | .neighbourDiscovery port ip mac => execNeighbourDiscovery_keeps port ip mac s hK
  | .echoRequest port v6 ip data => execEchoRequest_keeps port v6 ip data s hK
  | .pinSelWrite n v mask => execPinSelWrite_keeps n v mask s hK
  | .pinRelease n => execPinRelease_keeps n s hK
  | .apertureWrite off v mask => execApertureWrite_keeps off v mask s hK
  | .admissionEvaluation => execAdmissionEvaluation_keeps s hK
  | .sheetPick => execSheetPick_keeps s hK
  | .registrationCapture sensor => execRegistrationCapture_keeps sensor s hK
  | .misfeedDecision tok => execMisfeedDecision_keeps tok s hK
  | .misfeedTokenRelease tok => execMisfeedTokenRelease_keeps tok s hK
  | .misfeedAck => execMisfeedAck_keeps s hK
  | .sheetEvent tok entry => execSheetEvent_keeps tok entry s hK
  | .feedForwardEnd => execFeedForwardEnd_keeps s hK
  | .tailLeavesFuser tok => execTailLeavesFuser_keeps tok s hK
  | .sheetDone tok => execSheetDone_keeps tok s hK
  | .speedChangeGapEnd => execSpeedChangeGapEnd_keeps s hK
  | .bandRelease tok station band => execBandRelease_keeps tok station band s hK
  | .bandMoveStart hits => execBandMoveStart_keeps hits s hK
  | .bandResident r => execBandResident_keeps r s hK
  | .bandDecoded cast hits => execBandDecoded_keeps cast hits s hK
  | .checkAheadStart r => execCheckAheadStart_keeps r s hK
  | .checkAheadEnd cast hits => execCheckAheadEnd_keeps cast hits s hK
  | .castStallResume cast => execCastStallResume_keeps cast s hK
  | .castOutOfService cast => execCastOutOfService_keeps cast s hK
  | .chiselAssign => execChiselAssign_keeps s hK
  | .chiselBandDone n => execChiselBandDone_keeps n s hK
  | .chiselResume n => execChiselResume_keeps n s hK
  | .chiselContextSave n => execChiselContextSave_keeps n s hK
  | .chiselOutOfService n => execChiselOutOfService_keeps n s hK
  | .contextRestore ctx => execContextRestore_keeps ctx s hK
  | .sosEdge st e => execSosEdge_keeps st e s hK
  | .sosEarly st => execSosEarly_keeps st s hK
  | .sosLost st => execSosLost_keeps st s hK
  | .sosAcquired st => execSosAcquired_keeps st s hK
  | .eosEdge st span => execEosEdge_keeps st span s hK
  | .facetLearn st => execFacetLearn_keeps st s hK
  | .indexFacetId st => execIndexFacetId_keeps st s hK
  | .autoLearnPeriod st => execAutoLearnPeriod_keeps st s hK
  | .shadowApplyIdle st => execShadowApplyIdle_keeps st s hK
  | .pixLossOfLock n => execPixLossOfLock_keeps n s hK
  | .pixRelock n => execPixRelock_keeps n s hK
  | .bypassSwitch n => execBypassSwitch_keeps n s hK
  | .auxClockSwitch a => execAuxClockSwitch_keeps a s hK
  | .refCompUpdate => execRefCompUpdate_keeps s hK
  | .gainRecalibration => execGainRecalibration_keeps s hK
  | .statusFrame n bytes => execStatusFrame_keeps n bytes s hK
  | .statusLost n => execStatusLost_keeps n s hK
  | .linkEnable n => execLinkEnable_keeps n s hK
  | .linkDisable n => execLinkDisable_keeps n s hK
  | .lanesHalfTimeout n => execLanesHalfTimeout_keeps n s hK
  | .trainingTimeout n => execTrainingTimeout_keeps n s hK
  | .trainingRetry n => execTrainingRetry_keeps n s hK
  | .alignPixclkRestart n => execAlignPixclkRestart_keeps n s hK
  | .laneRetrainStart n lane => execLaneRetrainStart_keeps n lane s hK
  | .flitReceive bytes => execFlitReceive_keeps bytes s hK
  | .replay => execReplay_keeps s hK
  | .replayTimeout => execReplayTimeout_keeps s hK
  | .bridgeMessageSend => execBridgeMessageSend_keeps s hK
  | .laneLockLoss lane => execLaneLockLoss_keeps lane s hK
  | .retrainEnd pass dur books => execRetrainEnd_keeps pass dur books s hK
  | .rejoinRetrainDue => execRejoinRetrainDue_keeps s hK
  | .bridgeTrainingAttempt => execBridgeTrainingAttempt_keeps s hK
  | .bridgeDown => execBridgeDown_keeps s hK
  | .brHello peer gen => execBrHello_keeps peer gen s hK
  | .brReady boot => execBrReady_keeps boot s hK
  | .brBandReq bands => execBrBandReq_keeps bands s hK
  | .brBand r off data => execBrBand_keeps r off data s hK
  | .brResidency r res => execBrResidency_keeps r res s hK
  | .brRate bytes clocks links => execBrRate_keeps bytes clocks links s hK
  | .brFault plinth thermal => execBrFault_keeps plinth thermal s hK
  | .brMon text => execBrMon_keeps text s hK
  | .brRetire ch region whole => execBrRetire_keeps ch region whole s hK
  | .brBadMessage vc type => execBrBadMessage_keeps vc type s hK
  | .brTimeMark => execBrTimeMark_keeps s hK
  | .brTimeFollow t1 t4 => execBrTimeFollow_keeps t1 t4 s hK
  | .timeExchangeMissed => execTimeExchangeMissed_keeps s hK
  | .mergeFlush ch ups => execMergeFlush_keeps ch ups s hK
  | .sramMergeFlush bank ups => execSramMergeFlush_keeps bank ups s hK
  | .scrubRead unit ups => execScrubRead_keeps unit ups s hK
  | .patinaTailWrite v => execPatinaTailWrite_keeps v s hK
  | .dmaStart n => execDmaStart_keeps n s hK
  | .dmaTailRecheck n => execDmaTailRecheck_keeps n s hK
  | .dmaRestart n => execDmaRestart_keeps n s hK
  | .dmaSkip n => execDmaSkip_keeps n s hK
  | .dmaAbort n => execDmaAbort_keeps n s hK
  | .dmaStop n => execDmaStop_keeps n s hK
  | .dmaBurst input ups => execDmaBurst_keeps input ups s hK
  | .stpMove n => execStpMove_keeps n s hK
  | .stpStop n => execStpStop_keeps n s hK
  | .stpResume n => execStpResume_keeps n s hK
  | .stpReference n => execStpReference_keeps n s hK
  | .stpClear n => execStpClear_keeps n s hK
  | .stpEnable n => execStpEnable_keeps n s hK
  | .stpDisable n => execStpDisable_keeps n s hK
  | .stpTargetWrite n v => execStpTargetWrite_keeps n v s hK
  | .stpLimitWrite n which v => execStpLimitWrite_keeps n which v s hK
  | .stepPulse n => execStepPulse_keeps n s hK
  | .stpFault n cause => execStpFault_keeps n cause s hK
  | .stallInput n level => execStallInput_keeps n level s hK
  | .homeEdge n level => execHomeEdge_keeps n level s hK
  | .motRun n => execMotRun_keeps n s hK
  | .motStop n => execMotStop_keeps n s hK
  | .motCoast n => execMotCoast_keeps n s hK
  | .motClear n => execMotClear_keeps n s hK
  | .motSpeedWrite n v => execMotSpeedWrite_keeps n v s hK
  | .listenTimeout n => execListenTimeout_keeps n s hK
  | .alignEnd n => execAlignEnd_keeps n s hK
  | .handoverTimeout n => execHandoverTimeout_keeps n s hK
  | .zeroCrossing n dt pos => execZeroCrossing_keeps n dt pos s hK
  | .hallEdge n code dt => execHallEdge_keeps n code dt s hK
  | .motAtSpeed n => execMotAtSpeed_keeps n s hK
  | .rotorLost n => execRotorLost_keeps n s hK
  | .listenEnd n => execListenEnd_keeps n s hK
  | .ilimTrip n t => execIlimTrip_keeps n t s hK
  | .phaseLockChange n => execPhaseLockChange_keeps n s hK
  | .vbusSample code => execVbusSample_keeps code s hK
  | .chopperFeedbackFault => execChopperFeedbackFault_keeps s hK
  | .chopperOnTimeout => execChopperOnTimeout_keeps s hK
  | .ovAck => execOvAck_keeps s hK
  | .chopAck => execChopAck_keeps s hK
  | .thermalTick inp => execThermalTick_keeps inp s hK
  | .ladderDwellStep d => execLadderDwellStep_keeps d s hK
  | .digitalSensorRead k bits => execDigitalSensorRead_keeps k bits s hK
  | .sensorRecovered k => execSensorRecovered_keeps k s hK
  | .zeroCrossEdge us => execZeroCrossEdge_keeps us s hK
  | .zeroCrossLoss => execZeroCrossLoss_keeps s hK
  | .zeroCrossRegained => execZeroCrossRegained_keeps s hK
  | .fuserPidUpdate => execFuserPidUpdate_keeps s hK
  | .pairInvalid h => execPairInvalid_keeps h s hK
  | .pairValid h => execPairValid_keeps h s hK
  | .hvLoopUpdate fb => execHvLoopUpdate_keeps fb s hK
  | .hvFault c => execHvFault_keeps c s hK
  | .timStepWrite v => execTimStepWrite_keeps v s hK
  | .timFreqWrite v => execTimFreqWrite_keeps v s hK
  | .servoSample o => execServoSample_keeps o s hK
  | .servoLocked => execServoLocked_keeps s hK
  | .servoHoldover => execServoHoldover_keeps s hK
  | .wideCompareFire w => execWideCompareFire_keeps w s hK
  | .fastCompareFire c => execFastCompareFire_keeps c s hK
  | .capture k => execCapture_keeps k s hK
  | .ptpSyncSend p => execPtpSyncSend_keeps p s hK
  | .ptpAnnounceSend p => execPtpAnnounceSend_keeps p s hK
  | .ptpDelayReqSend p => execPtpDelayReqSend_keeps p s hK
  | .ptpSync p m => execPtpSync_keeps p m s hK
  | .ptpFollowUp p m => execPtpFollowUp_keeps p m s hK
  | .ptpDelayReq p m => execPtpDelayReq_keeps p m s hK
  | .ptpDelayResp p m => execPtpDelayResp_keeps p m s hK
  | .ptpAnnounce p m => execPtpAnnounce_keeps p m s hK
  | .ptpAnnounceTimeout p => execPtpAnnounceTimeout_keeps p s hK
  | .transparentClockForward p type m => execTransparentClockForward_keeps p type m s hK
  | .ouvothFrame p f => execOuvothFrame_keeps p f s hK
  | .announceSend => execAnnounceSend_keeps s hK
  | .announce src role glbId floor busy state joinReq => execAnnounce_keeps src role glbId floor busy state joinReq s hK
  | .admitMsg accepted anchor => execAdmitMsg_keeps accepted anchor s hK
  | .joinAdmit id => execJoinAdmit_keeps id s hK
  | .order id job page step pickT route => execOrder_keeps id job page step pickT route s hK
  | .orderEvaluation id => execOrderEvaluation_keeps id s hK
  | .orderAck src id => execOrderAck_keeps src id s hK
  | .orderRefused src id code => execOrderRefused_keeps src id code s hK
  | .goDecision id => execGoDecision_keeps id s hK
  | .goMsg id => execGoMsg_keeps id s hK
  | .linePickCheck id => execLinePickCheck_keeps id s hK
  | .report src id state flags => execReport_keeps src id state flags s hK
  | .lineStep step gapT anchor => execLineStep_keeps step gapT anchor s hK
  | .lineStopMessage begun => execLineStopMessage_keeps begun s hK
  | .lost id => execLost_keeps id s hK
  | .workerLost id => execWorkerLost_keeps id s hK
  | .isolated => execIsolated_keeps s hK
  | .lineStop => execLineStop_keeps s hK
  | .lineResume => execLineResume_keeps s hK
  | .lineLinkPortChange p up => execLineLinkPortChange_keeps p up s hK
  | .presenceProbe p answered => execPresenceProbe_keeps p answered s hK
  | .presenceChange p => execPresenceChange_keeps p s hK
  | .ident p reply => execIdent_keeps p reply s hK
  | .auth p reply => execAuth_keeps p reply s hK
  | .commit p reply => execCommit_keeps p reply s hK
  | .replyPoll p reply => execReplyPoll_keeps p reply s hK
  | .replyTimeout p => execReplyTimeout_keeps p s hK
  | .csmCmdAuth v => execCsmCmdAuth_keeps v s hK
  | .usageReportSend p => execUsageReportSend_keeps p s hK
  | .monId => execMonId_keeps s hK
  | .monHelp => execMonHelp_keeps s hK
  | .monUnlock => execMonUnlock_keeps s hK
  | .monUnlockResponse r => execMonUnlockResponse_keeps r s hK
  | .monUnlockTimeout => execMonUnlockTimeout_keeps s hK
  | .lockoutEnd => execLockoutEnd_keeps s hK
  | .monLock => execMonLock_keeps s hK
  | .monBaud rate => execMonBaud_keeps rate s hK
  | .monitorRr addr count => execMonitorRr_keeps addr count s hK
  | .monitorWr addr v mask => execMonitorWr_keeps addr v mask s hK
  | .monitorRm addr count => execMonitorRm_keeps addr count s hK
  | .monitorWm addr v => execMonitorWm_keeps addr v s hK
  | .monEv n => execMonEv_keeps n s hK
  | .monPat => execMonPat_keeps s hK
  | .monMaq off count => execMonMaq_keeps off count s hK
  | .monTrace on => execMonTrace_keeps on s hK
  | .schedStep => execSchedStep_keeps s hK
  | .engineRelay cmd => execEngineRelay_keeps cmd s hK
  | .skpErrors lane n => execSkpErrors_keeps lane n s hK
  | .encoderEdge e a b => execEncoderEdge_keeps e a b s hK
  | .orderIssue job page step pickT route => execOrderIssue_keeps job page step pickT route s hK
  | .commutation n => execCommutation_keeps n s hK
  | .floatingPhaseSample n level => execFloatingPhaseSample_keeps n level s hK
  | .recalibrationComplete => execRecalibrationComplete_keeps s hK

/-- A step keeps the die, its variant, role and bonding (`State.id`): the queue's new rest is no part of it, and neither a command nor a clock writes it. -/
theorem step_id {s t : State} (hs : step s = .next t) : t.id = s.id := by
  unfold step at hs
  split at hs
  · cases hs
    exact (State.tick_keeps s (Keeps.rfl' footAll s) (by decide)).id
  next c rest _ =>
    have rest_keeps := Keeps.rfl' footAll { s with pending := rest }
    exact ((exec_keeps c _ rest_keeps (within_refl _)).out t hs).id

/-- What no step changes, no run changes: `l` are the states a run passes through from `s`. -/
theorem run_invariant {α : Type} {f : State → α} (hf : ∀ {s t}, step s = .next t → f t = f s) {l : List State} {s : State}
    (hl : ∀ p ∈ (s :: l).zip l, step p.1 = .next p.2) : ∀ t ∈ l, f t = f s := by
  induction l generalizing s with
  | nil => simp
  | cons u l ih =>
    rw [List.zip_cons_cons, List.forall_mem_cons] at hl
    obtain ⟨first, later⟩ := hl
    rw [List.forall_mem_cons]
    exact ⟨hf first, fun t ht => (ih later t ht).trans (hf first)⟩

/-- Settles O58: a step keeps the die (`step_id`), and so does a run, by induction on the states it passes through (`run_invariant`). -/
theorem fusesNeverChange : Obligations.FusesNeverChange := by
  unfold Obligations.FusesNeverChange
  exact ⟨fun _ _ => step_id, fun _ _ => run_invariant step_id⟩

end Sys2Proof.Machine
end

