-- ==== Sys2Proof/Proofs/DramCode.lean ====
section
/-! SUPPORT. The Reed–Solomon code of a DRAM beat (R250 to R252): multiplication by a power of α is additive and composes, so both sums of a beat are
linear in its symbols, and the sums of a beat with one changed symbol are those of the error alone. -/
namespace Sys2Proof.Machine

/-! Powers of α (Table 11.2) -/

theorem alog_mod (i : Nat) : alog (i % 15) = alog i := by rw [alog, alog, Nat.mod_mod]

theorem alog_eq_of_mod_eq {i k : Nat} (h : i % 15 = k % 15) : alog i = alog k := by rw [← alog_mod i, h, alog_mod]

theorem alog_lt (i : Nat) : alog i < 16 := by
  have table : ∀ k < 15, alog k < 16 := by decide
  exact alog_mod i ▸ table _ (Nat.mod_lt i (by decide))

theorem alog_ne_zero (i : Nat) : alog i ≠ 0 := by
  have table : ∀ k < 15, alog k ≠ 0 := by decide
  exact alog_mod i ▸ table _ (Nat.mod_lt i (by decide))

theorem glog_alog (i : Nat) : glog (alog i) = i % 15 := by
  have table : ∀ k < 15, glog (alog k) = k := by decide
  rw [← alog_mod i, table _ (Nat.mod_lt i (by decide))]

theorem alog_glog : ∀ x < 16, x ≠ 0 → alog (glog x) = x := by decide

theorem glog_lt : ∀ x < 16, glog x < 15 := by decide

/-! Multiplication by a power of α -/

@[simp] theorem gmulA_zero_right (i : Nat) : gmulA i 0 = 0 := rfl

theorem gmulA_of_ne_zero (i : Nat) {x : Nat} (hx : x ≠ 0) : gmulA i x = alog (i + glog x) := if_neg hx

theorem gmulA_zero_left {x : Nat} (hx : x < 16) : gmulA 0 x = x := by
  by_cases h : x = 0
  · simp [h]
  · rw [gmulA_of_ne_zero 0 h, Nat.zero_add, alog_glog x hx h]

theorem gmulA_lt (i x : Nat) : gmulA i x < 16 := by
  unfold gmulA
  split
  · decide
  · exact alog_lt _

theorem gmulA_ne_zero (i : Nat) {x : Nat} (hx : x ≠ 0) : gmulA i x ≠ 0 := gmulA_of_ne_zero i hx ▸ alog_ne_zero _

theorem glog_gmulA (i : Nat) {x : Nat} (hx : x ≠ 0) : glog (gmulA i x) = (i + glog x) % 15 := by
  rw [gmulA_of_ne_zero i hx, glog_alog]

theorem gmulA_gmulA (i k x : Nat) : gmulA i (gmulA k x) = gmulA (i + k) x := by
  by_cases hx : x = 0
  · simp [hx]
  · rw [gmulA_of_ne_zero i (gmulA_ne_zero k hx), glog_gmulA k hx, gmulA_of_ne_zero _ hx]
    exact alog_eq_of_mod_eq (by omega)

theorem gmulA_one_xor : ∀ x < 16, ∀ y < 16, gmulA 1 (x ^^^ y) = gmulA 1 x ^^^ gmulA 1 y := by decide

theorem xor_lt_16 {x y : Nat} (hx : x < 16) (hy : y < 16) : x ^^^ y < 16 := Nat.xor_lt_two_pow (n := 4) hx hy

/-- Multiplication by α is additive (`gmulA_one_xor`), hence so is its `i`-th iterate. -/
theorem gmulA_xor (i : Nat) {x y : Nat} (hx : x < 16) (hy : y < 16) : gmulA i (x ^^^ y) = gmulA i x ^^^ gmulA i y := by
  induction i with
  | zero => rw [gmulA_zero_left hx, gmulA_zero_left hy, gmulA_zero_left (xor_lt_16 hx hy)]
  | succ i ih =>
    simp only [Nat.add_comm i 1, ← gmulA_gmulA]
    rw [ih, gmulA_one_xor _ (gmulA_lt i x) _ (gmulA_lt i y)]

/-- α^11 + α^12 = α^11·(1 + α) = α^11·α^4 = 1: why the factor α^3 of x_9 makes the weighted sum 0. -/
theorem gmulA_11_xor_gmulA_12 : ∀ y < 16, gmulA 11 y ^^^ gmulA 12 y = y := by decide

/-! Symbols -/

theorem sym_lt (w j : Nat) : sym w j < 16 := Nat.mod_lt _ (by decide)

theorem sym_eq_shiftRight (w j : Nat) : sym w j = (w >>> (4 * j)) % 2 ^ 4 := by
  rw [sym, Nat.shiftRight_eq_div_pow, Nat.pow_mul, show 2 ^ 4 = 16 from rfl]

theorem sym_xor (v w j : Nat) : sym (v ^^^ w) j = sym v j ^^^ sym w j := by
  simp only [sym_eq_shiftRight, Nat.shiftRight_xor_distrib, Nat.xor_mod_two_pow]

/-- Symbol `j` of the word whose only symbol is `e`, at place `p`. -/
theorem sym_single {e : Nat} (he : e < 16) (p j : Nat) : sym (e * 16 ^ p) j = if j = p then e else 0 := by
  unfold sym
  rcases lt_trichotomy j p with h | h | h
  · obtain ⟨k, rfl⟩ := Nat.exists_eq_add_of_lt h
    have split_pow : e * 16 ^ (j + k + 1) = 16 ^ j * (16 * (e * 16 ^ k)) := by ring
    rw [split_pow, Nat.mul_div_cancel_left _ (by positivity), Nat.mul_mod_right, if_neg h.ne]
  · subst h
    rw [Nat.mul_div_cancel _ (by positivity), Nat.mod_eq_of_lt he, if_pos rfl]
  · have below : e * 16 ^ p < 16 ^ j := calc
      e * 16 ^ p < 16 ^ (p + 1) := by rw [Nat.pow_succ']; gcongr
      _ ≤ 16 ^ j := Nat.pow_le_pow_right (by decide) h
    rw [Nat.div_eq_of_lt below, if_neg h.ne']

/-! The two sums: the sum over GF(16) of `n` terms, and both sums of a beat as such sums -/

/-- The sum over GF(16) of `f 0` to `f (n - 1)`. -/
def xorSum (f : Nat → Nat) (n : Nat) : Nat := (upTo n).foldl (fun a j => a ^^^ f j) 0

theorem rsSum0_eq_xorSum (w n : Nat) : rsSum0 w n = xorSum (sym w) n := rfl

theorem rsSum1_eq_xorSum (w n : Nat) : rsSum1 w n = xorSum (fun j => gmulA j (sym w j)) n := rfl

@[simp] theorem xorSum_zero (f : Nat → Nat) : xorSum f 0 = 0 := rfl

theorem xorSum_succ (f : Nat → Nat) (n : Nat) : xorSum f (n + 1) = xorSum f n ^^^ f n := by
  simp [xorSum, upTo, List.range_succ]

theorem xorSum_lt {f : Nat → Nat} (hf : ∀ j, f j < 16) (n : Nat) : xorSum f n < 16 := by
  induction n with
  | zero => simp
  | succ n ih => exact xorSum_succ f n ▸ xor_lt_16 ih (hf n)

theorem xorSum_congr {f g : Nat → Nat} {n : Nat} (h : ∀ j < n, f j = g j) : xorSum f n = xorSum g n := by
  induction n with
  | zero => rfl
  | succ n ih => rw [xorSum_succ, xorSum_succ, ih fun j hj => h j (by omega), h n (by omega)]

theorem xorSum_xor (f g : Nat → Nat) (n : Nat) : xorSum (fun j => f j ^^^ g j) n = xorSum f n ^^^ xorSum g n := by
  induction n with
  | zero => simp
  | succ n ih => rw [xorSum_succ, xorSum_succ, xorSum_succ, ih]; ac_rfl

/-- A sum whose only term is `e`, at place `p`. -/
theorem xorSum_single (p e n : Nat) : xorSum (fun j => if j = p then e else 0) n = if p < n then e else 0 := by
  induction n with
  | zero => rfl
  | succ n ih =>
    rw [xorSum_succ, ih]
    rcases lt_trichotomy p n with h | h | h
    · simp [h, h.ne', Nat.lt_succ_of_lt h]
    · simp [h]
    · simp [h.ne, show ¬ p < n by omega, show ¬ p < n + 1 by omega]

theorem rsSum0_lt (w n : Nat) : rsSum0 w n < 16 := xorSum_lt (sym_lt w) n

theorem rsSum1_lt (w n : Nat) : rsSum1 w n < 16 := xorSum_lt (fun _ => gmulA_lt _ _) n

theorem rsSum0_xor (v w n : Nat) : rsSum0 (v ^^^ w) n = rsSum0 v n ^^^ rsSum0 w n := by
  simp only [rsSum0_eq_xorSum, ← xorSum_xor, ← sym_xor]

theorem rsSum1_xor (v w n : Nat) : rsSum1 (v ^^^ w) n = rsSum1 v n ^^^ rsSum1 w n := by
  simp only [rsSum1_eq_xorSum, ← xorSum_xor, ← gmulA_xor _ (sym_lt v _) (sym_lt w _), ← sym_xor]

theorem rsSum0_single {e : Nat} (he : e < 16) (p n : Nat) : rsSum0 (e * 16 ^ p) n = if p < n then e else 0 := by
  rw [rsSum0_eq_xorSum, ← xorSum_single, xorSum_congr fun j _ => sym_single he p j]

theorem rsSum1_single {e : Nat} (he : e < 16) (p n : Nat) : rsSum1 (e * 16 ^ p) n = if p < n then gmulA p e else 0 := by
  have term (j : Nat) : gmulA j (sym (e * 16 ^ p) j) = if j = p then gmulA p e else 0 := by
    rw [sym_single he]
    split
    · subst j; rfl
    · rfl
  rw [rsSum1_eq_xorSum, ← xorSum_single, xorSum_congr fun j _ => term j]

/-! The stored beat (R250) -/

/-- Check symbol x_9 of a word. -/
def checkSym (d : Nat) : Nat := gmulA 3 (rsSum1 d 8 ^^^ gmulA 8 (rsSum0 d 8))

theorem checkSym_lt (d : Nat) : checkSym d < 16 := gmulA_lt _ _

theorem rsEncode_eq (d : Nat) : rsEncode d = d + (rsSum0 d 8 ^^^ checkSym d) * 2 ^ 32 + checkSym d * 2 ^ 36 := rfl

theorem sym_rsEncode_data (d : Nat) {j : Nat} (hj : j < 8) : sym (rsEncode d) j = sym d j := by
  rw [rsEncode_eq, sym, sym]
  interval_cases j <;> omega

section
variable {d : Nat} (hd : d < 2 ^ 32)
include hd

theorem rsEncode_lt : rsEncode d < 2 ^ 40 := by
  have x8_lt := xor_lt_16 (rsSum0_lt d 8) (checkSym_lt d)
  have x9_lt := checkSym_lt d
  rw [rsEncode_eq]
  omega

theorem sym_rsEncode_nine : sym (rsEncode d) 9 = checkSym d := by
  have x8_lt := xor_lt_16 (rsSum0_lt d 8) (checkSym_lt d)
  have x9_lt := checkSym_lt d
  rw [rsEncode_eq, sym]
  omega

theorem sym_rsEncode_eight : sym (rsEncode d) 8 = rsSum0 d 8 ^^^ checkSym d := by
  have x8_lt := xor_lt_16 (rsSum0_lt d 8) (checkSym_lt d)
  rw [rsEncode_eq, sym]
  omega

/-- The sum over all ten symbols is that over the data, with x_8 and x_9 added. -/
theorem rsSum0_rsEncode : rsSum0 (rsEncode d) 10 = 0 := by
  have data_sum : xorSum (sym (rsEncode d)) 8 = rsSum0 d 8 := xorSum_congr fun j hj => sym_rsEncode_data d hj
  rw [rsSum0_eq_xorSum, xorSum_succ, xorSum_succ, data_sum, sym_rsEncode_eight hd, sym_rsEncode_nine hd, Nat.xor_assoc, Nat.xor_assoc,
    Nat.xor_self, Nat.xor_zero, Nat.xor_self]

/-- B + α^8·(A + x_9) + α^9·x_9 = (B + α^8·A) + (α^8 + α^9)·x_9, and x_9 is α^3·(B + α^8·A). -/
theorem rsSum1_rsEncode : rsSum1 (rsEncode d) 10 = 0 := by
  have hA := rsSum0_lt d 8
  have data_sum : xorSum (fun j => gmulA j (sym (rsEncode d) j)) 8 = rsSum1 d 8 := xorSum_congr fun j hj => by rw [sym_rsEncode_data d hj]
  have check_sum : gmulA 8 (checkSym d) ^^^ gmulA 9 (checkSym d) = rsSum1 d 8 ^^^ gmulA 8 (rsSum0 d 8) := by
    rw [checkSym, gmulA_gmulA, gmulA_gmulA]
    exact gmulA_11_xor_gmulA_12 _ (xor_lt_16 (rsSum1_lt d 8) (gmulA_lt 8 _))
  calc rsSum1 (rsEncode d) 10
      = rsSum1 d 8 ^^^ gmulA 8 (rsSum0 d 8 ^^^ checkSym d) ^^^ gmulA 9 (checkSym d) := by
        rw [rsSum1_eq_xorSum, xorSum_succ, xorSum_succ, data_sum, sym_rsEncode_eight hd, sym_rsEncode_nine hd]
    _ = (rsSum1 d 8 ^^^ gmulA 8 (rsSum0 d 8)) ^^^ (gmulA 8 (checkSym d) ^^^ gmulA 9 (checkSym d)) := by
        rw [gmulA_xor 8 hA (checkSym_lt d)]; ac_rfl
    _ = 0 := by rw [check_sum, Nat.xor_self]

end

/-! Decoding (R251) -/

theorem rsDecode_clean {w : Nat} (h0 : rsSum0 w 10 = 0) (h1 : rsSum1 w 10 = 0) : rsDecode w = (.clean, 0, w) := by
  simp [rsDecode, h0, h1]

/-- The position that R251 computes from the two sums of a single error is the error's place. -/
theorem single_error_position {j e : Nat} (hj : j < 10) (he : e < 16) (he0 : e ≠ 0) : (glog (gmulA j e) + 15 - glog e) % 15 = j := by
  have log_lt := glog_lt e he
  rw [glog_gmulA j he0]
  omega

/-- A word whose sums are 0, with one symbol changed, is decoded to that word. -/
theorem rsDecode_single_error {w j e : Nat} (h0 : rsSum0 w 10 = 0) (h1 : rsSum1 w 10 = 0) (hj : j < 10) (he : e < 16) (he0 : e ≠ 0) :
    rsDecode (w ^^^ e * 16 ^ j) = (.corrected, gmulA j e * 16 + e, w) := by
  have sum0 : rsSum0 (w ^^^ e * 16 ^ j) 10 = e := by rw [rsSum0_xor, h0, rsSum0_single he, if_pos hj, Nat.zero_xor]
  have sum1 : rsSum1 (w ^^^ e * 16 ^ j) 10 = gmulA j e := by rw [rsSum1_xor, h1, rsSum1_single he, if_pos hj, Nat.zero_xor]
  have place : j ≤ 9 := by omega
  simp [rsDecode, sum0, sum1, he0, gmulA_ne_zero j he0, single_error_position hj he he0, place]

/-- Settles O60: the stored beat's symbols are read off (`sym_rsEncode_data` and its companions), its sums are 0 (`rsSum0_rsEncode`,
`rsSum1_rsEncode`), and any word with such sums survives an error confined to one symbol (`rsDecode_single_error`). -/
theorem dramCode : Obligations.DramCode := by
  unfold Obligations.DramCode
  intro d hd
  have sum0 := rsSum0_rsEncode hd
  have sum1 := rsSum1_rsEncode hd
  refine ⟨fun j => sym_rsEncode_data d, sym_rsEncode_nine hd, ?_, sum0, sum1, rsEncode_lt hd, rsDecode_clean sum0 sum1, fun j e hj he0 he => ?_⟩
  · rw [sym_rsEncode_eight hd, sym_rsEncode_nine hd, Nat.xor_eq]
  · rw [Nat.xor_eq, rsDecode_single_error sum0 sum1 hj he he0.ne']
    exact ⟨rfl, rfl⟩

end Sys2Proof.Machine
end
